-- ==== Sys2Proof/Word.lean ====
section
/-! DEFINITION. The word types of the AM1536 and their plainest arithmetic. -/

namespace Sys2Proof

/-- One byte of memory. -/
abbrev Byte := BitVec 8

/-- One 32-bit register or table word (R455). -/
abbrev Word := BitVec 32

/-- A 40-bit device address (R23). -/
abbrev Addr := BitVec 40

/-- Ceiling of a quotient. -/
def cdiv (a b : Nat) : Nat := (a + b - 1) / b

end Sys2Proof
end

