-- ==== Sys2Proof/Syntax.lean ====
section
/-! DEFINITION. The commands the block takes (spec/opcode_table.json) and the types of their operands. The table gives
no operand bits, so the operands are the model's own (notes/assumptions/5.md). -/

namespace Sys2Proof

/-- Where a register write comes from: a matrix master (R258) or a host's recovery window (R442). -/
inductive WrSrc where
  | matrix (m : Fin 14)
  | recovery (h : Fin 4)
  deriving DecidableEq, Repr

/-- What the requests of one command meet in the device's own memories: the addresses of words with an uncorrectable error, those of
words with an error that ECC corrects (in the Peatstore once for each corrected bit, R416), whether what is uncorrectable is an
address-check failure (R279), and the addresses of pool words that a foreign request meets in the cycle in which another master
reaches them through port A, with that master and whether it writes (R276). -/
structure MemHits where
  bad : List Nat
  cor : List Nat
  adr : Bool
  coll : List (Nat × Fin 14 × Bool)
  deriving DecidableEq, Repr

/-- What the reads of one command meet outside the device's own state: the bytes of the host's memory by device address (R213),
where an address that is not listed gets no completion, and what they meet in the device's own memories (R220, R238, R279). -/
structure HostMem where
  cells : List (Nat × Byte)
  hits : MemHits
  deriving DecidableEq, Repr

/-- What can be stale, compiled or bad in the table engine (R49, R50, R150): an entry, a crosspoint record, a zone
record. -/
inductive Item where
  | entry (n : Nat)
  | xp (n : Nat)
  | zone (n : Nat)
  deriving DecidableEq, Repr

/-- The interfaces that run from clocks outside the root (R13). -/
inductive Iface where
  | pcie (h : Fin 2)
  | ethernet
  | spi (i : Fin 2)
  | tdm (n : Fin 16)
  | debug
  deriving DecidableEq, Repr

/-- A group of fields that ramps as one (R75, R122, R137). -/
inductive RampFld where
  | trim | pol | fader | mute | makeup | duckDepth | active | input | dest (i : Nat) | dly | look | scale
  | filter (sec : Nat) | bypass (bit : Nat) | gain | en | move
  deriving DecidableEq, Repr

/-- Whose ramp. -/
inductive RampOwner where
  | entry (n : Nat)
  | xp (n : Nat)
  deriving DecidableEq, Repr

/-- The name of one ramp. -/
structure RampKey where
  owner : RampOwner
  fld : RampFld
  deriving DecidableEq, Repr

/-- One word received on a TDM port in master mode during the block that ends (R352). -/
structure SdiWord where
  port : Nat
  frame : Nat
  pos : Nat
  word : Int
  deriving DecidableEq, Repr

/-- Positions in a block at which the data of the clip with a CSN has not arrived at capture (R139). -/
structure ClipGap where
  csn : Nat
  pos : List Nat
  deriving DecidableEq, Repr

/-- What the outside brings to a block boundary: the words received on the master-mode TDM ports, the entries a stage
has not finished (with the number of samples done, R22), the clips whose data is missing (R139). -/
structure BlockIn where
  sdi : List SdiWord
  lateEntries : List (Nat × Nat)
  lateClips : List ClipGap
  deriving DecidableEq, Repr

/-- What the noise analyser measured for one zone since the last update (R155): the residual per microphone and octave band, the
coupling and ERLE per band, and the zone reference's level per band (0.01 dB, ERLE 0.5 dB units); or a missed update. -/
structure ZoneMeas where
  zone : Nat
  noise : List (List Int)
  coup : List Int
  erle : List Nat
  refLev : List Int
  missed : Bool
  deriving DecidableEq, Repr

/-- The kinds of processing unit with spares outside the Drays (R437). -/
inductive UnitKind where
  | strip | output | column
  deriving DecidableEq, Repr

/-- One inbound PCIe request to BAR0, BAR2, BAR4 or the configuration space (0 to 3; R210, R211, R212), with what it meets in the
memories (R260). -/
structure InbReq where
  bar : Fin 4
  off : Nat
  len : Nat
  wr : Option (List Byte)
  hits : MemHits
  deriving DecidableEq, Repr

/-- Which EN bits a teardown write clears (R255): the whole port, one submission or one completion ring. -/
inductive RingSel where
  | port
  | sq (k : Fin 8)
  | cq (k : Fin 8)
  deriving DecidableEq, Repr


/-- What a matrix request does at its target (R260, R272). -/
inductive MtxOp where
  | read (len : Nat)
  | write (data : List Byte)
  | masked (data mask : List Byte)
  | swap (len : Nat) (v : Nat)
  | cas (len : Nat) (old new : Nat)
  | add (len : Nat) (v : Nat)
  deriving DecidableEq, Repr

/-- One head presented at an arbitration point (R265): its master, the AUDIO bit of a Dray DMA's descriptor (R194, R258), whether it
is a host's own request at its Barrow engine and not the engine's (R277), the FCLK cycle in which it is presented, its request. -/
structure MtxHead where
  master : Fin 14
  audio : Bool
  inbound : Bool
  since : Nat
  addr : Addr
  op : MtxOp
  deriving DecidableEq, Repr

/-- What meets at one arbitration point in one arbitration (R264 to R267): the heads presented since the last one, the FCLK cycle
of the arbitration, the masters to which responses have been delivered since the last one (R270), an access of the other pool port
to the same word in the same cycle (its master, whether it writes, the word's address, R276), what ECC finds in the words of the
request (R279, R416; `cor` names a sector of the Peatstore once for each corrected bit), and where the master is reset while its
burst holds the path (R263), the beats done by then. -/
structure MtxReq where
  heads : List MtxHead
  now : Nat
  done : List (Fin 14)
  meets : Option (Fin 14 × Bool × Nat)
  hits : MemHits
  cut : Option Nat
  deriving DecidableEq, Repr

/-- One word the patrol scrub or ECC found bad (R279): address, uncorrectable or corrected, address-check failure. -/
structure ScrubHit where
  addr : Addr
  unc : Bool
  addrChk : Bool
  deriving DecidableEq, Repr

/-- One received frame from its destination address on, without FCS (R310), whether its FCS is right (R292), and the time
at which the port captured it in ns of the device time base (R307). -/
structure RxFrame where
  bytes : List Byte
  fcsOk : Bool
  arrival : BitVec 80
  deriving DecidableEq, Repr

/-- One measurement of a reference (R326, R324): new or missing, its fractional frequency offset from raw XIN in 10^-12, and for
T2 to T7 its time minus the time base in ns before CLK_REFOFSn (T0 and T1 have theirs from gPTP). -/
structure RefMeas where
  present : Bool
  fofs : Int
  phase : Int
  deriving DecidableEq, Repr

/-- One external frame of a slave-mode TDM port (R357): words by position, whether the BCLK count was right and FSYNC came
at its counted position, and how many internal ticks of the block under way have passed as it ends, the first included. -/
structure SlaveFrame where
  words : List Int
  bclkOk : Bool
  fsyncOk : Bool
  pos : Nat
  deriving DecidableEq, Repr

/-- One record of the twin journal (R392): a sequenced operation, or a direct write. Hosts 0 to 3 are the sender's own, 4 to 7 its
partner's hosts 0 to 3 (R391, notes/assumptions/45.md). -/
inductive JRec where
  | op (jsn csn : BitVec 48) (host : Fin 8) (target : BitVec 64) (desc : List Byte) (data : List Byte)
  | write (jsn : BitVec 48) (addr : Addr) (data : List Byte)
  deriving DecidableEq, Repr

/-- The indirect register pairs beside the Peatstore's own (R464). -/
inductive IxPair where
  | tim | str | dac
  deriving DecidableEq, Repr

/-- The supply monitors of a brown-out (R426, R472). -/
inductive Rail where
  | core | serdes | io | mem | mram | dac
  deriving DecidableEq, Repr

/-- An upset of one copy of a voted register since the last scrub (R462): register offset, copy, bits flipped. -/
structure VoteUpset where
  off : Nat
  copy : Fin 3
  flip : Word
  deriving DecidableEq, Repr

/-- The commands of the block: one constructor for each row of spec/opcode_table.json. -/
inductive Instr where
  /-- BLOCK_BOUNDARY (R14). -/
  | blockBoundary (io : BlockIn)
  /-- MIX_WATCHDOG (R22). -/
  | mixWatchdog
  /-- INTERFACE_CLOCK_STOP (R13). -/
  | interfaceClockStop (f : Iface)
  /-- TABLE_DIRECT_WRITE (R49). -/
  | tableDirectWrite (m : Fin 14) (addr : BitVec 40) (data : List Byte)
  /-- TABLE_REFETCH (R50). -/
  | tableRefetch
  /-- COMPILE_COMPLETE (R50). -/
  | compileComplete (it : Item) (hits : MemHits)
  /-- WORKING_STORE_ECC_ERROR (R57). -/
  | workingStoreEccError (it : Item)
  /-- SEQUENCED_ACCEPTANCE (R62). -/
  | sequencedAcceptance (h : Fin 4) (q : Fin 8) (pos : Fin 12) (hits : MemHits)
  /-- COMMIT_COMPLETION_POST (R72). -/
  | commitCompletionPost (csn : BitVec 48) (hits : MemHits)
  /-- DUAL_PATH_SLOT_GRANT (R79). -/
  | dualPathSlotGrant
  /-- SECOND_TERM_GRANT (R122). -/
  | secondTermGrant
  /-- RAMP_END (R75). -/
  | rampEnd (k : RampKey)
  /-- ENTRY_FADE_OUT_END (R44). -/
  | entryFadeOutEnd (e : Fin 3072)
  /-- CLAIM_LEASE_EXPIRY (R85). -/
  | claimLeaseExpiry (csn : BitVec 48)
  /-- GATE_HOLD_EXPIRY (R105). -/
  | gateHoldExpiry (e : Fin 1536)
  /-- PEAK_HOLD_EXPIRY (R114). -/
  | peakHoldExpiry (e : Fin 3072)
  /-- DELAY_BURST_COMPLETE (R111). -/
  | delayBurstComplete (e : Fin 3072) (first : Nat) (hits : MemHits)
  /-- CONTRIBUTOR_HANG_EXPIRY (R123). -/
  | contributorHangExpiry (x : Fin 98304)
  /-- CLIP_END (R137). -/
  | clipEnd (p : Fin 64)
  /-- CLIP_DATA_FETCH_COMPLETE (R139). -/
  | clipDataFetchComplete (p : Fin 64) (csn : BitVec 48) (burst : Nat) (hits : MemHits)
  /-- TONE_PATTERN_END (R141). -/
  | tonePatternEnd (g : Fin 16)
  /-- SERVO_UPDATE (R158). -/
  | servoUpdate (ms : List ZoneMeas)
  /-- SERVO_CONVERGED (R156). -/
  | servoConverged (z : Fin 256)
  /-- SERVO_FREEZE (R159). -/
  | servoFreeze (z : Fin 256)
  /-- SERVO_RELAX (R159). -/
  | servoRelax (z : Fin 256)
  /-- MIC_UNUSABLE (R155). -/
  | micUnusable (z : Fin 256) (m : Fin 4)
  /-- ALLCALL_PIN_ACCEPT (R163). -/
  | allcallPinAccept (asserted : Bool)
  /-- ALLCALL_START (R168). -/
  | allcallStart (w : Word)
  /-- ALLCALL_STOP (R168). -/
  | allcallStop (w : Word)
  /-- ALLCALL_CROSSFADE_END (R163). -/
  | allcallCrossfadeEnd
  /-- ALLCALL_SOURCE_LOST (R162). -/
  | allcallSourceLost
  /-- ALLCALL_SOURCE_RETURN (R162). -/
  | allcallSourceReturn
  /-- DRAY_INPUT_COPY_DONE (R175). -/
  | drayInputCopyDone (d : Fin 4)
  /-- LANE_DEADLINE (R176). -/
  | laneDeadline (d : Fin 4)
  /-- BUNDLE_ISSUE (R183). -/
  | bundleIssue (l : Fin 64) (cor : Nat)
  /-- LANE_INTERRUPT_ENTRY (R191). -/
  | laneInterruptEntry (l : Fin 64)
  /-- LANE_DMA_COMPLETE (R195). -/
  | laneDmaComplete (l : Fin 64) (hits : MemHits) (cor : Nat)
  /-- LANE_HW_FAULT (R202). -/
  | laneHwFault (d : Fin 4) (phys : Fin 17) (badWords : List Nat)
  /-- SELFTEST_VISIT (R438). -/
  | selftestVisit
  /-- LANE_MIGRATION (R200). -/
  | laneMigration (d : Fin 4)
  /-- LANE_MIGRATION_SKIP (R200). -/
  | laneMigrationSkip (d : Fin 4)
  /-- SELFTEST_COMPLETE (R438). -/
  | selftestComplete (pass : Bool)
  /-- UNIT_FAULT (R439). -/
  | unitFault (k : UnitKind) (phys : Fin 34)
  /-- DRY_CTL_WRITE (R204). -/
  | dryCtlWrite (src : WrSrc) (d : Fin 4) (w : Word)
  /-- DOORBELL_HIT (R217). -/
  | doorbellHit (h : Fin 4) (hits : MemHits)
  /-- DOORBELL_SWEEP (R217). -/
  | doorbellSweep (h : Fin 4) (hm : HostMem)
  /-- DESCRIPTOR_FETCH (R219). -/
  | descriptorFetch (h : Fin 4) (hm : HostMem)
  /-- INDEX_PAGE_WRITE (R216). -/
  | indexPageWrite (h : Fin 4)
  /-- COMPLETION_IRQ_TIMEOUT (R230). -/
  | completionIrqTimeout (h : Fin 4) (c : Fin 8)
  /-- NOP (R223). -/
  | nop (h : Fin 4) (q : Fin 8)
  /-- HELLO (R231). -/
  | hello (h : Fin 4) (q : Fin 8)
  /-- FENCE (R228). -/
  | fence (h : Fin 4) (q : Fin 8)
  /-- FENCE_SATISFIED (R228). -/
  | fenceSatisfied (h : Fin 4) (q : Fin 8)
  /-- COMMIT (R236). -/
  | commit (h : Fin 4) (q : Fin 8) (hm : HostMem)
  /-- CLAIM (R83). -/
  | claim (h : Fin 4) (q : Fin 8) (hm : HostMem)
  /-- RELEASE (R85). -/
  | release (h : Fin 4) (q : Fin 8)
  /-- RENEW (R85). -/
  | renew (h : Fin 4) (q : Fin 8)
  /-- READ_STATE (R86). -/
  | readState (h : Fin 4) (q : Fin 8) (hm : HostMem)
  /-- WRITE_BULK (R238). -/
  | writeBulk (h : Fin 4) (q : Fin 8) (hm : HostMem)
  /-- READ_BULK (R238). -/
  | readBulk (h : Fin 4) (q : Fin 8) (hm : HostMem)
  /-- SCENE_STORE (R81). -/
  | sceneStore (h : Fin 4) (q : Fin 8) (hm : HostMem)
  /-- SCENE_RECALL (R82). -/
  | sceneRecall (h : Fin 4) (q : Fin 8) (hm : HostMem)
  /-- METER_SUBSCRIBE (R242). -/
  | meterSubscribe (h : Fin 4) (q : Fin 8) (hm : HostMem)
  /-- METER_PERIOD_DELIVERY (R243). -/
  | meterPeriodDelivery (h : Fin 4) (sub : Fin 8)
  /-- CLIP_PLAY (R135). -/
  | clipPlay (h : Fin 4) (q : Fin 8)
  /-- CLIP_STOP (R138). -/
  | clipStop (h : Fin 4) (q : Fin 8)
  /-- LANE_LOAD (R197). -/
  | laneLoad (h : Fin 4) (q : Fin 8) (hits : MemHits)
  /-- LANE_LOAD_DONE (R197). -/
  | laneLoadDone (l : Fin 64)
  /-- LANE_CTRL_START (R198). -/
  | laneCtrlStart (h : Fin 4) (q : Fin 8)
  /-- LANE_CTRL_STOP (R198). -/
  | laneCtrlStop (h : Fin 4) (q : Fin 8)
  /-- LANE_CTRL_MSG (R198). -/
  | laneCtrlMsg (h : Fin 4) (q : Fin 8) (hm : HostMem)
  /-- LANE_CTRL_ZONES (R198). -/
  | laneCtrlZones (h : Fin 4) (q : Fin 8)
  /-- STREAM_OPEN (R302). -/
  | streamOpen (h : Fin 4) (q : Fin 8) (hm : HostMem)
  /-- STREAM_CLOSE (R302). -/
  | streamClose (h : Fin 4) (q : Fin 8)
  /-- PEER_SET (R308). -/
  | peerSet (h : Fin 4) (q : Fin 8) (hm : HostMem)
  /-- NET_TX (R244). -/
  | netTx (h : Fin 4) (q : Fin 8) (hm : HostMem)
  /-- NET_RX_POST (R245). -/
  | netRxPost (h : Fin 4) (q : Fin 8)
  /-- KEY_LOAD (R406). -/
  | keyLoad (h : Fin 4) (q : Fin 8)
  /-- LOG_READ (R241). -/
  | logRead (h : Fin 4) (q : Fin 8)
  /-- TIME_QUERY (R241). -/
  | timeQuery (h : Fin 4) (q : Fin 8)
  /-- BARROW_WATCHDOG_EXPIRY (R234). -/
  | barrowWatchdogExpiry (h : Fin 4)
  /-- OUTBOUND_READ_TIMEOUT (R213). -/
  | outboundReadTimeout (h : Fin 2)
  /-- INBOUND_HOST_REQUEST (R212). -/
  | inboundHostRequest (h : Fin 2) (r : InbReq)
  /-- PCIE_LINK_DOWN (R87). -/
  | pcieLinkDown (h : Fin 2)
  /-- FUNCTION_LEVEL_RESET (R87). -/
  | functionLevelReset (h : Fin 2)
  /-- HOST_PORT_ENABLE (R251). -/
  | hostPortEnable (src : WrSrc) (h : Fin 4) (w : Word)
  /-- RING_ENABLE (R214). -/
  | ringEnable (src : WrSrc) (h : Fin 4) (sub : Bool) (k : Fin 8) (w : Word)
  /-- RING_TEARDOWN (R255). -/
  | ringTeardown (src : WrSrc) (h : Fin 4) (which : RingSel) (w : Word)
  /-- READ_ID (R247). -/
  | readId (q : Fin 2)
  /-- READ_STATUS (R249). -/
  | readStatus (q : Fin 2)
  /-- READ (R248). -/
  | read (q : Fin 2) (addr : BitVec 40) (len : Nat) (late : Bool) (hits : MemHits)
  /-- WRITE (R248). -/
  | write (q : Fin 2) (addr : BitVec 40) (data : List Byte) (hits : MemHits)
  /-- MODE (R247). -/
  | mode (q : Fin 2) (b : Byte)
  /-- RECOVERY_READ (R250). -/
  | recoveryRead (h : Fin 4) (off : BitVec 12)
  /-- RECOVERY_WRITE (R250). -/
  | recoveryWrite (h : Fin 4) (off : BitVec 12) (w : Word)
  /-- RESET_ENABLE (R247). -/
  | resetEnable (q : Fin 2)
  /-- PORT_RESET (R247). -/
  | portReset (q : Fin 2)
  /-- SPI_UNKNOWN_OPCODE (R247). -/
  | spiUnknownOpcode (q : Fin 2) (op : Byte)
  /-- SPI_CS_RISE (R246). -/
  | spiCsRise (q : Fin 2)
  /-- MATRIX_GRANT (R266). -/
  | matrixGrant (pt : Fin 8) (r : MtxReq)
  /-- QOS_WRITE (R281). -/
  | qosWrite (src : WrSrc) (pt : Fin 8) (w : Word)
  /-- BANK_OWNER_WRITE (R274). -/
  | bankOwnerWrite (src : WrSrc) (n : Fin 32) (w : Word)
  /-- BANK_HANDOVER_DONE (R274). -/
  | bankHandoverDone (n : Fin 32)
  /-- PATROL_SCRUB (R279). -/
  | patrolScrub (found : List ScrubHit)
  /-- MEMORY_TRAINING_DONE (R278). -/
  | memoryTrainingDone (gib : Option Nat)
  /-- LINK_CHANGE (R312). -/
  | linkChange (p : Fin 4) (up : Bool) (speed : BitVec 2) (an : Bool)
  /-- FRAME_RECEIVE (R310). -/
  | frameReceive (p : Fin 4) (f : RxFrame)
  /-- FRAME_DEPARTURE (R303). -/
  | frameDeparture (p : Fin 4) (t : BitVec 80)
  /-- LISTENER_LOST (R304). -/
  | listenerLost (n : Fin 256)
  /-- PRP_SUPERVISION_SEND (R294). -/
  | prpSupervisionSend (q : Fin 2)
  /-- PRP_ENTRY_AGEOUT (R295). -/
  | prpEntryAgeout (q : Fin 2) (src : BitVec 48)
  /-- PDELAY_REQ_SEND (R306). -/
  | pdelayReqSend (p : Fin 4)
  /-- SYNC_SEND (R306). -/
  | syncSend (p : Fin 4) (dom : Fin 2)
  /-- GPTP_SYNC_TIMEOUT (R307). -/
  | gptpSyncTimeout (dom : Fin 2)
  /-- CRF_OFFSET_REPORT (R305). -/
  | crfOffsetReport (n : Fin 256)
  /-- ROOT_LOCK (R321). -/
  | rootLock
  /-- ROOT_LOSS (R321). -/
  | rootLoss
  /-- REF_MEASUREMENT (R326). -/
  | refMeasurement (r : Fin 9) (m : RefMeas)
  /-- REF_LOST (R329). -/
  | refLost (r : Fin 9)
  /-- REF_DISQUALIFY (R327). -/
  | refDisqualify (r : Fin 9)
  /-- REF_QUALIFY (R327). -/
  | refQualify (r : Fin 9)
  /-- REFERENCE_EVALUATION (R331). -/
  | referenceEvaluation
  /-- JAMNOW (R323). -/
  | jamnow (src : WrSrc) (w : Word)
  /-- TIME_LOCKED (R322). -/
  | timeLocked
  /-- BUILDOUT_REMOVED (R336). -/
  | buildoutRemoved
  /-- SMOULDER_VALID (R337). -/
  | smoulderValid
  /-- SMOULDER_LEARN (R339). -/
  | smoulderLearn
  /-- SMOULDER_SAVE (R339). -/
  | smoulderSave
  /-- TDM_START_GO (R354). -/
  | tdmStartGo (src : WrSrc) (w : Word)
  /-- TDM_START_PIN (R354). -/
  | tdmStartPin
  /-- TDM_START_REACHED (R354). -/
  | tdmStartReached
  /-- TDM_SLAVE_FRAME (R357). -/
  | tdmSlaveFrame (n : Fin 16) (f : SlaveFrame)
  /-- TDM_STOP (R353). -/
  | tdmStop (src : WrSrc) (n : Fin 16) (w : Word)
  /-- TDM_SWAP (R356). -/
  | tdmSwap (src : WrSrc) (n : Fin 16) (w : Word)
  /-- TDM_SWAP_APPLY (R356). -/
  | tdmSwapApply (n : Fin 16)
  /-- TDM_RESTART (R359). -/
  | tdmRestart (src : WrSrc) (n : Fin 16) (auto : Bool) (w : Word)
  /-- TDM_CLOCK_LOST (R358). -/
  | tdmClockLost (n : Fin 16)
  /-- TDM_RATE_WINDOW (R358). -/
  | tdmRateWindow (n : Fin 16) (ofs : Int)
  /-- DAC_CODE_WRITE (R363). -/
  | dacCodeWrite (src : WrSrc) (n : Fin 8) (w : Word)
  /-- DAC_CFG_WRITE (R364). -/
  | dacCfgWrite (src : WrSrc) (n : Fin 8) (w : Word)
  /-- HIT_ENABLE (R378). -/
  | hitEnable (src : WrSrc) (w : Word)
  /-- HITCH_PAIR_SEND (R380). -/
  | hitchPairSend
  /-- SEEK_TIMEOUT (R382). -/
  | seekTimeout
  /-- HITCH_PAIR (R381). -/
  | hitchPair (vmask : BitVec 8) (home : Bool) (st : BitVec 3) (digest : BitVec 32)
  /-- HITCH_RENEW_SEND (R383). -/
  | hitchRenewSend
  /-- HITCH_RENEW (R383). -/
  | hitchRenew (rseq : BitVec 32)
  /-- HITCH_ACK (R383). -/
  | hitchAck (rseq : BitVec 32) (ready : Bool) (sync : BitVec 2) (rtt : Nat)
  /-- DRIVE_LEASE_END (R384). -/
  | driveLeaseEnd
  /-- LEASE_EXPIRY_TAKEOVER (R385). -/
  | leaseExpiryTakeover
  /-- HELD_TIMEOUT (R382). -/
  | heldTimeout
  /-- GIVEUP_TRIGGER (R387). -/
  | giveupTrigger (cause : Fin 8)
  /-- GIVE_UP (R388). -/
  | giveUp
  /-- HITCH_GIVEUP (R388). -/
  | hitchGiveup (g : BitVec 64) (cause : BitVec 8)
  /-- HANDOVER_START (R395). -/
  | handoverStart
  /-- HITCH_HANDOVER (R395). -/
  | hitchHandover (hb : BitVec 64)
  /-- HITCH_HANDACK (R395). -/
  | hitchHandack (hb : BitVec 64) (accept : Bool)
  /-- HITCH_FWD (R391). -/
  | hitchFwd (fwdid : BitVec 32) (h : Fin 4) (desc : List Byte) (data : List Byte)
  /-- HITCH_FWDREPLY (R391). -/
  | hitchFwdreply (fwdid : BitVec 32) (csn : BitVec 48) (status : BitVec 16)
  /-- HITCH_FWDCPL (R391). -/
  | hitchFwdcpl (fwdid : BitVec 32) (status : BitVec 16)
  /-- HITCH_HFAULT (R391). -/
  | hitchHfault (h : Fin 4)
  /-- HITCH_JRNL (R392). -/
  | hitchJrnl (recs : List JRec)
  /-- HITCH_JNACK (R392). -/
  | hitchJnack (jsn : BitVec 48)
  /-- HITCH_CKPT (R393). -/
  | hitchCkpt (ckno chunk : BitVec 32) (data : List Byte) (crc : BitVec 32)
  /-- HITCH_SEAL (R393). -/
  | hitchSeal (ckno : BitVec 32) (startJ endJ : BitVec 48) (crc : BitVec 32)
  /-- HITCH_CKREQ (R393). -/
  | hitchCkreq (ckno chunk : BitVec 32)
  /-- CHECKPOINT_PERIOD (R393). -/
  | checkpointPeriod
  /-- HIT_CTL_GIVEUP (R398). -/
  | hitCtlGiveup (w : Word)
  /-- HIT_CTL_HANDOVER (R395). -/
  | hitCtlHandover (w : Word)
  /-- RESYNC (R398). -/
  | resync (w : Word)
  /-- ZEROISE_VOLATILE (R408). -/
  | zeroiseVolatile (src : WrSrc) (w : Word)
  /-- ZEROISE_SIGNERS (R408). -/
  | zeroiseSigners (src : WrSrc) (w : Word)
  /-- ANTI_ROLLBACK_ADVANCE (R405). -/
  | antiRollbackAdvance (src : WrSrc) (w : Word)
  /-- ANTI_ROLLBACK_PROGRAMMED (R405). -/
  | antiRollbackProgrammed
  /-- RNG_READ (R409). -/
  | rngRead
  /-- RNGRST (R409). -/
  | rngrst (w : Word)
  /-- TRNG_HEALTH_FAIL (R409). -/
  | trngHealthFail (test : BitVec 8)
  /-- DEBUG_CHALLENGE (R413). -/
  | debugChallenge (scope : BitVec 3)
  /-- DEBUG_RESPONSE (R413). -/
  | debugResponse (sig : List Byte) (secs : Nat)
  /-- DEBUG_LOCK (R413). -/
  | debugLock
  /-- PEA_IXDATA_WRITE (R418). -/
  | peaIxdataWrite (src : WrSrc) (w : Word)
  /-- PEA_IXDATA_READ (R418). -/
  | peaIxdataRead
  /-- PEA_COMMIT (R418). -/
  | peaCommit (src : WrSrc) (w : Word)
  /-- PEA_SECTOR_WRITE_DONE (R415). -/
  | peaSectorWriteDone (retries : Nat)
  /-- WEAR_LEVEL_SWAP (R415). -/
  | wearLevelSwap (rarely : Fin 8192) (worn : Fin 8704)
  /-- IXDATA_ACCESS (R465). -/
  | ixdataAccess (src : WrSrc) (pair : IxPair) (wr : Option Word)
  /-- POWER_ON (R426). -/
  | powerOn
  /-- BROWN_OUT (R426). -/
  | brownOut (rail : Rail)
  /-- RESET_PIN (R477). -/
  | resetPin
  /-- STOKER_WATCHDOG (R426). -/
  | stokerWatchdog
  /-- THERMAL_TRIP (R426). -/
  | thermalTrip
  /-- THERMAL_RELEASE (R426). -/
  | thermalRelease
  /-- HOST_RESET_SECTIONS (R450). -/
  | hostResetSections (h : Fin 4) (w : Word)
  /-- HOST_RESET_CORE (R450). -/
  | hostResetCore (h : Fin 4) (w : Word)
  /-- HOST_RESET_FULL_CHIP (R450). -/
  | hostResetFullChip (h : Fin 4) (w : Word)
  /-- JTAG_RESET (R426). -/
  | jtagReset
  /-- TAP_RESET (R426). -/
  | tapReset
  /-- FUSE_LOAD_DONE (R430). -/
  | fuseLoadDone (copy : Fin 3) (strap : BitVec 6) (banks33 : BitVec 5)
  /-- FUSE_LOAD_RETRY (R430). -/
  | fuseLoadRetry
  /-- SECTION_RELEASE (R433). -/
  | sectionRelease
  /-- FIRMWARE_VERIFY_DONE (R404). -/
  | firmwareVerifyDone
  /-- BOOT_PUSH (R436). -/
  | bootPush (w : Word)
  /-- PUSH_CHECK_DONE (R436). -/
  | pushCheckDone
  /-- SECTION_HOLD_WRITE (R434). -/
  | sectionHoldWrite (src : WrSrc) (w : Word)
  /-- VOTE_SCRUB (R462). -/
  | voteScrub (upsets : List VoteUpset)
  /-- SEQUENCE_CLEAR (R458). -/
  | sequenceClear (src : WrSrc) (off : BitVec 20) (w : Word)
  /-- CSN_READ_LATCH (R88). -/
  | csnReadLatch
  /-- MIX_ENABLE (R467). -/
  | mixEnable (src : WrSrc) (w : Word)
  /-- MIX_START_COMPILE_DONE (R467). -/
  | mixStartCompileDone (hits : MemHits)
  /-- MIX_DISABLE (R467). -/
  | mixDisable (src : WrSrc) (w : Word)
  /-- STRIP_ENABLE (R467). -/
  | stripEnable (src : WrSrc) (w : Word)
  /-- STRIP_DISABLE (R467). -/
  | stripDisable (src : WrSrc) (w : Word)
  /-- REGISTER_WRITE (R459). -/
  | registerWrite (src : WrSrc) (off : BitVec 20) (w : Word)
  /-- SUPPLIES_GOOD (R472). -/
  | suppliesGood
  /-- RESET_PIN_RELEASE (R477). -/
  | resetPinRelease
  /-- PCIE_LINK_UP (R433). -/
  | pcieLinkUp (h : Fin 2) (x2 : Bool) (gen : Fin 3)
  /-- NEW_ACTIVE_ACK_TIMEOUT (R388). -/
  | newActiveAckTimeout
  /-- DIE_TEMPERATURE_WARNING (R447). -/
  | dieTemperatureWarning (t : BitVec 16)
  /-- ANNOUNCE_SEND (R306). -/
  | announceSend (p : Fin 4) (dom : Fin 2)
  deriving DecidableEq, Repr

end Sys2Proof
end

