-- ==== Sys2Proof/Decode.lean ====
section
/-! DEFINITION. The commands that words spell. The opcode table gives no row any bits, so no word spells a command
(notes/assumptions/5.md). -/

namespace Sys2Proof

/-- The command that a word of nbits bits spells by the table's bits. -/
def decodeTableWord (_nbits _w : Nat) : Option Instr := none

end Sys2Proof
end

