-- ==== Sys2Proof/Config.lean ====
section
/-! DEFINITION. What the spec leaves to the implementation or states only with a tolerance, as constants without a value:
a claim that holds, holds for every value of them (notes/assumptions/8.md, 9.md, 10.md). -/

namespace Sys2Proof.Config

/-! ### What a stated tolerance leaves open (notes/assumptions/8.md) -/

/-- Deviation of the Q5.27 multiplier of a gain in 10^-14 dB from the nearest one, kept within 0.001 dB (R29, R93). -/
opaque multDev : Int → Int
/-- Deviation of coefficient k of a PARAM design (type, rate, gain code, frequency code, Q code), kept below a relative
error of 2^-30 (R100). -/
opaque designDev : (type fs : Nat) → (g : Int) → (f q k : Nat) → Int
/-- Half of the symmetric impulse response of a rate bridge, from its ends to its centre, in units of 2^-40: any that holds the
bounds of R21. -/
opaque bridgeTap : (fromFs toFs k : Nat) → Int
/-- Deviation of a generated frequency, kept below 0.01 Hz (R141), in units of 2^-16 of a frequency code. -/
opaque toneFreq : (code : Nat) → Int
/-- Spurious components of sample k of a tone program, kept below -130 dBFS (R141), in units of 1/16 sample LSB. -/
opaque toneSpur : List Byte → Nat → Int
/-- Frequency of component i of the pink noise of a seed within its 48th of an octave, in 2^-20 of it (R141). -/
opaque pinkFreq : (seed i : Nat) → Nat
/-- Phase of component i of the pink noise of a seed at sample 0, in 2^-16 of a cycle (R141). -/
opaque pinkPhase : (seed i : Nat) → Nat

/-! ### Standards the spec names and does not define (notes/assumptions/9.md) -/

/-- SHA-256 digest (R197, R404, R410). -/
opaque sha256 : List Byte → List Byte
/-- ECDSA P-256 verification of a signature over a digest with a key (R197, R404, R413). -/
opaque ecdsaOk : (key digest sig : List Byte) → Bool
/-- The Beyrath root key hash in OTP (R404). -/
opaque rootKeyHash : List Byte
/-- The 8-byte fused device identifier (R413). -/
opaque deviceId : List Byte
/-- Whether x is the coordinate of a point of P-256 (R406). -/
opaque onCurve : List Byte → Bool
/-- A protected MACsec frame for a plain one: key, SCI, association number, packet number (R298). -/
opaque macsecSeal : (key : List Byte) → (sci an pn : Nat) → List Byte → List Byte
/-- The plain frame of a received protected one; none: its ICV does not verify (R298). -/
opaque macsecOpen : (key : List Byte) → (sci pn : Nat) → List Byte → Option (List Byte)
/-- MAC address of a port (R302). -/
opaque portMac : Nat → List Byte

/-! ### Fused and board values -/

/-- TXLAT, RXLAT and LINKASYM fused for a port's reference plane (R313). -/
opaque fusedLat : (port reg : Nat) → Word
/-- Equaliser boost that a port's adaptation finds, SDSTAT.CTLEUSE (R466). -/
opaque eqBoost : (port : Nat) → BitVec 5
/-- Fused calibration words of the DAC channels (R365). -/
opaque fusedDac : Nat → Word
/-- Spare columns in use, DEP_REPAIR (R287). -/
opaque fusedRepair : Word

/-! ### Free values (notes/assumptions/10.md) -/

/-- Beyrath Semiconductor's PCI vendor identifier (R210), which the spec does not give (notes/assumptions/75.md). -/
opaque vendor : Nat

/-- A fresh value the spec leaves undefined: the k-th one. -/
opaque free : Nat → Nat
/-- A byte of memory whose content the spec calls undefined: epoch and address (R429). -/
opaque undefByte : Nat → Nat → Byte
/-- A fresh TRNG word (R409). -/
opaque trng : Nat → Word
/-- Number u of the dither sequence of a destination (R134): seed, destination code; reduced modulo one LSB of 2^12 steps. -/
opaque dither : (seed code u : Nat) → Nat
/-- The interpolation filter of a DAC channel (R362): its output for the latest input values, newest first. -/
opaque interpDac : List Int → Int
/-- Natural angular frequency in 10^-6 rad/s of the loop whose bandwidth in mHz R332 states. -/
opaque loopNat : (bw : Nat) → Nat
/-- Bytes of a frame the engine builds from a standard the spec names (gPTP, PRP supervision): kind, port, data. -/
opaque stdFrame : (kind port : Nat) → List Nat → List Byte

/-- A checkpoint chunk of 1,024 bytes for a pending operation, and number k of one received: the spec gives no layout (R393). -/
opaque opChunk : List Nat → List Byte
opaque chunkField : List Byte → Nat → Nat
/-- The bytes that the journal store in bulk memory holds for a record of numbers and data: the spec gives no layout (R400). -/
opaque journalSlot : List Nat → List Byte → List Byte

end Sys2Proof.Config
end

