-- ==== Sys2Proof/Machine/State.lean ====
section
/-! DEFINITION. The state of the block as plain data, section by section, and its value after a power-on reset. -/

namespace Sys2Proof.Machine

/-- The model has no fault: the block answers every command (R24, R225, R260 turn errors into responses and flags). -/
inductive Fault where
  deriving DecidableEq, Repr

/-- The one refusal: a command that has no meaning in the model. Raised by `exec` only; safe, since no claim about such
a command can be proved. -/
inductive Refusal where
  | notModelled (mnemonic : String)
  deriving DecidableEq, Repr

/-! ### Bytes, registers and outputs -/

/-- A byte memory: cells in canonical form (addresses strictly rising, no cell equal to what an unlisted address reads
as), and what an unlisted address reads as: zero, or the k-th undefined content (R429, notes/assumptions/4.md). -/
structure Mem where
  cells : List Host.Cell
  fill : Option Nat
  deriving DecidableEq, Repr

/-- An event counter of the layout of R61: SEQ and COUNT. -/
structure Ctr where
  seq : BitVec 8
  count : Nat
  deriving DecidableEq, Repr

/-- A status register with SC bits (R458): SEQ and, for each set bit, the sequence of its latest setting. -/
structure Sc where
  seq : BitVec 8
  bits : List (Nat × BitVec 8)
  deriving DecidableEq, Repr

/-- The stored part of the register file, by offset from 0x01_1000_0000: RW words (three copies, R462), counters, status
registers, captured words. An offset that is not listed is at its reset value. -/
structure Regs where
  rw : List (Nat × Word)
  voteB : List (Nat × Word)
  voteC : List (Nat × Word)
  ctrs : List (Nat × Ctr)
  scs : List (Nat × Sc)
  caps : List (Nat × Word)
  deriving DecidableEq, Repr

/-- Responses of the matrix (R260). -/
inductive Resp where
  | okay | decerr | uncerr | collide
  deriving DecidableEq, Repr

/-- How a TDM port's pins run (R348, R349, R351, R360). `clocks`: none, at high impedance; some false, received; some true, driven.
`risingOut`: SDO changes on the rising edge of BCLK and SDI is sampled on the falling one. `fsHigh`: the level of FSYNC from the
start of a frame, which lasts `fsBits` bits. `delay`: bits from the FSYNC edge to the first data bit. `bits` bits make a frame of
`frame` sixteenths of an ACLK cycle, and the pins run `trim` sixteenths late. `idle`: none, SDO is at high impedance in idle
positions; some false, it is driven low. -/
structure TdmPins where
  clocks : Option Bool
  risingOut : Bool
  fsHigh : Bool
  fsBits : Nat
  delay : Nat
  bits : Nat
  frame : Nat
  trim : Nat
  idle : Option Bool
  deriving DecidableEq, Repr

/-- What leaves the block during one command (notes/assumptions/3.md). -/
inductive Out where
  /-- a write into a host's own memory: PCIe write at a device address of the host window (R213) -/
  | hostWrite (h : Nat) (addr : Nat) (data : List Byte)
  /-- an MSI-X message (R230) -/
  | msix (h : Nat) (vec : Nat)
  /-- the level of an SPI interrupt pin (R230) -/
  | irqPin (h : Nat) (high : Bool)
  /-- a frame handed to the wire of an Ethernet port (R293) -/
  | frame (port : Nat) (bytes : List Byte)
  /-- words of a TDM transmit position: port, position, words, the last ones of the block under way, or one frame's (R352) -/
  | tdm (port slot : Nat) (words : List Int)
  /-- a TDM transmit position goes idle from a frame of the block under way on (R356, R360) -/
  | tdmIdle (port slot frame : Nat)
  /-- how a TDM port's pins run from now on (R348, R349, R351, R360) -/
  | tdmPins (port : Nat) (pins : TdmPins)
  /-- VP - VN of a DAC channel in 2^-24 V: the last samples of the block under way, or one level from now on (R361, R363) -/
  | dac (n : Nat) (volts : List Int)
  /-- the answer of a register or memory read -/
  | data (resp : Resp) (bytes : List Byte)
  /-- bytes an SPI target drives (R246 to R250) -/
  | spi (i : Nat) (bytes : List Byte)
  /-- a PCIe completion without data, or an unsupported request (R211, R212) -/
  | pcie (h : Nat) (ok : Bool) (bytes : List Byte)
  /-- a message on the debug port (R413) -/
  | debug (bytes : List Byte)
  /-- a Hitch message by type name code and fields (R379) -/
  | hitch (kind : Nat) (fields : List Nat) (data : List Byte)
  deriving DecidableEq, Repr
/-! ### Control section -/

/-- Units of one kind with spares (R437, R438): retired units as a mask, kept across every reset, and the physical unit that
carries each logical load (none: the load is lost, R440). -/
structure Units where
  retired : Nat
  map : List (Option Nat)
  deriving DecidableEq, Repr

/-- Reset, boot and self-test state (R426 to R454): phase of the power-up (0 supplies, 1 fuse load, 2 root lock, 3 Control
released), whether RESET_N or the thermal trip holds the device, sections in reset (INRST), sections that a section reset
releases without software, boot stage, push error and the length of a pushed
image under check, the widest scope of a release under way (0 sections or none, 1 core, 2 full chip, R428), converter code of CFGSTRAP, BOOT, HOME, PAIRSEL and PCIE in
effect, 3.3 V banks, the units by kind (strip engines, output engines, matrix columns, lanes of each Dray), the position
of the self-test rotation, the unit under test (kind 1 to 7 and physical number), the kind and unit last visited, the last
result and the rounds, units that fault at this block (kind, logical). -/
structure Ctl where
  phase : Nat
  pinLow : Bool
  hot : Bool
  inrst : Nat
  auto : Nat
  stage : Nat
  pushErr : Nat
  pushLen : Option Nat
  scope : Nat
  strap : Nat
  boot : Bool
  home : Bool
  pairsel : Bool
  pcie2 : Bool
  banks33 : Nat
  units : List Units
  pos : Nat
  test : Option (Nat × Nat)
  lastKind : Nat
  lastPhys : Nat
  lastPass : Bool
  rounds : Nat
  faulted : List (Nat × Nat)
  deriving DecidableEq, Repr

/-! ### Memory section, Peatstore and security -/

/-- Bulk memory and pool SRAM with the matrix (R258 to R290): training results (SIZE code), pointers of the eight arbitration
points, effective bank owners and the owners waiting for a handover per bank (R274), the BUSY pins of H2 and H3 with
whether a transaction has begun since (R277), unfinished copies of MTX_WAITMAX per point (master and wait), the heads that wait at
each point (R265) and the FCLK cycles of its precedence grants that may still count (R267), the transactions of each master in flight
(R270), and the last write that path A of pool SRAM took: its address and the bytes there before (R272). -/
structure MemSt where
  bulk : Mem
  pool : Mem
  trained : Bool
  size : Nat
  ptr : List Nat
  owner : List Nat
  hand : List (List Nat)
  busy : List Bool
  begun : List Bool
  waits : List (Nat × Nat)
  heads : List (List MtxHead)
  precs : List (List Nat)
  flight : List Nat
  prevA : Nat × List Byte
  deriving DecidableEq, Repr

/-- A scene slot (R414): its logical sectors in order and its length. -/
structure Scene where
  sectors : List Nat
  len : Nat
  deriving DecidableEq, Repr

/-- The Peatstore (R414 to R425): contents of the service space, physical sector of each logical one where it is not the
first layout, write counts of physical sectors, free physical sectors and retired ones per region, the sector buffer of
the PEA registers with the words placed in it, the sector write under way, and the scene slots. -/
structure Pea where
  mem : Mem
  map : List (Nat × Nat)
  wear : List (Nat × Nat)
  spare : List (List Nat)
  retired : List (List Nat)
  buf : Option (Nat × List (Nat × Word))
  busy : Option (Nat × List Byte)
  scenes : List (Nat × Scene)
  deriving DecidableEq, Repr

/-- A key slot (R406, R407): the key (none: empty), its KEYID, and whether it is revoked. -/
structure Key where
  key : Option (List Byte)
  id : Nat
  revoked : Bool
  deriving DecidableEq, Repr

/-- The running firmware (R404, R422): 0 slot A, 1 slot B, 2 host push, 3 none; RBIDX, VERSION and PUBKEY. -/
structure Fw where
  src : Nat
  rbidx : Nat
  version : Nat
  pubkey : List Byte
  deriving DecidableEq, Repr

/-- An audit record that waits until the log can take it (R408, R404): the NSC at the event (R410), TYPE, ORIGIN, RESULT, DATA. -/
structure Audit where
  nsc : Nat
  type : Nat
  origin : Nat
  result : Nat
  data : List Byte
  deriving DecidableEq, Repr

/-- Security state (R402 to R422): key slots, anti-rollback counter, a programming under way and the ORIGIN of the write that asked
for it, running firmware and failure
codes of the slots, the images refused since the reset (slot, image, reason: R404 has the Stoker log them once it runs), TRNG health and RNGVALID, unlocked debug scope, open challenge with its nonce, failed attempts since
reset, the OTP bit DBGPERM, next audit sequence number and records that wait. -/
structure Sec where
  keys : List (Nat × Key)
  rb : Nat
  rbTo : Option Nat
  rbBy : Nat
  fw : Fw
  afail : Nat
  bfail : Nat
  refused : List (Nat × Fw × Nat)
  rngOk : Bool
  rngValid : Bool
  scope : Nat
  chal : Option (Nat × List Byte)
  fails : Nat
  perm : Bool
  logSeq : Nat
  logWait : List Audit
  deriving DecidableEq, Repr


/-! ### Mix and Strip sections -/

/-- States of one biquad in accumulator format (R93, R101). -/
structure Biq where
  x1 : Int
  x2 : Int
  y1 : Int
  y2 : Int
  deriving DecidableEq, Repr

/-- State of the gate (R105): 0 CLOSED, 1 HOLD, 2 OPEN; hold samples left; key envelope with 32 fractional bits; smoothed gain in 10^-14 dB; whether
the last sample's level was below THRESH. -/
structure Gate where
  st : Nat
  left : Nat
  env : Nat
  r : Int
  below : Bool
  deriving DecidableEq, Repr

/-- The filter part of a chain: the clamped image its sections read, and the states of the high-pass and EQ sections
(branch filters for dynamic ones), of the key branch filters of DSIDE sections, the dynamic sections' gain changes in
10^-14 dB, and the compressor's lookahead line. -/
structure Filt where
  act : Mem
  sec : List Biq
  key : List Biq
  dyn : List Int
  look : List Int
  deriving DecidableEq, Repr

/-- A running ramp of an entry or crosspoint (R75 to R77): its field, its effective target, its length in blocks, its
shape, the operation that made it, the old and new multipliers (Q5.27, signed for POLARITY) with their levels in 10^-14 dB, the old
mixture of taps, sources, destinations or factors with weights of 2^-60, and for a dual path the old sections. -/
structure Ramp where
  fld : RampFld
  t : Nat
  n : Nat
  shape : Nat
  csn : Nat
  m0 : Int × Int
  m1 : Int × Int
  old : List (Nat × Nat)
  filt : Option Filt
  deriving DecidableEq, Repr

/-- The meters of an entry (R113, R114): the values of its last block in 0.01 dB, flags, capture block, the sums of x^2
of the last 1,200 blocks newest first, the held peak in 1/4,000 of 0.01 dB, the hold time left in us, and whether the mirror
holds a valid record of the entry (R116). -/
structure Met where
  prepk : Int
  postpk : Int
  rms : Int
  gr : Int
  holdpk : Int
  isOver : Bool
  gated : Bool
  dual : Bool
  block : Nat
  win : List Nat
  held : Int
  holdLeft : Int
  mir : Bool
  deriving DecidableEq, Repr

/-- Run state of a processed entry (R96 to R114, R124, R127, R130): filters, detectors' gains in 10^-14 dB, mean square of
the RMS detector (none: it restarts at the next sample, R107),
delay samples written, the last block's pick-offs, key taps and output result, histories for bridges (newest first), and a
bus's scaling, duck and safety-limiter state. -/
structure Run where
  filt : Filt
  gate : Gate
  comp : Int
  ms : Option Int
  age : Nat
  pre : List Int
  post : List Int
  key : List Int
  acc : List Int
  tilt : Biq
  hPre : List Int
  hPost : List Int
  hAcc : List Int
  pkPre : List Nat
  pkPost : List Nat
  ns : Nat
  nsPrev : Nat
  duck : Int
  duckPrev : Int
  duckSet : Nat
  duckRel : Option Nat
  duckNew : Bool
  safe : Int
  isOver : Bool
  met : Met
  deriving DecidableEq, Repr

/-- One word change: byte offset in the entry or record, mask, value (R65). -/
structure WordChg where
  off : Nat
  mask : Word
  val : Word
  deriving DecidableEq, Repr

/-- A change applied to an entry or record, to take effect at A-sample index t (R73); `slot` says that a dual-path slot or
second term is free for it at t (R79, R122). -/
structure Chg where
  t : Nat
  csn : Nat
  n : Nat
  shape : Nat
  own : Bool
  slot : Bool
  recs : List WordChg
  deriving DecidableEq, Repr

/-- A change that waits for a dual-path slot or a second term (R79, R122). -/
structure Wait where
  t : Nat
  csn : Nat
  n : Nat
  shape : Nat
  deriving DecidableEq, Repr

/-- The working-store slot of a processed entry: its image as installed and as clamped (R30), whether it is forced inactive
(R32), held (R54), faulted (R57) or without a valid copy since its start read failed (R57), its status area (R42), its send list and head as the matrix uses them, whether the list
was cut, pending changes, ramps, a waiting filter change, the failed delay bursts, its alignment in
samples of its domain (R151), whether it is processed, and its run state. -/
structure Ent where
  idx : Nat
  img : Mem
  act : Mem
  forced : Bool
  held : Bool
  faulted : Bool
  noCopy : Bool
  err : BitVec 8
  lastCsn : Nat
  lastNsc : Nat
  head : Nat
  list : List Nat
  chg : List Chg
  ramps : List Ramp
  wait : Option Wait
  badBursts : List Nat
  add : Nat
  live : Bool
  run : Run
  deriving DecidableEq, Repr

/-- A crosspoint record in the cache (R46, R49): its 16 bytes as the working store uses them, whether its only read failed
(R57), pending changes, ramps, the move that waits with its end values (R122), blocks since its pick-off last reached
ACTTHRESH (40: none, R123), and whether it lies on its source's send list. -/
structure Xp where
  idx : Nat
  img : Mem
  bad : Bool
  on : Bool
  chg : List Chg
  ramps : List Ramp
  wait : Option Wait
  target : Mem
  since : Nat
  deriving DecidableEq, Repr

/-- A compiled copy that waits for its installation (R50): what, and its image as fetched. -/
structure Ready where
  item : Item
  img : Mem
  deriving DecidableEq, Repr

/-- Kinds of sequenced operations (R62). -/
inductive OpKind where
  | commit | recall | claim | release | readState | clipPlay | clipStop
  deriving DecidableEq, Repr

/-- One change record of R65. -/
structure CRec where
  op : Nat
  off : Nat
  idx : Nat
  mask : Word
  val : Word
  deriving DecidableEq, Repr

/-- A sequenced operation (R62 to R64): CSN, host, submission ring and ring index of its descriptor, the FWDID of a partner's
operation (R391), target as given with NEXTPOSSIBLE, STAGE and the width of TARGET, effective target after acceptance, ramp,
change records or parameters, and what has been done. `part1` and `part2` say that the words of strips and templates, and of
buses, outputs and crosspoints, have been applied and written back (R72). -/
structure Op where
  csn : Nat
  kind : OpKind
  host : Nat
  ring : Nat
  cookie : Nat
  fwd : Option Nat
  next : Bool
  stage : Bool
  width : Nat
  t : Nat
  n : Nat
  shape : Nat
  own : Bool
  recs : List CRec
  args : List Nat
  late : Bool
  lost : Bool
  failed : Bool
  aborted : Bool
  part1 : Bool
  part2 : Bool
  delay : Nat
  data : List Byte
  deriving DecidableEq, Repr

/-- A staged batch of a submission ring (R80). -/
structure Batch where
  host : Nat
  ring : Nat
  recs : List CRec
  failed : Bool
  deriving DecidableEq, Repr

/-- A claim (R83): CSN, holder, whether the holder is a host of the twin partner (R391), ranges, lease in ms, and whether
its lease has run out and the claim ends at the next boundary (R85). -/
structure Claim where
  csn : Nat
  host : Nat
  partner : Bool
  ranges : List (Nat × Nat)
  lease : Nat
  expired : Bool
  deriving DecidableEq, Repr

/-- What a clip player or tone generator plays (R135, R141): parameters, first index u0 in its domain, effective target,
fade-in, and its fade-outs, the latest first, each with its target, blocks, shape and the multiplier and level it starts from. -/
structure Clip where
  addr : Nat
  fmt : Nat
  nsamp : Nat
  loop : Bool
  loopStart : Nat
  dom : Nat
  gain : Int
  prog : List Byte
  t : Nat
  n : Nat
  shape : Nat
  csn : Nat
  out : List (Nat × Nat × Nat × Int × Int)
  deriving DecidableEq, Repr

/-- A burst of 64 bytes of clip data that a player has fetched (R137): the CSN of its clip, its number in the clip, and its bytes as
the fetch met them; none after an uncorrectable error (R139). -/
structure Burst where
  csn : Nat
  no : Nat
  data : Option (List Byte)
  deriving DecidableEq, Repr

/-- A player or generator (R135 to R141): what plays, what fades out behind it, the last position, whether it looped, the
fetched bursts, the last block's samples with their domain, and MIX_CLIPSTATn or MIX_TONESTATn as of the last capture (R146). -/
structure Player where
  cur : Option Clip
  old : List Clip
  pos : Nat
  looped : Bool
  bursts : List Burst
  dom : Nat
  blk : List Int
  stat : Word
  deriving DecidableEq, Repr

/-- Servo states of a zone (R159). -/
inductive ZState where
  | off | converging | tracking | frozen | relaxing | noAnalyser
  deriving DecidableEq, Repr

/-- A zone: its record in force (bytes 0x00 to 0x3F, R148), its engine fields (gains and targets in 10^-4 dB), the applied
gains before the last update and that update's NSC (R158), consecutive missed updates, per microphone whether it is counted as
usable and whether it fails in the block under way, the blocks it has been quiet for, the blocks without a usable one (R155,
R159), the lane whose analyser instance serves it, the feeds of the block, zone reference and microphones (R154), the squares
of the reference since the last update and their count, updates converged in a row (R156), blocks in FROZEN (R159), averaged
residual powers by microphone and band (R155), and whether the boundary's update is done. -/
structure Zone where
  idx : Nat
  img : Mem
  st : ZState
  gapp : Int
  tapp : Int
  gOld : Int
  tOld : Int
  gtgt : Int
  ttgt : Int
  align : Nat
  serr : BitVec 8
  noise : List Int
  coup : List Int
  erle : List Nat
  updNsc : Nat
  missed : Nat
  usable : List Bool
  fails : List Bool
  quiet : List Nat
  noMic : Nat
  lane : Option Nat
  ref : List Int
  mics : List (List Int)
  refSq : Nat
  refN : Nat
  conv : Nat
  frozen : Nat
  pw : List (List Int)
  done : Bool
  deriving DecidableEq, Repr

/-- Mix and Strip sections: ACT of both (R467), whether the start compile is done, last CSN, working store, crosspoint cache,
stale queue, items being compiled, ready copies (R50), operations, batches, claims, the 64 players and 16 generators, zones,
consecutive missed deadlines (R22), bridge histories of sources by code and domain (R21), the destination words of
the last mix stage by code, in the destination's domain (R133), which the emit stage sends, the buses active for precedence in the
last block with their PREC and DUCKGRP, the seed of the dither sequences (R134), the items whose re-fetch a WRITE_BULK defers (R54), and the entries, records and zone records fetched in the
present block (R50, R150). -/
structure Mix where
  act : Bool
  strip : Bool
  compiled : Bool
  csn : Nat
  ents : List Ent
  xps : List Xp
  stale : List Item
  fetching : List Item
  ready : List Ready
  ops : List Op
  batches : List Batch
  claims : List Claim
  players : List Player
  zones : List Zone
  missStrip : Nat
  missMix : Nat
  srcHist : List (Nat × List Int)
  dst : List (Nat × List Int)
  busAct : List (Nat × Nat × Nat)
  seed : Nat
  deferred : List Item
  nEnt : Nat
  nXp : Nat
  nZn : Nat
  deriving DecidableEq, Repr
/-! ### Serial audio ports and DAC channels -/

/-- A TDM port (R353 to R359): the code of its state, start NSC, live tables of 32 entries (R355) and the receive table of the
block under way, transmit positions that send zeros in their next frame (R356), SWPEND, a stop that waits for the
boundary, a glitch not yet followed by a restart, whether the last rate window was good, OFS, the internal ticks of the
present block (R357), the frames of logical slots that reached the capture stage in it, the slip buffers with the frames
removed last, and the tables that came into force at frames of the block under way: the frame, the receive table, and the transmit
positions that send zeros in that frame (R356). -/
structure Tdm where
  st : Nat
  start : Nat
  rxLive : List Byte
  txLive : List Byte
  rxBlk : List Byte
  fresh : List Nat
  swp : Bool
  stopping : Bool
  glitch : Bool
  winOk : Bool
  ofs : Int
  tick : Nat
  cap : List (List Int)
  rxBuf : List (List Int)
  txBuf : List (List Int)
  lastRx : List Int
  lastTx : List Int
  swaps : List (Nat × List Byte × List Nat)
  deriving DecidableEq, Repr

/-- The DAC calibration (R365) and, per channel, the last words of the interpolation filter, newest first (R362), and the CODE
last in force while the bypass did not drive it (R364), and the interpolated stream words of the block. -/
structure Dacs where
  cal : List Word
  hist : List (List Int)
  held : List Int
  blk : List (List Int)
  deriving DecidableEq, Repr

/-- The all-call bypass (R161 to R169): filtered pin, latch, crossfade weight in A-samples of 240 at the start of the block
under way and whether it rises there, the samples of the block at which that changed, the present source lost, whether the
fallback is in use, the copies of TDM_CFG of P0 and P15 as last started, the copy of P15's live transmit table, the input samples
of the present block, and those taken in it from frames of a slave P0. -/
structure Bypass where
  pin : Bool
  latch : Bool
  weight : Nat
  up : Bool
  turns : List (Nat × Bool)
  lost : Bool
  fallback : Bool
  cfg0 : Option Word
  cfg15 : Option Word
  tx15 : List Byte
  blk : List Int
  cap : List Int
  deriving DecidableEq, Repr

/-! ### Time section -/

/-- One reference (R324 to R329): state code of R327, quality in effect, frequency offset in 0.01 ppm, offset from the time
base in ns, whether a measurement has come, whether it has been disqualified since the Time release, whether it is beyond
its threshold, and its last valid measurement's NSC. -/
structure Ref where
  st : Nat
  qual : Nat
  fofs : Int
  ofs : Int
  seen : Bool
  dq : Bool
  beyond : Bool
  last : Nat
  deriving DecidableEq, Repr

/-- Sums over the temperature-corrected minute samples y at learning minutes t (R339): count, t, y, t t, t y. -/
structure Fit where
  n : Int
  t : Int
  y : Int
  tt : Int
  ty : Int
  deriving DecidableEq, Repr

/-- The Time section (R320 to R347): NSC and its fraction in millionths of an A-sample, root lock, TSTATE, reference followed
(15: none), steering in 10^-12, the steering asked for without build-out removal, the loop's integral in 10^-18, its bandwidth
in effect in mHz, whether the loop holds (R328), build-out in 10^-18 s, the frequency offset that removes it in 10^-12 (R336),
the nine references, whether a jam has been made, is pending or is asked for, SWITCHING, Smoulder validity, sensors in 0.01
degC, the steering and temperature samples of the last 60 s (R337), their means and midpoint on entry to SMOULDER (R338), the
Smoulder table by bin as words of R347, ageing rate, learning minutes, and the sums of the ageing fit. -/
structure Tim where
  nsc : Nat
  frac : Nat
  lock : Bool
  tst : Nat
  sel : Nat
  steer : Int
  want : Int
  integ : Int
  bw : Nat
  held : Bool
  bo : Int
  bof : Int
  refs : List Ref
  ran : Bool
  fell : Bool
  jammed : Bool
  jamPend : Bool
  jamNow : Bool
  switching : Bool
  hoValid : Bool
  die : Int
  ext : Int
  win : List (Int × Int)
  since : Nat
  lrn : Nat × Int × Int
  smS : Int
  smT : Int
  smAt : Nat
  bins : List (Nat × Word)
  age : Int
  mins : Nat
  fit : Fit
  deriving DecidableEq, Repr

/-! ### Drays and lanes -/

/-- Where the completion of a descriptor goes: host, submission ring and ring index. -/
structure Ticket where
  host : Nat
  ring : Nat
  index : Nat
  deriving DecidableEq, Repr

/-- A place that a bundle's write reaches later (R188). -/
inductive LReg where
  | d (n : Nat) | a (n : Nat) | m (n : Nat) | lc (n : Nat) | ls (n : Nat) | le (n : Nat) | acc (n : Nat) | bex
  deriving DecidableEq, Repr

/-- A write not yet visible: bundles still to come that read the old value, place, value. -/
structure LWr where
  left : Nat
  reg : LReg
  val : Int
  deriving DecidableEq, Repr

/-- Rimund registers (R181): visible values; `fwd` and `bexNew` are the accumulators and block exponent as a following
accumulation finds them (R188). -/
structure LRegs where
  d : Vector Word 16
  a : Vector Word 8
  m : Vector Word 8
  lc : Vector Nat 3
  ls : Vector Nat 3
  le : Vector Nat 3
  sr : Word
  lr : Nat
  ipc : Nat
  isr : Word
  bex : Nat
  bexNew : Nat
  ecause : Nat
  blkn : Word
  acc : Vector Int 4
  fwd : Vector Int 4
  pc : Nat
  pend : List LWr
  br : Option (Nat × Nat)
  deriving DecidableEq, Repr

/-- Port configuration of a lane (R172, R206). -/
structure LPorts where
  dom : Nat
  inBase : Nat
  inCnt : Nat
  outBase : Nat
  outCnt : Nat
  deriving DecidableEq, Repr

/-- Lane states of R171. -/
inductive LState where
  | empty | loaded | running | halted | faulted
  deriving DecidableEq, Repr

/-- A logical lane (R171 to R203): state, LIBID, program memory with its retained image, data memory, registers, ports,
PARAM, whether it may execute in this block, whether it has executed bsync in it, an overrun whose outputs are to be
discarded, whether the inputs of this block await it, its output windows of the block, a pending exception (code, bundle
that ipc names), pending DMA and message interrupts, mailbox full flag, DMA queue (descriptor addresses), START, STOP, ZONES
and LANE_LOAD that wait with their completions, the zone list of an analyser, a hardware fault of this block, and whether the lane
restarts at the boundary. -/
structure Lane where
  st : LState
  libid : Nat
  prog : Mem
  data : Mem
  r : LRegs
  ports : Option LPorts
  param : Word
  ready : Bool
  synced : Bool
  late : Bool
  waitIn : Bool
  out : Option (List (List Int))
  exc : Option (Nat × Nat)
  dmaIrq : Bool
  msgIrq : Bool
  full : Bool
  dq : List Nat
  start : Option Ticket
  stop : Option (Option Ticket)
  zones : List Nat
  zonesTo : Option (List Nat × Ticket)
  load : Option (Ticket × List Byte)
  faulted : Bool
  lost : Bool
  restart : Bool
  deriving DecidableEq, Repr

/-- A Dray (R170): shared SRAM for lane use, semaphore owners, the physical lane due for test whose load must move with the blocks
it has waited for that (R200), the input ports' words of the block, by port, and whether EN was cleared in the block under way. -/
structure Dray where
  sram : Mem
  sem : List (Option Nat)
  mig : Option Nat
  migN : Nat
  inBlk : List (Nat × List Int)
  closing : Bool
  deriving DecidableEq, Repr

/-! ### Host interface -/

/-- A fetched descriptor (R219, R227): ring, ring index with the number of the fetch times 65,536, 64 bytes, whether its operation has begun, whether it was accepted as
a sequenced operation, and the request that waits for acceptance. -/
structure Desc where
  ring : Nat
  index : Nat
  bytes : List Byte
  begun : Bool
  accepted : Bool
  req : Option Op
  deriving DecidableEq, Repr

/-- A submission ring (R218 to R220): valid producer index, consumer index, last invalid doorbell value, halted by FETCHERR. -/
structure Sq where
  pi : Nat
  ci : Nat
  bad : Option Nat
  halted : Bool
  deriving DecidableEq, Repr

/-- A completion ring (R218, R230): producer index, consumer index, last invalid doorbell value, records not yet signalled,
a signal that waits for the index page, and whether its signal asserts the interrupt pin. -/
structure Cq where
  pi : Nat
  ci : Nat
  bad : Option Nat
  unsig : Nat
  sig : Bool
  pin : Bool
  deriving DecidableEq, Repr

/-- A receive buffer (R245). -/
structure RxBuf where
  ticket : Ticket
  addr : Nat
  len : Nat
  deriving DecidableEq, Repr

/-- What a subscription reports for an entry over the blocks of a period so far (R117, R243): whether the entry was processed
in the last one, and in any of them, PREPK, POSTPK, RMS, GR, HOLDPK, OVER, GATED. -/
structure SubVal where
  valid : Bool
  seen : Bool
  prepk : Int
  postpk : Int
  rms : Int
  gr : Int
  holdpk : Int
  isOver : Bool
  gated : Bool
  deriving DecidableEq, Repr

/-- A meter subscription (R242): entries in order, period, completion ring, the values of the period under way. -/
structure Sub where
  ents : List Nat
  n : Nat
  cq : Nat
  acc : List SubVal
  deriving DecidableEq, Repr

/-- A completion record held back while its ring's doorbell value is invalid (R218): ring, bytes, IRQ, and whether its descriptor is
still in flight (R219). -/
structure HeldRec where
  ring : Nat
  bytes : List Byte
  irq : Bool
  counts : Bool
  deriving DecidableEq, Repr

/-- A host port (R210 to R257): link with its trained width and speed (lanes; 0 for 2.5 GT/s, 1 for 5, 2 for 8), version, rings,
fetched descriptors, next ring of the round, index page state, receive queues, subscriptions, how many descriptors were ever
fetched, records held back, status bits that assert the pin, MSI-X table and pending bits, and of an SPI port: DTR, the mode to take at CS_N rise, RESET ENABLE armed (1 in
this transaction, 2 in the one before) and buffered WRITEs. -/
structure HostPort where
  link : Bool
  width : Nat
  speed : Nat
  ver : Nat
  sq : Vector Sq 8
  cq : Vector Cq 8
  descs : List Desc
  next : Nat
  dirty : Bool
  updseq : Nat
  rxq : List (List RxBuf)
  subs : List (Option Sub)
  fetchNo : Nat
  held : List HeldRec
  statPin : List Nat
  msix : Mem
  pba : Nat
  dtr : Bool
  modeTo : Option Bool
  armed : Nat
  wbuf : List (Nat × List Byte × MemHits)
  deriving DecidableEq, Repr

/-! ### Network -/

/-- What a queued frame is for (R293): a host frame with its completion and timestamp address, a talker packet with its
launch NSC, presentation time in ns and the offset of its AVTP header (0: no timestamp to write), or a frame of a standard
that the port builds at departure: kind and data (notes/assumptions/40.md). -/
inductive TxKind where
  | host (t : Ticket) (ts : Option Nat)
  | talker (idx : Nat) (launch pres : Nat) (form : Nat)
  | own (kind : Nat) (data : List Nat)
  | hitch (ckpt : Bool)
  deriving DecidableEq, Repr

/-- A queued frame: queue 0 to 11, bytes from the destination address on, secure channel, PRP sequence number, kind. -/
structure TxFrame where
  q : Nat
  bytes : List Byte
  sc : Option Nat
  prp : Option Nat
  kind : TxKind
  deriving DecidableEq, Repr

/-- An Ethernet port (R291 to R314): link, SPEED code, ANDONE, transmit queue in order of arrival, secure channel table,
SerDes words, and the delay measurement in 2^-16 ns: sequence number of the last Pdelay_Req, its departure t1, t2 with the
arrival t4 of the response, mean link delay, and t3 with t4 of the last exchange (R307). -/
structure Port where
  link : Bool
  speed : Nat
  anDone : Bool
  txq : List TxFrame
  sc : Mem
  serdes : Mem
  pdSeq : Nat
  t1 : Option Int
  t24 : Option (Int × Int)
  mld : Option Int
  rate : Option (Int × Int)
  pnEnd : List Nat
  deriving DecidableEq, Repr

/-- A source entry of a PRP discard table (R295): MAC address and the last 64 sequence numbers received, newest first. -/
structure Dup where
  src : Nat
  seen : List Nat
  deriving DecidableEq, Repr

/-- An open talker stream (R302, R303): record, whether it runs, opening and closing completions, blocks packed so far with
the capture block of the first, packets of the last 24 blocks for a takeover (R389), sequence number. -/
structure Talker where
  idx : Nat
  recd : List Byte
  run : Bool
  opening : Option Ticket
  closing : Option Ticket
  pack : List (List (List Int))
  first : Nat
  backlog : List (Nat × TxFrame)
  seq : Nat
  deriving DecidableEq, Repr

/-- An open listener stream (R302 to R305): record, whether PEER counts as 0xFFFF, whether it runs, its state code of R318,
completions, samples placed by index of its domain (channels in order), sequence numbers received (the last 64, newest
first), index after the last placed packet, CRF offset reported and the offsets of the present second. -/
structure Listener where
  idx : Nat
  recd : List Byte
  noPeer : Bool
  run : Bool
  st : Nat
  opening : Option Ticket
  closing : Option Ticket
  buf : List (Nat × List Int)
  seqs : List Nat
  next : Option Nat
  placed : Nat
  crf : Int
  crfs : List Int
  deriving DecidableEq, Repr

/-- A gPTP domain (R306, R307): validity, the best master's Announce body from grandmasterPriority1 on with its port, whether
this device is grandmaster, grandmaster time minus device time in ns at the last Sync, a two-step Sync that waits for its
Follow_Up (arrival and correction in 2^-16 ns, sequence number), sequence numbers sent. -/
structure Gptp where
  valid : Bool
  best : Option (List Byte × Nat)
  gm : Bool
  ofs : Int
  sync : Option (Int × Int × Nat)
  syncSeq : Nat
  annSeq : Nat
  deriving DecidableEq, Repr

/-- The stream engine (R291 to R319): ports, PRP tables and sequence numbers of the two pairs, streams, domains, peer entries
as the engine last read them (R308), and the PEER_SETs that wait for the boundary with first peer and count. -/
structure Net where
  ports : List Port
  dups : List (List Dup)
  prpSeq : List Nat
  talkers : List Talker
  listeners : List Listener
  doms : List Gptp
  peers : List (Nat × List Byte)
  peerSets : List (Ticket × Nat × List Byte)
  deriving DecidableEq, Repr

/-! ### Twin operation -/

/-- An operation a standby forwarded (R391): FWDID, completion, cookie, operation, the active unit's CSN, completion status. -/
structure Fwd where
  id : Nat
  ticket : Ticket
  op : Op
  csn : Option Nat
  status : Option Nat
  deriving DecidableEq, Repr

/-- Twin state (R376 to R401): state code of R382, whether it drives, a drive change due at a boundary, partner present, agreed
version, ROLEERR, VERFAIL, CFGMM, a give-up trigger that waits for its boundary, latest cause, GUPEND, SYNC, partner's READY,
RSEQ and whether the last RENEW has its counted ACK, the NSC of its sending, end of the lease, drive without a lease until the
first counted ACK, NSC of the standby's latest ACK, repeats of GIVEUP still to send (G, boundary), handover boundary and whether
it is accepted, FSEQ, next JSN to give and journal store, next JSN to apply, records ahead of it and those applied, checkpoint
number and chunks verified, SEAL received, whether one is installed, forwarded operations, next FWDID, highest CSN seen, last CSN of
the contiguous journal with its latch, round-trip times, the Hitch frames that wait in Q1 of each port, and the time in ns from which
each port of the pair may send a CKPT frame (R378). -/
structure Twin where
  st : Nat
  drive : Bool
  driveAt : Option (Nat × Bool)
  paired : Bool
  ver : Nat
  roleErr : Bool
  verFail : Bool
  cfgmm : Bool
  due : Bool
  cause : Nat
  guPend : Bool
  sync : Nat
  pready : Bool
  cready : Bool
  replay : Bool
  rseq : Nat
  acked : Bool
  sentAt : Nat
  lease : Nat
  free : Bool
  ackAt : Option Nat
  guReps : List (Nat × Nat)
  hand : Option (Nat × Bool)
  fseq : Nat
  jsn : Nat
  store : List JRec
  jnext : Nat
  ahead : List JRec
  ckno : Nat
  chunks : List Nat
  sealMsg : Option (Nat × Nat × Nat × Nat)
  sealed : Bool
  jbase : List JRec
  fwds : List Fwd
  fwdNext : Nat
  maxCsn : Nat
  lastCsn : Nat
  lastLatch : Nat
  rtt : Nat
  rttMax : Nat
  q1 : List (Nat × TxFrame)
  ckFree : List Nat
  deriving DecidableEq, Repr

/-! ### The block -/

/-- The whole state of the block. `pending` is the queue of commands that wait, first in first out; `freeCtr`, `sub` (the A-samples
of the block under way known to have passed) and `out` are the model's own fields (notes/assumptions/2.md, 20.md, 3.md). -/
structure State where
  pending : List Instr
  freeCtr : Nat
  sub : Nat
  out : List Out
  regs : Regs
  ctl : Ctl
  mem : MemSt
  pea : Pea
  sec : Sec
  mix : Mix
  tdm : Vector Tdm 16
  dac : Dacs
  byp : Bypass
  tim : Tim
  lanes : Vector Lane 64
  drays : Vector Dray 4
  hosts : Vector HostPort 4
  net : Net
  twin : Twin
  csnLatch : Nat
  deriving DecidableEq, Repr


/-! ### Reset values (notes/assumptions/1.md names the ones the spec does not give) -/

/-- No memory cell listed. -/
abbrev Mem.empty : Mem := ⟨[], none⟩

/-- Register file with every register at its reset value. -/
def Regs.reset : Regs := ⟨[], [], [], [], [], []⟩

/-- Units of one kind, the first n of which carry the n loads (R437). -/
def Units.first (n : Nat) : Units := ⟨0, (List.range n).map some⟩

/-- Units of a new device: strip engines, output engines, matrix columns, lanes of each Dray. -/
def unitsFirst : List Units :=
  [Units.first 16, Units.first 8, Units.first 32, Units.first 16, Units.first 16, Units.first 16, Units.first 16]

/-- Reset and boot state before the supplies are good (R433, step 0). -/
def Ctl.reset : Ctl :=
  { phase := 0, pinLow := false, hot := false, inrst := 0x3FF, auto := 0, stage := 0, pushErr := 0, pushLen := none, scope := 2
    strap := 63, boot := true, home := true, pairsel := true, pcie2 := true, banks33 := 0, units := unitsFirst, pos := 0, test := none
    lastKind := 0, lastPhys := 0, lastPass := false, rounds := 0, faulted := [] }

/-- Matrix state of a Memory-section reset, with its memories. -/
def MemSt.fresh (bulk pool : Mem) (busy begun : List Bool) : MemSt :=
  { bulk := bulk, pool := pool, trained := false, size := 0, ptr := List.replicate 8 0, owner := List.replicate 32 15
    hand := List.replicate 32 [], busy := busy, begun := begun, waits := List.replicate 8 (0, 0)
    heads := List.replicate 8 [], precs := List.replicate 8 [], flight := List.replicate 14 0, prevA := (0, []) }

def MemSt.reset : MemSt := MemSt.fresh Mem.empty Mem.empty [false, false] [false, false]

/-- A Peatstore as delivered: the first spare pools follow each region's sectors (R414). -/
def Pea.reset : Pea :=
  { mem := Mem.empty, map := [], wear := []
    spare := [(256, 32), (4384, 192), (5600, 64), (5728, 32), (5792, 16), (8528, 176)].map fun p => (List.range p.2).map (· + p.1)
    retired := [[], [], [], [], [], []], buf := none, busy := none, scenes := [] }

def Sec.reset : Sec :=
  { keys := [], rb := 0, rbTo := none, rbBy := 4, fw := ⟨3, 0, 0, []⟩, afail := 0, bfail := 0, refused := [], rngOk := true, rngValid := false, scope := 0
    chal := none, fails := 0, perm := false, logSeq := 0, logWait := [] }

def Player.idle : Player := ⟨none, [], 0, false, [], 0, [], 0⟩

def Mix.reset : Mix :=
  { act := false, strip := false, compiled := false, csn := 0, ents := [], xps := [], stale := [], fetching := [], ready := []
    ops := [], batches := [], claims := [], players := List.replicate 80 Player.idle, zones := [], missStrip := 0, missMix := 0
    srcHist := [], dst := [], busAct := [], seed := 0, deferred := [], nEnt := 0, nXp := 0, nZn := 0 }

/-- A port's reset tables: entry i names slot i with EN 0 (R371). -/
def mapFirst : List Byte := (List.range 32).map fun i => BitVec.ofNat 8 i

def Tdm.reset : Tdm :=
  { st := 0, start := 0, rxLive := mapFirst, txLive := mapFirst, rxBlk := mapFirst, fresh := [], swp := false, stopping := false
    glitch := false, winOk := false, ofs := 0, tick := 0, cap := [], rxBuf := [], txBuf := [], lastRx := [], lastTx := []
    swaps := [] }

def Dacs.reset : Dacs := ⟨(List.range 16).map fun k => Config.fusedDac k, List.replicate 8 [], List.replicate 8 0, List.replicate 8 []⟩

def Bypass.reset : Bypass := ⟨false, false, 0, false, [], false, false, none, none, [], [], []⟩

def Tim.reset : Tim :=
  { nsc := 0, frac := 0, lock := false, tst := 0, sel := 15, steer := 0, want := 0, integ := 0, bw := 0, held := false
    bo := 0, bof := 0
    refs := (List.range 9).map fun r => ⟨if r ≤ 1 then 1 else 0, 0, 0, 0, false, false, true, 0⟩
    ran := false, fell := false, jammed := false, jamPend := false, jamNow := false, switching := false, hoValid := false, die := 0, ext := 0
    win := [], since := 0, lrn := (0, 0, 0)
    smS := 0, smT := 0, smAt := 0, bins := [], age := 0, mins := 0, fit := ⟨0, 0, 0, 0, 0⟩ }

def LRegs.reset : LRegs :=
  { d := Vector.replicate 16 0, a := Vector.replicate 8 0, m := Vector.replicate 8 0, lc := Vector.replicate 3 0
    ls := Vector.replicate 3 0, le := Vector.replicate 3 0, sr := 0, lr := 0, ipc := 0, isr := 0, bex := 0, bexNew := 0
    ecause := 0, blkn := 0, acc := Vector.replicate 4 0, fwd := Vector.replicate 4 0, pc := 0, pend := [], br := none }

/-- A lane without an image. -/
def Lane.empty : Lane :=
  { st := .empty, libid := 0, prog := Mem.empty, data := Mem.empty, r := LRegs.reset, ports := none, param := 0, ready := false
    synced := false, late := false, waitIn := false, out := none, exc := none, dmaIrq := false, msgIrq := false, full := false
    dq := [], start := none, stop := none, zones := [], zonesTo := none, load := none, faulted := false, lost := false, restart := false }

def Dray.reset : Dray := ⟨Mem.empty, List.replicate 32 none, none, 0, [], false⟩

abbrev Sq.zero : Sq := ⟨0, 0, none, false⟩
abbrev Cq.zero : Cq := ⟨0, 0, none, 0, false, false⟩

def HostPort.reset : HostPort :=
  { link := false, width := 0, speed := 0, ver := 0, sq := Vector.replicate 8 Sq.zero, cq := Vector.replicate 8 Cq.zero, descs := [], next := 0
    dirty := false, updseq := 0, rxq := [[], [], [], []], subs := List.replicate 8 none, fetchNo := 0, held := [], statPin := []
    msix := Mem.empty, pba := 0, dtr := false, modeTo := none, armed := 0, wbuf := [] }

/-- SerDes words of a port (R466). -/
def serdesReset : Mem := ⟨[(0, 0x10#8), (1, 0x20#8), (4, 0x28#8)], none⟩

def Port.reset : Port :=
  { link := false, speed := 0, anDone := false, txq := [], sc := Mem.empty, serdes := serdesReset, pdSeq := 0, t1 := none
    t24 := none, mld := none, rate := none, pnEnd := [] }

def Gptp.reset : Gptp := ⟨false, none, false, 0, none, 0, 0⟩

def Net.reset : Net :=
  { ports := List.replicate 4 Port.reset, dups := [[], []], prpSeq := [0, 0], talkers := [], listeners := []
    doms := [Gptp.reset, Gptp.reset], peers := [], peerSets := [] }

def Twin.reset : Twin :=
  { st := 0, drive := true, driveAt := none, paired := false, ver := 0, roleErr := false, verFail := false, cfgmm := false
    due := false, cause := 0, guPend := false, sync := 0, pready := false, cready := false, replay := false, rseq := 0, acked := false
    sentAt := 0, lease := 0
    free := false, ackAt := none, guReps := [], hand := none, fseq := 0, jsn := 0, store := [], jnext := 0, ahead := []
    ckno := 0, chunks := [], sealMsg := none, sealed := false, jbase := [], fwds := [], fwdNext := 0, maxCsn := 0
    lastCsn := 0, lastLatch := 0, rtt := 0, rttMax := 0, q1 := [], ckFree := [0, 0] }

/-- The block right after a power-on reset (R426, R446): CTL_RSTCAUSE shows POR. -/
def State.reset : State :=
  { pending := [], freeCtr := 0, sub := 0, out := []
    regs := { Regs.reset with scs := [(4, ⟨0, [(0, 0)]⟩)] }
    ctl := Ctl.reset, mem := MemSt.reset, pea := Pea.reset, sec := Sec.reset, mix := Mix.reset
    tdm := Vector.replicate 16 Tdm.reset, dac := Dacs.reset, byp := Bypass.reset, tim := Tim.reset
    lanes := Vector.replicate 64 Lane.empty, drays := Vector.replicate 4 Dray.reset, hosts := Vector.replicate 4 HostPort.reset
    net := Net.reset, twin := Twin.reset, csnLatch := 0 }

end Sys2Proof.Machine
end

