-- ==== Sys2Proof/Machine/Ops.lean ====
section
/-! DEFINITION. The named operations every family shares: bytes and words, sparse tables, memories, registers and their
event records, outputs, free values. -/

namespace Sys2Proof.Machine

/-! ### Bytes and numbers -/

/-- Little-endian value of bytes (R28). -/
def leNat : List Byte → Nat
  | [] => 0
  | b :: bs => b.toNat + 256 * leNat bs

/-- The n little-endian bytes of a value (R28). -/
def natLe : Nat → Nat → List Byte
  | 0, _ => []
  | n + 1, v => BitVec.ofNat 8 v :: natLe n (v / 256)

/-- Big-endian value of bytes (network fields). -/
def beNat (bs : List Byte) : Nat := leNat bs.reverse

/-- The n big-endian bytes of a value. -/
def natBe (n v : Nat) : List Byte := (natLe n v).reverse

/-- Bits hi down to lo of a number. -/
def bits (v lo n : Nat) : Nat := v / 2 ^ lo % 2 ^ n

/-- Bit i of a number. -/
def bit (v i : Nat) : Bool := v / 2 ^ i % 2 = 1

/-- A number as a two's complement value of n bits. -/
def sgn (n v : Nat) : Int :=
  let w := v % 2 ^ n
  if w < 2 ^ (n - 1) then (w : Int) else (w : Int) - (2 ^ n : Nat)

/-- A two's complement value as its n bits. -/
def unsgn (n : Nat) (v : Int) : Nat := (v % ((2 ^ n : Nat) : Int)).toNat

/-- A Bool as a number. -/
def b2n (b : Bool) : Nat := if b then 1 else 0

/-- Replace the bits of w that a mask names (R65). -/
def maskWord (w mask v : Word) : Word := (w &&& ~~~mask) ||| (v &&& mask)

/-- A word whose bits lo to lo + n - 1 are v. -/
def fld (lo n v : Nat) : Word := BitVec.ofNat 32 (v % 2 ^ n * 2 ^ lo)

/-- Bits lo to lo + n - 1 of a word. -/
def wbits (w : Word) (lo n : Nat) : Nat := bits w.toNat lo n

/-- A word as four bytes. -/
def wordBytes (w : Word) : List Byte := natLe 4 w.toNat

/-- Nearest integer to n / d, the even one of two equally near (R94). -/
def rdiv (n : Int) (d : Nat) : Int :=
  let q := n / (d : Int)
  let r := 2 * (n % (d : Int))
  if r < (d : Int) then q else if (d : Int) < r then q + 1 else if q % 2 = 0 then q else q + 1

/-- The nearer limit for a value outside a signed range of n bits. -/
def satN (n : Nat) (v : Int) : Int :=
  if v < -((2 ^ (n - 1) : Nat) : Int) then -((2 ^ (n - 1) : Nat) : Int)
  else if ((2 ^ (n - 1) : Nat) : Int) ≤ v then ((2 ^ (n - 1) : Nat) : Int) - 1 else v

/-- Whether a value lies outside a signed range of n bits. -/
def outN (n : Nat) (v : Int) : Bool := satN n v ≠ v

/-- Clamp to a range. -/
def clampI (lo hi v : Int) : Int := if v < lo then lo else if hi < v then hi else v

/-- Clamp to a range. -/
def clampN (lo hi v : Nat) : Nat := if v < lo then lo else if hi < v then hi else v

/-- The value congruent to v modulo 2^w nearest to x: x - 2^(w-1) ≤ T < x + 2^(w-1) (R68). -/
def extend (w x v : Nat) : Int :=
  let d := ((v : Int) - (x : Int)) % ((2 ^ w : Nat) : Int)
  if d < ((2 ^ (w - 1) : Nat) : Int) then (x : Int) + d else (x : Int) + d - ((2 ^ w : Nat) : Int)

/-- One bit step of CRC-32 with the reversed IEEE 802.3 polynomial. -/
def crcBit (c : BitVec 32) : BitVec 32 :=
  if c.getLsbD 0 then (c >>> 1) ^^^ 0xEDB88320#32 else c >>> 1

/-- One byte step of CRC-32. -/
def crcByte (c : BitVec 32) (b : Byte) : BitVec 32 :=
  crcBit (crcBit (crcBit (crcBit (crcBit (crcBit (crcBit (crcBit (c ^^^ b.setWidth 32))))))))

/-- CRC-32 of the IEEE 802.3 polynomial (R81, R379). -/
def crc32 (bs : List Byte) : Nat := ((bs.foldl crcByte 0xFFFFFFFF#32) ^^^ 0xFFFFFFFF#32).toNat

/-! ### Sparse tables -/

/-- Value at a key of an association list. -/
def look {α : Type} (k : Nat) : List (Nat × α) → Option α
  | [] => none
  | (a, v) :: r => if a = k then some v else look k r

/-- Association list sorted by strictly rising keys, with a value put at a key. -/
def put {α : Type} (k : Nat) (v : α) : List (Nat × α) → List (Nat × α)
  | [] => [(k, v)]
  | (a, u) :: r => if a < k then (a, u) :: put k v r else if a = k then (k, v) :: r else (k, v) :: (a, u) :: r

/-- Association list without a key. -/
def drop {α : Type} (k : Nat) (l : List (Nat × α)) : List (Nat × α) := l.filter fun p => p.1 ≠ k

/-- Update of the elements that satisfy a test. -/
def updWhere {α : Type} (p : α → Bool) (f : α → α) (l : List α) : List α := l.map fun x => if p x then f x else x

/-- Numbers 0 to n - 1. -/
def upTo (n : Nat) : List Nat := List.range n

/-- A list cut or padded to n elements. -/
def fit {α : Type} (n : Nat) (d : α) (l : List α) : List α := (l ++ List.replicate n d).take n

/-! ### Memories -/

/-- What an unlisted address reads as (notes/assumptions/4.md). -/
def Mem.dflt (m : Mem) (a : Nat) : Byte :=
  match m.fill with
  | none => 0
  | some k => Config.undefByte k a

/-- The memory that reads as zero everywhere. -/
def Mem.zero : Mem := ⟨[], none⟩

/-- Read of one byte. -/
def Mem.get (m : Mem) (a : Nat) : Byte := (look a m.cells).getD (m.dflt a)

/-- Write of one byte, in canonical form. -/
def Mem.set (m : Mem) (a : Nat) (b : Byte) : Mem :=
  { m with cells := if b = m.dflt a then drop a m.cells else put a b m.cells }

/-- Read of n bytes. -/
def Mem.getN (m : Mem) (a : Nat) : Nat → List Byte
  | 0 => []
  | n + 1 => m.get a :: m.getN (a + 1) n

/-- Write of bytes. -/
def Mem.setN (m : Mem) (a : Nat) : List Byte → Mem
  | [] => m
  | b :: bs => (m.set a b).setN (a + 1) bs

/-- Little-endian read of n bytes. -/
def Mem.le (m : Mem) (a n : Nat) : Nat := leNat (m.getN a n)

/-- Signed little-endian read of n bytes. -/
def Mem.sle (m : Mem) (a n : Nat) : Int := sgn (8 * n) (m.le a n)

/-- Little-endian write of n bytes. -/
def Mem.putLe (m : Mem) (a n v : Nat) : Mem := m.setN a (natLe n v)

/-- 32-bit word read. -/
def Mem.word (m : Mem) (a : Nat) : Word := BitVec.ofNat 32 (m.le a 4)

/-- Masked write of one 32-bit word, one read-modify-write (R52, R272). -/
def Mem.maskSet (m : Mem) (a : Nat) (mask v : Word) : Mem :=
  m.setN a (wordBytes (maskWord (m.word a) mask v))

/-- Masked write byte by byte: mask bits choose (R272). -/
def Mem.maskN (m : Mem) (a : Nat) : List Byte → List Byte → Mem
  | d :: ds, k :: ks => (m.set a ((m.get a &&& ~~~k) ||| (d &&& k))).maskN (a + 1) ds ks
  | _, _ => m

/-- The canonical form of a memory: addresses strictly rise and no cell holds what an unlisted address reads as. -/
abbrev Mem.wf (m : Mem) : Prop :=
  m.cells.Pairwise (fun p q => p.1 < q.1) ∧ ∀ p ∈ m.cells, p.2 ≠ m.dflt p.1

/-! ### Outputs and free values -/

/-- Append an output of the command. -/
def State.emit (s : State) (o : Out) : State := { s with out := s.out ++ [o] }

/-- Append outputs of the command. -/
def State.emits (s : State) (os : List Out) : State := { s with out := s.out ++ os }

/-- Every command starts with no output (notes/assumptions/3.md). -/
def State.begin (s : State) : State := { s with out := [] }

/-- A fresh free value and the state that has used it (notes/assumptions/10.md). -/
def State.fresh (s : State) : Nat × State := (Config.free s.freeCtr, { s with freeCtr := s.freeCtr + 1 })

/-- The sample of the block under way (1 to 12) at which a command without a time of its own acts: a free value not before what
has passed (notes/assumptions/20.md). -/
def State.later (s : State) : Nat × State :=
  let lo := min 12 (max 1 s.sub)
  let f := s.fresh
  let p := lo + f.1 % (13 - lo)
  (p, { f.2 with sub := p })

/-- n bytes the spec leaves undefined. -/
def State.freeBytes (s : State) (n : Nat) : List Byte × State :=
  ((upTo n).map fun i => BitVec.ofNat 8 (Config.free (s.freeCtr + i)), { s with freeCtr := s.freeCtr + n })

/-- Pieces of a transfer at multiples of b. -/
def splitAt (b a : Nat) : Nat → Nat → List (Nat × Nat)
  | 0, _ => []
  | fuel + 1, n =>
    if n = 0 then []
    else
      let k := min n (b - a % b)
      (a, k) :: splitAt b (a + k) fuel (n - k)

/-- Some byte of a range is among bad addresses. -/
def badIn (bad : List Nat) (a n : Nat) : Bool := bad.any fun b => decide (a ≤ b ∧ b < a + n)

/-- Bytes read at a: those of a beat (w bytes) with an uncorrectable error are undefined (R260). -/
def State.uncBytes (s : State) (w a : Nat) (bad : List Nat) (bs : List Byte) : List Byte × State :=
  let f := s.freeBytes bs.length
  (bs.zipIdx.map fun p => if badIn bad ((a + p.2) / w * w) w then f.1.getD p.2 0 else p.1, f.2)

/-- The runs of a write's bytes that share a word's state: before the first whole word, the whole words, after the last one, each
with whether it is part of a word only. -/
def wordParts (a n : Nat) : List (Nat × Nat × Bool) :=
  let h := min n ((8 - a % 8) % 8)
  let w := (n - h) / 8 * 8
  [(a, h, true), (a + h, w, false), (a + h + w, n - h - w, true)].filter fun p => p.2.1 ≠ 0

/-- The parts of a write that an uncorrectable error makes fail: those of a partly written word (R260). -/
def lostParts (a n : Nat) (bad : List Nat) : List (Nat × Nat × Bool) :=
  (wordParts a n).filter fun p => p.2.2 && badIn bad (p.1 / 8 * 8) 8

end Sys2Proof.Machine
end

