-- ==== Sys2Proof/Machine/Real.lean ====
section
/-! DEFINITION. The real functions of the engine's formulas (R29, R76, R93, R95, R99, R107, R113, R124, R141) in fixed point
with 96 fractional bits, far below every tolerance and code step of the spec, and what a stated tolerance leaves open
(notes/assumptions/8.md). -/

namespace Sys2Proof.Machine

/-! ### Fixed point with 96 fractional bits -/

/-- 1.0. -/
abbrev q96 : Nat := 79228162514264337593543950336
/-- 2 pi, ln 2 and ln 10. -/
abbrev twoPiQ : Int := 497805226624462170461043889244
abbrev ln2Q : Int := 54916777467707473351141471128
abbrev ln10Q : Int := 182429585950654714090129938606

def mulQ (a b : Int) : Int := a * b / q96
def divQ (a b : Int) : Int := a * q96 / b

/-- 1 + (x / k)(1 + (x / (k + 1))(...)) to n terms: the series of e^x at k = 1. -/
def expSer (x : Int) : (n k : Nat) → Int
  | 0, _ => q96
  | n + 1, k => q96 + x * expSer x n (k + 1) / (q96 * k : Nat)

/-- e^x. -/
def expQ (x : Int) : Int :=
  let n := x / ln2Q
  let r := expSer (x - n * ln2Q) 26 1
  if 0 ≤ n then r * (2 ^ n.toNat : Nat) else r / (2 ^ n.natAbs : Nat)

/-- 1 - (z / (k (k + 1)))(1 - (z / ((k + 2)(k + 3)))(...)) to n terms: cos x at k = 1 and (sin x) / x at k = 2, for z = x^2. -/
def trigSer (z : Int) : (n k : Nat) → Int
  | 0, _ => q96
  | n + 1, k => q96 - z * trigSer z n (k + 2) / (q96 * (k * (k + 1)) : Nat)

/-- cos x and sin x for |x| up to 2 pi. -/
def cosQ (x : Int) : Int := trigSer (mulQ x x) 24 1
def sinQ (x : Int) : Int := mulQ x (trigSer (mulQ x x) 24 2)

/-- n further binary digits of log2 of a mantissa m in [2^96, 2^97), after the digits acc. -/
def log2Dig : (n m acc : Nat) → Nat
  | 0, _, acc => acc
  | n + 1, m, acc =>
    let s := m * m / q96
    if 2 * q96 ≤ s then log2Dig n (s / 2) (2 * acc + 1) else log2Dig n s (2 * acc)

/-- log2 (num / den) with 64 fractional bits, for positive num and den. -/
def log2Q (num den : Nat) : Int :=
  let e : Int := (Nat.log2 num : Int) - Nat.log2 den
  let m := if 0 ≤ e then num * q96 / (den * 2 ^ e.toNat) else num * 2 ^ e.natAbs * q96 / den
  let e' := if m < q96 then e - 1 else e
  let m' := if m < q96 then 2 * m else m
  e' * 18446744073709551616 + log2Dig 64 m' 0

/-- ln (num / den). -/
def lnQ (num den : Nat) : Int := log2Q num den * ln2Q / 18446744073709551616

/-- One bit of an integer square root. -/
def sqrtBit (v : Nat) : (n r : Nat) → Nat
  | 0, r => r
  | n + 1, r => if (r + 2 ^ n) * (r + 2 ^ n) ≤ v then sqrtBit v n (r + 2 ^ n) else sqrtBit v n r

/-- Integer square root of a number below 2^128, rounded down. -/
def isqrt (v : Nat) : Nat := sqrtBit v 64 0

/-! ### Levels and gains in dB

The unit of a level or a gain in dB is 10^-14 dB (R93 asks for 0.001 dB or finer). -/

/-- 0.01 dB, the step of gain and level codes (R29). -/
abbrev cB : Int := 1000000000000

/-- -144 dB, the floor of levels (R95). -/
abbrev dbFloor : Int := -14400000000000000

/-- 20 log10 (num / den). -/
def dbRatio (num den : Nat) : Int := rdiv (log2Q num den * 2585827972983642077204001) 79228162514264337593543950336

/-- 10 log10 (num / den). -/
def dbPower (num den : Nat) : Int := rdiv (dbRatio num den) 2

/-- 10^(g / 20) with 96 fractional bits, for a gain in dB. -/
def powQ (g : Int) : Int := expQ (g * ln10Q / 2000000000000000)

/-! ### Values with a tolerance -/

/-- An exact value off by a free deviation of at most tol. -/
def near (x : Int) (tol : Nat) (dev : Int) : Int := x + clampI (-(tol : Int)) tol dev

/-- Largest deviation of a Q5.27 multiplier that keeps its relative error, the rounding to Q5.27 included, below 0.001 dB
(R29, R93); 0 where the format itself is coarser. -/
def multTol (m : Nat) : Nat := (228 * m - 1000000) / 2000000

/-- Q5.27 multiplier of a gain in dB: 10^(g / 20), rounded by R94, to the accuracy of R29 and R93. -/
def dbM (g : Int) : Int :=
  if g = 0 then 134217728
  else
    let m := rdiv (powQ g) 590295810358705651712
    near m (multTol m.toNat) (Config.multDev g)

/-- Multiplier of a gain code; off is 0 (R29, R93). -/
def gainM (g : Int) : Int := if g = -32768 then 0 else dbM (g * cB)

/-- Gain in dB of a Q5.27 multiplier; off counts as -144 dB (R76). -/
def multDb (m : Nat) : Int := if m = 0 then dbFloor else max dbFloor (dbRatio m 134217728)

/-- exp(-1 / (tau fs)) for a time in us at a rate (R95); 0 for a time of 0. -/
def poleQ (tau fs : Nat) : Int := if tau = 0 then 0 else expQ (-((1000000 * q96 / (tau * fs) : Nat) : Int))

/-- y + (1 - a)(target - y) (R95). -/
def onePole (a y target : Int) : Int := y + rdiv ((q96 - a) * (target - y)) q96

/-- One step of the smoother with time constant tau us at the rate fs (R95). -/
def smooth (tau fs : Nat) (y target : Int) : Int := onePole (poleQ tau fs) y target

/-! ### Filter designs (R99, R100) -/

/-- Coefficients of R99 before normalisation, with 96 fractional bits. -/
structure Proto where
  b0 : Int
  b1 : Int
  b2 : Int
  a0 : Int
  a1 : Int
  a2 : Int
  deriving DecidableEq, Repr

/-- The table of R99: type, cos w0, alpha, A and 2 sqrt(A) alpha. -/
def protoOf (ty : Nat) (c al a r : Int) : Proto :=
  let one : Int := q96
  let m := mulQ
  match ty with
  | 0 => ⟨one + m al a, -2 * c, one - m al a, one + divQ al a, -2 * c, one - divQ al a⟩
  | 1 => ⟨m a (a + one - m (a - one) c + r), 2 * m a (a - one - m (a + one) c), m a (a + one - m (a - one) c - r),
          a + one + m (a - one) c + r, -2 * (a - one + m (a + one) c), a + one + m (a - one) c - r⟩
  | 2 => ⟨m a (a + one + m (a - one) c + r), -2 * m a (a - one + m (a + one) c), m a (a + one + m (a - one) c - r),
          a + one - m (a - one) c + r, 2 * (a - one - m (a + one) c), a + one - m (a - one) c - r⟩
  | 3 => ⟨(one - c) / 2, one - c, (one - c) / 2, one + al, -2 * c, one - al⟩
  | 4 => ⟨(one + c) / 2, -(one + c), (one + c) / 2, one + al, -2 * c, one - al⟩
  | 5 => ⟨al, 0, -al, one + al, -2 * c, one - al⟩
  | 6 => ⟨one, -2 * c, one, one + al, -2 * c, one - al⟩
  | _ => ⟨one - al, -2 * c, one + al, one + al, -2 * c, one - al⟩

/-- The design of R99 from type, rate, gain code, frequency code and Q code. -/
def protoFor (ty fs : Nat) (g : Int) (f q : Nat) : Proto :=
  let w := twoPiQ * f / (100 * fs : Nat)
  let al := sinQ w * 500 / q
  let a := powQ (g * cB / 2)
  protoOf ty (cosQ w) al a (2 * mulQ (powQ (g * cB / 4)) al)

/-- A normalised coefficient over 2^s, to a relative error below 2^-30, rounded to Q3.29 by R94 (R100). -/
def coefOf (x a0 : Int) (s : Nat) (dev : Int) : Int :=
  let v := divQ x a0
  rdiv (near v ((v.natAbs - 1) / 1073741824) dev) (147573952589676412928 * 2 ^ s)

/-- Coefficients of a PARAM section in Q3.29: b0, b1, b2 over 2^s, a1, a2. Types 3 to 7 ignore GAIN (R99). -/
def design (ty fs : Nat) (g : Int) (f q s : Nat) : List Int :=
  let g := if ty ≤ 2 then g else 0
  let p := protoFor ty fs g f q
  let dev (k : Nat) := Config.designDev ty fs g f q k
  [coefOf p.b0 p.a0 s (dev 0), coefOf p.b1 p.a0 s (dev 1), coefOf p.b2 p.a0 s (dev 2), coefOf p.a1 p.a0 0 (dev 3),
   coefOf p.a2 p.a0 0 (dev 4)]

/-! ### Rational curves of the dynamics (R103, R108) -/

/-- (1/R - 1) times an excess; 0xFFFF is an infinite ratio. -/
def slope (ratio : Nat) (e : Int) : Int := if ratio = 0xFFFF then -e else rdiv ((100 - (ratio : Int)) * e) ratio

/-- The knee row (1/R - 1)(x + W/2)^2 / (2W) (R108). -/
def kneeCurve (ratio : Nat) (w : Nat) (x : Int) : Int :=
  let n := (2 * x + w) * (2 * x + w)
  if ratio = 0xFFFF then rdiv (-n) (8 * w) else rdiv ((100 - (ratio : Int)) * n) (ratio * (8 * w))

/-! ### Raised cosine (R76) -/

/-- (1 - cos(pi (k + 1) / n)) / 2 with 96 fractional bits. -/
def cosWeight (k n : Nat) : Nat := ((q96 - cosQ (twoPiQ * (k + 1 : Nat) / (2 * n : Nat))) / 2).toNat

/-! ### Scaling of buses (R124) -/

/-- One block of the contributor count's smoothing, ns in units of 2^-32: a = exp(-1/80). -/
def nsSmooth (ns nr : Nat) : Nat := (onePole (expQ (-((q96 / 80 : Nat) : Int))) ns (nr * 4294967296 : Nat)).toNat

/-- 1/n or 1/sqrt(n) of a smoothed count of at least 1, as a Q5.27 multiplier rounded by R94. -/
def scaleFactor (scale ns : Nat) : Nat :=
  if scale = 1 then (rdiv (576460752303423488 : Nat) ns).toNat else (isqrt (4 * 77371252455336267181195264 / ns) + 1) / 2

end Sys2Proof.Machine
end

