-- ==== Sys2Proof/Machine/RegMap.lean ====
section
/-! DEFINITION. The register map (R468) with the RW bits and reset values of each register's own table, the stored part of
the register file, event counters and status registers (R457, R458, R61), rejected writes (R460). -/

namespace Sys2Proof.Machine

/-- How a register is kept: not in the map; RW bits with their reset value; a counter of R61; a status register with SC bits;
read only or write only, computed or acting. -/
inductive RKind where
  | none
  | rw (mask reset : Word)
  | ctr
  | sc
  | ro
  deriving DecidableEq, Repr

/-- Window bases as offsets from 0x01_1000_0000 (R23). -/
abbrev wCtl : Nat := 0x0_0000
abbrev wMem : Nat := 0x1_0000
abbrev wTime : Nat := 0x2_0000
abbrev wHost : Nat := 0x3_0000
abbrev wStr : Nat := 0x4_0000
abbrev wMix : Nat := 0x5_0000
abbrev wStp : Nat := 0x6_0000
abbrev wDry : Nat := 0x7_0000

/-- Device address of register space (R23). -/
abbrev regBase : Nat := 0x01_1000_0000

/-- Whether o lies in an array of c words from b with stride 4. -/
def inArr (o b c : Nat) : Bool := b ≤ o && o < b + 4 * c && o % 4 = 0

/-- Control window (R445 to R454, R461, R463, R167 to R169, R419 to R425). -/
def kindCtl (o : Nat) : RKind :=
  match o with
  | 0x0000 => .ro
  | 0x0004 => .sc
  | 0x0008 => .sc
  | 0x000C => .ro
  | 0x0010 => .ro
  | 0x0014 => .ro
  | 0x0018 => .ro
  | 0x0020 => .rw 0x3FF#32 0x3FF#32
  | 0x0024 => .sc
  | 0x0028 => .rw 0xF0000000#32 0#32
  | 0x002C => .rw 0x8F000FFF#32 0x80000258#32
  | 0x0040 => .ro
  | 0x0050 => .sc
  | 0x0054 => .ro
  | 0x0058 => .ro
  | 0x0060 => .ctr
  | 0x0064 => .ctr
  | 0x0068 => .ro
  | 0x0400 => .rw 0xFFFFFF0F#32 0x0000FF0D#32
  | 0x0404 => .ro
  | 0x0408 => .sc
  | 0x0600 => .rw 0xC0000000#32 0x40000000#32
  | 0x0604 => .ro
  | 0x0608 => .sc
  | 0x060C => .ro
  | 0x0610 => .ro
  | 0x0614 => .ro
  | 0x0618 => .ro
  | 0x0640 => .ro
  | 0x0700 => .rw 0x01FFFFFC#32 0#32
  | 0x0704 => .ro
  | 0x0708 => .ro
  | 0x070C => .sc
  | 0x0710 => .rw 0x1F#32 8#32
  | 0x0740 => .ctr
  | 0x0744 => .ctr
  | 0x0748 => .ctr
  | _ => if inArr o 0x0030 4 || inArr o 0x0620 8 || inArr o 0x0720 6 then .ro else .none

/-- Memory window (R281 to R290). -/
def kindMem (o : Nat) : RKind :=
  match o with
  | 0x0140 => .sc
  | 0x0144 => .ro
  | 0x0148 => .ro
  | 0x014C => .ctr
  | 0x0480 => .ro
  | 0x0484 => .ctr
  | 0x0488 => .ctr
  | 0x048C => .ro
  | 0x0490 => .ro
  | 0x0800 => .rw 0x00FF0100#32 0x00180100#32
  | 0x0804 => .ro
  | 0x0808 => .ro
  | 0x080C => .ctr
  | 0x0810 => .ctr
  | _ => if inArr o 0x0100 4 then .rw 0x007F3FFF#32 0x00100200#32 else if inArr o 0x0110 4 then .rw 0x3FFF#32 0x200#32
    else if inArr o 0x0120 8 then .sc
    else if inArr o 0x0400 32 then .rw 0xF#32 0xF#32 else .none

/-- Reset word of CLK_REFCFGn (R341). -/
def refCfgReset (n : Nat) : Word :=
  (if n = 0 ∨ n = 1 ∨ n = 8 then 0x80000000#32 else 0#32) ||| fld 24 4 (if n = 8 then 15 else n)
    ||| fld 16 8 (if n = 8 then 0x20 else 0x80) ||| fld 4 12 100

/-- Reset value of CLK_BWk in mHz (R342). -/
def bwReset (k : Nat) : Nat :=
  match k with
  | 0 => 50
  | 1 => 10
  | 2 => 20000
  | _ => 100000

/-- Time window (R340 to R347). -/
def kindTime (o : Nat) : RKind :=
  match o with
  | 0x0100 => .rw 0x8FD00000#32 0x00500000#32
  | 0x0180 => .rw 0xFFF0FFFF#32 0x00A00064#32
  | 0x0184 => .rw 0x00FFFFFF#32 0x006403E8#32
  | 0x0190 => .sc
  | 0x0200 => .ro
  | 0x0204 => .ro
  | 0x0208 => .ro
  | 0x020C => .rw 0x87FF00FF#32 0x64#32
  | 0x0210 => .ro
  | 0x0300 => .rw 0xFFFF#32 0#32
  | 0x0304 => .ro
  | _ => if inArr o 0x0110 9 then .rw 0x8FFFFFFF#32 (refCfgReset ((o - 0x0110) / 4))
    else if inArr o 0x0140 9 then .rw 0xFFFFFFFF#32 0#32
    else if inArr o 0x0170 4 then .rw 0xFFFFF#32 (BitVec.ofNat 32 (bwReset ((o - 0x0170) / 4)))
    else if inArr o 0x01A0 9 then .ro else .none

/-- Host block (R251 to R257), offset within the block. -/
def kindHostBlk (o : Nat) : RKind :=
  match o with
  | 0x000 => .rw 0x83FF7F00#32 0x00000300#32
  | 0x004 => .sc
  | 0x008 => .rw 0xFFFFFFC0#32 0#32
  | 0x00C => .rw 0xFF#32 0#32
  | 0x010 => .rw 0xFFFFFFC0#32 0#32
  | 0x014 => .rw 0xFF#32 0#32
  | 0x018 => .rw 0xFFFFF000#32 0#32
  | 0x01C => .rw 0xFFFFFFFF#32 0#32
  | _ =>
    if inArr o 0x020 5 then .ctr
    else if 0x100 ≤ o ∧ o < 0x180 then
      (match o % 16 with
       | 0 => .rw 0xFFFFFFC0#32 0#32
       | 4 => .rw 0xFF#32 0#32
       | 8 => .rw 0x8FFFF007#32 0x00004000#32
       | _ => .none)
    else if 0x200 ≤ o ∧ o < 0x280 then
      (match o % 16 with
       | 0 => .rw 0xFFFFFFC0#32 0#32
       | 4 => .rw 0xFF#32 0#32
       | 8 => .rw 0xEFFFF3FF#32 0x00014000#32
       | _ => .none)
    else .none

/-- Ethernet port block (R311 to R314, R319). -/
def kindPortBlk (p o : Nat) : RKind :=
  match o with
  | 0x000 => .rw 0xFF003FFF#32 0x16000000#32
  | 0x004 => .sc
  | 0x008 => .rw 0xFFFFFFFF#32 (Config.fusedLat p 0)
  | 0x00C => .rw 0xFFFFFFFF#32 (Config.fusedLat p 1)
  | 0x010 => .rw 0xFFFFFFFF#32 (Config.fusedLat p 2)
  | 0x014 => .rw 0xFFFFFFFF#32 0#32
  | 0x018 => .rw 0x007F0077#32 0x004B0023#32
  | 0x020 => .ctr
  | 0x024 => .ctr
  | 0x028 => .ctr
  | _ => .none

/-- Reset word of a slot-map register: byte j names slot 4k + j with EN 0 (R371). -/
def mapReset (k : Nat) : Word := fld 0 5 (4 * k) ||| fld 8 5 (4 * k + 1) ||| fld 16 5 (4 * k + 2) ||| fld 24 5 (4 * k + 3)

/-- TDM port block (R366 to R372). -/
def kindTdmBlk (o : Nat) : RKind :=
  match o with
  | 0x000 => .rw 0xFFFC003F#32 0x05080008#32
  | 0x004 => .rw 0x1FFF#32 0#32
  | 0x008 => .ro
  | 0x00C => .sc
  | 0x010 => .ro
  | 0x014 => .ctr
  | 0x018 => .ctr
  | 0x01C => .ctr
  | _ => if inArr o 0x040 8 then .rw 0x9F9F9F9F#32 (mapReset ((o - 0x040) / 4))
    else if inArr o 0x060 8 then .rw 0x9F9F9F9F#32 (mapReset ((o - 0x060) / 4)) else .none

/-- Stream window (R311 to R319, R366 to R375, R396 to R401). -/
def kindStr (o : Nat) : RKind :=
  match o with
  | 0x0108 => .rw 0x4FFFFFFF#32 0#32
  | 0x010C => .rw 0x0001FFFF#32 0x00000100#32
  | 0x0180 => .rw 0x0003FFFC#32 0#32
  | 0x0184 => .ro
  | 0x3000 => .rw 0xFFFF#32 0#32
  | 0x3004 => .rw 0xFFFFFFFF#32 0#32
  | 0x3008 => .rw 0xFFFFFFFF#32 0#32
  | 0x300C => .rw 0x6#32 0#32
  | 0x3440 => .sc
  | 0x3450 => .rw 0xF#32 0#32
  | 0x3454 => .ro
  | 0x4000 => .rw 0xF800FFFF#32 0x300088B5#32
  | 0x4004 => .rw 0xFFF0FFFF#32 0x03C0140A#32
  | 0x4008 => .rw 0x3FFF#32 0#32
  | 0x400C => .ro
  | 0x4010 => .sc
  | 0x4014 => .rw 0x00FFFFFF#32 0#32
  | 0x4040 => .ro
  | 0x4044 => .ro
  | 0x4048 => .ro
  | 0x404C => .rw 0x0FFFFFFF#32 0#32
  | 0x4050 => .ro
  | _ =>
    if inArr o 0x0100 2 then .rw 0x800000FF#32 20#32
    else if inArr o 0x0110 2 || inArr o 0x0118 6 then .ctr
    else if inArr o 0x0140 16 then .rw 0xFFFFFFFF#32 0#32
    else if inArr o 0x0800 256 then .ro
    else if 0x1000 ≤ o ∧ o < 0x1400 then kindPortBlk ((o - 0x1000) / 0x100) (o % 0x100)
    else if 0x2000 ≤ o ∧ o < 0x3000 then kindTdmBlk (o % 0x100)
    else if inArr o 0x3400 8 then .rw 0xE0000000#32 0#32
    else if inArr o 0x3420 8 then .rw 0x00FFFFFF#32 0#32
    else if inArr o 0x4020 8 then .rw 0xFFFFFFFF#32 0xFFFFFFFF#32
    else if inArr o 0x4060 6 then .ctr
    else .none

/-- Mix window (R58 to R61, R88 to R91, R118, R119, R143 to R146, R164 to R166, R467). -/
def kindMix (o : Nat) : RKind :=
  match o with
  | 0x0000 => .rw 0x80000000#32 0#32
  | 0x0100 => .rw 0x0FFFFFFF#32 0#32
  | 0x0104 => .rw 0x0FFFFFFF#32 0#32
  | 0x0108 => .ro
  | 0x010C => .ro
  | 0x0140 => .ro
  | 0x0144 => .ro
  | 0x0148 => .ro
  | 0x014C => .ro
  | 0x0170 => .rw 0x4FFFFFFF#32 0#32
  | 0x0188 => .sc
  | 0x018C => .rw 0x4FFFFFFF#32 0#32
  | 0x0190 => .rw 0x1FFFF#32 0#32
  | _ =>
    if inArr o 0x0110 10 || inArr o 0x0150 8 || inArr o 0x0174 5 || inArr o 0x0194 3 then .ctr
    else if inArr o 0x0200 64 || inArr o 0x0300 64 || inArr o 0x0400 16 then .ro else .none

/-- Strip window (R118, R467). -/
def kindStp (o : Nat) : RKind :=
  match o with
  | 0x0000 => .rw 0x80000000#32 0#32
  | _ => if inArr o 0x0100 3 then .ctr else .none

/-- Dray window (R204 to R209). -/
def kindDry (o : Nat) : RKind :=
  match o with
  | 0x0100 => .rw 0x3#32 0#32
  | 0x0150 => .ro
  | 0x0154 => .sc
  | _ => if inArr o 0x0110 16 then .ro else if inArr o 0x0160 6 then .ctr else if inArr o 0x0180 32 then .ro else .none

/-- How the register at an offset from 0x01_1000_0000 is kept. -/
def regKind (off : Nat) : RKind :=
  let o := off % 0x10000
  if off % 4 ≠ 0 then .none else
  match off / 0x10000 with
  | 0 => kindCtl o
  | 1 => kindMem o
  | 2 => kindTime o
  | 3 => if 0x1000 ≤ o ∧ o < 0x2000 then kindHostBlk (o % 0x400) else .none
  | 4 => kindStr o
  | 5 => kindMix o
  | 6 => kindStp o
  | 7 => kindDry o
  | 8 => kindDry o
  | 9 => kindDry o
  | 10 => kindDry o
  | _ => .none

/-- Reset word of the RW bits at an offset. -/
def resetWord (off : Nat) : Word :=
  match regKind off with
  | .rw _ r => r
  | _ => 0

/-- Bits held in three copies (R462). -/
def votedMask (off : Nat) : Word :=
  if off = wCtl + 0x0020 then 0x3FF#32
  else if off = wCtl + 0x0028 then 0xF0000000#32
  else if off = wCtl + 0x0600 then 0xC0000000#32
  else if off = wTime + 0x0100 then 0x8FC00000#32
  else if inArr off (wTime + 0x0110) 9 then 0x8F000000#32
  else if off = wStr + 0x4000 then 0xF8000000#32
  else if off / 0x10000 = 3 ∧ 0x1000 ≤ off % 0x10000 ∧ off % 0x10000 < 0x2000 ∧ off % 0x400 = 0 then 0x80000000#32
  else 0

/-- One copy of the RW word at an offset. -/
def copyAt (l : List (Nat × Word)) (off : Nat) : Word := (look off l).getD (resetWord off)

/-- A copy with a word stored, in canonical form: a word at its reset value is not listed. -/
def copySet (l : List (Nat × Word)) (off : Nat) (w : Word) : List (Nat × Word) :=
  if w = resetWord off then drop off l else put off w l

/-- Bitwise majority of three words (R462). -/
def major (a b c : Word) : Word := (a &&& b) ||| (a &&& c) ||| (b &&& c)

/-- RW bits of a register as read: voted bits by majority, the others from the one copy. -/
def State.rw (s : State) (off : Nat) : Word :=
  let a := copyAt s.regs.rw off
  let m := votedMask off
  (a &&& ~~~m) ||| (major a (copyAt s.regs.voteB off) (copyAt s.regs.voteC off) &&& m)

/-- Write of RW bits to all copies. -/
def State.rwSet (s : State) (off : Nat) (w : Word) : State :=
  { s with regs := { s.regs with
      rw := copySet s.regs.rw off w
      voteB := if votedMask off = 0 then s.regs.voteB else copySet s.regs.voteB off w
      voteC := if votedMask off = 0 then s.regs.voteC else copySet s.regs.voteC off w } }

/-- Bits lo to lo + n - 1 of a register's RW word. -/
def State.rwBits (s : State) (off lo n : Nat) : Nat := wbits (s.rw off) lo n

/-- One bit of a register's RW word. -/
def State.rwBit (s : State) (off i : Nat) : Bool := (s.rw off).getLsbD i

/-- A register with one bit of its RW word changed by the hardware. -/
def State.rwPutBit (s : State) (off i : Nat) (v : Bool) : State :=
  let w := s.rw off
  s.rwSet off (if v then w ||| fld i 1 1 else w &&& ~~~(fld i 1 1))

/-- Counter at an offset. -/
def State.ctr (s : State) (off : Nat) : Ctr := (look off s.regs.ctrs).getD ⟨0, 0⟩

/-- Counter at an offset, replaced. -/
def State.ctrSet (s : State) (off : Nat) (c : Ctr) : State :=
  { s with regs := { s.regs with
      ctrs := if c = ⟨0, 0⟩ then drop off s.regs.ctrs else put off c s.regs.ctrs } }

/-- One event of a counter: SEQ advances, COUNT saturates at 0xFF_FFFF (R61, R458). -/
def Ctr.inc (c : Ctr) : Ctr := ⟨c.seq + 1, min (c.count + 1) 0xFFFFFF⟩

/-- One event counted at an offset. -/
def State.count (s : State) (off : Nat) : State := s.ctrSet off (s.ctr off).inc

/-- n events counted at an offset. -/
def State.countN (s : State) (off : Nat) : Nat → State
  | 0 => s
  | n + 1 => (s.count off).countN off n

/-- Events since q (R458). -/
def since (seq q : BitVec 8) : Nat := (seq - q).toNat

/-- Clearing write of a counter (R458). -/
def Ctr.clear (c : Ctr) (q : BitVec 8) : Ctr := ⟨c.seq, min c.count (since c.seq q)⟩

/-- Status register at an offset. -/
def State.sc (s : State) (off : Nat) : Sc := (look off s.regs.scs).getD ⟨0, []⟩

/-- Status register at an offset, replaced. -/
def State.scPut (s : State) (off : Nat) (c : Sc) : State :=
  { s with regs := { s.regs with scs := if c = ⟨0, []⟩ then drop off s.regs.scs else put off c s.regs.scs } }

/-- One setting of an SC bit: SEQ advances, the bit records its sequence (R458). -/
def Sc.event (c : Sc) (b : Nat) : Sc := ⟨c.seq + 1, put b (c.seq + 1) c.bits⟩

/-- One setting of an SC bit of the register at an offset. -/
def State.scSet (s : State) (off b : Nat) : State := s.scPut off ((s.sc off).event b)

/-- Whether an SC bit is set. -/
def State.scBit (s : State) (off b : Nat) : Bool := (look b (s.sc off).bits).isSome

/-- Clearing write of a status register: a bit set within the last d events stays (R458). -/
def Sc.clear (c : Sc) (q : BitVec 8) : Sc :=
  ⟨c.seq, c.bits.filter fun p => decide (since c.seq p.2 < since c.seq q)⟩

/-- The set SC bits and SEQ as a word. -/
def Sc.word (c : Sc) : Word := c.bits.foldl (fun w p => w ||| fld p.1 1 1) (fld 24 8 c.seq.toNat)

/-- A counter as a word (R61). -/
def Ctr.word (c : Ctr) : Word := fld 24 8 c.seq.toNat ||| fld 0 24 c.count

/-- Captured word at an offset. -/
def State.cap (s : State) (off : Nat) : Word := (look off s.regs.caps).getD 0

/-- Capture of a word at an offset. -/
def State.capSet (s : State) (off : Nat) (w : Word) : State :=
  { s with regs := { s.regs with caps := if w = 0 then drop off s.regs.caps else put off w s.regs.caps } }

/-- Master number of CTL_CFGREJ for a write source: 15 for a recovery window (R461). -/
def srcNum : WrSrc → Nat
  | .matrix m => m.val
  | .recovery _ => 15

/-- CTL_CFGREJ, CTL_CFGADDR and CTL_CFGDATA record an ignored write (R460, R461). -/
def State.reject (s : State) (src : WrSrc) (off : Nat) (w : Word) (reason : Nat) : State :=
  let s := s.scSet (wCtl + 0x0050) 23
  let s := s.capSet (wCtl + 0x0050) (fld 22 1 reason ||| fld 14 4 (srcNum src))
  let s := s.capSet (wCtl + 0x0054) (fld 0 20 off)
  s.capSet (wCtl + 0x0058) w

/-! ### Counters by name -/

abbrev cDW (n : Nat) : Nat := wMix + 0x0110 + 4 * n
abbrev cDWClaim : Nat := wMix + 0x0124
abbrev cBadField : Nat := wMix + 0x0128
abbrev cBadCode : Nat := wMix + 0x012C
abbrev cXpList : Nat := wMix + 0x0130
abbrev cWsErr : Nat := wMix + 0x0134
abbrev cLate : Nat := wMix + 0x0150
abbrev cSupersede : Nat := wMix + 0x0154
abbrev cClaimRej : Nat := wMix + 0x0158
abbrev cLeaseExp : Nat := wMix + 0x015C
abbrev cDpDelay : Nat := wMix + 0x0160
abbrev cMixOverrun : Nat := wMix + 0x0164
abbrev cMixSat : Nat := wMix + 0x0168
abbrev cMixDlyErr : Nat := wMix + 0x016C
abbrev cXtDelay : Nat := wMix + 0x0174
abbrev cDstClip : Nat := wMix + 0x0178
abbrev cClipUr : Nat := wMix + 0x017C
abbrev cClipErr : Nat := wMix + 0x0180
abbrev cSlAct : Nat := wMix + 0x0184
abbrev cZnBad : Nat := wMix + 0x0194
abbrev cZnConfl : Nat := wMix + 0x0198
abbrev cZnFreeze : Nat := wMix + 0x019C
abbrev cStpOverrun : Nat := wStp + 0x0100
abbrev cStpSat : Nat := wStp + 0x0104
abbrev cStpDlyErr : Nat := wStp + 0x0108

/-! ### Status registers by name -/

abbrev rRstCause : Nat := wCtl + 0x0004
abbrev rHealth : Nat := wCtl + 0x0008
abbrev rSecRst : Nat := wCtl + 0x0020
abbrev rSecStat : Nat := wCtl + 0x0024
abbrev rAcCfg : Nat := wCtl + 0x0400
abbrev rAcStat : Nat := wCtl + 0x0408
abbrev rSecCfg : Nat := wCtl + 0x0600
abbrev rSecurity : Nat := wCtl + 0x0608
abbrev rPeaStat : Nat := wCtl + 0x070C
abbrev rMtxStat : Nat := wMem + 0x0140
abbrev rClkCtl : Nat := wTime + 0x0100
abbrev rClkStat : Nat := wTime + 0x0190
abbrev rHst (h : Nat) : Nat := wHost + 0x1000 + 0x400 * h
abbrev rHstStat (h : Nat) : Nat := rHst h + 4
abbrev rPort (p : Nat) : Nat := wStr + 0x1000 + 0x100 * p
abbrev rTdm (n : Nat) : Nat := wStr + 0x2000 + 0x100 * n
abbrev rTdmStat (n : Nat) : Nat := rTdm n + 0x00C
abbrev rDacStat : Nat := wStr + 0x3440
abbrev rHitCfg : Nat := wStr + 0x4000
abbrev rHitStat : Nat := wStr + 0x4010
abbrev rEmerg : Nat := wMix + 0x0188
abbrev rMixCtl : Nat := wMix
abbrev rStpCtl : Nat := wStp
abbrev rDry (d : Nat) : Nat := wDry + 0x10000 * d

/-- A give-up cause is recorded (R387) in a unit with twin operation enabled: an active unit whose partner's last counted ACK
carried READY 1 gives up at the next boundary, one that may not yet give up has GUPEND (R388). -/
def State.giveCause (s : State) (c : Nat) : State :=
  if s.rwBit rHitCfg 31 then
    let t := s.twin
    let s := s.scSet rHitStat 22
    { s with twin := { t with
      cause := c, due := t.due || (t.st = 3 && t.cready), guPend := t.guPend || t.st = 2 || (t.st = 3 && !t.cready) } }
  else s

/-- A health fault of CTL_HEALTH (R447). An uncorrectable memory error and FREERUN are give-up causes in a twin unit (R279,
R331). -/
def State.health (s : State) (b : Nat) : State :=
  let s := s.scSet rHealth b
  if b = 22 then s.giveCause 3 else if b = 18 then s.giveCause 5 else s

/-! ### Sections (R26, R433) -/

/-- Section numbers of CTL_HOSTRST.SECT (R450). -/
abbrev secMem : Nat := 0
abbrev secTime : Nat := 1
abbrev secHost : Nat := 2
abbrev secStr : Nat := 3
abbrev secStp : Nat := 4
abbrev secMix : Nat := 5

/-- The Control section is out of reset. -/
def State.awake (s : State) : Bool := s.ctl.phase = 3

/-- A section is out of reset. -/
def State.up (s : State) (n : Nat) : Bool := s.awake && !bit s.ctl.inrst n

end Sys2Proof.Machine
end

