-- ==== Sys2Proof/Machine/Operands.lean ====
section
/-! DEFINITION. The operand forms of the tables: source and destination codes (R18), entry images (R29 to R41), crosspoint
records (R46), their ranges, reserved bits and clamping (R28, R30, R484), and placement in bulk memory (R27, R37). -/

namespace Sys2Proof.Machine

/-! ### Rate domains (R4) -/

/-- Sample rate of a domain: 0 A, 1 V, 2 N. -/
def domFs (d : Nat) : Nat := if d = 0 then 48000 else if d = 1 then 16000 else 8000

/-- A-samples per sample of a domain. -/
def domDiv (d : Nat) : Nat := if d = 0 then 1 else if d = 1 then 3 else 6

/-- Samples of a domain in a block. -/
def domSpb (d : Nat) : Nat := 12 / domDiv d

/-- First index of a domain at or after A-sample index t (R21). -/
def domCeil (d t : Nat) : Nat := cdiv t (domDiv d)

/-! ### Codes (R18) -/

def codeClass (c : Nat) : Nat := c / 4096 % 16
def codeIdx (c : Nat) : Nat := c % 4096

/-- Whether a source code is in the table of R18. -/
def srcOk (c : Nat) : Bool :=
  match codeClass c with
  | 0 => true
  | 1 => codeIdx c < 512
  | 2 => codeIdx c < 1024
  | 3 => codeIdx c < 1024
  | 4 => codeIdx c < 64
  | 5 => codeIdx c < 16
  | 6 => codeIdx c < 512
  | 7 => codeIdx c < 1024
  | _ => false

/-- Whether a destination code is in the table of R18. -/
def dstOk (c : Nat) : Bool :=
  match codeClass c with
  | 0 => true
  | 1 => codeIdx c < 512
  | 2 => codeIdx c < 1024
  | 3 => codeIdx c < 1024
  | 8 => codeIdx c < 8
  | _ => false

/-! ### Placement -/

/-- Usable bulk memory in bytes (R23, R288): SIZE 1 is 2 GiB fitted, 2 is 4 GiB fitted, 0 none. -/
def State.usable (s : State) : Nat :=
  if s.mem.size = 1 then 0x7000_0000 else if s.mem.size = 2 then 0xE000_0000 else 0

/-- Whether a range lies wholly in usable bulk memory. -/
def State.inBulk (s : State) (a n : Nat) : Bool := a + n ≤ s.usable

/-- Whether two ranges share a byte. -/
def overlap (a n b m : Nat) : Bool := a < b + m && b < a + n

/-- Base address of a base register (R58, R119). -/
def State.base (s : State) (off : Nat) : Nat := s.rwBits off 0 28 * 4096

def State.ctBase (s : State) : Nat := s.base (wMix + 0x0100)
def State.xpBase (s : State) : Nat := s.base (wMix + 0x0104)
def State.mtrBase (s : State) : Nat := s.base (wMix + 0x0170)
def State.znBase (s : State) : Nat := s.base (wMix + 0x018C)

/-- Bytes of the channel table and of the crosspoint table (R27). -/
abbrev ctSize : Nat := 0x200000
abbrev xpSize : Nat := 0x180000

/-- MIX_CTBASE.RANGEERR (R27, R58). -/
def State.ctErr (s : State) : Bool := !s.inBulk s.ctBase ctSize || overlap s.ctBase ctSize s.xpBase xpSize

/-- MIX_XPBASE.RANGEERR (R27, R58). -/
def State.xpErr (s : State) : Bool := !s.inBulk s.xpBase xpSize || overlap s.ctBase ctSize s.xpBase xpSize

/-- Whether a range overlaps the channel table or the crosspoint table. -/
def State.hitsTables (s : State) (a n : Nat) : Bool := overlap a n s.ctBase ctSize || overlap a n s.xpBase xpSize

/-- MIX_MTRBASE.RANGEERR (R116, R119). -/
def State.mtrErr (s : State) : Bool :=
  s.rwBit (wMix + 0x0170) 30 && (!s.inBulk s.mtrBase 0xC000 || s.hitsTables s.mtrBase 0xC000)

/-- The meter mirror is kept (R115, R116). -/
def State.mtrOn (s : State) : Bool := s.rwBit (wMix + 0x0170) 30 && !s.mtrErr

/-- MIX_ZNBASE.RANGEERR (R164); 0 while EN is 0 (DEDUCED, notes/assumptions/17.md). -/
def State.znErr (s : State) : Bool :=
  s.rwBit (wMix + 0x018C) 30 && (!s.inBulk s.znBase 0x8000 || s.hitsTables s.znBase 0x8000 ||
    (s.rwBit (wMix + 0x0170) 30 && overlap s.znBase 0x8000 s.mtrBase 0xC000))

/-- Zones are processed (R148, R164). -/
def State.znOn (s : State) : Bool := s.rwBit (wMix + 0x018C) 30 && !s.znErr

/-- Address of entry n and of record n. -/
def State.entAddr (s : State) (n : Nat) : Nat := s.ctBase + 512 * n
def State.xpAddr (s : State) (n : Nat) : Nat := s.xpBase + 16 * n
def State.znAddr (s : State) (n : Nat) : Nat := s.znBase + 128 * n

/-! ### Entry images -/

/-- Bytes an image keeps: the entry without its status area. -/
abbrev imgSize : Nat := 0x1C0

/-- Kind an entry index must carry (R32): 1 strip, 2 bus, 3 output; 0 for templates. -/
def kindOf (n : Nat) : Nat := if n < 1536 then 1 else if n < 2048 then 2 else if n < 3072 then 3 else 0

namespace Img

def kind (m : Mem) : Nat := (m.get 0).toNat
def active (m : Mem) : Bool := (m.get 1).getLsbD 0
def dom (m : Mem) : Nat := bits (m.get 1).toNat 1 2
def hold (m : Mem) : Bool := (m.get 1).getLsbD 3
def byp (m : Mem) (i : Nat) : Bool := bit (m.le 2 2) i
def input (m : Mem) : Nat := m.le 4 2
def trim (m : Mem) : Int := m.sle 6 2
def pol (m : Mem) : Bool := (m.get 8).getLsbD 0
def mirror (m : Mem) : Bool := (m.get 8).getLsbD 1
def zone (m : Mem) : Nat := m.le 0xA 2
def head (m : Mem) : Nat := m.le 0xC 4

/-- Offset of filter section i (0 the high-pass section, 1 to 8 the EQ sections, R39). -/
def secOff (k i : Nat) : Nat := if k = 3 then 0x10 + 0x20 * (i - 1) else if i = 0 then 0x10 else 0x50 + 0x20 * (i - 1)

/-- Filter sections of a kind. -/
def secs (k : Nat) : List Nat := if k = 3 then [1, 2, 3, 4] else [0, 1, 2, 3, 4, 5, 6, 7, 8]

def dynOff (k : Nat) : Nat := if k = 3 then 0x90 else 0x150
def dlyOff (k : Nat) : Nat := if k = 3 then 0xB0 else 0x170
def fadOff (k : Nat) : Nat := if k = 3 then 0xC0 else 0x180

def dlyAddr (k : Nat) (m : Mem) : Nat := m.le (dlyOff k) 8 % 2 ^ 40
def dlyCap (k : Nat) (m : Mem) : Nat := m.le (dlyOff k + 8) 4
def dly (k : Nat) (m : Mem) : Nat := m.le (dlyOff k + 12) 4
def fader (k : Nat) (m : Mem) : Int := m.sle (fadOff k) 2
def mute (k : Nat) (m : Mem) : Bool := (m.get (fadOff k + 2)).getLsbD 0
def pkHold (k : Nat) (m : Mem) : Nat := m.le (fadOff k + 4) 4
def pkDecay (k : Nat) (m : Mem) : Nat := m.le (fadOff k + 8) 2

def scale (m : Mem) : Nat := bits (m.get 0x30).toNat 0 2
def prec (m : Mem) : Nat := bits (m.get 0x31).toNat 0 4
def duckGrp (m : Mem) : Nat := (m.get 0x32).toNat
def duckDepth (m : Mem) : Int := m.sle 0x34 2
def actThresh (m : Mem) : Int := m.sle 0x36 2
def duckAtt (m : Mem) : Nat := m.le 0x38 4
def duckRel (m : Mem) : Nat := m.le 0x3C 4
def ceil (m : Mem) : Int := m.sle 0x190 2
def slRel (m : Mem) : Nat := m.le 0x194 4

def dest (m : Mem) (i : Nat) : Nat := m.le (0xD0 + 8 * i) 2
def dither (m : Mem) (i : Nat) : Bool := (m.get (0xD2 + 8 * i)).getLsbD 0

def secMode (o : Nat) (m : Mem) : Nat := bits (m.get o).toNat 0 2
def secDyn (o : Nat) (m : Mem) : Bool := (m.get o).getLsbD 2
def secType (o : Nat) (m : Mem) : Nat := (m.get (o + 1)).toNat
def secGain (o : Nat) (m : Mem) : Int := m.sle (o + 2) 2
def secFreq (o : Nat) (m : Mem) : Nat := m.le (o + 4) 4
def secQ (o : Nat) (m : Mem) : Nat := m.le (o + 8) 2
def secThresh (o : Nat) (m : Mem) : Int := m.sle (o + 0xA) 2
def secRatio (o : Nat) (m : Mem) : Nat := m.le (o + 0xC) 2
def secSide (o : Nat) (m : Mem) : Nat := m.le (o + 0xE) 2
def secAttack (o : Nat) (m : Mem) : Nat := m.le (o + 0x10) 4
def secRelease (o : Nat) (m : Mem) : Nat := m.le (o + 0x14) 4
def secRaw (o : Nat) (m : Mem) (k : Nat) : Int := m.sle (o + 4 + 4 * k) 4

end Img

/-- Bits of the word at an offset that are fields of a kind (R28, R31 to R41); the others are reserved. The status area has
none. -/
def fieldMask (k off : Nat) : Word :=
  let sec (r : Nat) : Word := if r = 0 then 0xFFFFFF07#32 else if r ≤ 0x14 then 0xFFFFFFFF#32 else 0
  let dyn (r : Nat) : Word := if r = 0 then 0xFFFF0003#32 else if r ≤ 0x14 then 0xFFFFFFFF#32 else 0
  let gate (r : Nat) : Word := if r = 0 then 0xFFFF0000#32 else if r ≤ 0x10 then 0xFFFFFFFF#32 else 0
  let dly (r : Nat) : Word := if r = 4 then 0xFF#32 else 0xFFFFFFFF#32
  let fad (r : Nat) : Word := if r = 0 then 0x0001FFFF#32 else if r = 4 then 0xFFFFFFFF#32 else if r = 8 then 0xFFFF#32 else 0
  if off = 0 then (if k = 1 then 0x007F0FFF#32 else if k = 2 then 0x00FB0FFF#32 else 0x00780FFF#32)
  else if off = 4 then (if k = 1 then 0xFFFFFFFF#32 else if k = 2 then 0xFFFF0000#32 else 0x0000FFFF#32)
  else if off = 8 then (if k = 3 then 0xFFFF0002#32 else 0x3#32)
  else if off = 12 then (if k = 3 then 0 else 0xFFFFFFFF#32)
  else if imgSize ≤ off then 0
  else if k = 3 then
    (if off < 0x90 then sec ((off - 0x10) % 0x20)
     else if off < 0xB0 then dyn (off - 0x90)
     else if off < 0xC0 then dly (off - 0xB0)
     else if off < 0xD0 then fad (off - 0xC0)
     else if off < 0xF0 then (if off % 8 = 0 then 0x0001FFFF#32 else 0)
     else 0)
  else
    (if off < 0x30 then sec (off - 0x10)
     else if off < 0x50 then
       (if k = 1 then gate (off - 0x30)
        else if off = 0x30 then 0x00FF0F03#32 else if off < 0x40 then 0xFFFFFFFF#32 else 0)
     else if off < 0x150 then sec ((off - 0x50) % 0x20)
     else if off < 0x170 then dyn (off - 0x150)
     else if off < 0x180 then dly (off - 0x170)
     else if off < 0x190 then fad (off - 0x180)
     else if k = 2 ∧ off = 0x190 then 0xFFFF#32
     else if k = 2 ∧ off = 0x194 then 0xFFFFFFFF#32
     else 0)

/-- Fields of a crosspoint record word (R46). -/
def xpMask (off : Nat) : Word := if off = 0xC then 0x3#32 else 0xFFFFFFFF#32

/-! ### Ranges (R29, R30, R484) -/

/-- What the compile makes of a value out of range: the nearest limit, a given value, or the field's own rule. -/
inductive Fix where
  | near
  | val (v : Int)
  | keep
  deriving DecidableEq, Repr

/-- A numeric field: byte offset, size, signedness, range, one further valid value, treatment, and whether it is in use. -/
structure Fld where
  off : Nat
  size : Nat
  sg : Bool
  lo : Int
  hi : Int
  alt : Option Int
  fix : Fix
  use : Bool
  deriving DecidableEq, Repr

def Fld.read (f : Fld) (m : Mem) : Int := if f.sg then m.sle f.off f.size else (m.le f.off f.size : Int)

def Fld.ok (f : Fld) (m : Mem) : Bool :=
  let v := f.read m
  (f.lo ≤ v && v ≤ f.hi) || f.alt = some v

/-- The value compiled for a field out of range (R30): a gain code below its range is off where off is valid. -/
def Fld.fixed (f : Fld) (v : Int) : Int :=
  match f.fix with
  | .near => if v < f.lo ∧ f.alt = some (-32768) then -32768 else clampI f.lo f.hi v
  | .val x => x
  | .keep => v

def fU (o z : Nat) (lo hi : Int) (use : Bool) : Fld := ⟨o, z, false, lo, hi, none, .near, use⟩
def fS (o : Nat) (lo hi : Int) (use : Bool) : Fld := ⟨o, 2, true, lo, hi, none, .near, use⟩
def fGain (o : Nat) (hi : Int) (use : Bool) : Fld := ⟨o, 2, true, -14400, hi, some (-32768), .near, use⟩
def fSide (o : Nat) (use : Bool) : Fld := ⟨o, 2, false, 0, 3071, some 0xFFFF, .keep, use⟩

/-- Highest frequency code of a domain: 0.45 of its rate (R29). -/
def fMax (d : Nat) : Int := if d = 0 then 2160000 else if d = 1 then 720000 else 360000

/-- Fields of filter section i (R34). -/
def secFlds (k : Nat) (m : Mem) (i : Nat) : List Fld :=
  let o := Img.secOff k i
  let on := !Img.byp m (if i = 0 then 1 else 3) && Img.secMode o m = 2
  let dy := on && Img.secDyn o m
  [fS (o + 2) (-2400) 2400 (on && !(3 ≤ Img.secType o m && Img.secType o m ≤ 7)), fU (o + 4) 4 1000 (fMax (Img.dom m)) on,
   fU (o + 8) 2 100 40000 on, fS (o + 0xA) (-14400) 4800 dy, fU (o + 0xC) 2 100 65535 dy, fSide (o + 0xE) dy,
   fU (o + 0x10) 4 100 500000 dy, fU (o + 0x14) 4 5000 5000000 dy]

/-- Numeric fields of an image of kind k, with their ranges and whether they are in use. -/
def flds (k : Nat) (m : Mem) : List Fld :=
  let d := Img.dynOff k
  let f := Img.fadOff k
  let dyn := !Img.byp m 4
  (Img.secs k).flatMap (secFlds k m) ++
  [fS (d + 2) (-14400) 4800 dyn, fU (d + 4) 2 100 65535 (dyn && k ≠ 3), fU (d + 6) 2 0 2400 dyn, fS (d + 8) (-2400) 2400 dyn,
   fSide (d + 0xA) dyn, fU (d + 0xC) 4 100 500000 dyn, fU (d + 0x10) 4 5000 5000000 dyn, fU (d + 0x14) 4 0 2000 dyn,
   fU (Img.dlyOff k + 12) 4 0 (Img.dlyCap k m) (!Img.byp m 5),
   fGain f 2400 (!Img.byp m 6), fU (f + 4) 4 0 10000000 true, fU (f + 8) 2 1 65535 true] ++
  (if k = 3 then
    [⟨4, 2, false, 0, 511, none, .keep, true⟩, ⟨0xA, 2, false, 0, 255, some 0xFFFF, .val 0xFFFF, true⟩]
   else
    [fGain 6 2400 (!Img.byp m 0), ⟨0xC, 4, false, 0, 98303, some 0xFFFFFFFF, .keep, true⟩]) ++
  (if k = 1 then
    [fS 0x32 (-14400) 4800 (!Img.byp m 2), fGain 0x34 0 (!Img.byp m 2), fSide 0x36 (!Img.byp m 2),
     fU 0x38 4 0 2000000 (!Img.byp m 2), fU 0x3C 4 10 100000 (!Img.byp m 2), fU 0x40 4 1000 5000000 (!Img.byp m 2)]
   else []) ++
  (if k = 2 then
    [⟨0x32, 1, false, 0, 63, some 0xFF, .val 0xFF, true⟩, fGain 0x34 0 true, fS 0x36 (-14400) 4800 true,
     fU 0x38 4 1000 1000000 true, fU 0x3C 4 10000 10000000 true, fS 0x190 (-2400) 4800 (!Img.byp m 7),
     fU 0x194 4 5000 5000000 (!Img.byp m 7)]
   else [])

/-- Most samples of a delay line in a domain (R37). -/
def capMax (d : Nat) : Nat := if d = 0 then 131072 else if d = 1 then 43680 else 21840

/-- DLYCAP as a numeric field (R30, R37). -/
def capFld (k : Nat) (m : Mem) : Fld := fU (Img.dlyOff k + 8) 4 16 (capMax (Img.dom m)) (!Img.byp m 5)

/-- The delay line is placed as R37 asks, or the stage is bypassed; bits 63:40 of DLYADDR are ignored (R28). -/
def State.lineOk (s : State) (k : Nat) (m : Mem) : Bool :=
  let a := Img.dlyAddr k m
  let c := Img.dlyCap k m
  Img.byp m 5 || (a % 64 = 0 && c % 16 = 0 && 16 ≤ c && c ≤ capMax (Img.dom m) && s.inBulk a (4 * c) &&
    !s.hitsTables a (4 * c))

/-- Section i is set to a reserved enumeration (R34). -/
def secBad (k : Nat) (m : Mem) (i : Nat) : Bool :=
  let o := Img.secOff k i
  !Img.byp m (if i = 0 then 1 else 3) &&
  (Img.secMode o m = 3 ||
   (Img.secMode o m = 2 && (Img.secType o m > 7 || (i = 0 && Img.secType o m ≠ 4))) ||
   (Img.secMode o m ≠ 0 && Img.secDyn o m && (i = 0 || Img.secMode o m ≠ 2 || Img.secType o m > 2)))

/-- Section i is a RAW biquad that fails |a2| < 1 and |a1| < 1 + a2 (R34). -/
def secUnstable (k : Nat) (m : Mem) (i : Nat) : Bool :=
  let o := Img.secOff k i
  let a1 := Img.secRaw o m 3
  let a2 := Img.secRaw o m 4
  let one : Int := 0x20000000
  !Img.byp m (if i = 0 then 1 else 3) && Img.secMode o m = 1 && !(decide (-one < a2 ∧ a2 < one ∧ -(one + a2) < a1 ∧ a1 < one + a2))

/-- Smallest shift from 0 to 3 with which the b coefficients fit Q3.29 (R100). -/
def fitShift (ty fs : Nat) (g : Int) (f q : Nat) : Option Nat :=
  [0, 1, 2, 3].find? fun sh => [0, 1, 2].all fun c => !outN 32 ((design ty fs g f q sh).getD c 0)

/-- Branch filter type of a dynamic section (R102). -/
def branchType (ty : Nat) : Nat := if ty = 0 then 5 else if ty = 1 then 3 else 4

/-- Section i is a PARAM design that fits no shift (R100); a dynamic section's design is its branch filter (R102). -/
def secNoFit (k : Nat) (m : Mem) (i : Nat) : Bool :=
  let o := Img.secOff k i
  !Img.byp m (if i = 0 then 1 else 3) && Img.secMode o m = 2 &&
    (fitShift (if Img.secDyn o m then branchType (Img.secType o m) else Img.secType o m) (domFs (Img.dom m)) (Img.secGain o m) (Img.secFreq o m) (Img.secQ o m)).isNone

/-- DET or SCALE is reserved. -/
def enumBad (k : Nat) (m : Mem) : Bool :=
  (!Img.byp m 4 && bits (m.get (Img.dynOff k)).toNat 0 2 > 1) || (k = 2 && Img.scale m = 3)

/-- What a compile finds: the clamped image, ERR, and counts for MIX_BADFIELD and MIX_BADCODE. -/
structure Comp where
  img : Mem
  err : BitVec 8
  bad : Nat
  code : Nat
  deriving DecidableEq, Repr

def Comp.field (c : Comp) (img : Mem) (b : Nat) : Comp := { c with img := img, err := c.err ||| BitVec.ofNat 8 (2 ^ b), bad := c.bad + 1 }

/-- One numeric field compiled (R30, R104). -/
def Comp.num (c : Comp) (f : Fld) : Comp :=
  if f.use && !f.ok c.img then c.field (c.img.putLe f.off f.size (unsgn (8 * f.size) (f.fixed (f.read c.img)))) 1 else c

/-- One filter section compiled: reserved settings and unstable or unfitting sections are bypassed (R30, R34, R100). -/
def Comp.sec (k : Nat) (c : Comp) (i : Nat) : Comp :=
  let o := Img.secOff k i
  let off := c.img.set o ((c.img.get o) &&& 0xF8#8)
  if secBad k c.img i then c.field off 1
  else if secUnstable k c.img i then c.field off 2
  else c

/-- A PARAM section that fits no shift is bypassed (R100). -/
def Comp.fit (k : Nat) (c : Comp) (i : Nat) : Comp :=
  let o := Img.secOff k i
  if secNoFit k c.img i then c.field (c.img.set o ((c.img.get o) &&& 0xF8#8)) 2 else c

/-- One source or destination code compiled (R19). -/
def Comp.codeAt (c : Comp) (off : Nat) (ok : Nat → Bool) : Comp :=
  if ok (c.img.le off 2) then c
  else { c with img := c.img.putLe off 2 0, err := c.err ||| 1#8, code := c.code + 1 }

/-- An image with the delay capacity of another. -/
def withCap (k : Nat) (m c : Mem) : Mem := m.setN (Img.dlyOff k + 8) (c.getN (Img.dlyOff k + 8) 4)

/-- Compile of an image for an index: clamped image, whether it is forced inactive (R32), ERR and counts. What is in use is judged
on the image as written (R484), whatever stage or section the compile bypasses (R30); DLY is held against the capacity as
compiled. -/
def State.compile (s : State) (n : Nat) (m : Mem) : Comp × Bool :=
  let k := kindOf n
  let c : Comp := ⟨m, 0, 0, 0⟩
  let mis := Img.kind m ≠ k
  let c := if mis then c.field c.img 4 else c
  let dom := Img.dom m = 3
  let c := if dom then c.field c.img 1 else c
  let c := (Img.secs k).foldl (Comp.sec k) c
  let c := if !Img.byp c.img 4 && bits (c.img.get (Img.dynOff k)).toNat 0 2 > 1 then
    c.field (c.img.set 2 (c.img.get 2 ||| 0x10#8)) 1 else c
  let c := if k = 2 && Img.scale c.img = 3 then c.field (c.img.set 0x30 (c.img.get 0x30 &&& 0xFC#8)) 1 else c
  let c := c.num (capFld k c.img)
  let c := if s.lineOk k c.img then c else c.field (c.img.set 2 (c.img.get 2 ||| 0x20#8)) 3
  let c := (flds k (withCap k m c.img)).foldl Comp.num c
  let c := (Img.secs k).foldl (Comp.fit k) c
  let c := if k = 1 then c.codeAt 4 srcOk else c
  let c := if k = 3 then [0, 1, 2, 3].foldl (fun c i => c.codeAt (0xD0 + 8 * i) dstOk) c else c
  (c, decide mis || decide dom)

/-- The clamped image alone, as a commit application leaves it (R71, R42). -/
def State.clamped (s : State) (n : Nat) (m : Mem) : Mem := (s.compile n m).1.img

/-! ### Crosspoint records (R46) -/

namespace XpR

def src (m : Mem) : Nat := m.le 0 2
def dst (m : Mem) : Nat := m.le 2 2
def gain (m : Mem) : Int := m.sle 4 2
def ramp (m : Mem) : Nat := m.le 6 2
def next (m : Mem) : Nat := m.le 8 4
def en (m : Mem) : Bool := (m.get 0xC).getLsbD 0
def pre (m : Mem) : Bool := (m.get 0xC).getLsbD 1

/-- Gain code as compiled (R30). -/
def gainC (m : Mem) : Int := (fGain 4 2400 true).fixed (gain m) |> fun v => if (fGain 4 2400 true).ok m then gain m else v

/-- Fields of a record with their ranges: SRC 0 to 2047, DST 0 to 511, GAIN, NEXT. -/
def flds : List Fld :=
  [⟨0, 2, false, 0, 2047, none, .keep, true⟩, ⟨2, 2, false, 0, 511, none, .keep, true⟩, fGain 4 2400 true,
   ⟨8, 4, false, 0, 98303, some 0xFFFFFFFF, .keep, true⟩]

end XpR

end Sys2Proof.Machine
end

