-- ==== Sys2Proof/Machine/Dsp.lean ====
section
/-! DEFINITION. The arithmetic of the fixed engines (R92 to R95) and the stages that strips, buses and outputs share: filter
sections, gate, dynamics, delay taps, ramps, bridges, meters (R96 to R114, R21, R75 to R77). -/

namespace Sys2Proof.Machine

/-! ### Number format (R92 to R94) -/

/-- 1.0 as a Q5.27 multiplier. -/
abbrev one27 : Int := 134217728

/-- Multiplier of a duck or gate gain, exactly 0 at or below -120 dB (R105, R127). -/
def dbM120 (g : Int) : Int := if g ≤ -12000 * cB then 0 else dbM g

/-- A sample in accumulator format. -/
def toAcc (x : Int) : Int := 16 * x

/-- Product of a sample and a Q5.27 multiplier, rounded to the accumulator scale (R93). -/
def mulS (x m : Int) : Int := rdiv (x * m) 8388608

/-- Product of an accumulator value and a Q5.27 multiplier, rounded to the accumulator scale. -/
def mulA (v m : Int) : Int := rdiv (v * m) 134217728

/-- Product of two Q5.27 multipliers, rounded to Q5.27 (R98). -/
def mulM (a b : Int) : Int := if a = one27 then b else if b = one27 then a else rdiv (a * b) 134217728

/-- Accumulator value requantised to a sample (R94) and saturated (R92). -/
def rqAcc (v : Int) : Int := satN 32 (rdiv v 16)

/-- Whether requantising or the accumulator saturates. -/
def rqOver (v : Int) : Bool := outN 40 v || outN 32 (rdiv v 16)

/-- rq(x * m): one product, one requantisation (R96). -/
def rqMul (x m : Int) : Int := rqAcc (satN 40 (mulS x m))
def rqMulOver (x m : Int) : Bool := rqOver (mulS x m)

/-- Product of a sample and several Q5.27 multipliers, rounded once to the accumulator scale (R93, R112, R127). -/
def mulSL (x : Int) : List Int → Int
  | [] => toAcc x
  | ms => rdiv (ms.foldl (· * ·) x) (2 ^ (27 * ms.length - 4))

/-- rq of a product with several multipliers: one requantisation (R112). -/
def rqMulL (x : Int) (ms : List Int) : Int := rqAcc (satN 40 (mulSL x ms))
def rqMulLOver (x : Int) (ms : List Int) : Bool := rqOver (mulSL x ms)

/-- Level of a magnitude relative to 0 dBFS, at least -144 dB (R95). -/
def lev (v : Int) : Int := if v = 0 then dbFloor else max dbFloor (dbRatio v.natAbs 8388608)

/-- Samples of a time in us, rounded by R94. -/
def usSamples (us fs : Nat) : Nat := (rdiv ((us * fs : Nat) : Int) 1000000).toNat

/-! ### Ramps (R75 to R77) -/

/-- Position of index u in a ramp of a domain. -/
def Ramp.pos (r : Ramp) (d u : Nat) : Nat := u - domCeil d r.t

/-- Length of a ramp in samples of a domain. -/
def Ramp.len (r : Ramp) (d : Nat) : Nat := r.n * domSpb d

/-- The ramp is over before index u. -/
def Ramp.isOver (r : Ramp) (d u : Nat) : Bool := domCeil d r.t + r.len d ≤ u

/-- Level of a gain code in dB; off counts as -144 dB (R76). -/
def codeDb (g : Int) : Int := if g = -32768 then dbFloor else g * cB

/-- Multiplier and level of a gain code. -/
def gainL (g : Int) : Int × Int := (gainM g, codeDb g)

/-- Multiplier and level of a gain between 1 and 0 (R75). -/
def onL (v : Bool) : Int × Int := if v then (one27, 0) else (0, dbFloor)

/-- Multiplier and level of a ramp at position k (R75, R76): the last sample is exactly the new value; shape 1 moves the level. -/
def rampAt (shape : Nat) (a b : Int × Int) (k len : Nat) : Int × Int :=
  if len ≤ k + 1 then b
  else if shape = 1 then
    let g := a.2 + rdiv ((b.2 - a.2) * (k + 1 : Nat)) len
    (dbM g, g)
  else
    let m := a.1 + (if shape = 2 then rdiv ((b.1 - a.1) * (cosWeight k len : Nat)) q96 else rdiv ((b.1 - a.1) * (k + 1 : Nat)) len)
    (m, multDb m.toNat)

/-- Weight of the new path of a crossfade at position k, as a fraction. -/
def fadeW (shape k len : Nat) : Nat × Nat :=
  if len ≤ k + 1 then (1, 1) else if shape = 2 then (cosWeight k len, q96) else (k + 1, len)

/-- (1 - w) old + w new (R75). DESIGN CHOICE (notes/assumptions/72.md): R93 gives w no format, so w is an exact fraction and the sum
of both paths is rounded once, to the scale of the samples. -/
def xfade (w : Nat × Nat) (old new : Int) : Int := rdiv (old * ((w.2 : Int) - w.1) + new * w.1) w.2

/-- Ramp of a field. -/
def rampOf (rs : List Ramp) (f : RampFld) : Option Ramp := rs.find? fun r => r.fld = f

/-- Multiplier and level of a ramping field at index u, or its static value. -/
def lvlAt (rs : List Ramp) (f : RampFld) (d u : Nat) (static : Int × Int) : Int × Int :=
  match rampOf rs f with
  | none => static
  | some r => rampAt r.shape r.m0 r.m1 (r.pos d u) (r.len d)

/-- Multiplier of a ramping field at index u, or its static value. -/
def multAt (rs : List Ramp) (f : RampFld) (d u : Nat) (static : Int) : Int := (lvlAt rs f d u (static, 0)).1

/-- 1.0 as a weight of a mixture that a new ramp starts from. -/
abbrev oneW : Nat := 1152921504606846976

/-- A mixture: values with weights, and what the weights add up to. -/
abbrev Taps := List (Nat × Nat) × Nat

/-- Mixture of taps, sources or destinations in force at u (R75, R77). -/
def mixAt (rs : List Ramp) (f : RampFld) (d u new : Nat) : Taps :=
  match rampOf rs f with
  | none => ([(new, 1)], 1)
  | some r =>
    let w := fadeW r.shape (r.pos d u) (r.len d)
    if w.1 = w.2 then ([(new, 1)], 1)
    else ((r.old.map fun p => (p.1, p.2 * (w.2 - w.1))) ++ [(new, oneW * w.1)], oneW * w.2)

/-- A mixture as the start of a new ramp: weights that add up to 1.0. -/
def Taps.old (m : Taps) : List (Nat × Nat) :=
  match m.1 with
  | [(a, _)] => [(a, oneW)]
  | l => l.map fun p => (p.1, (rdiv ((p.2 * oneW : Nat) : Int) m.2).toNat)

/-- Value of a mixture under a reading of its elements, rounded once as `xfade` is (notes/assumptions/72.md). -/
def mixVal (m : Taps) (f : Nat → Int) : Int :=
  match m.1 with
  | [(a, _)] => f a
  | l => rdiv (l.foldl (fun acc p => acc + f p.1 * (p.2 : Int)) 0) m.2

/-- A field's ramp replaced, or removed for a ramp of 0. -/
def setRamp (rs : List Ramp) (r : Ramp) : List Ramp :=
  let rest := rs.filter fun q => q.fld ≠ r.fld
  if r.n = 0 then rest else rest ++ [r]

/-! ### Biquads (R99 to R101) -/

abbrev Biq.zero : Biq := ⟨0, 0, 0, 0⟩

/-- Coefficients b0, b1, b2, a1, a2 and the shift. -/
structure Coef where
  b0 : Int
  b1 : Int
  b2 : Int
  a1 : Int
  a2 : Int
  sh : Nat
  deriving DecidableEq, Repr

/-- A PARAM design (R99, R100); one that fits no shift is the identity (it is compiled as bypassed). -/
def paramCoef (ty fs : Nat) (g : Int) (f q : Nat) : Coef :=
  match fitShift ty fs g f q with
  | none => ⟨0x20000000, 0, 0, 0, 0, 0⟩
  | some s =>
    let d := design ty fs g f q s
    ⟨d.getD 0 0, d.getD 1 0, d.getD 2 0, d.getD 3 0, d.getD 4 0, s⟩

/-- Coefficients of filter section at offset o of an image (R99 to R102). -/
def secCoef (o fs : Nat) (m : Mem) : Coef :=
  if Img.secMode o m = 1 then
    ⟨Img.secRaw o m 0, Img.secRaw o m 1, Img.secRaw o m 2, Img.secRaw o m 3, Img.secRaw o m 4, 0⟩
  else if Img.secDyn o m then paramCoef (branchType (Img.secType o m)) fs 0 (Img.secFreq o m) (Img.secQ o m)
  else paramCoef (Img.secType o m) fs (Img.secGain o m) (Img.secFreq o m) (Img.secQ o m)

/-- Product of a coefficient and an accumulator value, rounded to the accumulator scale. -/
def mulC (c v : Int) : Int := rdiv (c * v) 536870912

/-- y[n] = b0 x[n] + b1 x[n-1] + b2 x[n-2] - a1 y[n-1] - a2 y[n-2] in one saturating accumulator (R101, R100): new states,
accumulator, and whether it saturated. -/
def biqStep (c : Coef) (b : Biq) (x : Int) : Biq × Int × Bool :=
  let xa := toAcc x
  let v1 := mulC c.b0 xa
  let v2 := satN 40 v1 + mulC c.b1 b.x1
  let v3 := satN 40 v2 + mulC c.b2 b.x2
  let v4 := satN 40 v3 * (2 ^ c.sh : Nat)
  let v5 := satN 40 v4 - mulC c.a1 b.y1
  let v6 := satN 40 v5 - mulC c.a2 b.y2
  let y := satN 40 v6
  (⟨xa, b.x1, y, b.y1⟩, y, outN 40 v1 || outN 40 v2 || outN 40 v3 || outN 40 v4 || outN 40 v5 || outN 40 v6)

/-- Result of a section: its states, its detector's key filter, c, output, saturation. -/
structure SecOut where
  st : Biq
  key : Biq
  c : Int
  y : Int
  ov : Bool
  deriving DecidableEq, Repr

/-- The detector of the dynamic section at offset o one sample on, from its key's sample (R103). -/
def secDet (o fs : Nat) (m : Mem) (c kv : Int) : Int :=
  let tgt := slope (Img.secRatio o m) (max 0 (lev kv - Img.secThresh o m * cB))
  smooth (if tgt < c then Img.secAttack o m else Img.secRelease o m) fs c tgt

/-- One sample through the section at offset o (R101 to R103): `key` is the side-chain sample, none for the own band;
`share` is the gain change of the section whose detector state this one shares. DESIGN CHOICE (notes/assumptions/72.md): hb(x) is
requantised to a sample, saturated with OVER, before it is weighted and keys the detector. -/
def secStep (o fs : Nat) (m : Mem) (st kst : Biq) (c : Int) (share key : Option Int) (x : Int) : SecOut :=
  if Img.secMode o m = 0 then ⟨Biq.zero, Biq.zero, 0, x, false⟩
  else
    let co := secCoef o fs m
    let r := biqStep co st x
    if Img.secMode o m = 2 ∧ Img.secDyn o m then
      let h := rqAcc r.2.1
      let kr := biqStep co kst (key.getD 0)
      let c' := share.getD (secDet o fs m c (if key.isNone then h else rqAcc kr.2.1))
      let gd := Img.secGain o m * cB + c'
      let v := toAcc x + mulS h ((if gd ≤ dbFloor then 0 else dbM gd) - one27)
      ⟨r.1, if key.isNone then Biq.zero else kr.1, c', rqAcc (satN 40 v), r.2.2 || rqOver r.2.1 || rqOver v⟩
    else ⟨r.1, Biq.zero, 0, rqAcc r.2.1, r.2.2 || rqOver r.2.1⟩

/-! ### Gate (R105) -/

/-- The closed gate of a strip that becomes active (R105, R44): its gain is RANGE. -/
def gateStart (range : Int) : Gate := ⟨0, 0, 0, codeDb range, true⟩

/-- Key envelope one sample on, with 32 fractional bits: max(|k|, ak e) for 5 ms (R105). -/
def envStep (fs env : Nat) (k : Int) : Nat := max (k.natAbs * 4294967296) (mulQ (poleQ 5000 fs) env).toNat

/-- Level of a key envelope (R95). -/
def envLev (env : Nat) : Int := if env = 0 then dbFloor else max dbFloor (dbRatio env 36028797018963968)

/-- One sample of the gate with key k: its next state. DESIGN CHOICE (notes/assumptions/72.md): r that rises in CLOSED towards a RANGE
made shallower uses ATTACK, though its target is not 0 dB. -/
def gateStep (fs : Nat) (m : Mem) (g : Gate) (k : Int) : Gate :=
  let thr := m.sle 0x32 2 * cB
  let range := m.sle 0x34 2
  let e := envStep fs g.env k
  let le := envLev e
  let below := decide (le < thr)
  let st := if !below then 2 else if g.st = 2 then (if le < thr - 400 * cB then 1 else 2)
    else if g.st = 1 then (if g.left = 0 then 0 else 1) else 0
  let left := if g.st = 2 ∧ st = 1 then usSamples (m.le 0x38 4) fs else if st = 1 then g.left - 1 else 0
  let tgt := if st = 0 then codeDb range else 0
  let r := smooth (if g.r < tgt then m.le 0x3C 4 else m.le 0x40 4) fs g.r tgt
  ⟨st, left, e, r, below⟩

/-- The multiplier of the gate (R105). -/
def gateMult (m : Mem) (g : Gate) : Int := if m.sle 0x34 2 = -32768 then dbM120 g.r else dbM g.r

/-! ### Dynamics (R107 to R109) -/

/-- Static gain change for an excess L - T (R108). -/
def staticGain (ratio knee : Nat) (isOver : Int) : Int :=
  let w : Nat := knee * 1000000000000
  if 2 * isOver < -(w : Int) then 0
  else if 0 < w ∧ 2 * isOver ≤ w then kneeCurve ratio w isOver
  else slope ratio isOver

/-- Mean square of the RMS detector with 32 fractional bits, 10 ms; it restarts from the current sample (R107). -/
def msStep (fs : Nat) (ms : Option Int) (k : Int) : Int :=
  match ms with
  | none => k * k * 4294967296
  | some p => onePole (poleQ 10000 fs) p (k * k * 4294967296)

/-- Level of a mean square (R107). -/
def msLev (p : Int) : Int := if p ≤ 0 then dbFloor else max dbFloor (dbPower p.toNat 302231454903657293676544)

/-- One sample of the detector of the dynamics block at offset d: mean square (none in peak mode: it restarts when DET
changes) and smoothed gain (R107, R108). -/
def compStep (d fs : Nat) (limiter : Bool) (m : Mem) (ms : Option Int) (c k : Int) : Option Int × Int :=
  let rms := bits (m.get d).toNat 0 2 = 1
  let p := msStep fs ms k
  let l := if rms then msLev p else lev k
  let g := staticGain (if limiter then 0xFFFF else m.le (d + 4) 2) (m.le (d + 6) 2) (l - m.sle (d + 2) 2 * cB)
  (if rms then some p else none, smooth (if g < c then m.le (d + 0xC) 4 else m.le (d + 0x10) 4) fs c g)

/-- Lookahead in samples (R109). -/
def lookD (d fs : Nat) (m : Mem) : Nat := usSamples (m.le (d + 0x14) 4) fs

/-! ### Bridges (R21) -/

/-- Element of a block, zero beyond it. -/
def nth (l : List Int) (k : Nat) : Int := l.getD k 0

/-- Samples a bridge keeps of its source, newest first: more than the longest linear-phase filter of R21 needs. -/
abbrev histLen : Nat := 600

/-- History with a block appended. -/
def histAdd (h : List Int) (blk : List Int) : List Int := (blk.reverse ++ h).take histLen

/-- Half the length of a bridge's impulse response at its faster rate: its delay, 90 A-samples or 60 V-samples. -/
def bridgeHalf (f t : Nat) : Nat := if f = 48000 ∨ t = 48000 then 90 else 60

/-- Linear-phase filters that meet the bounds of R21, from their ends towards their centre, in units of 2^-40: windowed sines of 181
taps at 48 kHz and of 121 taps at 16 kHz. -/
def nominalA : List Int :=
  [0, 3674100, 6214724, 2775980, -7025526, -15513158, -11604047, 7639589, 29048799, 30178863] ++
  [0, -43734093, -61137742, -23456870, 52351088, 103897896, 70862349, -43017081, -152179458, -148172085] ++
  [0, 191895325, 255363294, 93619095, -200306309, -382213437, -251279305, 147372026, 504721667, 476635076] ++
  [0, -583510805, -756595907, -270613464, 565555076, 1055261348, 679094463, -390233412, -1310654303, -1214834747] ++
  [0, 1436139697, 1831892446, 645022054, -1327939259, -2442418170, -1550302573, 879223062, 2916130443, 2670736473] ++
  [0, -3087731838, -3898280632, -1359318638, 2772956560, 5056501544, 3183925667, -1792331565, -5904221014, -5373972428] ++
  [0, 6148706426, 7730661856, 2686543754, -5466330402, -9950831436, -6260864635, 3525269410, 11628408173, 10611236285] ++
  [0, -12254793837, -15517666517, -5441560650, 11196855850, 20664566197, 13220378210, -7595317460, -25668825979, -24118057794] ++
  [0, 30120368523, 40200934529, 15049009506, -33629867921, -69064245962, -50989392939, 35876756644, 166070667499, 282991118416] ++
  [329851994600]

def nominalV : List Int :=
  [0, 17130361, 8201599, -34108709, -31149587, 50314922, 75468202, -54453564, -144324830, 29624340] ++
  [233521214, 44578966, -327676976, -187550266, 397739010, 410893006, -401191893, -710247483, 286156749, 1057307581] ++
  [0, -1394156214, -497832880, 1632233284, 1220154130, -1657933167, -2136032340, 1345963184, 3157759807, -580257476] ++
  [-4134376173, -719359440, 4854901228, 2568112518, -5063229569, -4889294314, 4484787303, 7494169610, -2862822713, -10072827879] ++
  [0, 12198020815, 4200758450, -13340547502, -9703066544, 12889377073, 16318049251, -10160784494, -23704455467, 4362462777] ++
  [31390209091, 5570699912, -38814369842, -21523779763, 45385041859, 48173218650, -50545856325, -102938513690, 53841828952, 345299648266] ++
  [494775361747]

/-- Gain of a symmetric filter of half length h at a frequency, in units of 2^-40. -/
def bridgeAmp (fs h : Nat) (tap : Nat → Int) (freq : Nat) : Int :=
  tap h + 2 * (upTo h).foldl (fun a k => a + rdiv (tap k * cosQ (twoPiQ * (freq * (h - k) % fs : Nat) / fs)) q96) 0

/-- End of the passband, start of the stopband and the largest stopband gain of a bridge in units of 2^-40 (R21). -/
def bridgeBand (f t : Nat) : Nat × Nat × Nat :=
  if f = 48000 then (6400, 8000, 34769000) else if t = 48000 then (6400, 9600, 34769000)
  else if f = 16000 then (3200, 4000, 109951000) else (3200, 4800, 109951000)

/-- A bridge's taps hold the bounds of R21 at every Hz up to half its faster rate: 0.05 dB in the passband, 90 or 80 dB in the
stopband. -/
def bridgeOk (f t : Nat) (tap : Nat → Int) : Bool :=
  let b := bridgeBand f t
  (upTo (max f t / 2 + 1)).all fun x =>
    let g := bridgeAmp (max f t) (bridgeHalf f t) tap x
    !(x ≤ b.1 && 6310000000 < (g - 1099511627776).natAbs) && !(b.2.1 ≤ x && b.2.2 < g.natAbs)

/-- Half of a bridge's impulse response (notes/assumptions/8.md): the free one where it holds the bounds of R21, else one that
does. -/
def bridgeHalfTap (f t k : Nat) : Int :=
  if bridgeOk f t (Config.bridgeTap f t) then Config.bridgeTap f t k
  else (if f = 48000 ∨ t = 48000 then nominalA else nominalV).getD k 0

/-- Tap k of a bridge in units of 2^-40: symmetric, so linear-phase. -/
def bridgeCoef (f t k : Nat) : Int := bridgeHalfTap f t (min k (2 * bridgeHalf f t - k))

/-- Output of a decimating bridge from the samples up to its own, newest first. -/
def decimate (f t : Nat) (h : List Int) : Int :=
  rdiv ((upTo (2 * bridgeHalf f t + 1)).foldl (fun a k => a + bridgeCoef f t k * nth h k) 0) 1099511627776

/-- Output of an interpolating bridge at phase ph of r, from the samples up to its own, newest first. -/
def interpolate (f t r ph : Nat) (h : List Int) : Int :=
  rdiv ((r : Int) * (upTo (2 * bridgeHalf f t / r + 1)).foldl (fun a i =>
    if ph + r * i ≤ 2 * bridgeHalf f t then a + bridgeCoef f t (ph + r * i) * nth h i else a) 0) 1099511627776

/-- One sample of a bridge between two domains at phase ph of the source's sample, saturated to w bits; A and N go through
V (R21). -/
def bridgeOut (w dFrom dTo ph : Nat) (h : List Int) : Int :=
  let f := domFs dFrom
  let t := domFs dTo
  satN w (if dFrom = 0 ∧ dTo = 2 then
      decimate 16000 8000 ((upTo 121).map fun i => satN w (decimate 48000 16000 (h.drop (3 * i))))
    else if dFrom = 2 ∧ dTo = 0 then
      interpolate 16000 48000 3 (ph % 3) ((upTo 61).map fun i =>
        satN w (interpolate 8000 16000 2 ((ph / 3 + i) % 2) (h.drop ((i + 1 - ph / 3) / 2))))
    else if dFrom < dTo then decimate f t h
    else interpolate f t (t / f) ph h)

/-- One block of a source converted from one domain to another, saturated to w bits. -/
def bridgeBlk (w : Nat) (dFrom dTo : Nat) (h blk : List Int) : List Int :=
  if dFrom = dTo then blk
  else (upTo (domSpb dTo)).map fun j =>
    let p := j * domSpb dFrom
    bridgeOut w dFrom dTo (p % domSpb dTo / domSpb dFrom) (histAdd h (blk.take (p / domSpb dTo + 1)))

/-- Largest magnitude of a block. -/
def peak (l : List Int) : Nat := l.foldl (fun m x => max m x.natAbs) 0

/-! ### Meters (R113, R114) -/

/-- Level code of a magnitude: 0.01 dB, from -14400 to +4800 (R113). -/
def levCode (v : Nat) : Int := clampI (-14400) 4800 (rdiv (lev (v : Int)) 1000000000000)

/-- Meters of a fresh entry. -/
def Met.zero : Met := ⟨-14400, -14400, -14400, 0, -14400, false, false, false, 0, [], -14400 * 4000, 0, false⟩

/-- The held peak after a block (R114). -/
def Met.hold (m : Met) (p : Int) (pkHold pkDecay : Nat) : Met :=
  if m.held ≤ p * 4000 then { m with held := p * 4000, holdLeft := pkHold, holdpk := p }
  else if 0 < m.holdLeft then { m with holdLeft := m.holdLeft - 250 }
  else
    let h := max (m.held - pkDecay) (-14400 * 4000)
    { m with held := h, holdpk := rdiv h 4000 }

/-- Meters of a block of samples (R113): pre and post points, most negative c. -/
def Met.step (m : Met) (fs : Nat) (pre post : List Int) (gr : Int) (isOver gated dual : Bool) (blk pkHold pkDecay : Nat) : Met :=
  let sum := post.foldl (fun a x => a + x.natAbs * x.natAbs) 0
  let win := (sum :: m.win).take 1200
  let n := 1200 * fs / 4000
  let tot := win.foldl (· + ·) 0
  let p := levCode (peak post)
  let pw := dbPower tot (n * 70368744177664)
  let hot := decide (lev (peak post : Nat) > 4800 * cB) || decide (lev (peak pre : Nat) > 4800 * cB) ||
    decide (tot ≠ 0 ∧ pw > 4800 * cB)
  ({ m with
      prepk := levCode (peak pre), postpk := p,
      rms := if tot = 0 then -14400 else clampI (-14400) 4800 (rdiv pw 1000000000000),
      gr := clampI (-14400) 0 (rdiv gr 1000000000000), isOver := isOver || hot, gated := gated, dual := dual, block := blk, win := win }).hold
    p pkHold pkDecay

/-- Mirror record of 16 bytes (R115). -/
def Met.record (m : Met) : List Byte :=
  natLe 2 (unsgn 16 m.prepk) ++ natLe 2 (unsgn 16 m.postpk) ++ natLe 2 (unsgn 16 m.rms) ++ natLe 2 (unsgn 16 m.gr) ++
  natLe 2 (unsgn 16 m.holdpk) ++ [BitVec.ofNat 8 (1 + 2 * b2n m.isOver + 4 * b2n m.gated + 8 * b2n m.dual), 0] ++ natLe 4 m.block

/-- Mirror record with VALID 0 (R116). -/
def recordOff (blk : Nat) : List Byte :=
  let l := natLe 2 (unsgn 16 (-14400))
  l ++ l ++ l ++ [0, 0] ++ l ++ [0, 0] ++ natLe 4 blk

/-! ### Fresh run state (R44) -/

def Filt.zero (act : Mem) : Filt := ⟨act, List.replicate 9 Biq.zero, List.replicate 9 Biq.zero, List.replicate 9 0, []⟩

/-- Cleared state of an entry that becomes active (R44, R105). DESIGN CHOICE (notes/assumptions/72.md): the factor s_prev of R124
before a bus's first block is that of a count below 1, 1.0. -/
def Run.start (act : Mem) : Run :=
  { filt := Filt.zero act, gate := gateStart (act.sle 0x34 2), comp := 0, ms := some 0, age := 0,
    pre := [], post := [], key := [], acc := [], tilt := Biq.zero, hPre := [], hPost := [], hAcc := [],
    pkPre := [], pkPost := [], ns := 0, nsPrev := 0, duck := 0, duckPrev := 0, duckSet := 0, duckRel := none, duckNew := true, safe := 0, isOver := false,
    met := Met.zero }

end Sys2Proof.Machine
end

