-- ==== Sys2Proof/Machine/Chain.lean ====
section
/-! DEFINITION. Changes of an entry at their sample (R43, R44, R73, R75 to R79) and the chains of strips, buses and outputs,
sample by sample (R96, R129, R131). -/

namespace Sys2Proof.Machine

/-! ### Working store -/

/-- The slot of an index that has none yet: an inactive entry of zero image. -/
def Ent.blank (n : Nat) : Ent :=
  { idx := n, img := Mem.zero, act := Mem.zero, forced := true, held := false, faulted := false, noCopy := false, err := 0, lastCsn := 0,
    lastNsc := 0, head := 0xFFFFFFFF, list := [], chg := [], ramps := [], wait := none, badBursts := [], add := 0, live := false,
    run := Run.start Mem.zero }

/-- Slot of an entry. -/
def State.ent (s : State) (n : Nat) : Ent := (s.mix.ents.find? fun e => e.idx = n).getD (Ent.blank n)

/-- Insertion in ascending index. -/
def entPut (e : Ent) : List Ent → List Ent
  | [] => [e]
  | a :: r => if a.idx < e.idx then a :: entPut e r else if a.idx = e.idx then e :: r else e :: a :: r

def State.entSet (s : State) (e : Ent) : State := { s with mix := { s.mix with ents := entPut e s.mix.ents } }

/-- Record in the cache that has none yet: sixteen zero bytes. -/
def Xp.blank (n : Nat) : Xp :=
  { idx := n, img := Mem.zero, bad := false, on := false, chg := [], ramps := [], wait := none, target := Mem.zero, since := 40 }

def State.xp (s : State) (n : Nat) : Xp := (s.mix.xps.find? fun x => x.idx = n).getD (Xp.blank n)

def xpPut (x : Xp) : List Xp → List Xp
  | [] => [x]
  | a :: r => if a.idx < x.idx then a :: xpPut x r else if a.idx = x.idx then x :: r else x :: a :: r

def State.xpSet (s : State) (x : Xp) : State := { s with mix := { s.mix with xps := xpPut x s.mix.xps } }

/-- Domain an entry runs in. -/
def Ent.dom (e : Ent) : Nat := Img.dom e.act

/-- Domain of a bus. -/
def State.busDom (s : State) (b : Nat) : Nat := (s.ent (1536 + b)).dom

/-- The entry's fade-out is over before index u (R44). -/
def Ent.faded (e : Ent) (u : Nat) : Bool :=
  match rampOf e.ramps .active with
  | some r => r.m1.1 = 0 && r.isOver e.dom u
  | none => false

/-- The entry is processed at index u: active, or fading out (R44). -/
def Ent.runs (e : Ent) (u : Nat) : Bool := e.live && !e.faded u

/-- A dual path runs at index u (R78). -/
def Ent.dualAt (e : Ent) (u : Nat) : Bool :=
  match rampOf e.ramps (.filter 0) with
  | some r => !r.isOver e.dom u
  | none => false

/-- STATE of the status area (R42). -/
def Ent.state (e : Ent) (u : Nat) : Nat :=
  if e.faulted then 4 else if e.held then 3 else if !e.runs u then 0 else if e.dualAt u then 2 else 1

/-- Status area bytes 0x1C0 to 0x1CF (R42). -/
def Ent.status (e : Ent) (u : Nat) : List Byte :=
  natLe 6 e.lastCsn ++ [BitVec.ofNat 8 (e.state u), e.err] ++ natLe 8 e.lastNsc

/-! ### Changes at their sample (R73) -/

/-- Word changes folded onto an image. -/
def applyRecs (m : Mem) (rs : List WordChg) : Mem := rs.foldl (fun m r => m.maskSet r.off r.mask r.val) m

/-- A change touches bits of the word at an offset. -/
def Chg.touches (c : Chg) (off : Nat) (mask : Word) : Bool := c.recs.any fun r => r.off = off && (r.mask &&& mask) ≠ 0

/-- Bytes of section i whose change runs a dual path (R75, R103): all of a RAW section, else MODE, TYPE, GAIN, FREQ and Q; the
detector's fields and DSIDE switch at the target. -/
def secSpan (k i : Nat) (old new : Mem) : Nat :=
  if Img.secMode (Img.secOff k i) old = 1 ∨ Img.secMode (Img.secOff k i) new = 1 then 0x18 else 0xA

/-- A change touches filter sections or BYPASS bits 1 to 4 (R75), from one image to another. -/
def Chg.filters (c : Chg) (k : Nat) (old new : Mem) : Bool :=
  c.touches 0 0x001E0000#32 || (Img.secs k).any fun i => c.recs.any fun r =>
    Img.secOff k i ≤ r.off && r.off < Img.secOff k i + secSpan k i old new &&
      (r.mask &&& (if Img.secOff k i + secSpan k i old new < r.off + 4 then 0xFFFF#32 else 0xFFFFFFFF#32)) ≠ 0

/-- Image of the filter stages while a filter change waits: new fields outside the sections and BYPASS bits 1 to 4 (R79). -/
def filtMix (k : Nat) (old new : Mem) : Mem :=
  let m := (Img.secs k).foldl (fun m i => m.setN (Img.secOff k i) (old.getN (Img.secOff k i) (secSpan k i old new))) new
  m.maskSet 0 0x001E0000#32 (old.word 0)

/-- A stage that leaves bypass starts from cleared state (R33): bits 1 to 4 as the filter images have them, bits 5 and 7 as the
entry's images have them. -/
def Run.cleared (r : Run) (fOld fNew old new : Mem) : Run :=
  let opens (b : Nat) := Img.byp fOld b && !Img.byp fNew b
  let leaves (b : Nat) := Img.byp old b && !Img.byp new b
  { r with
      filt := { r.filt with
        sec := if opens 1 then r.filt.sec.set 0 Biq.zero else r.filt.sec
        look := if opens 4 then [] else r.filt.look }
      gate := if opens 2 then gateStart (new.sle 0x34 2) else r.gate
      comp := if opens 4 then 0 else r.comp
      ms := if opens 4 then some 0 else r.ms
      age := if leaves 5 then 0 else r.age
      safe := if leaves 7 then 0 else r.safe }

/-- The ramp a change starts for one field, unless the change does not touch it. -/
def Chg.ramp (c : Chg) (hit : Bool) (f : RampFld) (m0 m1 : Int × Int) (old : List (Nat × Nat)) (rs : List Ramp) : List Ramp :=
  if hit then setRamp rs ⟨f, c.t, c.n, c.shape, c.csn, m0, m1, old, none⟩ else rs

/-- Polarity as a multiplier. -/
def polM (m : Mem) : Int := if Img.pol m then -one27 else one27
def muteM (k : Nat) (m : Mem) : Int := (onL (!Img.mute k m)).1

/-- One destination of an output: the code. -/
def destOf (m : Mem) (i : Nat) : Nat := Img.dest m i

/-- Scale factor for SCALE and a smoothed count in units of 2^-32 (R124). -/
def scaleOf (scale ns : Nat) : Int :=
  if scale = 1 ∨ scale = 2 then (if ns ≤ 4294967296 then one27 else (scaleFactor scale ns : Int)) else one27

/-- Scale factor of a bus at index u (R124): from the factor of the previous block's count to that of this block's, and a
running ramp of SCALE from the factor it started at (R75, R77). -/
def Ent.scaleAt (e : Ent) (u : Nat) : Int :=
  let n := domSpb e.dom
  let s0 := scaleOf (Img.scale e.act) e.run.nsPrev
  let s1 := scaleOf (Img.scale e.act) e.run.ns
  let lin := s0 + rdiv ((s1 - s0) * ((u % n + 1 : Nat) : Int)) n
  match rampOf e.ramps .scale with
  | none => lin
  | some r => xfade (fadeW r.shape (r.pos e.dom u) (r.len e.dom)) r.m0.1 lin

/-- Multiplier ramps, tap and source crossfades started by a change at index u (R75, R77). POLARITY has no dB form (R76). -/
def Ent.startRamps (e : Ent) (c : Chg) (u : Nat) (new : Mem) : List Ramp :=
  let k := kindOf e.idx
  let d := e.dom
  let z2 : Int × Int := (0, 0)
  let at_ (f : RampFld) (st : Int × Int) := lvlAt e.ramps f d u st
  let rs := e.ramps
  let rs := c.ramp (k ≠ 3 && c.touches 4 0xFFFF0000#32) .trim (at_ .trim (gainL (Img.trim e.act))) (gainL (Img.trim new)) [] rs
  let rs := { c with shape := if c.shape = 1 then 0 else c.shape }.ramp (k ≠ 3 && c.touches 8 1#32) .pol
    (at_ .pol (polM e.act, 0)) (polM new, 0) [] rs
  let f := Img.fadOff k
  let rs := c.ramp (c.touches f 0xFFFF#32) .fader (at_ .fader (gainL (Img.fader k e.act))) (gainL (Img.fader k new))
    [(b2n (Img.fader k e.act = -32768), 0)] rs
  let rs := c.ramp (c.touches f 0x10000#32) .mute (at_ .mute (onL (!Img.mute k e.act))) (onL (!Img.mute k new))
    [(b2n (Img.mute k e.act), 0)] rs
  let y := Img.dynOff k
  let rs := c.ramp (c.touches (y + 8) 0xFFFF#32) .makeup (at_ .makeup (gainL (e.act.sle (y + 8) 2))) (gainL (new.sle (y + 8) 2)) [] rs
  let rs := c.ramp (k = 2 && c.touches 0x34 0xFFFF#32) .duckDepth (at_ .duckDepth (gainL (Img.duckDepth e.act)))
    (gainL (Img.duckDepth new)) [] rs
  let rs := c.ramp (k ≠ 2 && c.touches 4 0xFFFF#32) .input z2 z2 (mixAt e.ramps .input d u (Img.input e.act)).old rs
  let z := Img.dlyOff k
  let rs := c.ramp (c.touches (z + 12) 0xFFFFFFFF#32) .dly z2 z2 (mixAt e.ramps .dly d u (min (Img.dly k e.act + e.add) (Img.dlyCap k e.act))).old rs
  let rs := c.ramp (c.touches (y + 0x14) 0xFFFFFFFF#32) .look z2 z2 (mixAt e.ramps .look d u (lookD y (domFs d) e.act)).old rs
  let rs := c.ramp (k = 2 && c.touches 0x30 3#32) .scale (e.scaleAt u, 0) z2 [] rs
  if k = 3 then [0, 1, 2, 3].foldl (fun rs i =>
    c.ramp (c.touches (0xD0 + 8 * i) 0xFFFF#32) (.dest i) z2 z2 (mixAt e.ramps (.dest i) d u (Img.dest e.act i)).old rs) rs else rs

/-- Effect of a change of ACTIVE at index u (R44): starting, also after a fade-out's last sample, fading in, fading out, reversing
a fade-out. An entry that starts has no old sections. -/
def Ent.activity (e : Ent) (c : Chg) (u : Nat) (now : Bool) : Ent :=
  let alive := e.runs u
  let cur := lvlAt e.ramps .active e.dom u (onL alive)
  let fade (m0 m1 : Int × Int) : List Ramp := setRamp e.ramps ⟨.active, c.t, c.n, c.shape, c.csn, m0, m1, [], none⟩
  let out := match rampOf e.ramps .active with
    | some r => r.m1.1 = 0
    | none => false
  if now && !alive then
    { e with live := true, wait := none, run := Run.start e.act
             ramps := (fade (onL false) (onL true)).filter fun r => r.fld ≠ .filter 0 }
  else if now && out then { e with ramps := fade cur (onL true) }
  else if !now && alive && !out then (if c.n = 0 then { e with live := false, ramps := [], wait := none }
    else { e with ramps := fade cur (onL false) })
  else e

/-- Zone of an index, if it has a record in force. -/
def State.zone (s : State) (z : Nat) : Option Zone := s.mix.zones.find? fun x => x.idx = z

/-- Alignment of an output's image in samples of its domain (R147, R151). -/
def State.alignOf (s : State) (m : Mem) : Nat :=
  match s.zone (Img.zone m) with
  | some z => if (z.img.get 0).getLsbD 0 then (rdiv (z.align : Int) (domDiv (Img.dom m))).toNat else 0
  | none => 0

/-- A change takes effect in an entry at index u of its domain (R73): fields, ramps, dual path or wait, activity. An entry without
a valid copy stays inactive (R57). DESIGN CHOICES (notes/assumptions/73.md): a filter change with a ramp of 0 on an entry that
holds a dual path ends that path at once; one on an entry whose change waits joins the waiting change, which keeps its target and
its ramp. -/
def State.entApply (s : State) (e : Ent) (c : Chg) (u : Nat) : Ent :=
  let k := kindOf e.idx
  let img := applyRecs e.img c.recs
  let cp := s.compile e.idx img
  let new := cp.1.img
  let old := e.act
  let rs := e.startRamps c u new
  let flt := c.filters k e.run.filt.act new && e.runs u
  let dual := flt && c.n ≠ 0
  let waits := (dual && (!c.slot || e.dualAt u)) || (e.wait.isSome && flt)
  let rs := if dual && !waits then
      setRamp rs ⟨.filter 0, c.t, c.n, c.shape, c.csn, (0, 0), (0, 0), [], some e.run.filt⟩
    else if flt && !waits then rs.filter (fun r => r.fld ≠ .filter 0) else rs
  let fa := if waits || e.wait.isSome then filtMix k e.run.filt.act new else new
  let run := e.run.cleared e.run.filt.act fa old new
  let e := { e with
    img := img, act := new, forced := cp.2 || e.noCopy, ramps := rs
    add := if k = 3 then s.alignOf new else 0
    run := { run with filt := { run.filt with act := fa } }
    wait := if waits && dual then some ⟨c.t, c.csn, c.n, c.shape⟩ else e.wait }
  e.activity c u (Img.active new && !e.forced)

/-- Changes due at or before index u take effect, in order. -/
def State.entUpTo (s : State) (e : Ent) (u : Nat) : Ent :=
  let due := e.chg.filter fun c => domCeil (Img.dom e.act) c.t ≤ u
  due.foldl (fun e c => s.entApply e c u) { e with chg := e.chg.filter fun c => u < domCeil (Img.dom e.act) c.t }

/-! ### Stages of a chain -/

/-- What a chain needs from outside: samples of sources at each position, key taps of other entries, and a bus's servo and duck
gains and whether its sum saturated. -/
structure Feed where
  src : Nat → Nat → Int
  key : Nat → Nat → Int
  servo : Nat → Int × Int
  tiltF : Nat
  duck : Nat → Int × Nat × Nat
  srcOv : Nat → Bool

/-- One chain at work: entry, bulk memory, the block's results newest first, flags, most negative c, whether a sample was
processed and whether the entry held a dual path at one (R115, R116). -/
structure Wk where
  e : Ent
  bulk : Mem
  inp : List Int
  pre : List Int
  post : List Int
  key : List Int
  acc : List Int
  ov : Bool
  dlyErr : Bool
  gr : Int
  sl : Bool
  on : Bool
  dual : Bool
  deriving DecidableEq, Repr

/-- Key sample of a side-chain field: 0xFFFF is the entry's own signal, an index out of range is silence (R104). -/
def sideKey (f : Feed) (side k : Nat) (own : Int) : Int := if side = 0xFFFF then own else if side < 3072 then f.key side k else 0

/-- One section of a set of sections (R101), bypassed by its stage bit (R33). -/
def Filt.section (f : Filt) (kind fs i : Nat) (share : Option Int) (key : Nat → Int) (x : Int) : SecOut :=
  let o := Img.secOff kind i
  if Img.byp f.act (if i = 0 then 1 else 3) then ⟨Biq.zero, Biq.zero, 0, x, false⟩
  else
    let side := Img.secSide o f.act
    secStep o fs f.act (f.sec.getD i Biq.zero) (f.key.getD i Biq.zero) (f.dyn.getD i 0) share (if side = 0xFFFF then none else some (key side)) x

/-- Section i of two sets of sections differs (R75): their fields or their stage bit. -/
def secDiffers (kind i : Nat) (a b : Mem) : Bool :=
  a.getN (Img.secOff kind i) (secSpan kind i a b) ≠ b.getN (Img.secOff kind i) (secSpan kind i a b) ||
    Img.byp a (if i = 0 then 1 else 3) ≠ Img.byp b (if i = 0 then 1 else 3)

/-- The old sections of a running dual path at index u, with its weight. -/
def Ent.dual (e : Ent) (u : Nat) : Option (Filt × (Nat × Nat)) :=
  match rampOf e.ramps (.filter 0) with
  | some r =>
    match r.filt with
    | some f => if r.isOver e.dom u then none else some (f, fadeW r.shape (r.pos e.dom u) (r.len e.dom))
    | none => none
  | none => none

/-- The old sections of the dual path with new states. -/
def Ent.dualPut (e : Ent) (f : Filt) : Ent :=
  { e with ramps := e.ramps.map fun r => if r.fld = .filter 0 then { r with filt := some f } else r }

/-- Section i of a set with new states. -/
def Filt.put (f : Filt) (i : Nat) (o : SecOut) : Filt :=
  { f with sec := f.sec.set i o.st, key := f.key.set i o.key, dyn := f.dyn.set i o.c }

/-- Section i of a set is dynamic. -/
def Filt.isDyn (f : Filt) (kind i : Nat) : Bool :=
  !Img.byp f.act (if i = 0 then 1 else 3) && Img.secMode (Img.secOff kind i) f.act = 2 && Img.secDyn (Img.secOff kind i) f.act

/-- One section of a chain, with its dual path (R78, R101): both paths of a dynamic section share the new one's detector state
(R103). -/
def Wk.sec (f : Feed) (u k i : Nat) (wx : Wk × Int) : Wk × Int :=
  let w := wx.1
  let x := wx.2
  let kind := kindOf w.e.idx
  let fs := domFs w.e.dom
  let key (n : Nat) : Int := sideKey f n k 0
  let new := w.e.run.filt.section kind fs i none key x
  let e := { w.e with run := { w.e.run with filt := w.e.run.filt.put i new } }
  match w.e.dual u with
  | none => ({ w with e := e, ov := w.ov || new.ov }, new.y)
  | some (fo, wt) =>
    let old := fo.section kind fs i (if w.e.run.filt.isDyn kind i then some new.c else none) key x
    let e := e.dualPut (fo.put i old)
    ({ w with e := e, ov := w.ov || new.ov || old.ov },
      if secDiffers kind i fo.act w.e.run.filt.act then xfade wt old.y new.y else new.y)

/-- Trim and polarity (R98). -/
def Wk.trim (u : Nat) (w : Wk) (x : Int) : Wk × Int :=
  if Img.byp w.e.act 0 then (w, x)
  else
    let d := w.e.dom
    let m := mulM (multAt w.e.ramps .trim d u (gainM (Img.trim w.e.act))) (multAt w.e.ramps .pol d u (polM w.e.act))
    ({ w with ov := w.ov || rqMulOver x m }, rqMul x m)

/-- A stage that BYPASS bit b takes in or out, crossfaded while a dual path runs (R75). -/
def Ent.stageFade (e : Ent) (u b : Nat) (through on : Int) : Int :=
  let now := if Img.byp e.run.filt.act b then through else on
  match e.dual u with
  | none => now
  | some (fo, wt) => xfade wt (if Img.byp fo.act b then through else on) now

/-- Whether a stage runs: not bypassed now or in the old path. -/
def Ent.stageRuns (e : Ent) (u b : Nat) : Bool :=
  !Img.byp e.run.filt.act b || (match e.dual u with
    | none => false
    | some (fo, _) => !Img.byp fo.act b)

/-- The gate of a strip (R105). -/
def Wk.gate (f : Feed) (u k : Nat) (w : Wk) (x : Int) : Wk × Int :=
  if !w.e.stageRuns u 2 then (w, x)
  else
    let g := gateStep (domFs w.e.dom) w.e.act w.e.run.gate (sideKey f (w.e.act.le 0x36 2) k x)
    let m := gateMult w.e.act g
    let e := { w.e with run := { w.e.run with gate := g } }
    ({ w with e := e, ov := w.ov || rqMulOver x m }, e.stageFade u 2 x (rqMul x m))

/-- The dynamics block (R107 to R109); c counts for the GR meter in the samples whose stage is not bypassed (R113). -/
def Wk.comp (f : Feed) (u k : Nat) (w : Wk) (x : Int) : Wk × Int :=
  if !w.e.stageRuns u 4 then (w, x)
  else
    let kind := kindOf w.e.idx
    let o := Img.dynOff kind
    let d := w.e.dom
    let r := compStep o (domFs d) (kind = 3) w.e.act w.e.run.ms w.e.run.comp (sideKey f (w.e.act.le (o + 0xA) 2) k x)
    let look := (x :: w.e.run.filt.look).take 97
    let xd := mixVal (mixAt w.e.ramps .look d u (lookD o (domFs d) w.e.act)) (nth look)
    let m := [dbM r.2, multAt w.e.ramps .makeup d u (gainM (w.e.act.sle (o + 8) 2))]
    let e := { w.e with run := { w.e.run with ms := r.1, comp := r.2, filt := { w.e.run.filt with look := look } } }
    let gr := if Img.byp w.e.run.filt.act 4 then w.gr else min w.gr r.2
    ({ w with e := e, ov := w.ov || rqMulLOver xd m, gr := gr }, e.stageFade u 4 x (rqMulL xd m))

/-- The delay (R110, R111, R132): each tap is read before the sample of its index is written; the alignment adds to DLY. -/
def Wk.delay (u : Nat) (w : Wk) (x : Int) : Wk × Int :=
  let kind := kindOf w.e.idx
  let m := w.e.act
  if Img.byp m 5 then (w, x)
  else
    let cap := Img.dlyCap kind m
    let a := Img.dlyAddr kind m
    let bad (d : Nat) : Bool := w.e.badBursts.any fun b => b ≤ u - d && u - d < b + 16
    let tap (d : Nat) : Int :=
      if d = 0 then x else if w.e.run.age < d ∨ u < d then 0 else if bad d then 0
      else w.bulk.sle (a + 4 * ((u - d) % cap)) 4
    let mix := mixAt w.e.ramps .dly w.e.dom u (min (Img.dly kind m + w.e.add) cap)
    let err := mix.1.any fun p => p.1 ≠ 0 && bad p.1
    ({ w with
        bulk := w.bulk.putLe (a + 4 * (u % cap)) 4 (unsgn 32 x)
        dlyErr := w.dlyErr || err
        e := { w.e with run := { w.e.run with age := min (w.e.run.age + 1) cap } } },
      mixVal mix tap)

/-- The multipliers of FADER and MUTE, which one requantisation follows (R112); none with BYPASS bit 6. -/
def Ent.fadM (e : Ent) (u : Nat) : List Int :=
  let kind := kindOf e.idx
  if Img.byp e.act 6 then []
  else [multAt e.ramps .fader e.dom u (gainM (Img.fader kind e.act)), multAt e.ramps .mute e.dom u (muteM kind e.act)]

/-- The fade of ACTIVE at index u (R44). -/
def Ent.fade (e : Ent) (u : Nat) : Int := multAt e.ramps .active e.dom u (if e.live then one27 else 0)

/-- A sample under a fade; 1.0 leaves it as it is. -/
def faded (m x : Int) : Int := if m = one27 then x else rqMul x m

/-- One sample of a strip (R96). -/
def Wk.strip (f : Feed) (u k : Nat) (w : Wk) : Wk :=
  if !w.e.runs u then { w with inp := 0 :: w.inp, pre := 0 :: w.pre, post := 0 :: w.post, key := 0 :: w.key }
  else
    let x := mixVal (mixAt w.e.ramps .input w.e.dom u (Img.input w.e.act)) fun c => f.src c k
    let w := { w with inp := x :: w.inp, on := true, dual := w.dual || w.e.dualAt u }
    let r := w.trim u x
    let r := Wk.sec f u k 0 r
    let r := r.1.gate f u k r.2
    let r := [1, 2, 3, 4, 5, 6, 7, 8].foldl (fun r i => Wk.sec f u k i r) r
    let r' := r.1.comp f u k r.2
    let r' := r'.1.delay u r'.2
    let w := r'.1
    let m := w.e.fadM u
    let y := rqMulL r'.2 m
    let fa := w.e.fade u
    { w with pre := faded fa r'.2 :: w.pre, post := faded fa y :: w.post, key := r.2 :: w.key
             ov := w.ov || rqMulLOver r'.2 m }

/-- The largest magnitude that exceeds CEIL by no more than 0.001 dB (R130). -/
def ceilMax (c : Int) : Int := powQ (c * cB + cB / 10) / 9444732965739290427392

/-- The safety limiter of a bus (R130): no sample exceeds CEIL by more than 0.001 dB. -/
def Wk.safety (w : Wk) (x : Int) : Wk × Int :=
  let m := w.e.act
  if Img.byp m 7 then (w, x)
  else
    let g := min 0 (Img.ceil m * cB - lev x)
    let c := if g < w.e.run.safe then g else smooth (Img.slRel m) (domFs w.e.dom) w.e.run.safe g
    ({ w with e := { w.e with run := { w.e.run with safe := c } }, sl := w.sl || c < 0, ov := w.ov || rqMulOver x (dbM c) },
      clampI (-(ceilMax (Img.ceil m))) (ceilMax (Img.ceil m)) (rqMul x (dbM c)))

/-- The tilt shelf of an announcement bus (R153): y = x + (gt - 1) hp(x). -/
def Wk.tilt (f : Feed) (k : Nat) (w : Wk) (x : Int) : Wk × Int :=
  if f.tiltF = 0 then (w, x)
  else
    let fs := domFs w.e.dom
    let fr := min f.tiltF (fMax w.e.dom).toNat
    let r := biqStep (paramCoef 4 fs 0 fr 707) w.e.run.tilt x
    let v := toAcc x + mulS (rqAcc r.2.1) (dbM (f.servo k).2 - one27)
    ({ w with e := { w.e with run := { w.e.run with tilt := r.1 } }, ov := w.ov || r.2.2 || rqOver v }, rqAcc (satN 40 v))

/-- The duck gain of a bus one sample on (R127): target, attack and release of the buses that govern it. -/
def Wk.duckStep (f : Feed) (k : Nat) (w : Wk) : Wk :=
  let d := f.duck k
  let c := w.e.run.duck
  let c' := if w.e.run.duckNew then d.1 else smooth (if d.1 < c then d.2.1 else d.2.2) (domFs w.e.dom) c d.1
  { w with e := { w.e with run := { w.e.run with duck := c', duckNew := false } } }

/-- One sample of a bus (R120, R129): `f.src 0 k` is the sum of its terms in accumulator format. -/
def Wk.bus (f : Feed) (u k : Nat) (w : Wk) : Wk :=
  if !w.e.runs u then { w with inp := 0 :: w.inp, pre := 0 :: w.pre, post := 0 :: w.post, key := 0 :: w.key }
  else
    let v := mulA (f.src 0 k) (w.e.scaleAt u)
    let x := rqAcc (satN 40 v)
    let w := { w with inp := x :: w.inp, ov := w.ov || rqOver v || f.srcOv k, on := true, dual := w.dual || w.e.dualAt u }
    let r := w.trim u x
    let r := [0, 1, 2, 3, 4, 5, 6, 7, 8].foldl (fun r i => Wk.sec f u k i r) r
    let q := r.1.comp f u k r.2
    let q := q.1.delay u q.2
    let t := q.1.tilt f k q.2
    let w := t.1.duckStep f k
    let m := w.e.fadM u ++ [dbM120 w.e.run.duck, dbM (f.servo k).1]
    let z := { w with ov := w.ov || rqMulLOver t.2 m }.safety (rqMulL t.2 m)
    let fa := z.1.e.fade u
    { z.1 with pre := faded fa q.2 :: z.1.pre, post := faded fa z.2 :: z.1.post, key := r.2 :: z.1.key }

/-- One sample of an output (R131): `f.src b k` is the output of bus b in the output's domain. -/
def Wk.output (f : Feed) (u k : Nat) (w : Wk) : Wk :=
  if !w.e.runs u then { w with inp := 0 :: w.inp, post := 0 :: w.post, key := 0 :: w.key, acc := 0 :: w.acc }
  else
    let x := mixVal (mixAt w.e.ramps .input w.e.dom u (Img.input w.e.act)) fun c => f.src c k
    let w := { w with inp := x :: w.inp, on := true, dual := w.dual || w.e.dualAt u }
    let r := [1, 2, 3, 4].foldl (fun r i => Wk.sec f u k i r) (w, x)
    let q := r.1.comp f u k r.2
    let q := q.1.delay u q.2
    let w := q.1
    let m := w.e.fadM u
    let v := mulSL q.2 m
    let fa := w.e.fade u
    let v := if fa = one27 then satN 40 v else satN 40 (mulA (satN 40 v) fa)
    { w with acc := v :: w.acc, post := rqAcc v :: w.post, key := r.2 :: w.key, ov := w.ov || rqOver v }

/-- One sample of an entry of its kind, after the changes due at its index (R73). -/
def Wk.sample (s : State) (f : Feed) (u0 : Nat) (w : Wk) (k : Nat) : Wk :=
  let w := { w with e := s.entUpTo w.e (u0 + k) }
  if kindOf w.e.idx = 1 then w.strip f (u0 + k) k
  else if kindOf w.e.idx = 2 then w.bus f (u0 + k) k
  else w.output f (u0 + k) k

def Wk.start (e : Ent) (bulk : Mem) : Wk := ⟨e, bulk, [], [], [], [], [], false, false, 0, false, false, false⟩

/-- Capture block b of an entry through its chain (R15, R73), with the number of samples its engine finished (R22): the
others are zeros. -/
def State.runBlock (s : State) (f : Feed) (b done : Nat) (e : Ent) (bulk : Mem) : Wk :=
  let d := e.dom
  let n := domSpb d
  let w := (upTo n).foldl (fun w k => w.sample s f (b * n) k) (Wk.start e bulk)
  let cut (l : List Int) : List Int := (l.reverse.take done) ++ List.replicate (n - done) 0
  { w with inp := cut w.inp, pre := cut w.pre, post := cut w.post, key := cut w.key, acc := cut w.acc }

/-- An entry that is not processed in a block: it delivers nothing. -/
def Ent.silent (e : Ent) : Ent :=
  { e with run := { e.run with
      pre := [], post := [], key := [], acc := [], hPre := [], hPost := [], hAcc := [], pkPre := [], pkPost := [], isOver := false } }

/-- The entry after its block: kept results, bridge histories and meters (R113). Its gate is the one its filter image has in force,
also while a change of BYPASS waits (R79, R106). -/
def Wk.finish (w : Wk) (b : Nat) : Ent :=
  let e := w.e
  let k := kindOf e.idx
  let gated := k = 1 && !Img.byp e.run.filt.act 2 && e.run.gate.st = 0
  if !w.on then e.silent
  else
    { e with
        badBursts := []
        run := { e.run with
          pre := w.pre, post := w.post, key := w.key, acc := w.acc, isOver := w.ov
          hPre := histAdd e.run.hPre w.pre, hPost := histAdd e.run.hPost w.post, hAcc := histAdd e.run.hAcc w.acc
          pkPre := (peak w.pre :: e.run.pkPre).take 40, pkPost := (peak w.post :: e.run.pkPost).take 40
          met := e.run.met.step (domFs e.dom) w.inp w.post w.gr w.ov gated w.dual b
            (Img.pkHold k e.act) (Img.pkDecay k e.act) } }

end Sys2Proof.Machine
end

