-- ==== Sys2Proof/Machine/Journal.lean ====
section
/-! DEFINITION. Hitch messages and the twin journal as far as direct writes and accepted operations need them (R379, R391,
R392). -/

namespace Sys2Proof.Machine

def State.twinSet (s : State) (t : Twin) : State := { s with twin := t }

/-! ### Ethernet ports and peer entries (R291, R308, R309) -/

def State.netSet (s : State) (n : Net) : State := { s with net := n }

/-- Ethernet port p. -/
def State.nport (s : State) (p : Nat) : Port := s.net.ports.getD p Port.reset
def State.nportSet (s : State) (p : Nat) (x : Port) : State := s.netSet { s.net with ports := s.net.ports.set p x }

def State.portEn (s : State) (p : Nat) : Bool := s.rwBit (rPort p) 31

/-- The port sends and receives. -/
def State.portUp (s : State) (p : Nat) : Bool := s.up secStr && s.portEn p && (s.nport p).link

abbrev rPeerBase : Nat := wStr + 0x0108

def State.peerBase (s : State) : Nat := s.base rPeerBase

/-- STR_PEERBASE.RANGEERR. -/
def State.peerErr (s : State) : Bool :=
  s.rwBit rPeerBase 30 && (!s.inBulk s.peerBase 0x100000 || s.hitsTables s.peerBase 0x100000 ||
    (s.rwBit (wMix + 0x0170) 30 && overlap s.peerBase 0x100000 s.mtrBase 0xC000) ||
    (s.rwBit (wMix + 0x018C) 30 && overlap s.peerBase 0x100000 s.znBase 0x8000))

/-- Peer entries are used. -/
def State.peerOn (s : State) : Bool := s.rwBit rPeerBase 30 && !s.peerErr

/-- A little-endian field of a record. -/
def recF (r : List Byte) (o n : Nat) : Nat := leNat ((r.drop o).take n)

/-- A peer entry as last read, if it is VALID. -/
def State.peer (s : State) (n : Nat) : Option (List Byte) :=
  if s.peerOn then (look n s.net.peers).filter fun e => bit (recF e 6 1) 0 else none

/-- Bytes written by an engine itself: the table cache marks nothing stale (R49). -/
def State.engWrite (s : State) (a : Nat) (bs : List Byte) : State :=
  { s with mem := { s.mem with bulk := s.mem.bulk.setN a bs } }

abbrev rCkBase : Nat := wStr + 0x404C

def State.ckBase (s : State) : Nat := s.base rCkBase

/-- HIT_CKBASE.RANGEERR (R400). -/
def State.ckErr (s : State) : Bool :=
  let b := s.ckBase
  !s.inBulk b 0x800000 || s.hitsTables b 0x800000 || (s.rwBit (wMix + 0x0170) 30 && overlap b 0x800000 s.mtrBase 0xC000) ||
    (s.rwBit (wMix + 0x018C) 30 && overlap b 0x800000 s.znBase 0x8000) || (s.rwBit rPeerBase 30 && overlap b 0x800000 s.peerBase 0x100000)

/-! ### Hitch frames (R378 to R380) -/

/-- Widths of the numbers that begin a message's payload, by type (R380); of a journal record, the model's own
(notes/assumptions/45.md). -/
def hitchWidths : Nat → List Nat
  | 0x01 => [1, 1, 4]
  | 0x02 => [4]
  | 0x03 => [4, 1, 1]
  | 0x04 => [8, 1]
  | 0x05 => [8]
  | 0x06 => [8, 1]
  | 0x10 => [4, 1]
  | 0x11 => [4, 6, 2]
  | 0x12 => [4, 2]
  | 0x13 => [1]
  | 0x20 => [6, 1, 6, 1, 8]
  | 0x21 => [6]
  | 0x30 => [4, 4]
  | 0x31 => [4, 6, 6, 4]
  | _ => [4, 4]

/-- The payloads of a message's frames: what does not fit into 1,484 bytes goes on in further frames that begin with the same numbers
(DESIGN CHOICE, notes/assumptions/45.md). -/
def hitchPayloads (kind : Nat) (fields : List Nat) (data : List Byte) : List (List Byte) :=
  let pre := ((hitchWidths kind).zip fields).flatMap fun p => natLe p.1 p.2
  if kind = 0x30 then [pre ++ data ++ natLe 4 (fields.getD 2 0)]
  else if data.isEmpty then [pre]
  else (splitAt (1484 - pre.length) 0 (data.length + 1) data.length).map fun p => pre ++ (data.drop p.1).take p.2

/-- One Hitch frame (R378, R379) joins queue Q1 of both ports of the pair, for the address of the peer entry, with its secure channel. -/
def State.hitchFrame (kind : Nat) (s : State) (payload : List Byte) : State :=
  let t := s.twin
  let p := 2 * b2n (s.rwBit rHitCfg 27)
  let fs : List (Nat × TxFrame) := match s.peer (s.rwBits (wStr + 0x4008) 0 14) with
    | none => []
    | some e =>
      let bs := e.take 6 ++ fit 6 0 (Config.portMac p) ++ natBe 2 (s.rwBits rHitCfg 0 16) ++ natLe 1 (if kind = 1 then 0 else t.ver) ++
        natLe 1 kind ++ natLe 2 payload.length ++ natLe 4 t.fseq ++ natLe 8 s.tim.nsc ++ payload
      let f : TxFrame := ⟨1, bs ++ List.replicate (60 - bs.length) 0, if bit (recF e 6 1) 1 then some (recF e 7 1) else none, none,
        .hitch (kind = 0x30)⟩
      ([p, p + 1].filter s.portUp).map fun n => (n, f)
  s.twinSet { t with fseq := (t.fseq + 1) % 2 ^ 32, q1 := t.q1 ++ fs }

/-- A Hitch message is sent: its type, payload numbers, payload bytes (R379, R380). -/
def State.hitch (s : State) (kind : Nat) (fields : List Nat) (data : List Byte) : State :=
  ((hitchPayloads kind fields data).foldl (State.hitchFrame kind) s).emit (.hitch kind (fields ++ [s.twin.fseq, s.tim.nsc]) data)

/-! ### The journal (R392) -/

/-- Whether the unit journals for its partner: ACTIVE, paired, digests equal (R381, R392). -/
def State.journals (s : State) : Bool := s.twin.st = 3 && s.twin.paired && !s.twin.cfgmm

/-- JSN of a record. -/
def jsnOf : JRec → Nat
  | .op j _ _ _ _ _ => j.toNat
  | .write j _ _ => j.toNat

/-- Numbers of a journal record and its bytes (R380, R392; notes/assumptions/45.md). -/
def jNums : JRec → List Nat
  | .op j c h t _ _ => [j.toNat, 0, c.toNat, h.val, t.toNat]
  | .write j a _ => [j.toNat, 1, a.toNat]
def jBytes : JRec → List Byte
  | .op _ _ _ _ desc data => desc ++ data
  | .write _ _ bs => bs

/-- A journal record leaves in a JRNL frame. -/
def State.sendJ (s : State) (r : JRec) : State := s.hitch 0x20 (jNums r) (jBytes r)

/-- A record enters the journal store, the second half of the area at HIT_CKBASE (R400): 64 bytes for each of the last 65,536, with
free content (notes/assumptions/45.md). -/
def State.jkeep (s : State) (r : JRec) : State :=
  if s.ckErr then s
  else s.engWrite (s.ckBase + 0x400000 + 64 * (jsnOf r % 65536)) (fit 64 0 (Config.journalSlot (jNums r) (jBytes r)))

/-- A journal record gets the next JSN, is kept among the last 65,536 and sent (R392). -/
def State.jput (s : State) (mk : BitVec 48 → JRec) : State :=
  let t := s.twin
  let r := mk (BitVec.ofNat 48 t.jsn)
  let s := s.twinSet { t with jsn := (t.jsn + 1) % 2 ^ 48, store := (t.store ++ [r]).drop (t.store.length + 1 - 65536) }
  (s.jkeep r).sendJ r

/-- Identity of a host in a journal record: an own one, or a partner host (R391). -/
def jHost (h : Nat) (p : Bool) : Fin 8 := ⟨h % 4 + (if p then 4 else 0), by split <;> omega⟩

/-- The release of all claims of a host that a host fault makes, as a journal record (R87, R392). -/
def State.jRelease (s : State) (h : Nat) (p : Bool) : State :=
  if s.journals then s.jput fun j =>
    .op j (BitVec.ofNat 48 s.mix.csn) (jHost h p) (BitVec.ofNat 64 s.tim.nsc) (0x12 :: List.replicate 63 0) []
  else s

/-- A standby asks for a whole checkpoint; with different digests none is sent, and SYNC stays NONE (R381). -/
def State.askAll (s : State) : State :=
  if s.twin.cfgmm then s else (s.twinSet { s.twin with sync := 1 }).hitch 0x32 [s.twin.ckno, 0xFFFFFFFF] []

/-- Whether a range touches the channel, crosspoint or zone table. -/
def State.inTables (s : State) (a n : Nat) : Bool :=
  s.hitsTables a n || (s.znOn && overlap a n s.znBase 0x8000)

/-- A direct write as the twin logic sees it: journalled by the active unit (R392), counted by a standby, which asks for a
whole checkpoint (R391). -/
def State.twinDirect (s : State) (a : Nat) (bs : List Byte) : State :=
  if !s.inTables a bs.length then s
  else if s.journals then s.jput fun j => .write j (BitVec.ofNat 40 a) bs
  else if s.twin.st = 4 ∧ s.twin.paired then (s.count (wStr + 0x4074)).askAll
  else s

end Sys2Proof.Machine
end

