-- ==== Sys2Proof/Machine/Table.lean ====
section
/-! DEFINITION. The table cache and the table engine (R27, R42, R47 to R57, R150): stale marks, send lists, re-fetch,
installation, the status area. -/

namespace Sys2Proof.Machine

/-- Master numbers of R258 as sources of direct writes: H0 to H3, or 4 for internal masters (R55). -/
def dwSrc (m : Nat) : Nat := if m < 4 then m else 4

/-- MIX_CTL.EN. -/
def State.mixEn (s : State) : Bool := s.rwBit rMixCtl 31

/-- Items of the channel, crosspoint and zone tables that a write of n bytes at a touches (R49, R150). -/
def State.itemsAt (s : State) (a n : Nat) : List Item :=
  let first (b sz : Nat) := if a ≤ b then 0 else (a - b) / sz
  let cnt (b sz tot : Nat) := if overlap a n b (sz * tot) then min tot ((a + n - b + sz - 1) / sz) - first b sz else 0
  let es := ((upTo (cnt s.ctBase 512 4096)).map (· + first s.ctBase 512)).filter
    fun i => i < 3072 && overlap a n (s.entAddr i) imgSize
  let xs := (upTo (cnt s.xpBase 16 98304)).map (· + first s.xpBase 16)
  let zs := if s.znOn then ((upTo (cnt s.znBase 128 256)).map (· + first s.znBase 128)).filter
    fun i => overlap a n (s.znAddr i) 0x40 else []
  es.map .entry ++ xs.map .xp ++ zs.map .zone

/-- Owners that a stale record makes stale: whose list includes it, or whom its SRC newly names (R49). -/
def State.ownersOf (s : State) (i : Nat) : List Item :=
  let src := s.mem.bulk.le (s.xpAddr i) 2
  let own := (s.mix.ents.filter fun e => i ∈ e.list).map fun e => Item.entry e.idx
  if src < 2048 ∧ src ≠ XpR.src (s.xp i).img ∧ Item.entry src ∉ own then own ++ [.entry src] else own

/-- Append what is not there yet. -/
def addNew (l new : List Item) : List Item := new.foldl (fun l i => if i ∈ l then l else l ++ [i]) l

/-- An item is an entry or a record. -/
def itemCounts : Item → Bool
  | .entry _ => true
  | .xp _ => true
  | _ => false

/-- An entry lies in a claim's ranges. -/
def Claim.has (c : Claim) (n : Nat) : Bool := c.ranges.any fun r => r.1 ≤ n && n < r.1 + r.2

/-- An entry is held by another host than `h` (R84); `p` says that h is a host of the twin partner. -/
def State.heldByOther (s : State) (h : Nat) (p : Bool) (n : Nat) : Bool :=
  s.mix.claims.any fun c => c.has n && !(c.host = h && c.partner = p)

/-- A READ_STATE whose images are being read out is aborted by a direct write to what it names (R86). -/
def Op.abortBy (o : Op) (hit : List Item) (tmpl : List Nat) : Op :=
  if o.kind = .readState ∧ o.part1 then
    let xp := o.args.headD 0 = 1
    let named (n : Nat) : Bool := (o.recs.any fun r => r.idx ≤ n && n < r.idx + r.off)
    if hit.any (fun i => match i with
        | .entry n => !xp && (n < 1536 || o.part2) && named n
        | .xp n => xp && o.part2 && named n
        | _ => false) || (!xp && tmpl.any named) then { o with aborted := true } else o
  else o

/-- Templates a write touches. -/
def State.templatesAt (s : State) (a n : Nat) : List Nat :=
  ((upTo 1024).map (· + 3072)).filter fun i => overlap a n (s.entAddr i) 512

/-- A direct write has reached the port: stale marks and counts (R49, R55, R150); `hold` defers the re-fetch (R54). -/
def State.observe (s : State) (m a n : Nat) (hold : Bool) : State :=
  if !s.mixEn then s
  else
    let hit := s.itemsAt a n
    let all := hit ++ (hit.flatMap fun i => match i with
      | .xp k => s.ownersOf k
      | _ => [])
    let tm := if s.mix.ops.any (fun o => o.kind = .readState) then s.templatesAt a n else []
    let s := { s with mix := { s.mix with
      stale := addNew s.mix.stale all
      deferred := if hold then addNew s.mix.deferred all else s.mix.deferred
      ops := s.mix.ops.map fun o => o.abortBy hit tm } }
    let s := if hit.any itemCounts then s.count (cDW (dwSrc m)) else s
    if hit.any (fun i => match i with
        | .entry k => s.heldByOther m false k
        | _ => false) then s.count cDWClaim else s


/-- Bytes stored in bulk memory by a master, observed by the table cache (R49, R52) unless the table engine writes them. -/
def State.bulkWrite (s : State) (m a : Nat) (bs : List Byte) (hold : Bool) : State :=
  let t := s.engWrite a bs
  if m = 10 then t else (t.observe m a bs.length hold).twinDirect a bs

/-- The status area of an entry rewritten (R42). -/
def State.putStatus (s : State) (e : Ent) (u : Nat) : State :=
  if e.idx < 3072 then s.engWrite (s.entAddr e.idx + 0x1C0) (e.status u) else s

/-- ERR bits set at run time, with the status area (R42). -/
def State.setErr (s : State) (n : Nat) (b : BitVec 8) : State :=
  let e := { s.ent n with err := (s.ent n).err ||| b }
  (s.entSet e).putStatus e (domCeil e.dom s.tim.nsc)

/-- MIX_BADADDR (R60). -/
def State.badAddr (s : State) (xp : Bool) (i : Nat) : State := s.capSet (wMix + 0x010C) (fld 31 1 (b2n xp) ||| fld 0 17 i)

/-! ### Send lists (R47, R48) -/

/-- Record content a list walk meets: the end values of a move that waits. -/
def Xp.walkImg (x : Xp) : Mem := applyRecs (if x.wait.isSome then x.target else x.img)
  ((x.chg.flatMap fun c => c.recs).filter fun r => r.off < 16)

/-- Walk of a send list: the records taken, and whether it was cut short (R48). -/
def State.walk (s : State) (owner : Nat) : Nat → Nat → List Nat × Bool
  | fuel, i =>
    if i = 0xFFFFFFFF then ([], false)
    else if 98303 < i then ([], true)
    else match fuel with
      | 0 => ([], true)
      | fuel + 1 =>
        let x := s.xp i
        if x.bad ∨ XpR.src x.walkImg ≠ owner then ([], true)
        else
          let r := s.walk owner fuel (XpR.next x.walkImg)
          (i :: r.1, r.2)

/-- A record joins or leaves a list at an installation: at once, without a ramp (R51). -/
def Xp.setOn (x : Xp) (v : Bool) : Xp :=
  if x.on = v then x else { x with on := v, ramps := x.ramps.filter fun r => r.fld ≠ .en }

/-- On-list flags of all records from the lists, for installations (a commit ramps them instead, R75). -/
def State.setOn (s : State) : State :=
  { s with mix := { s.mix with xps := s.mix.xps.map fun x => x.setOn (decide (x.idx ∈ (s.ent (XpR.src x.walkImg)).list)) } }

/-- The send list of an entry rebuilt from its head; a cut list is recorded (R48). -/
def State.relist (s : State) (n : Nat) : State :=
  let e := s.ent n
  let r := s.walk n 512 e.head
  let e := { e with list := r.1, err := if r.2 then e.err ||| 0x20#8 else e.err &&& 0xDF#8 }
  let s := s.entSet e
  if r.2 then (s.count cXpList).badAddr false n else s

/-! ### Installation (R51, R54, R55) -/

/-- Bytes of an image that change only while the entry is inactive (R43): KIND, DOMAIN, DLYADDR, DLYCAP. -/
def inactiveOnly (k : Nat) (m : Mem) : Nat × Nat × Nat × Nat :=
  (Img.kind m, Img.dom m, Img.dlyAddr k m, Img.dlyCap k m)

/-- An image with the inactive-only fields of another. -/
def keepInactive (k : Nat) (old new : Mem) : Mem :=
  let m := new.set 0 (old.get 0)
  let m := m.set 1 ((m.get 1 &&& 0xF9#8) ||| (old.get 1 &&& 0x06#8))
  m.setN (Img.dlyOff k) (old.getN (Img.dlyOff k) 12)

/-- Number of inactive-only fields that differ. -/
def inactiveDiff (k : Nat) (a b : Mem) : Nat :=
  let x := inactiveOnly k a
  let y := inactiveOnly k b
  b2n (x.1 ≠ y.1) + b2n (x.2.1 ≠ y.2.1) + b2n (x.2.2.1 ≠ y.2.2.1) + b2n (x.2.2.2 ≠ y.2.2.2)

/-- Side-chain fields of an image in use. -/
def sides (k : Nat) (m : Mem) : List Nat :=
  ((flds k m).filter fun f => f.use && f.fix = .keep && f.alt = some 0xFFFF && f.size = 2 && f.hi = 3071).map fun f => m.le f.off 2

/-- Side-chain fields that name an active entry in another domain (R104). -/
def State.sideMismatch (s : State) (k : Nat) (m : Mem) : Nat :=
  ((sides k m).filter fun n => n < 3072 && (s.ent n).live && (s.ent n).dom ≠ Img.dom m).length

/-- A reader's side-chain check: ERR bit 1 and one count for each field in mismatch (R104), in use in the image as written
(R484). -/
def State.checkSides (s : State) (n : Nat) : State :=
  let e := s.ent n
  let c := s.sideMismatch (kindOf n) e.img
  if c = 0 then s else ((s.entSet { e with err := e.err ||| 2#8 }).countN cBadField c).badAddr false n

/-- When an entry becomes active, the readers that name it are checked (R104). -/
def State.checkReaders (s : State) (n : Nat) : State :=
  s.mix.ents.foldl (fun s e =>
    let c := ((sides (kindOf e.idx) e.img).filter fun k => k = n).length
    if c ≠ 0 ∧ (s.ent n).dom ≠ e.dom then
      ((s.setErr e.idx 2#8).countN cBadField c).badAddr false e.idx else s) s

/-- A change that waits counts as started at a boundary (R55): the operation reports its start delay (R74). -/
def State.delayOp (s : State) (csn d : Nat) : State :=
  { s with mix := { s.mix with ops := s.mix.ops.map fun o => if o.csn = csn then { o with delay := max o.delay d } else o } }

/-- A waiting change of an entry is discarded at an installation (R55). -/
def State.dropWait (s : State) (w : Option Wait) (c blk : Nat) : State :=
  match w with
  | none => s
  | some w => (s.delayOp w.csn (blk - w.t / 12)).count c

/-- Whether an output's zone delay is clamped at DLYCAP (R132). -/
def Ent.dlyClamped (e : Ent) : Bool := !Img.byp e.act 5 && Img.dlyCap 3 e.act < Img.dly 3 e.act + e.add

/-- A held entry keeps what it has; a re-fetch that succeeds ends a fault (R54, R57). -/
def Ent.hold (e : Ent) : Ent := { e with held := true, faulted := false, err := if e.faulted then e.err &&& 0x7F#8 else e.err }

/-- A change of an earlier block found no slot or term free and falls on the first sample of the block of A-index t0 in a domain. -/
def Chg.unslotted (d t0 : Nat) (c : Chg) : Bool := !c.slot && decide (c.t < t0) && decide (domCeil d c.t ≤ domCeil d t0)

/-- First A-index of the capture block that an entry's stage processes in the block that begins at an NSC (R15). -/
def stageIndex (nsc n : Nat) : Nat := if n < 1536 then nsc - 12 else nsc - 24

/-- The change of an entry that waits for a slot when its stage begins the block of first A-index t0: one that waited before, or one
whose target in the block before falls on the entry's first sample of this one (R21, R79). -/
def Ent.waitAt (e : Ent) (t0 : Nat) : Option Wait :=
  match e.wait with
  | some w => some w
  | none => (e.chg.find? (Chg.unslotted e.dom t0)).map fun c => ⟨c.t, c.csn, c.n, c.shape⟩

/-- The move of a record, in its bus's domain d, that waits for a second term when the mix stage begins the block of first A-index
t0 (R122). -/
def Xp.waitAt (x : Xp) (d t0 : Nat) : Option Wait :=
  match x.wait with
  | some w => some w
  | none => (x.chg.find? (Chg.unslotted d t0)).map fun c => ⟨c.t, c.csn, c.n, c.shape⟩

/-- Installation of an entry's image at the boundary of block number blk (R43, R51, R54, R55). DESIGN CHOICES
(notes/assumptions/73.md): an entry whose HOLD is already 1 at Mix start has no earlier copy, so its whole image is installed
once and then held; a recompile after a working-store ECC error (R57) ends ramps and discards a waiting change as one after a
direct write does (R55). A change of an earlier block that is still to come on the entry's own next sample was written back before
the copy was fetched or merged into it (R52), so the copy stands. -/
def State.installEntry (s : State) (n : Nat) (m : Mem) (blk : Nat) : State :=
  let k := kindOf n
  let e := s.ent n
  if Img.hold m ∧ !e.noCopy ∧ (e.held ∨ ∃ x ∈ s.mix.ents, x.idx = n) then
    (s.entSet e.hold).putStatus e.hold (blk * domSpb e.dom)
  else
    let alive := e.runs (domCeil e.dom (stageIndex (12 * blk) n))
    let keep := alive && Img.active m
    let diff := if keep then inactiveDiff k e.img m else 0
    let m := if keep then keepInactive k e.img m else m
    let r := s.compile n m
    let c := r.1
    let now := Img.active c.img && !r.2
    let cl := e.run.cleared e.run.filt.act c.img e.act c.img
    let run := if now && !alive then Run.start c.img else { cl with filt := { cl.filt with act := c.img } }
    let s := s.dropWait (e.waitAt (stageIndex (12 * blk) n)) cDpDelay blk
    let e := { e with
      img := m, act := c.img, forced := r.2, held := Img.hold m, faulted := false, noCopy := false, chg := []
      err := c.err ||| (if diff = 0 then 0 else 0x40#8), head := (if k = 3 then 0xFFFFFFFF else Img.head m), ramps := [], wait := none
      add := (if k = 3 then s.alignOf c.img else 0), live := now, run := run }
    let clamp : Bool := k = 3 && e.dlyClamped
    let e := { e with err := if clamp then e.err ||| 2#8 else e.err }
    let started := now && !alive
    let s := (s.entSet e).countN cBadField (c.bad + diff + b2n clamp)
    let s := s.countN cBadCode c.code
    let s := if c.bad + diff + c.code + b2n clamp = 0 then s else s.badAddr false n
    let s := if k = 3 then s else s.relist n
    let s := s.checkSides n
    let s := if started then s.checkReaders n else s
    s.putStatus (s.ent n) (blk * domSpb e.dom)

/-- Installation of a crosspoint record's copy. -/
def State.installXp (s : State) (n : Nat) (m : Mem) (blk : Nat) : State :=
  let x := s.xp n
  let s := s.dropWait (x.waitAt (s.busDom (XpR.dst x.img)) (stageIndex (12 * blk) 1536)) cXtDelay blk
  let bad := (XpR.flds.filter fun f => !f.ok m).length
  let s := s.xpSet { x with img := m, bad := false, chg := [], ramps := [], wait := none, target := m }
  if bad = 0 then s else (s.countN cBadField bad).badAddr true n

/-- A record's image of 16 bytes, an entry's of 448 and a zone's of 64, as bulk memory holds them. -/
def State.fetchImg (s : State) : Item → Mem
  | .entry n => Mem.zero.setN 0 (s.mem.bulk.getN (s.entAddr n) imgSize)
  | .xp n => Mem.zero.setN 0 (s.mem.bulk.getN (s.xpAddr n) 16)
  | .zone n => Mem.zero.setN 0 (s.mem.bulk.getN (s.znAddr n) 64)

/-! ### Re-fetch (R50, R150) -/

/-- Whether the table engine has capacity for an item in this block, and what it then has used. -/
def Mix.room (m : Mix) : Item → Bool
  | .entry _ => m.nEnt < 64
  | .xp _ => m.nXp < 1024
  | .zone _ => m.nZn < 16

def Mix.use (m : Mix) (it : Item) : Mix :=
  match it with
  | .entry _ => { m with nEnt := m.nEnt + 1 }
  | .xp _ => { m with nXp := m.nXp + 1 }
  | .zone _ => { m with nZn := m.nZn + 1 }

/-- Zone records come after entries and records (R150). -/
def itemIsZone : Item → Bool
  | .zone _ => true
  | _ => false

/-- Re-fetch starts for one stale item, in the order of the marks, within the block's capacity. -/
def Mix.fetchOne (m : Mix) (it : Item) : Mix :=
  if it ∈ m.deferred ∨ !m.room it then m
  else { m.use it with stale := m.stale.filter (· ≠ it), fetching := addNew m.fetching [it] }

def Mix.refetch (m : Mix) : Mix :=
  let m := (m.stale.filter fun i => !itemIsZone i).foldl Mix.fetchOne m
  if (m.stale.filter fun i => !itemIsZone i && i ∉ m.deferred).isEmpty then (m.stale.filter itemIsZone).foldl Mix.fetchOne m else m

end Sys2Proof.Machine
end

