-- ==== Sys2Proof/Machine/Vault.lean ====
section
/-! DEFINITION. The Peatstore and the security functions (R402 to R425): sectors, pools, scene slots, the audit log, key
slots, entropy, the image format. -/

namespace Sys2Proof.Machine

def State.peaSet (s : State) (p : Pea) : State := { s with pea := p }
def State.secSet (s : State) (x : Sec) : State := { s with sec := x }

/-! ### Sectors (R414 to R417) -/

/-- First logical sector of each region, and the end. -/
def regionBase : List Nat := [0, 256, 4352, 5376, 5440, 5472, 8192]

/-- Sectors of each region's first spare pool. -/
def poolSize : List Nat := [32, 192, 64, 32, 16, 176]

/-- Region of a logical sector: 0 firmware, 1 scenes, 2 audit log, 3 device state, 4 security area, 5 user. -/
def regionOf (k : Nat) : Nat :=
  if k < 256 then 0 else if k < 4352 then 1 else if k < 5376 then 2 else if k < 5440 then 3 else if k < 5472 then 4 else 5

/-- First physical sector of a region: each region's logical sectors, then its pool (notes/assumptions/26.md). -/
def regionPhys (r : Nat) : Nat := regionBase.getD r 8192 + (poolSize.take r).foldl (· + ·) 0

/-- Physical sector of a logical one. -/
def State.physOf (s : State) (k : Nat) : Nat := (look k s.pea.map).getD (k + (poolSize.take (regionOf k)).foldl (· + ·) 0)

/-- The first spare pools. -/
def firstPools : List (List Nat) :=
  (upTo 6).map fun r => (upTo (poolSize.getD r 0)).map fun i =>
    regionPhys r + (regionBase.getD (r + 1) 0 - regionBase.getD r 0) + i

def State.poolOf (s : State) (r : Nat) : List Nat := s.pea.spare.getD r []

/-- Region can take a write (R417). -/
def State.hasFree (s : State) (r : Nat) : Bool := !(s.poolOf r).isEmpty

/-- A logical sector moves to the next free physical one of its region; the former returns to the pool (R415). -/
def State.moveSector (s : State) (k : Nat) : State :=
  let r := regionOf k
  match s.poolOf r with
  | [] => s
  | p :: rest =>
    s.peaSet { s.pea with
      map := put k p s.pea.map, spare := s.pea.spare.set r (rest ++ [s.physOf k])
      wear := put p ((look p s.pea.wear).getD 0 + 1) s.pea.wear }

/-- Bytes at an offset of the service space, within one region; every sector touched moves. -/
def State.peaWrite (s : State) (a : Nat) (bs : List Byte) : State :=
  let s := (upTo ((a % 4096 + bs.length + 4095) / 4096)).foldl (fun s i => s.moveSector (a / 4096 + i)) s
  s.peaSet { s.pea with mem := s.pea.mem.setN a bs }

/-- The service space as the window shows it: the security area reads zero (R414). -/
def State.peaRead (s : State) (a n : Nat) : List Byte :=
  (s.pea.mem.getN a n).zipIdx.map fun p => if regionOf ((a + p.2) / 4096) = 4 then 0 else p.1

/-! ### Audit log (R410 to R412) -/

/-- Address of a record in the service space. -/
def logAddr (seq : Nat) : Nat := 4352 * 4096 + 64 * (seq % 65536)

/-- Whether the log can take a record. -/
def State.auditOk (s : State) : Bool := s.hasFree 2

/-- One record appended. -/
def State.auditPut (s : State) (r : Audit) : State :=
  let n := s.sec.logSeq
  let head := natLe 8 n ++ natLe 8 r.nsc ++ natLe 2 r.type ++ natLe 1 r.origin ++ natLe 1 r.result ++
    fit 12 0 r.data
  let prev := if n = 0 then List.replicate 32 0 else s.pea.mem.getN (logAddr (n - 1) + 32) 32
  (s.peaWrite (logAddr n) (head ++ fit 32 0 (Config.sha256 (prev ++ head)))).secSet { s.sec with logSeq := n + 1 }

/-- A record, after those that wait; it waits itself while the log cannot take it. -/
def State.audit (s : State) (type origin result : Nat) (data : List Byte) : State :=
  let r : Audit := ⟨if s.up secTime then s.tim.nsc else 0, type, origin, result, data⟩
  if s.auditOk then
    let w := s.sec.logWait
    (w ++ [r]).foldl State.auditPut (s.secSet { s.sec with logWait := [] })
  else s.secSet { s.sec with logWait := s.sec.logWait ++ [r] }

/-- LOGFULL (R412). -/
def State.logFull (s : State) : State := s.scSet rSecurity 21

/-- Oldest sequence number held. -/
def State.logOldest (s : State) : Nat := s.sec.logSeq - 65536

/-- A sector retires its present physical sector (R416): rewritten elsewhere, logged, out of the pool for good. -/
def State.retireSector (s : State) (k : Nat) : State :=
  let r := regionOf k
  let p := s.physOf k
  let s := s.moveSector k
  let s := s.peaSet { s.pea with
    spare := s.pea.spare.set r ((s.poolOf r).filter (· ≠ p))
    retired := s.pea.retired.set r (s.pea.retired.getD r [] ++ [p]) }
  (s.count (wCtl + 0x0740)).audit 0x0011 4 0 (natLe 4 r ++ natLe 4 k)

/-! ### Scene slots (R81, R414, R417) -/

/-- Free logical sectors of the scene region. -/
def State.freeScene (s : State) : List Nat :=
  ((upTo 4096).map (· + 256)).filter fun k => !s.pea.scenes.any fun p => k ∈ p.2.sectors

/-- An image stored into a slot; none: no space, and the earlier image stays. -/
def State.sceneStore (s : State) (slot : Nat) (img : List Byte) : Option State :=
  let n := (img.length + 4095) / 4096
  let free := s.freeScene
  if free.length < n ∨ !s.hasFree 1 then none
  else
    let ks := free.take n
    let s := ks.zipIdx.foldl (fun s q => s.peaWrite (q.1 * 4096) ((img.drop (4096 * q.2)).take 4096)) s
    some (s.peaSet { s.pea with scenes := put slot ⟨ks, img.length⟩ s.pea.scenes })

/-- The image of a slot. -/
def State.sceneImg (s : State) (slot : Nat) : Option (List Byte) :=
  (look slot s.pea.scenes).map fun c => (c.sectors.flatMap fun k => s.pea.mem.getN (k * 4096) 4096).take c.len

/-! ### Keys (R406 to R408) -/

def State.key (s : State) (k : Nat) : Key := (look k s.sec.keys).getD ⟨none, 0, false⟩
def State.keySet (s : State) (k : Nat) (x : Key) : State := s.secSet { s.sec with keys := put k x s.sec.keys }

/-- A customer key: x, and the parity of y from KEYID (R406). -/
def State.custKey (s : State) (k : Nat) : Option (List Byte) := (s.key k).key.map fun x => x ++ natLe 1 ((s.key k).id % 2)

/-- MACsec or Hitch slot. -/
def keyVolatile (k : Nat) : Bool := k ≤ 0x83
def keyPersistent (k : Nat) : Bool := 0xC0 ≤ k && k ≤ 0xC4

/-- KLEN fits the slot. -/
def keyLenOk (k len : Nat) : Bool :=
  if keyVolatile k then len = 0 || len = 16 || len = 32 else if keyPersistent k then len = 0 || len = 32 else false

/-- Every MACsec and Hitch slot cleared (R408). -/
def State.clearVolatile (s : State) : State :=
  s.secSet { s.sec with keys := s.sec.keys.filter fun p => !keyVolatile p.1 }

/-- Every persistent slot revoked. -/
def State.revokeSigners (s : State) : State :=
  [0xC0, 0xC1, 0xC2, 0xC3, 0xC4].foldl (fun s k => s.keySet k ⟨none, (s.key k).id, true⟩) s

/-- A word of SEC_SLOTMAPn (R421). -/
def State.slotMap (s : State) (n : Nat) : Word :=
  (upTo 32).foldl (fun w j => w ||| fld j 1 (b2n (s.key (32 * n + j)).key.isSome)) 0

/-- SEC_ZEROISE (R408): bits VOLATILE and SIGNERS. -/
def State.zeroise (s : State) (origin : Nat) (w : Word) : State :=
  let b := wbits w 0 2
  if b = 0 then s
  else
    let s := if bit b 0 then s.clearVolatile else s
    let s := if bit b 1 then s.revokeSigners else s
    (s.scSet rSecurity 19).audit 0x0004 origin 0 [0xFF, BitVec.ofNat 8 b]

/-! ### Entropy (R409) -/

/-- A fresh TRNG word. -/
def State.trng (s : State) : Word × State := (Config.trng s.freeCtr, { s with freeCtr := s.freeCtr + 1 })

/-- A nonce of 32 bytes. -/
def State.nonce (s : State) : List Byte × State :=
  ((upTo 8).flatMap fun i => wordBytes (Config.trng (s.freeCtr + i)), { s with freeCtr := s.freeCtr + 8 })

/-! ### Images (R403, R404) -/

/-- Failure code of a Stoker image: 0 accepted, 1 format, 2 key hash, 3 signature, 4 rollback; `bs` starts with the image. -/
def State.fwCheck (s : State) (bs : List Byte) : Nat :=
  let f (o n : Nat) := leNat ((bs.drop o).take n)
  let cs := f 8 4
  if f 0 4 ≠ 0x53574B53 ∨ f 4 2 ≠ 1 ∨ 128 ≤ f 6 1 ∨ cs % 64 ≠ 0 ∨ cs < 64 ∨ 524032 < cs ∨ bs.length < 0xC0 + cs then 1
  else if Config.sha256 ((bs.drop 0x40).take 64) ≠ Config.rootKeyHash then 2
  else if !Config.ecdsaOk ((bs.drop 0x40).take 64) (Config.sha256 (bs.take (0x80 + cs))) ((bs.drop (0x80 + cs)).take 64) then 3
  else if f 6 1 < s.sec.rb then 4 else 0

/-- The firmware an image holds. -/
def fwOf (src : Nat) (bs : List Byte) : Fw :=
  let f (o n : Nat) := leNat ((bs.drop o).take n)
  ⟨src, f 6 1, f 0xC 4, (bs.drop 0x40).take 64⟩

/-- SEC_STAT's DBGSCOPE and SEC_BOOTSTAT (R420, R422). -/
def State.bootStat (s : State) : Word :=
  fld 31 1 (b2n s.sec.rngValid) ||| fld 24 2 s.sec.fw.src ||| fld 16 8 s.sec.fw.rbidx ||| fld 8 8 s.sec.afail ||| fld 0 8 s.sec.bfail

/-- PEA_SPAREr (R424). -/
def State.peaSpare (s : State) (r : Nat) : Word :=
  fld 16 8 (s.pea.retired.getD r []).length ||| fld 0 8 (s.poolOf r).length

end Sys2Proof.Machine
end

