-- ==== Sys2Proof/Machine/Bus.lean ====
section
/-! DEFINITION. The matrix without register space (R23, R24, R213, R258 to R279): where an address leads, engine reads and
writes, DECERR and ECC capture, arbitration. -/

namespace Sys2Proof.Machine

/-- Targets of R23. -/
inductive Target where
  | bulk | pool | reg | pea | host (h : Nat) | none
  deriving DecidableEq, Repr

/-- Target of an address (R23). -/
def State.targetOf (s : State) (a : Nat) : Target :=
  if a < s.usable then .bulk
  else if 0x01_0000_0000 ≤ a ∧ a < 0x01_0080_0000 then .pool
  else if 0x01_1000_0000 ≤ a ∧ a < 0x01_100B_0000 then .reg
  else if 0x01_2000_0000 ≤ a ∧ a < 0x01_2200_0000 then .pea
  else if 0x80_0000_0000 ≤ a ∧ a < 0xC0_0000_0000 then .host 0
  else if 0xC0_0000_0000 ≤ a ∧ a < 0x100_0000_0000 then .host 1
  else .none

/-- Where one target ends or another begins (R23). -/
def State.bounds (s : State) : List Nat :=
  [s.usable, 0x01_0000_0000, 0x01_0080_0000, 0x01_1000_0000, 0x01_100B_0000, 0x01_2000_0000, 0x01_2200_0000, 0x80_0000_0000,
   0xC0_0000_0000, 0x100_0000_0000]

/-- A range crosses a target boundary. -/
def State.crosses (s : State) (a n : Nat) : Bool := s.bounds.any fun b => decide (a < b ∧ b < a + n)

/-- Target of a range that lies in one target. -/
def State.targetRange (s : State) (a n : Nat) : Target := if s.crosses a n then .none else s.targetOf a

abbrev poolBase : Nat := 0x01_0000_0000

/-- Capture and count of a request answered with DECERR (R24, R284, R290). -/
def State.decerr (s : State) (m a : Nat) (write : Bool) : State :=
  let s := s.count (wMem + 0x014C)
  let s := s.capSet (wMem + 0x0144) (fld 0 32 a)
  s.capSet (wMem + 0x0148) (fld 28 4 m ||| fld 27 1 (b2n write) ||| fld 0 8 (a / 2 ^ 32))

/-- An uncorrectable error: counted, captured, a health fault (R279, R289). -/
def State.uncErr (s : State) (m a : Nat) (scrub adr : Bool) : State :=
  let s := s.count (wMem + 0x0810)
  let a := a / 8 * 8
  let s := s.capSet (wMem + 0x0804) (fld 0 32 a)
  let s := s.capSet (wMem + 0x0808) (fld 28 4 m ||| fld 27 1 (b2n scrub) ||| fld 26 1 (b2n adr) ||| fld 0 8 (a / 2 ^ 32))
  s.health 22

def State.poolWrite (s : State) (a : Nat) (bs : List Byte) : State :=
  { s with mem := { s.mem with pool := s.mem.pool.setN (a - poolBase) bs } }

def State.poolRead (s : State) (a n : Nat) : List Byte := s.mem.pool.getN (a - poolBase) n

/-- Bytes a host's memory answers at device addresses; none: an address gets no completion (R213). -/
def hostRead (hm : HostMem) (a : Nat) : Nat → Option (List Byte)
  | 0 => some []
  | n + 1 => match look a hm.cells, hostRead hm (a + 1) n with
    | some b, some r => some (b :: r)
    | _, _ => none

/-- Host h's port, by number. -/
def State.host (s : State) (h : Fin 4) : HostPort := s.hosts[h]
def State.hostSet (s : State) (h : Fin 4) (x : HostPort) : State := { s with hosts := s.hosts.set h x }
def State.linkOf (s : State) (h : Nat) : Bool := if hh : h < 4 then s.hosts[h].link else false

/-! ### Pool SRAM (R273, R275) -/

/-- Banks that a range of pool SRAM touches, in order. -/
def banksOf (a n : Nat) : List Nat :=
  (upTo ((a % 8 + n + 7) / 8)).map fun i => ((a - poolBase) / 8 + i) % 32

/-- The owner of a bank that routes a master's request, with the handovers that wait there: those of which the master is a side are over
by the time its request is routed (R274). -/
def routeOwner (m cur : Nat) : List Nat → Nat
  | [] => cur
  | o :: r => if m = cur ∨ m = o then routeOwner m o r else cur

def State.ownerFor (s : State) (m b : Nat) : Nat := routeOwner m (s.mem.owner.getD b 15) (s.mem.hand.getD b [])

/-- Path A: every bank touched is unowned or owned by the master (R273). -/
def State.pathA (s : State) (m a n : Nat) : Bool := (banksOf a n).all fun b => s.ownerFor m b = 15 || s.ownerFor m b = m

/-- A request served on path B is counted and captured (R275). -/
def State.foreign (s : State) (m a n : Nat) : State :=
  if s.pathA m a n then s
  else
    let b := (banksOf a n).find? fun b => s.ownerFor m b ≠ 15 ∧ s.ownerFor m b ≠ m
    (s.count (wMem + 0x0484)).capSet (wMem + 0x048C) (fld 8 5 (b.getD 0) ||| fld 0 4 m)

/-- The requests of a longer transfer, none across a 512-byte boundary (R260, R275). -/
def State.foreigns (s : State) (m a n : Nat) : State := (splitAt 512 a (n + 1) n).foldl (fun (s : State) p => s.foreign m p.1 p.2) s

/-- A collision counted and captured: port B's master, port A's, kind, the word's address (R276, R286). -/
def State.collide (s : State) (bm am kind a : Nat) : State :=
  (s.count (wMem + 0x0488)).capSet (wMem + 0x0480)
    (fld 28 4 bm ||| fld 24 4 am ||| fld 22 2 kind ||| fld 0 20 ((a - poolBase) / 8))

/-- The collisions of a request on path B: a read with writes on path A, a write with any access (R276). -/
def State.collisions (s : State) (m a n : Nat) (w : Bool) (h : MemHits) : List (Nat × Fin 14 × Bool) :=
  if s.targetRange a n ≠ .pool ∨ s.pathA m a n then []
  else h.coll.filter fun c => decide (a / 8 ≤ c.1 / 8 ∧ c.1 < a + n) && (w || c.2.2)

/-- The collisions of a request are counted and captured. -/
def State.collided (s : State) (m a n : Nat) (w : Bool) (h : MemHits) : State :=
  (s.collisions m a n w h).foldl (fun (s : State) c => s.collide m c.2.1 (if w then (if c.2.2 then 2 else 1) else 0) c.1) s

/-! ### Accesses of engines -/

/-- The bytes of a memory of the device at a target. -/
def State.rawRead (s : State) (t : Target) (a n : Nat) : List Byte :=
  match t with
  | .bulk => s.mem.bulk.getN a n
  | .pool => s.poolRead a n
  | .pea => s.peaRead (a - 0x01_2000_0000) n
  | _ => List.replicate n 0

/-- An uncorrectable error in a request: of a memory by R279, of the Peatstore counted (R416, R425). -/
def State.eccLost (s : State) (t : Target) (m a : Nat) (adr : Bool) : State :=
  if t = .pea then s.count (wCtl + 0x0748) else s.uncErr m a false adr

/-- The first bad address of a range. -/
def firstBad (bad : List Nat) (a n : Nat) : Nat := (bad.find? fun b => decide (a ≤ b ∧ b < a + n)).getD a

/-- The uncorrectable words that a request at a target meets: an address-check failure without a word of its own is bulk memory's, at
the request's first address (R278, R279). -/
def badAt (h : MemHits) (t : Target) (a : Nat) : List Nat := if t = .bulk && h.adr && h.bad.isEmpty then [a] else h.bad

/-- Something in a command's requests is uncorrectable. -/
def hitsFail (h : MemHits) : Bool := h.adr || !h.bad.isEmpty

/-- What ECC corrected in a request: words of bulk memory or pool SRAM are counted (R279); a Peatstore sector read with corrected
bits is, and beyond PEA_CFG.CBTHR the sector is retired (R416, R425). -/
def State.eccFixed (s : State) (t : Target) (a n : Nat) (h : MemHits) : State :=
  let k := (h.cor.filter fun c => decide (a ≤ c ∧ c < a + n)).length
  if t ≠ .pea then s.countN (wMem + 0x080C) k
  else if k = 0 then s
  else
    let s := s.count (wCtl + 0x0744)
    if max 1 (s.rwBits (wCtl + 0x0710) 0 5) < k then s.retireSector ((a - 0x01_2000_0000) / 4096) else s

/-- What a whole transfer of an engine in bulk memory finds, the first bad word at `a` where none is named (R279). -/
def State.found (s : State) (m a : Nat) (h : MemHits) : State :=
  let s := s.countN (wMem + 0x080C) h.cor.length
  if hitsFail h then s.uncErr m (h.bad.headD a) false h.adr else s

/-- One request of an engine's read after the bytes of those before it. A read that collides is repeated (R277). -/
def State.readPiece (m : Nat) (hm : HostMem) (x : Option (List Byte) × State) (p : Nat × Nat) : Option (List Byte) × State :=
  let s := x.2
  let (a, n) := p
  let t := s.targetRange a n
  let mem (s : State) : Option (List Byte) × State :=
    if badIn (badAt hm.hits t a) a n then (none, s.eccLost t m (firstBad (badAt hm.hits t a) a n) hm.hits.adr)
    else (x.1.map (· ++ s.rawRead t a n), s.eccFixed t a n hm.hits)
  match t with
  | .bulk => mem s
  | .pool => mem ((s.foreign m a n).collided m a n false hm.hits)
  | .pea => mem s
  | .host h => (match if s.linkOf h then hostRead hm a n else none with
      | some b => (x.1.map (· ++ b), s)
      | none => (none, s.decerr m a false))
  | .reg => (none, s.decerr m a false)
  | .none => (none, s.decerr m a false)

/-- A read by an engine with master number m, split at 512-byte boundaries (R213, R260), the host windows answered by hm. None: DECERR
or an uncorrectable error. -/
def State.devRead (s : State) (m : Nat) (hm : HostMem) (a n : Nat) : Option (List Byte) × State :=
  (splitAt 512 a (n + 1) n).foldl (State.readPiece m hm) (some [], s)

/-- Host address of a device address of a host window (R213). -/
def State.hostAddr (s : State) (h a : Nat) : Nat :=
  let b := (s.rw (rHst h + 0x01C)).toNat * 2 ^ 32 + (s.rw (rHst h + 0x018)).toNat
  (b + a % 2 ^ 38) % 2 ^ 64

/-- Writes into a host's memory, split at 256-byte boundaries (R213). -/
def State.hostWrites (s : State) (h a : Nat) (bs : List Byte) : State :=
  (splitAt 256 a (bs.length + 1) bs.length).foldl (fun s p =>
    s.emit (.hostWrite h (s.hostAddr h p.1) ((bs.drop (p.1 - a)).take p.2))) s

/-- Every request of a transfer is answered with DECERR (R24). -/
def State.decerrs (s : State) (m a n size : Nat) (write : Bool) : State :=
  (splitAt size a (n + 1) n).foldl (fun (s : State) p => s.decerr m p.1 write) s

/-- A write by an engine with master number m; false: DECERR. -/
def State.devWrite (s : State) (m a : Nat) (bs : List Byte) (hold : Bool) : Bool × State :=
  if bs.isEmpty then (true, s)
  else match s.targetRange a bs.length with
  | .bulk => (true, s.bulkWrite m a bs hold)
  | .pool => (true, (s.foreigns m a bs.length).poolWrite a bs)
  | .host h => if s.linkOf h then (true, s.hostWrites h a bs) else (false, s.decerrs m a bs.length 256 true)
  | .pea => (false, s.decerrs m a bs.length 512 true)
  | .reg => (false, s.decerrs m a bs.length 512 true)
  | .none => (false, s.decerrs m a bs.length 512 true)

/-- A memory write that may meet uncorrectable errors: the lost parts of partly written words stay as they were (R260). False: one
was met. -/
def State.eccWrite (s : State) (m a : Nat) (bs : List Byte) (h : MemHits) : Bool × State :=
  let lost := lostParts a bs.length (badAt h (s.targetOf a) a)
  if lost.isEmpty then (true, ((s.eccFixed (s.targetOf a) a bs.length h).devWrite m a bs false).2)
  else
    let pool := s.targetRange a bs.length = .pool
    let s := lost.foldl (fun s p => s.uncErr m p.1 false h.adr) (if pool then s.foreign m a bs.length else s)
    (false, ((wordParts a bs.length).filter fun p => !lost.contains p).foldl (fun s p =>
      let d := (bs.drop (p.1 - a)).take p.2.1
      if pool then s.poolWrite p.1 d else s.bulkWrite m p.1 d false) s)

/-! ### Arbitration (R264 to R268) -/

/-- The high class, at points 0 to 3 (R258, R267). -/
def headHigh (pt : Nat) (h : MtxHead) : Bool :=
  decide (pt < 4) && (h.master = 9 || h.master = 11 || (decide (5 ≤ h.master.val ∧ h.master.val ≤ 8) && h.audio))

/-- What a master reaches (R258). -/
def mayReach (m : Nat) (t : Target) : Bool :=
  if m = 11 then t = .bulk else if m < 5 || m = 13 then true else t = .bulk || t = .pool

/-- The age of a head: the multiples of 16 FCLK cycles since it was presented, saturating (R265). -/
def headAge (now : Nat) (h : MtxHead) : Nat := min 1023 (now / 16 - h.since / 16)

/-- Distance of a master from the pointer, counting upward modulo 14 (R266). -/
def ptrDist (ptr m : Nat) : Nat := (m + 14 - ptr % 14) % 14

/-- Whether head a is granted before head b, with or without precedence of the high class. -/
def headBefore (pt ptr now : Nat) (prec : Bool) (a b : MtxHead) : Bool :=
  if prec && headHigh pt a != headHigh pt b then headHigh pt a
  else if headAge now a ≠ headAge now b then headAge now b < headAge now a
  else ptrDist ptr a.master < ptrDist ptr b.master

/-- The head granted. -/
def pick (pt ptr now : Nat) (prec : Bool) : List MtxHead → Option MtxHead
  | [] => none
  | h :: r => match pick pt ptr now prec r with
    | none => some h
    | some b => if headBefore pt ptr now prec b h then some b else some h

/-- Precedence grants of a point that count in the window W (R267). -/
def State.precUsed (s : State) (pt now : Nat) : List Nat :=
  (s.mem.precs.getD pt []).filter fun g => decide (now - g ≤ s.rwBits (wMem + 0x0100 + 4 * pt) 0 14)

/-- The quota of a point is not used up (R267). -/
def State.precedence (s : State) (pt now : Nat) : Bool :=
  decide (pt < 4 ∧ (s.precUsed pt now).length < s.rwBits (wMem + 0x0100 + 4 * pt) 16 7)

/-- The transactions of a master in flight change in number (R270). -/
def State.fly (s : State) (m : Nat) (f : Nat → Nat) : State :=
  { s with mem := { s.mem with flight := s.mem.flight.set m (f (s.mem.flight.getD m 0)) } }

/-- A master may issue a further transaction: fewer than 64 of its own and 512 of all are in flight (R270). -/
def State.mayIssueTx (s : State) (m : Nat) : Bool := decide (s.mem.flight.getD m 0 < 64 ∧ s.mem.flight.sum < 512)

/-- The heads of masters that a reset takes away, and their transactions in flight (R263). -/
def State.dropHeads (s : State) (ms : List Nat) : State :=
  { s with mem := { s.mem with
      heads := s.mem.heads.map fun l => l.filter fun h => !ms.contains h.master.val
      flight := s.mem.flight.zipIdx.map fun p => if ms.contains p.2 then 0 else p.1 } }

/-- MTX_WAITMAXt keeps the longest wait (R282). -/
def State.waited (s : State) (pt m wait : Nat) : State :=
  let w := min wait 65535
  let cur := (s.mem.waits.getD pt (0, 0)).2
  if cur < w then
    let s : State := { s with mem := { s.mem with waits := s.mem.waits.set pt (m, w) } }
    s.scPut (wMem + 0x0120 + 4 * pt) ⟨(s.sc (wMem + 0x0120 + 4 * pt)).seq + 1, []⟩
  else s

/-! ### Collisions and handover (R274, R276) -/

/-- Bytes of an operation. -/
def opLen : MtxOp → Nat
  | .read n => n
  | .write d => d.length
  | .masked d _ => d.length
  | .swap n _ => n
  | .cas n _ _ => n
  | .add n _ => n

/-- Whether an operation writes. -/
def opWrites : MtxOp → Bool
  | .read _ => false
  | _ => true


/-- The warning of an inbound request from H2 or H3 (R277). -/
def State.raiseBusy (s : State) (m : Nat) : State :=
  if m = 2 ∨ m = 3 then
    { s with mem := { s.mem with busy := s.mem.busy.set (m - 2) true, begun := s.mem.begun.set (m - 2) false } }
  else s

/-- A write of DEP_BANKOWNn starts or queues a handover (R274). -/
def State.bankOwn (s : State) (n : Nat) (w : Word) : State :=
  let o := if wbits w 0 4 = 14 then 15 else wbits w 0 4
  { s with mem := { s.mem with hand := s.mem.hand.set n (s.mem.hand.getD n [] ++ [o]) } }

/-- A master is a side of a handover under way: no new request of it is routed to pool SRAM (R274). -/
def State.withheld (s : State) (m : Nat) : Bool :=
  (upTo 32).any fun b => match s.mem.hand.getD b [] with
    | [] => false
    | o :: _ => m = s.mem.owner.getD b 15 || m = o

/-- The heads that wait at the two paths of pool SRAM, each at the path that the owners give it now. -/
def State.reroute (s : State) : State :=
  let hs := s.mem.heads.getD 2 [] ++ s.mem.heads.getD 3 []
  let a (h : MtxHead) : Bool := s.pathA h.master h.addr.toNat (opLen h.op)
  { s with mem := { s.mem with heads := (s.mem.heads.set 2 (hs.filter a)).set 3 (hs.filter fun h => !a h) } }

/-- A handover ends (R274). -/
def State.bankDone (s : State) (n : Nat) : State :=
  match s.mem.hand.getD n [] with
  | [] => s
  | o :: r => ({ s with mem := { s.mem with owner := s.mem.owner.set n o, hand := s.mem.hand.set n r } } : State).reroute

end Sys2Proof.Machine
end

