-- ==== Sys2Proof/Machine/Commit.lean ====
section
/-! DEFINITION. The commit engine (R62 to R91): the known state, the checks of R66 and R71, order of application, claims,
write-backs, dual-path slots and second terms, scene images. -/

namespace Sys2Proof.Machine

/-! ### Crosspoint records at a sample (R75, R121, R122) -/

/-- Code of a term for a move's mixture: source, destination, pick-off. -/
def termCode (m : Mem) : Nat := XpR.src m + 4096 * XpR.dst m + 4096 * 65536 * b2n (XpR.pre m)
def termSrc (c : Nat) : Nat := c % 4096
def termDst (c : Nat) : Nat := c / 4096 % 65536
def termPre (c : Nat) : Bool := bit c 28

/-- A record image with SRC, DST and PRE of another. -/
def withMove (base mv : Mem) : Mem :=
  (base.setN 0 (mv.getN 0 4)).maskSet 0xC 2#32 (mv.word 0xC)


/-- Level of a record's term: enabled and on the list of its source (R47). -/
def Xp.level (x : Xp) : Int := if XpR.en x.img && x.on && !x.bad then one27 else 0

/-- A record's term is in the bus sum at index u: its level is up, or it still ramps out (R75). -/
def Xp.liveAt (x : Xp) (d u : Nat) : Bool := x.level ≠ 0 || (rampOf x.ramps .en).any fun r => !r.isOver d u

/-- Ramp length of a change to a record, from its content after it (R75). -/
def Chg.span (c : Chg) (img : Mem) : Nat := if c.own then XpR.ramp img else c.n

/-- A change moves a record: SRC, DST or PRE. -/
def Chg.moves (c : Chg) : Bool := c.touches 0 0xFFFFFFFF#32 || c.touches 0xC 2#32

/-- A change of a record at index u of its bus's domain. DESIGN CHOICE (notes/assumptions/72.md): the move of a record that has
no live term takes no second term; a later move of ramp 0 leaves a waiting one waiting, with the new values. -/
def Xp.apply (x : Xp) (d u : Nat) (c : Chg) : Xp :=
  let recs := c.recs.filter fun r => r.off < 16
  let on := c.recs.foldl (fun v r => if r.off = 16 then r.val.getLsbD 0 else v) x.on
  let base := if x.wait.isSome then x.target else x.img
  let fin' := applyRecs base recs
  let n := c.span fin'
  let moved := c.moves
  let needs := moved && n ≠ 0 && x.liveAt d u
  let waits := (needs && !c.slot) || (x.wait.isSome && moved)
  let mv (m0 m1 : Int × Int) (f : RampFld) (old : List (Nat × Nat)) : Ramp := ⟨f, c.t, n, c.shape, c.csn, m0, m1, old, none⟩
  let img := if waits || (x.wait.isSome && !moved) then withMove fin' x.img else fin'
  let rs := if c.touches 4 0xFFFF#32 then
      setRamp x.ramps (mv (lvlAt x.ramps .gain d u (gainL (XpR.gainC x.img))) (gainL (XpR.gainC fin')) .gain []) else x.ramps
  let rs := if moved && !waits then
      (if needs then setRamp rs (mv (0, 0) (0, 0) .move (mixAt x.ramps .move d u (termCode x.img)).old) else rs.filter fun r => r.fld ≠ .move)
    else rs
  let y : Xp := { x with
    img := img, on := on, target := fin'
    wait := if moved && waits && n ≠ 0 then some ⟨c.t, c.csn, n, c.shape⟩ else if moved && !waits then none else x.wait }
  let rs := if y.level ≠ x.level then setRamp rs (mv (lvlAt rs .en d u (onL (x.level ≠ 0))) (onL (y.level ≠ 0)) .en []) else rs
  { y with ramps := rs }

/-- Changes due at or before index u of a domain take effect. -/
def Xp.upTo (x : Xp) (d u : Nat) : Xp :=
  let due := x.chg.filter fun c => domCeil d c.t ≤ u
  due.foldl (fun x c => x.apply d u c) { x with chg := x.chg.filter fun c => u < domCeil d c.t }

/-! ### Order and the known state (R66, R69) -/

/-- The order of R69: effective target, then CSN. -/
def Op.before (a b : Op) : Bool := a.t < b.t || (a.t = b.t && a.csn < b.csn)

/-- Insertion in the order of R69. -/
def opIns (o : Op) : List Op → List Op
  | [] => [o]
  | a :: r => if a.before o then a :: opIns o r else o :: a :: r

/-- Operations in the order of R69. -/
def opSort (l : List Op) : List Op := l.foldl (fun acc o => opIns o acc) []

/-- A commit or recall that changes words. -/
def Op.writes (o : Op) : Bool := o.kind = .commit || o.kind = .recall

/-- The words of an entry belong to the first part (strips, templates) or to the second (R72). -/
def firstPart (n : Nat) : Bool := n < 1536 || 3072 ≤ n

/-- Mask of word w of entry n that a template copy or a recalled image writes: every field but HOLD (R45, R65). DESIGN CHOICE
(notes/assumptions/73.md): a copy into another template copies every bit, HOLD included, without a check of KIND. -/
def copyMask (n w : Nat) : Word :=
  if n < 3072 then fieldMask (kindOf n) w &&& (if w = 0 then 0xFFFFF7FF#32 else 0xFFFFFFFF#32) else 0xFFFFFFFF#32

/-- Word offsets of an image. -/
def imgWords : List Nat := (upTo 112).map (· * 4)

/-- One change record executed on a memory that holds the tables (R65); OP 3 is a word of a template copy whose source has been
read. -/
def State.execRec (s : State) (m : Mem) (r : CRec) : Mem :=
  if r.op = 0 ∨ r.op = 3 then m.maskSet (s.entAddr r.idx + r.off) r.mask r.val
  else if r.op = 1 then m.maskSet (s.xpAddr r.idx + r.off) r.mask r.val
  else imgWords.foldl (fun m w => m.maskSet (s.entAddr r.idx + w) (copyMask r.idx w) (m.word (s.entAddr r.off + w))) m

/-- The part of an operation a record belongs to. -/
def CRec.first (r : CRec) : Bool := r.op ≠ 1 && firstPart r.idx

/-- An operation's records that are not yet written back, executed on a memory. -/
def State.execOp (s : State) (m : Mem) (o : Op) : Mem :=
  if o.failed ∨ !o.writes then m
  else (o.recs.filter fun r => if r.first then !o.part1 else !o.part2).foldl s.execRec m

/-- Bulk memory with the accepted operations that come before one in the order of R69 (R66). -/
def State.viewBefore (s : State) (o : Op) : Mem :=
  ((opSort s.mix.ops).filter fun a => a.before o).foldl s.execOp s.mem.bulk

/-- Change records with every template copy read from the state that it meets in list order (R65, R71). -/
def State.readCopies (s : State) (v : Mem) : List CRec → List CRec
  | [] => []
  | r :: l =>
    (if r.op = 2 then imgWords.map fun w => ⟨3, w, r.idx, copyMask r.idx w, v.word (s.entAddr r.off + w)⟩ else [r]) ++
      s.readCopies (s.execRec v r) l

/-- Entries an operation changes. -/
def Op.entries (o : Op) : List Nat := (o.recs.filter fun r => r.op ≠ 1).map (·.idx) |>.eraseDups

/-- Crosspoint records an operation changes. -/
def Op.xpoints (o : Op) : List Nat := (o.recs.filter fun r => r.op = 1).map (·.idx) |>.eraseDups

/-- Bits of the word at an offset of entry n that an operation changes. -/
def Op.entMask (o : Op) (n w : Nat) : Word :=
  o.recs.foldl (fun m r =>
    if r.idx = n ∧ (r.op = 0 ∨ r.op = 3) ∧ r.off = w then m ||| r.mask else if r.idx = n ∧ r.op = 2 then m ||| copyMask n w else m) 0

/-- Bits of the word at an offset of record n that an operation changes. -/
def Op.xpMaskAt (o : Op) (n w : Nat) : Word :=
  o.recs.foldl (fun m r => if r.idx = n ∧ r.op = 1 ∧ r.off = w then m ||| r.mask else m) 0

/-- The image of entry n in a memory. -/
def State.imgIn (s : State) (m : Mem) (n : Nat) : Mem := Mem.zero.setN 0 (m.getN (s.entAddr n) imgSize)
def State.xpIn (s : State) (m : Mem) (n : Nat) : Mem := Mem.zero.setN 0 (m.getN (s.xpAddr n) 16)

/-! ### Checks -/

/-- A record's own checks (R66, R80): OP, OFFSET, INDEX, and MASK free of reserved bits, status area and HOLD. -/
def CRec.formOk (r : CRec) : Bool :=
  match r.op with
  | 0 => r.off % 4 = 0 && r.off ≤ 0x1BC && r.idx ≤ 4095 &&
      (3072 ≤ r.idx || (r.mask &&& ~~~(copyMask r.idx r.off)) = 0)
  | 1 => (r.off = 0 || r.off = 4 || r.off = 8 || r.off = 12) && r.idx ≤ 98303 && (r.mask &&& ~~~(xpMask r.off)) = 0
  | 2 => 3072 ≤ r.off && r.off ≤ 4095 && r.idx ≤ 4095
  | _ => false

/-- Bytes off to off + n - 1 of entry n meet the changed bits. -/
def Op.touchesEnt (o : Op) (n off size : Nat) : Bool :=
  let w := off / 4 * 4
  let m := fld (8 * (off % 4)) (8 * size) (2 ^ (8 * size) - 1)
  (o.entMask n w &&& m) ≠ 0

/-- The fields of entry n that an operation changes or brings into use are valid in the image after it (R66, R71). -/
def State.entValid (s : State) (o : Op) (n : Nat) (a b : Mem) : Bool :=
  let k := kindOf n
  let dom := (o.entMask n 0 &&& 0x600#32) ≠ 0
  let t (off size : Nat) := o.touchesEnt n off size
  let nums := (List.zip (flds k a) (flds k b)).all fun p =>
    let f := p.2
    !f.use || !(t f.off f.size || !p.1.use || (dom && f.lo = 1000 && f.hi = fMax (Img.dom b)) ||
      (f.off = Img.dlyOff k + 12 && t (Img.dlyOff k + 8) 4)) || f.ok b
  let opened (bt : Nat) := Img.byp a bt && !Img.byp b bt
  let sec := (Img.secs k).all fun i =>
    let so := Img.secOff k i
    let mode := opened (if i = 0 then 1 else 3) || t so 1
    (!(mode || t (so + 1) 1) || !secBad k b i) && (!(mode || t (so + 0x10) 4 || t (so + 0x14) 4) || !secUnstable k b i)
  let line := !(dom || opened 5 || ([0, 4, 8].any fun r => o.entMask n (Img.dlyOff k + r) ≠ 0)) || s.lineOk k b
  let enums := (!(opened 4 || t (Img.dynOff k) 1) || Img.byp b 4 || bits (b.get (Img.dynOff k)).toNat 0 2 ≤ 1) &&
    (k ≠ 2 || !(t 0x30 1) || Img.scale b ≠ 3) && (!dom || Img.dom b ≠ 3)
  let codes := (k ≠ 1 || !(t 4 2) || srcOk (Img.input b)) &&
    (k ≠ 3 || [0, 1, 2, 3].all fun i => !(t (0xD0 + 8 * i) 2) || dstOk (Img.dest b i))
  nums && sec && line && enums && codes

/-- The changed fields of a crosspoint record are valid after an operation. -/
def State.xpValid (o : Op) (n : Nat) (b : Mem) : Bool :=
  XpR.flds.all fun f => (o.xpMaskAt n (f.off / 4 * 4) &&& fld (8 * (f.off % 4)) (8 * f.size) (2 ^ (8 * f.size) - 1)) = 0 || f.ok b

/-- All fields an operation changes or brings into use are valid, from one memory to the next. -/
def State.fieldsOk (s : State) (o : Op) (a b : Mem) : Bool :=
  (o.entries.all fun n => 3072 ≤ n || s.entValid o n (s.imgIn a n) (s.imgIn b n)) &&
  (o.xpoints.all fun n => State.xpValid o n (s.xpIn b n))

/-- The checks of R66 on a whole commit or recall. -/
def State.acceptOk (s : State) (o : Op) : Bool :=
  (o.kind = .recall || (1 ≤ o.recs.length && o.recs.length ≤ 4096)) && o.recs.all CRec.formOk &&
    (let v := s.viewBefore o
     s.fieldsOk o v (o.recs.foldl s.execRec v))

/-- Template copies of an operation fit (R45, R28): the template's KIND is the target's, and no reserved bit is set. -/
def Op.copiesOk (o : Op) : Bool :=
  (o.recs.filter fun r => r.op = 3).all fun r =>
    3072 ≤ r.idx || ((r.off ≠ 0 || wbits r.val 0 8 = kindOf r.idx) && (r.val &&& ~~~(fieldMask (kindOf r.idx) r.off)) = 0)

/-- The checks of R71 on entry n: inactive-only fields (R43) and KIND (R32). An entry that a direct write left with a wrong KIND
or DOMAIN while it was active goes on, so it counts as active (`live`); one without a valid copy is inactive (`void`, R57). -/
def activityOk (live void : Bool) (n : Nat) (a b : Mem) : Bool :=
  let k := kindOf n
  let ok (m : Mem) : Bool := Img.active m && Img.kind m = k && Img.dom m ≠ 3 && !void
  let was := ok a || (live && Img.active a)
  let will := ok b
  (inactiveDiff k a b = 0 || (!was && !will)) && (Img.kind a = Img.kind b || Img.kind b = k)

/-- The check of R71, against the state immediately before the target. -/
def State.applyOk (s : State) (o : Op) : Bool :=
  let a := s.viewBefore o
  let b := o.recs.foldl s.execRec a
  o.copiesOk && s.fieldsOk o a b && o.entries.all fun n => 3072 ≤ n || activityOk (s.ent n).live (s.ent n).noCopy n (s.imgIn a n) (s.imgIn b n)

/-! ### Claims (R83 to R85) -/

/-- A commit or recall of host h touches what another host's claim holds (R84). -/
def State.claimed (s : State) (h : Nat) (p : Bool) (o : Op) : Bool :=
  let v := s.viewBefore o
  let w := o.recs.foldl s.execRec v
  o.entries.any (s.heldByOther h p) ||
  o.xpoints.any fun n => s.heldByOther h p (XpR.src (s.xpIn v n)) || s.heldByOther h p (XpR.src (s.xpIn w n))

/-- Each accepted operation of a holder restarts the lease of its claims (R85). DESIGN CHOICE (notes/assumptions/73.md): so does one
between the end of a lease and the boundary at which the claim would end, and a RENEW; a RELEASE that names the claim then is
BADARG. -/
def State.renewAll (s : State) (h : Nat) (p : Bool) : State :=
  { s with mix := { s.mix with claims := s.mix.claims.map fun c =>
      if c.host = h ∧ c.partner = p then { c with expired := false } else c } }

/-- Claims of a host. -/
def State.claimsOf (s : State) (h : Nat) (p : Bool) : List Claim := s.mix.claims.filter fun c => c.host = h && c.partner = p

def State.dropClaims (s : State) (f : Claim → Bool) : State :=
  { s with mix := { s.mix with claims := s.mix.claims.filter fun c => !f c } }

/-! ### CSN and pending operations (R62, R64) -/

/-- The next CSN of 48 bits. -/
def State.nextCsn (s : State) : Nat := (s.mix.csn + 1) % 2 ^ 48

/-- A CSN is consumed. -/
def State.takeCsn (s : State) : State := { s with mix := { s.mix with csn := s.nextCsn } }

/-- Replace the operation with the CSN of o. -/
def State.opPut (s : State) (o : Op) : State :=
  { s with mix := { s.mix with ops := s.mix.ops.map fun a => if a.csn = o.csn then o else a } }

/-- An operation with no parameters yet. -/
def Op.mk0 (k : OpKind) (h q cookie t : Nat) : Op :=
  { csn := 0, kind := k, host := h, ring := q, cookie := cookie, fwd := none, next := false, stage := false, width := 48, t := t, n := 0, shape := 0, own := false, recs := [],
    args := [], late := false, lost := false, failed := false, aborted := false, part1 := false, part2 := false, delay := 0,
    data := [] }

/-- Effective target and LATE for a target at acceptance index x (R67); none: BADARG. -/
def target (x : Nat) (next : Bool) (t : Int) : Option (Nat × Bool) :=
  if next then some (x + 24, false)
  else if (x : Int) + 2147483647 < t then none
  else if (x : Int) + 36 ≤ t then some (t.toNat, false)
  else if (x : Int) + 24 ≤ t then some (t.toNat, true)
  else some (x + 24, true)

/-! ### Application (R70 to R73) -/

/-- The boundary from which an operation's first stage begins its target's block: strips and templates one block after
capture, the rest two (R72). -/
def Op.firstBlock (o : Op) : Nat := o.t / 12 + (if o.recs.any CRec.first then 1 else 2)

/-- Logical engine that serves an entry, and its dual-path slots (R9, R78). -/
def engineOf (n : Nat) : Nat := if n < 1536 then n / 96 else if n < 2048 then 16 + (n - 1536) / 64 else 16 + (n - 2048) / 128
def slotsOf (n : Nat) : Nat := if n < 1536 then 24 else 32

/-- Entries of the engine of n, other than n, that hold a dual path at A-index t (R78). -/
def State.holders (s : State) (n t : Nat) : Nat :=
  (s.mix.ents.filter fun e => e.idx ≠ n && engineOf e.idx = engineOf n &&
    (let u := domCeil e.dom t
     let x := s.entUpTo e u
     x.runs u && x.dualAt u)).length

/-- Slots of the engine of n taken at A-index t of the block its stage begins: those held, and those that the waiting entries take
at the boundary (R79). -/
def State.slotsTaken (s : State) (n t : Nat) : Nat :=
  let t0 := t / 12 * 12
  let ws := (s.mix.ents.filter fun e => e.idx ≠ n && engineOf e.idx = engineOf n && (e.waitAt t0).isSome &&
    !e.dualAt (domCeil e.dom t0)).length
  s.holders n t + min ws (slotsOf n - s.holders n t0)

/-- A change of an entry runs or waits for a dual path (R75, R78). -/
def State.needsSlot (s : State) (e : Ent) (c : Chg) (u : Nat) : Bool :=
  c.n ≠ 0 && e.runs u && c.filters (kindOf e.idx) e.run.filt.act (s.clamped e.idx (applyRecs e.img c.recs))

/-- A change needs no dual-path slot, or one is free for it at index u; `e` is the entry just before it (R79). -/
def State.slotFor (s : State) (e : Ent) (c : Chg) (u : Nat) : Bool :=
  !s.needsSlot e c u || (!e.dualAt u && e.wait.isNone && s.slotsTaken e.idx c.t < slotsOf e.idx)

/-- Terms that ramp out behind a record's move at A-index t. -/
def Xp.secondAt (x : Xp) (d t : Nat) : Nat :=
  match rampOf (x.upTo d (domCeil d t)).ramps .move with
  | some r => if r.isOver d (domCeil d t) then 0 else r.old.length
  | none => 0

/-- Second terms in use at A-index t (R122). -/
def State.secondTerms (s : State) (t : Nat) : Nat :=
  s.mix.xps.foldl (fun n x => n + x.secondAt (s.busDom (XpR.dst x.img)) t) 0

/-- Second terms taken at A-index t of the block the mix stage begins: those in use, and those that the waiting moves take at the
boundary (R122). -/
def State.termsTaken (s : State) (t : Nat) : Nat :=
  let t0 := t / 12 * 12
  let ws := (s.mix.xps.filter fun x => (x.waitAt (s.busDom (XpR.dst x.img)) t0).isSome).length
  s.secondTerms t + min ws (16384 - s.secondTerms t0)

/-- A change of a record needs no second term, or one is free for it; `x` is the record just before it at index u (R122). -/
def State.termFor (s : State) (x : Xp) (d u : Nat) (c : Chg) : Bool :=
  let fin' := applyRecs (if x.wait.isSome then x.target else x.img) (c.recs.filter fun r => r.off < 16)
  !(c.moves && c.span fin' ≠ 0 && x.liveAt d u) || (x.wait.isNone && s.termsTaken c.t < 16384)

/-- Bits of a word of entry n that later operations at the same target win (R70). -/
def State.wonEnt (s : State) (o : Op) (n w : Nat) : Word :=
  s.mix.ops.foldl (fun m a => if a.t = o.t ∧ o.csn < a.csn ∧ a.writes ∧ !a.failed then m ||| a.entMask n w else m) 0

def State.wonXp (s : State) (o : Op) (n w : Nat) : Word :=
  s.mix.ops.foldl (fun m a => if a.t = o.t ∧ o.csn < a.csn ∧ a.writes ∧ !a.failed then m ||| a.xpMaskAt n w else m) 0

/-- The word changes of an operation in an entry, without the bits it loses; values as the view after it holds them. -/
def State.entChg (s : State) (o : Op) (after : Mem) (n : Nat) : List WordChg :=
  (imgWords.map fun w => (⟨w, o.entMask n w &&& ~~~(s.wonEnt o n w), after.word (s.entAddr n + w)⟩ : WordChg)).filter
    fun r => r.mask ≠ 0

def State.xpChg (s : State) (o : Op) (after : Mem) (n : Nat) : List WordChg :=
  ([0, 4, 8, 12].map fun w => (⟨w, o.xpMaskAt n w &&& ~~~(s.wonXp o n w), after.word (s.xpAddr n + w)⟩ : WordChg)).filter
    fun r => r.mask ≠ 0

/-- An operation loses a bit of an entry of its first part, or of the rest (R70). -/
def State.losesFirst (s : State) (o : Op) : Bool :=
  (o.entries.filter firstPart).any fun n => imgWords.any fun w => (o.entMask n w &&& s.wonEnt o n w) ≠ 0

def State.losesRest (s : State) (o : Op) : Bool :=
  ((o.entries.filter fun n => !firstPart n).any fun n => imgWords.any fun w => (o.entMask n w &&& s.wonEnt o n w) ≠ 0) ||
  (o.xpoints.any fun n => [0, 4, 8, 12].any fun w => (o.xpMaskAt n w &&& s.wonXp o n w) ≠ 0)

/-- An operation has nothing for the Mix stage: it changes strips and templates alone, and no send list's head. -/
def Op.firstOnly (o : Op) : Bool :=
  o.recs.all CRec.first && o.entries.all fun n => 3072 ≤ n || o.entMask n 0xC = 0

/-- A compiled copy that still waits for its installation takes a commit's write-back too, so it stays as bulk memory is (R52). -/
def State.mergeReady (s : State) (it : Item) (cs : List WordChg) : State :=
  { s with mix := { s.mix with ready := s.mix.ready.map fun r => if r.item = it then { r with img := applyRecs r.img cs } else r } }

/-- What the compile of a commit's change finds: PARAM sections whose design fits no shift (R100), a zone delay that clamps (R132);
`e` is the entry before the change, `e'` after it. -/
def State.changeErr (s : State) (n : Nat) (e e' : Ent) (c : Chg) : State :=
  let k := kindOf n
  let fits := ((Img.secs k).filter fun i => secNoFit k e'.img i && (!secNoFit k e.img i ||
    c.recs.any fun r => Img.secOff k i ≤ r.off && r.off < Img.secOff k i + 0x18)).length
  let clamp : Bool := k = 3 && e'.dlyClamped && (!e.dlyClamped || e.add ≠ e'.add)
  let bad := fits + b2n clamp
  if bad = 0 then s
  else
    let x := s.ent n
    let s := s.entSet { x with err := x.err ||| (if fits = 0 then 0 else 4#8) ||| (if clamp then 2#8 else 0) }
    (s.countN cBadField bad).badAddr false n

/-- The status area after a commit's application (R42): STATE as the change leaves it. -/
def State.statusAfter (s : State) (e' : Ent) (u : Nat) : State := s.putStatus { e' with err := (s.ent e'.idx).err } u

/-- One entry of an operation: masked write-backs, the change for its stage, LASTCSN and LASTNSC (R42, R52, R72). -/
def State.applyEnt (s : State) (o : Op) (after : Mem) (n : Nat) : State :=
  let cs := s.entChg o after n
  let s : State := { s with mem := { s.mem with
    bulk := cs.foldl (fun m r => m.maskSet (s.entAddr n + r.off) r.mask r.val) s.mem.bulk } }
  if 3072 ≤ n then s
  else
    let s := s.mergeReady (.entry n) cs
    let e := s.ent n
    let u := domCeil e.dom o.t
    let e0 := s.entUpTo e u
    let c : Chg := ⟨o.t, o.csn, o.n, o.shape, false, true, cs⟩
    let c := { c with slot := s.slotFor e0 c u }
    let e := { e with chg := e.chg ++ [c], lastCsn := o.csn, lastNsc := o.t }
    let e' := s.entUpTo e u
    ((s.entSet e).changeErr n e0 e' c).statusAfter e' u

/-- One record of an operation. -/
def State.applyXp (s : State) (o : Op) (after : Mem) (n : Nat) : State :=
  let cs := s.xpChg o after n
  let s : State := { s with mem := { s.mem with
    bulk := cs.foldl (fun m r => m.maskSet (s.xpAddr n + r.off) r.mask r.val) s.mem.bulk } }
  let s := s.mergeReady (.xp n) cs
  let x := s.xp n
  let d := s.busDom (XpR.dst x.img)
  let c : Chg := ⟨o.t, o.csn, o.n, o.shape, o.own, true, cs⟩
  let u := domCeil d o.t
  s.xpSet { x with chg := x.chg ++ [{ c with slot := s.termFor (x.upTo d u) d u c }] }

/-- Membership of a record on its source's list changes at an operation's target (R75): word 16 carries it. -/
def State.member (s : State) (o : Op) (i : Nat) (v : Bool) : State :=
  let x := s.xp i
  s.xpSet { x with chg := x.chg ++ [⟨o.t, o.csn, o.n, o.shape, o.own, true, [⟨16, 1, fld 0 1 (b2n v)⟩]⟩] }

/-- On-list flag of a record with its pending changes. -/
def Xp.onEnd (x : Xp) : Bool :=
  (x.chg.flatMap fun c => c.recs).foldl (fun v r => if r.off = 16 then r.val.getLsbD 0 else v) x.on

/-- SENDHEAD of entry n after an operation that meets it as `h`, without the bits the operation loses (R70). -/
def State.headAfter (s : State) (o : Op) (n h : Nat) : Nat :=
  (o.recs.foldl (fun w r =>
    if r.idx = n ∧ (r.op = 0 ∨ r.op = 3) ∧ r.off = 0xC then maskWord w (r.mask &&& ~~~(s.wonEnt o n 0xC)) r.val else w)
    (BitVec.ofNat 32 h)).toNat

/-- Heads and lists after the second part of an operation (R75, R47, R48): each operation's own heads in the order of R69 (R73), of
which one that a later operation at the same target wins is left to that one (R70). -/
def State.listsAfter (s : State) (o : Op) : State :=
  let heads := o.entries.filter fun n => n < 2048 && (o.entMask n 0xC &&& ~~~(s.wonEnt o n 0xC)) ≠ 0
  let s := heads.foldl (fun s n => s.entSet { s.ent n with head := s.headAfter o n (s.ent n).head }) s
  let moved := o.xpoints.filter fun n => (o.xpMaskAt n 0 &&& ~~~(s.wonXp o n 0)) ≠ 0 || (o.xpMaskAt n 8 &&& ~~~(s.wonXp o n 8)) ≠ 0
  if heads.isEmpty && moved.isEmpty then s
  else
    let owners := (heads ++ moved.flatMap fun i =>
      ((s.mix.ents.filter fun e => i ∈ e.list).map (·.idx)) ++ [XpR.src (s.xp i).walkImg]).eraseDups.filter (· < 2048)
    let s := owners.foldl (fun s n =>
      let r := s.walk n 512 (s.ent n).head
      let s := s.entSet { s.ent n with list := r.1 }
      if r.2 then ((s.setErr n 0x20#8).count cXpList).badAddr false n else s) s
    s.mix.xps.foldl (fun s x =>
      let on := decide (x.idx ∈ (s.ent (XpR.src x.walkImg)).list)
      if on = x.onEnd then s else s.member o x.idx on) s

/-- Insertion into a strictly rising list. -/
def natIns (i : Nat) : List Nat → List Nat
  | [] => [i]
  | a :: r => if a < i then a :: natIns i r else if a = i then a :: r else i :: a :: r

/-- A list of numbers in rising order, each once. -/
def natSort (l : List Nat) : List Nat := l.foldl (fun l i => natIns i l) []

/-- First part of an operation: strips and templates, at the boundary where the strip stage begins its target's block. DEDUCED
(notes/assumptions/73.md): where too few slots are free at its target, its entries take them in rising index, the order in which R79
serves waiting entries of one CSN. -/
def State.applyPart1 (s : State) (o : Op) : State :=
  let after := o.recs.foldl s.execRec (s.viewBefore o)
  let s := (natSort (o.entries.filter firstPart)).foldl (fun s n => s.applyEnt o after n) s
  s.opPut { o with part1 := true, part2 := o.firstOnly, lost := o.lost || s.losesFirst o }

/-- Second part: buses, outputs and crosspoint records, in rising index (notes/assumptions/73.md). -/
def State.applyPart2 (s : State) (o : Op) : State :=
  let after := o.recs.foldl s.execRec (s.viewBefore o)
  let s := (natSort (o.entries.filter fun n => !firstPart n)).foldl (fun s n => s.applyEnt o after n) s
  let s := (natSort o.xpoints).foldl (fun s n => s.applyXp o after n) s
  let s := s.listsAfter o
  s.opPut { o with part1 := true, part2 := true, lost := o.lost || s.losesRest o }

/-- The operation with a CSN. -/
def State.opOf (s : State) (csn : Nat) : Option Op := s.mix.ops.find? fun o => o.csn = csn

/-- The template copies of an operation are read at the boundary where the strip stage begins its target's block, in order, before
any template of that block is written back (R65, R69, R72). -/
def State.copiesDue (s : State) (o : Op) : State :=
  if o.writes && !o.failed && !o.part1 && o.recs.any (fun r => r.op = 2) then
    s.opPut { o with recs := s.readCopies (s.viewBefore o) o.recs }
  else s

/-- The check of R71 for one operation whose first stage begins. -/
def State.checkDue (s : State) (blk : Nat) (o : Op) : State :=
  if o.writes && !o.failed && !o.part1 && o.firstBlock = blk && !s.applyOk o then
    s.opPut { o with failed := true, part1 := true, part2 := true }
  else s

/-- The check of R71 made ahead for one operation: every operation that can come before it is known (R67, R69). -/
def State.foresee (s : State) (o : Op) : State :=
  let s := s.copiesDue o
  let o := (s.opOf o.csn).getD o
  if o.writes && !o.failed && !o.part1 && !s.applyOk o then s.opPut { o with failed := true } else s

/-- Application of one operation's parts that are due at the boundary of block number blk. -/
def State.applyDue (s : State) (blk csn : Nat) : State :=
  match s.opOf csn with
  | none => s
  | some o =>
    if !o.writes || o.failed then s
    else
      let s := if !o.part1 && o.t / 12 + 1 ≤ blk && o.recs.any CRec.first then s.applyPart1 o else s
      match s.opOf csn with
      | none => s
      | some o => if !o.part2 && o.t / 12 + 2 ≤ blk then s.applyPart2 o else s

/-- Commits whose targets fall in the blocks that the stages begin at the boundary of block number blk or before (R72). -/
def State.dueOps (s : State) (blk : Nat) : List Op := (opSort s.mix.ops).filter fun o => o.writes && o.t / 12 + 1 ≤ blk

/-- The checks of R71 for the commits whose first stage begins at the boundary of block number blk. -/
def State.checkCommits (s : State) (blk : Nat) : State :=
  (s.dueOps blk).foldl (fun s o =>
    let s := s.copiesDue ((s.opOf o.csn).getD o)
    s.checkDue blk ((s.opOf o.csn).getD o)) s

/-- Application of the checked commits in order (R53, R69 to R72). -/
def State.applyCommits (s : State) (blk : Nat) : State := ((s.dueOps blk).map (·.csn)).foldl (fun s c => s.applyDue blk c) s

/-! ### Dual-path slots and second terms (R79, R122) -/

/-- Order of waiting changes: effective target, CSN, index. -/
def waitBefore (a b : Wait × Nat) : Bool :=
  a.1.t < b.1.t || (a.1.t = b.1.t && (a.1.csn < b.1.csn || (a.1.csn = b.1.csn && a.2 < b.2)))

def waitIns (a : Wait × Nat) : List (Wait × Nat) → List (Wait × Nat)
  | [] => [a]
  | b :: r => if waitBefore b a then b :: waitIns a r else a :: b :: r


/-- The first change that found no slot or term free has one. -/
def slotted (d t0 : Nat) : List Chg → List Chg
  | [] => []
  | c :: r => if c.unslotted d t0 then { c with slot := true } :: r else c :: slotted d t0 r

/-- One waiting entry takes a free slot: its crossfade starts at the first sample of the block its stage begins then, with its full
length. A change that is still to come on that sample starts it then. -/
def State.grantSlot (s : State) (nsc : Nat) (p : Wait × Nat) : State :=
  let e := s.ent p.2
  let t0 := stageIndex nsc p.2
  if s.holders p.2 t0 < slotsOf p.2 ∧ !e.dualAt (domCeil e.dom t0) then
    let r : Ramp := ⟨.filter 0, t0, p.1.n, p.1.shape, p.1.csn, (0, 0), (0, 0), [], some e.run.filt⟩
    let e := if e.wait.isNone then { e with chg := slotted e.dom t0 e.chg } else { e with
      wait := none, ramps := setRamp e.ramps r
      run := (let x := e.run.cleared e.run.filt.act e.act e.act e.act
              { x with filt := { x.filt with act := e.act } }) }
    (((s.entSet e).putStatus e (domCeil e.dom t0)).count cDpDelay).delayOp p.1.csn (t0 / 12 - p.1.t / 12)
  else s

/-- Free slots go to waiting entries in order (R79). -/
def State.grantSlots (s : State) (nsc : Nat) : State :=
  let ws := s.mix.ents.foldl (fun l e => match e.waitAt (stageIndex nsc e.idx) with
    | some w => waitIns (w, e.idx) l
    | none => l) []
  ws.foldl (fun s p => s.grantSlot nsc p) s

/-- One waiting move takes a free second term. -/
def State.grantTerm (s : State) (nsc : Nat) (p : Wait × Nat) : State :=
  let x := s.xp p.2
  let t0 := nsc - 24
  let d := s.busDom (XpR.dst x.img)
  if s.secondTerms t0 < 16384 then
    let r : Ramp := ⟨.move, t0, p.1.n, p.1.shape, p.1.csn, (0, 0), (0, 0),
      (mixAt x.ramps .move d (domCeil d t0) (termCode x.img)).old, none⟩
    let x := if x.wait.isNone then { x with chg := slotted d t0 x.chg }
      else { x with wait := none, ramps := setRamp x.ramps r, img := withMove x.img x.target }
    ((s.xpSet x).count cXtDelay).delayOp p.1.csn (t0 / 12 - p.1.t / 12)
  else s

/-- Free second terms go to waiting moves in order (R122). -/
def State.grantTerms (s : State) (nsc : Nat) : State :=
  let ws := s.mix.xps.foldl (fun l x => match x.waitAt (s.busDom (XpR.dst x.img)) (nsc - 24) with
    | some w => waitIns (w, x.idx) l
    | none => l) []
  ws.foldl (fun s p => s.grantTerm nsc p) s

/-- A change of an operation waits, will when its sample comes, or falls in a later block than the one that its stage has begun,
whose first A-index is t0, in a domain d. -/
def waitsOn (csn d t0 : Nat) (w : Option Wait) (cs : List Chg) : Bool :=
  w.any (fun w => w.csn = csn) || cs.any fun c => c.csn = csn && (!c.slot || decide (domCeil d (t0 + 12) ≤ domCeil d c.t))

/-- An operation's ramps and waiting changes have all started, and both its parts are written back (R72). -/
def State.opDone (s : State) (o : Op) : Bool :=
  o.part1 && o.part2 && !(s.mix.ents.any fun e => waitsOn o.csn e.dom (stageIndex s.tim.nsc e.idx) e.wait e.chg) &&
    !(s.mix.xps.any fun x => waitsOn o.csn (s.busDom (XpR.dst x.img)) (s.tim.nsc - 24) x.wait x.chg)

/-! ### Scenes (R81, R82) -/

/-- Records of a recalled image: entries, then crosspoint records. -/
def sceneRecs (img : Mem) (nent nxp : Nat) : List CRec :=
  ((upTo nent).flatMap fun i =>
    let a := 64 + 464 * i
    let n := img.le a 2
    imgWords.map fun w => (⟨0, w, n, copyMask n w, img.word (a + 16 + w)⟩ : CRec)) ++
  ((upTo nxp).flatMap fun i =>
    let a := 64 + 464 * nent + 32 * i
    [0, 4, 8, 12].map fun w => (⟨1, w, img.le a 4, xpMask w, img.word (a + 16 + w)⟩ : CRec))

/-- CRC of an image with its CRC field taken as zero (R81). -/
def sceneCrc (bs : List Byte) : Nat := crc32 (bs.take 0x24 ++ [0, 0, 0, 0] ++ bs.drop 0x28)

/-- The records of a send list as a memory holds it (R47, R48); one without a valid copy ends it (R57). -/
def State.walkIn (s : State) (v : Mem) (owner : Nat) : Nat → Nat → List Nat
  | 0, _ => []
  | n + 1, i =>
    if 98303 < i then []
    else
      let m := s.xpIn v i
      if (s.xp i).bad ∨ XpR.src m ≠ owner then [] else i :: s.walkIn v owner n (XpR.next m)

/-- The scene image of entries and their lists as of a CSN (R81). -/
def State.sceneImage (s : State) (view : Mem) (ents : List Nat) (csn nsc : Nat) : List Byte :=
  let xs := natSort ((ents.filter (· < 2048)).flatMap fun n => s.walkIn view n 512 (Img.head (s.imgIn view n)))
  let len := 64 + 464 * ents.length + 32 * xs.length
  let head (crc : Nat) : List Byte :=
    natLe 4 1 ++ natLe 2 ents.length ++ [0, 0] ++ natLe 4 xs.length ++ natLe 4 0 ++ natLe 6 csn ++ [0, 0] ++ natLe 8 nsc ++
    natLe 4 len ++ natLe 4 crc ++ natLe 24 0
  let body := (ents.flatMap fun n => natLe 2 n ++ natLe 14 0 ++ view.getN (s.entAddr n) imgSize) ++
    (xs.flatMap fun i => natLe 4 i ++ natLe 12 0 ++ view.getN (s.xpAddr i) 16)
  head (crc32 (head 0 ++ body)) ++ body

end Sys2Proof.Machine
end

