-- ==== Sys2Proof/Machine/Host.lean ====
section
/-! DEFINITION. The host interface (R210 to R257): set-up rules, doorbell and index pages, descriptors and their checks,
completions, interrupts, host faults. -/

namespace Sys2Proof.Machine

/-! ### Set-up registers (R251 to R256) -/

abbrev rSqCfg (h k : Nat) : Nat := rHst h + 0x108 + 16 * k
abbrev rCqCfg (h k : Nat) : Nat := rHst h + 0x208 + 16 * k

/-- A 40-bit address of a LO and HI pair (R253). -/
def State.addrAt (s : State) (off : Nat) : Nat := (s.rw (off + 4)).toNat % 256 * 2 ^ 32 + (s.rw off).toNat

def State.hstEn (s : State) (h : Nat) : Bool := s.rwBit (rHst h) 31
def State.sqEn (s : State) (h k : Nat) : Bool := s.rwBit (rSqCfg h k) 31
def State.cqEn (s : State) (h k : Nat) : Bool := s.rwBit (rCqCfg h k) 31
def State.sqSize (s : State) (h k : Nat) : Nat := 2 ^ s.rwBits (rSqCfg h k) 12 4
def State.cqSize (s : State) (h k : Nat) : Nat := 2 ^ s.rwBits (rCqCfg h k) 12 4
def State.sqBase (s : State) (h k : Nat) : Nat := s.addrAt (rHst h + 0x100 + 16 * k)
def State.cqBase (s : State) (h k : Nat) : Nat := s.addrAt (rHst h + 0x200 + 16 * k)
def State.dbBase (s : State) (h : Nat) : Nat := s.addrAt (rHst h + 0x008)
def State.ixBase (s : State) (h : Nat) : Nat := s.addrAt (rHst h + 0x010)
def State.cqOf (s : State) (h k : Nat) : Nat := s.rwBits (rSqCfg h k) 0 3

/-- A range that a host may use for rings and pages (R214). -/
def State.hostRange (s : State) (h a n : Nat) : Bool :=
  match s.targetRange a n with
  | .pool => true
  | .bulk => h < 2
  | .host g => h < 2 && g = h
  | _ => false

/-- Master number and class: host n's engine is master n (R258). -/
def hFin (h : Nat) : Fin 4 := ⟨h % 4, Nat.mod_lt h (by decide)⟩

def State.hst (s : State) (h : Nat) : HostPort := s.host (hFin h)
def State.hstPut (s : State) (h : Nat) (x : HostPort) : State := s.hostSet (hFin h) x

def HostPort.sqAt (x : HostPort) (k : Nat) : Sq := x.sq[k % 8]'(Nat.mod_lt k (by decide))
def HostPort.cqAt (x : HostPort) (k : Nat) : Cq := x.cq[k % 8]'(Nat.mod_lt k (by decide))
def HostPort.sqPut (x : HostPort) (k : Nat) (q : Sq) : HostPort := { x with sq := x.sq.set (k % 8) q (Nat.mod_lt k (by decide)) }
def HostPort.cqPut (x : HostPort) (k : Nat) (q : Cq) : HostPort := { x with cq := x.cq.set (k % 8) q (Nat.mod_lt k (by decide)) }


/-- Part of the captured fields of a status register. -/
def State.capFld (s : State) (off lo n v : Nat) : State :=
  s.capSet off ((s.cap off &&& ~~~(fld lo n (2 ^ n - 1))) ||| fld lo n v)

/-! ### Interrupts (R230) -/

/-- An MSI-X message, or its pending bit while the vector is masked in the table. -/
def State.msix (s : State) (h v : Nat) : State :=
  let x := s.hst h
  if !x.link then s
  else if (x.msix.get (16 * v + 12)).getLsbD 0 then s.hstPut h { x with pba := if bit x.pba v then x.pba else x.pba + 2 ^ v }
  else s.emit (.msix h v)

/-- Level of an SPI port's interrupt pin (R230). -/
def State.irqLevel (s : State) (h : Nat) : Bool :=
  let x := s.hst h
  (upTo 8).any (fun k => (x.cqAt k).pin) || x.statPin.any fun b => s.scBit (rHstStat h) b

/-- The pin as it now stands. -/
def State.irqOut (s : State) (h : Nat) : State := if h < 2 then s else s.emit (.irqPin h (s.irqLevel h))

/-- One of FETCHERR, RINGERR, SETUPERR, HFAULT is set, and signalled (R230, R252). -/
def State.hstEvent (s : State) (h b : Nat) : State :=
  let s := s.scSet (rHstStat h) b
  if h < 2 then s.msix h 15
  else
    let x := s.hst h
    (s.hstPut h { x with statPin := if b ∈ x.statPin then x.statPin else b :: x.statPin }).irqOut h

/-- RINGERR with its ring number: 0 to 7 submission, 8 to 15 completion. -/
def State.ringErr (s : State) (h r : Nat) : State := (s.capFld (rHstStat h) 15 4 r).hstEvent h 19

/-- A completion ring signals. -/
def State.signal (s : State) (h c : Nat) : State :=
  let x := s.hst h
  let s := s.hstPut h (x.cqPut c { x.cqAt c with sig := false, unsig := 0, pin := (x.cqAt c).pin || decide (2 ≤ h) })
  if h < 2 then s.msix h (s.rwBits (rCqCfg h c) 24 4) else s.irqOut h

/-! ### Completions (R224 to R226) -/

abbrev stOk : Nat := 0
abbrev stLate : Nat := 1
abbrev stSuper : Nat := 2
abbrev stClaimed : Nat := 3
abbrev stBusy : Nat := 4
abbrev stFwd : Nat := 5
abbrev stBadVer : Nat := 0x10
abbrev stBadOpc : Nat := 0x11
abbrev stBadArg : Nat := 0x12
abbrev stNoSpace : Nat := 0x20
abbrev stLost : Nat := 0x21
abbrev stFault : Nat := 0x22
abbrev stAborted : Nat := 0x23

def Desc.f (d : Desc) (o n : Nat) : Nat := leNat ((d.bytes.drop o).take n)
def Desc.opc (d : Desc) : Nat := d.f 0 1
def Desc.is (d : Desc) (t : Ticket) : Bool := d.ring = t.ring && d.index = t.index
def Desc.ticket (d : Desc) (h : Nat) : Ticket := ⟨h, d.ring, d.index⟩

/-- Descriptors in flight (R219): fetched and not yet completed, accepted or posted, those whose completion is held back among them. -/
def HostPort.inflight (x : HostPort) : Nat := (x.descs.filter fun d => !d.accepted).length + (x.held.filter fun r => r.counts).length

/-- A record into completion ring c: where it goes, then the index moves, then the signal's conditions (R230). -/
def State.cqStore (s : State) (h c : Nat) (bs : List Byte) (irq : Bool) : State :=
  let q := (s.hst h).cqAt c
  let s := (s.devWrite h (s.cqBase h c + 16 * (q.pi % s.cqSize h c)) bs false).2
  let x := s.hst h
  let cfg := s.rw (rCqCfg h c)
  let hit := cfg.getLsbD 30 && (irq || decide (max 1 (wbits cfg 16 8) ≤ q.unsig + 1))
  s.hstPut h { x.cqPut c { x.cqAt c with pi := (q.pi + 1) % 65536, unsig := q.unsig + 1, sig := q.sig || hit } with dirty := true }

/-- A record for completion ring c: held back while the ring's doorbell value is invalid (R218). -/
def State.cqRecord (s : State) (h c : Nat) (bs : List Byte) (irq counts : Bool) : State :=
  let x := s.hst h
  if (x.cqAt c).bad.isSome then s.hstPut h { x with held := x.held ++ [⟨c, bs, irq, counts⟩] } else s.cqStore h c bs irq

/-- The records held back for a ring are posted. -/
def State.cqRelease (s : State) (h c : Nat) : State :=
  let x := s.hst h
  (x.held.filter fun r => r.ring = c).foldl (fun s r => s.cqStore h c r.bytes r.irq)
    (s.hstPut h { x with held := x.held.filter fun r => r.ring ≠ c })

/-- The completion of a descriptor; nothing where a host fault has removed it or its completion ring (R74, R87). -/
def State.post (s : State) (t : Ticket) (status delay csn : Nat) : State :=
  let x := s.hst t.host
  match x.descs.find? fun d => d.is t with
  | none => s
  | some d =>
    let s := s.hstPut t.host { x with descs := x.descs.filter fun e => !e.is t }
    let c := s.cqOf t.host t.ring
    if s.cqEn t.host c then
      s.cqRecord t.host c (natLe 8 (d.f 8 8) ++ natLe 1 status ++ natLe 1 (min delay 255) ++ natLe 6 csn) (bit (d.f 1 1) 0) (!d.accepted)
    else s

/-! ### Descriptor checks (R221, R222, R232, R236 to R245) -/

/-- Bytes a to b - 1 are zero. -/
def Desc.zero (d : Desc) (a b : Nat) : Bool := ((d.bytes.drop a).take (b - a)).all (· = 0)

/-- A device address field. -/
def Desc.addrOk (d : Desc) (o al : Nat) : Bool := d.f o 8 < 2 ^ 40 && d.f o 8 % al = 0

/-- First version of an opcode (R223); none: not in the table. -/
def opcVersion (o : Nat) : Option Nat :=
  if o ∈ [0x01, 0x02, 0x03, 0x10, 0x14, 0x20, 0x21, 0x28, 0x29, 0x31, 0x32, 0x38, 0x39, 0x40, 0x41, 0x42, 0x43, 0x44, 0x50, 0x51, 0x52]
  then some 1
  else if o ∈ [0x11, 0x12, 0x13] then some 2
  else if o = 0x30 then some 3
  else none

/-- Opcodes with a SHAPE field. -/
def hasShape (o : Nat) : Bool := o = 0x10 || o = 0x29 || o = 0x31 || o = 0x32

/-- Width of TARGET for a version (R232). -/
def targetWidth (ver : Nat) : Nat := if ver = 1 then 32 else 48

/-- Timed fields (R236): flags allowed, SHAPE of v3 not 3, TARGET within its width. -/
def Desc.timedOk (d : Desc) (ver flags : Nat) : Bool :=
  let c := d.f 0x1A 1
  c &&& (255 - flags - 0x30) = 0 && bits c 4 2 ≠ 3 && (bit c 0 || d.f 0x20 8 < 2 ^ targetWidth ver)

/-- Ranges and reserved fields of an opcode's body. -/
def Desc.bodyOk (d : Desc) (ver : Nat) : Bool :=
  match d.opc with
  | 0x01 => d.zero 0x10 0x40
  | 0x02 => d.f 0x10 1 < 8 && d.zero 0x11 0x40
  | 0x03 => d.f 0x11 1 < 2 && d.zero 0x12 0x20 && d.zero 0x30 0x40
  | 0x10 =>
    let stage := bit (d.f 0x1A 1) 2
    d.addrOk 0x10 16 && 1 ≤ d.f 0x18 2 && d.f 0x18 2 ≤ 4096 && d.timedOk ver 7 &&
      (!stage || (d.f 0x1A 1 = 4 && d.f 0x1C 2 = 0 && d.f 0x20 8 = 0)) && d.zero 0x1B 0x1C && d.zero 0x1E 0x20 && d.zero 0x28 0x40
  | 0x11 => d.addrOk 0x10 8 && 1 ≤ d.f 0x18 1 && d.f 0x18 1 ≤ 64 && d.zero 0x19 0x1C && d.zero 0x20 0x40 &&
      (d.f 0x1C 4 = 0 || (10 ≤ d.f 0x1C 4 && d.f 0x1C 4 ≤ 60000))
  | 0x12 => d.zero 0x16 0x40
  | 0x13 => d.zero 0x16 0x40
  | 0x14 => d.addrOk 0x10 8 && 1 ≤ d.f 0x18 1 && d.f 0x18 1 ≤ 8 && d.f 0x19 1 < 2 && d.zero 0x1A 0x1C && d.f 0x1C 4 ≤ 131088 &&
      d.addrOk 0x20 1 && d.zero 0x28 0x40
  | 0x20 => d.addrOk 0x10 4 && d.addrOk 0x18 4 && d.f 0x20 4 % 4 = 0 && 4 ≤ d.f 0x20 4 && d.f 0x20 4 ≤ 16777216 && d.zero 0x24 0x40
  | 0x21 => d.addrOk 0x10 4 && d.addrOk 0x18 4 && d.f 0x20 4 % 4 = 0 && 4 ≤ d.f 0x20 4 && d.f 0x20 4 ≤ 16777216 && d.zero 0x24 0x40
  | 0x28 => d.addrOk 0x10 8 && 1 ≤ d.f 0x18 1 && d.f 0x18 1 ≤ 64 && d.zero 0x19 0x1A &&
      (d.f 0x1A 2 ≤ 1023 || (d.f 0x1A 2 = 0xFFFF && d.addrOk 0x20 64)) && d.zero 0x28 0x40
  | 0x29 => (d.f 0x18 2 ≤ 1023 || (d.f 0x18 2 = 0xFFFF && d.addrOk 0x10 64)) && d.timedOk ver 3 && d.zero 0x1B 0x1C &&
      d.zero 0x1E 0x20 && d.zero 0x28 0x40
  | 0x30 => d.addrOk 0x10 8 && d.f 0x18 1 ≤ 8 && d.f 0x19 1 ≤ 7 && d.f 0x1A 1 ≤ 7 && d.zero 0x1B 0x1C &&
      (d.f 0x18 1 = 0 || (4 ≤ d.f 0x1C 2 && d.f 0x1C 2 ≤ 4000)) && d.zero 0x1E 0x40
  | 0x31 => d.addrOk 0x10 1 && d.timedOk ver 1 && d.f 0x1B 1 < 16 &&
      (bits (d.f 0x1B 1) 2 2 ≠ 3 || codeClass (d.f 0x18 2) = 5) && d.zero 0x30 0x40
  | 0x32 => d.zero 0x10 0x18 && d.timedOk ver 1 && d.zero 0x1B 0x1C && d.zero 0x1E 0x20 && d.zero 0x28 0x40
  | 0x38 => d.addrOk 0x10 64 && d.f 0x18 1 ≤ 63 && d.zero 0x19 0x1C && d.zero 0x20 0x40
  | 0x39 =>
    d.f 0x10 1 ≤ 63 && d.f 0x11 1 ≤ 3 &&
      (match d.f 0x11 1 with
       | 0 => d.f 0x12 2 ≤ 1023 && d.f 0x14 1 ≤ 128 && d.f 0x15 1 ≤ 128 && d.f 0x16 2 ≤ 1023 && d.f 0x18 1 ≤ 2 && d.zero 0x19 0x1C &&
           d.zero 0x20 0x40
       | 1 => d.zero 0x12 0x40
       | 2 => d.zero 0x12 0x20 && d.addrOk 0x20 1 && d.zero 0x28 0x40
       | _ => d.zero 0x12 0x19 && d.f 0x19 1 ≤ 16 && d.zero 0x1A 0x28 && d.zero 0x38 0x40)
  | 0x40 => d.addrOk 0x10 1 && d.f 0x18 2 = 64 && d.f 0x1A 1 ≤ 1 && d.zero 0x1C 0x40
  | 0x41 => d.zero 0x10 0x1A && d.f 0x1A 1 ≤ 1 && d.zero 0x1C 0x40
  | 0x42 => d.addrOk 0x10 1 && 1 ≤ d.f 0x1A 2 && d.f 0x1A 2 ≤ 1024 && d.f 0x18 2 + d.f 0x1A 2 ≤ 16384 && d.zero 0x1C 0x40
  | 0x43 => d.addrOk 0x10 1 && d.f 0x1A 1 ≤ 5 && d.f 0x1B 1 < 4 && d.f 0x1C 1 ≤ 31 && d.f 0x1D 1 ≤ 7 && d.zero 0x1E 0x20 &&
      d.addrOk 0x20 1 && d.zero 0x28 0x40
  | 0x44 => d.addrOk 0x10 1 && 1568 ≤ d.f 0x18 2 && d.f 0x1A 1 ≤ 3 && d.zero 0x1B 0x40
  | 0x50 => d.zero 0x12 0x14 && d.zero 0x18 0x20
  | 0x51 => 1 ≤ d.f 0x18 4 && d.f 0x18 4 ≤ 65535 && d.addrOk 0x20 1 && d.zero 0x28 0x40
  | 0x52 => d.addrOk 0x10 64 && d.zero 0x18 0x40
  | _ => false

/-- The first status of R222 that applies to a descriptor, 0 if none. -/
def State.descStatus (s : State) (h : Nat) (d : Desc) : Nat :=
  let ver := (s.hst h).ver
  match opcVersion d.opc with
  | none => stBadOpc
  | some v =>
    if ver = 0 ∧ d.opc ≠ 1 ∧ d.opc ≠ 2 then stBadVer
    else if ver ≠ 0 ∧ ver < v then stBadVer
    else if hasShape d.opc ∧ ver < 3 ∧ bits (d.f 0x1A 1) 4 2 ≠ 0 then stBadVer
    else if d.f 2 2 % 8 ≠ d.ring ∨ bit (d.f 2 2) 3 ∨ d.f 2 2 / 16 ≠ s.rwBits (rSqCfg h d.ring) 16 12 ∨ 2 ≤ d.f 1 1 ∨
        !d.zero 4 8 ∨ !d.bodyOk ver then stBadArg
    else 0

/-! ### Order on a ring (R227, R228) -/

/-- A FENCE of the ring waits. -/
def HostPort.fenced (x : HostPort) (k : Nat) : Bool := x.descs.any fun d => d.ring = k && d.opc = 3 && d.begun

/-- The next descriptor of a ring to begin. -/
def HostPort.head (x : HostPort) (k : Nat) : Option Desc :=
  if x.fenced k then none else x.descs.find? fun d => d.ring = k && !d.begun

/-- A staging COMMIT that does not complete OK fails the batch of its ring (R80). DESIGN CHOICE (notes/assumptions/73.md): a closing
COMMIT that a check of R222 refuses, or whose change list cannot be read, leaves the batch open for the next one. -/
def State.stageFailed (s : State) (h : Nat) (d : Desc) (st : Nat) : State :=
  if d.opc = 0x10 ∧ bit (d.f 0x1A 1) 2 ∧ st ≠ stOk then
    { s with mix := { s.mix with batches := ⟨h, d.ring, [], true⟩ :: s.mix.batches.filter fun x => !(x.host = h && x.ring = d.ring) } }
  else s

/-- Descriptors of a ring that fail the checks of R222 complete as they become the next to begin. -/
def State.settleN (s : State) (h k : Nat) : Nat → State
  | 0 => s
  | n + 1 =>
    match (s.hst h).head k with
    | none => s
    | some d =>
      let st := s.descStatus h d
      if st = 0 then s else ((s.stageFailed h d st).post (d.ticket h) st 0 0).settleN h k n

def State.settle (s : State) (h k : Nat) : State := s.settleN h k ((s.hst h).descs.length + 1)

/-- The descriptor that a command of opcode o on ring q of host h acts on. -/
def State.next (s : State) (h q o : Nat) : Option Desc :=
  if !s.up secHost then none
  else ((s.hst h).head q).filter fun d => d.opc = o && s.descStatus h d = 0

/-- The descriptor has begun. -/
def State.setDesc (s : State) (h : Nat) (t : Ticket) (f : Desc → Desc) : State :=
  let x := s.hst h
  s.hstPut h { x with descs := x.descs.map fun d => if d.is t then f d else d }

/-- A command completes its descriptor at once; then the ring goes on. -/
def State.finish (s : State) (h : Nat) (d : Desc) (status csn : Nat) : State :=
  ((s.stageFailed h d status).post (d.ticket h) status 0 csn).settle h d.ring

/-- A command leaves its descriptor begun; then the ring goes on. -/
def State.beganDesc (s : State) (h : Nat) (d : Desc) (f : Desc → Desc) : State :=
  (s.setDesc h (d.ticket h) fun d => { f d with begun := true }).settle h d.ring

/-! ### Doorbell page (R215 to R218) -/

/-- One producer index as read. -/
def State.readPi (s : State) (h k v : Nat) : State :=
  let x := s.hst h
  let q := x.sqAt k
  if !s.sqEn h k ∨ q.bad = some v then s
  else if (v + 65536 - q.ci) % 65536 ≤ s.sqSize h k then s.hstPut h (x.sqPut k { q with pi := v, bad := none })
  else (s.hstPut h (x.sqPut k { q with bad := some v })).ringErr h k

/-- One consumer index as read. -/
def State.readCi (s : State) (h k v : Nat) : State :=
  let x := s.hst h
  let q := x.cqAt k
  if !s.cqEn h k ∨ q.bad = some v then s
  else if (q.pi + 65536 - v) % 65536 ≤ s.cqSize h k then
    (s.hstPut h (x.cqPut k { q with ci := v, bad := none, pin := q.pin && decide (v ≠ q.pi) })).cqRelease h k
  else (s.hstPut h (x.cqPut k { q with bad := some v })).ringErr h (8 + k)

/-- The producer and consumer indexes of a doorbell page that was read, then the signals that follow (R215 to R218). -/
def State.pageIn (h : Nat) (r : Option (List Byte) × State) : State :=
  match r.1 with
  | none => r.2
  | some bs =>
    let v (o : Nat) := leNat ((bs.drop o).take 2)
    let s := (upTo 8).foldl (fun s k => s.readPi h k (v (2 * k))) r.2
    ((upTo 8).foldl (fun s k => s.readCi h k (v (0x10 + 2 * k))) s).irqOut h

/-- The doorbell page read by the Barrow engine. -/
def State.doorbell (s : State) (h : Nat) (hm : HostMem) : State :=
  if !s.hstEn h then s else State.pageIn h (s.devRead h hm (s.dbBase h) 64)

/-- Records posted and not consumed, with reservations (R219). -/
def State.cqUsed (s : State) (h c : Nat) : Nat :=
  let x := s.hst h
  ((x.cqAt c).pi + 65536 - (x.cqAt c).ci) % 65536 + (x.descs.filter fun d => s.cqOf h d.ring = c).length +
    (x.held.filter fun r => r.ring = c).length

/-- A submission ring may take its turn. -/
def State.mayFetch (s : State) (h k : Nat) : Bool :=
  let x := s.hst h
  let q := x.sqAt k
  s.sqEn h k && q.pi ≠ q.ci && !q.halted && q.bad.isNone && !x.fenced k && s.cqEn h (s.cqOf h k) &&
  (x.cqAt (s.cqOf h k)).bad.isNone && decide (s.cqUsed h (s.cqOf h k) < s.cqSize h (s.cqOf h k))

/-- A descriptor that was read from submission ring k: its ring halts where the read failed (R219). -/
def State.descIn (h k : Nat) (q : Sq) (r : Option (List Byte) × State) : State :=
  let s := r.2
  let x := s.hst h
  match r.1 with
  | none => ((s.hstPut h (x.sqPut k { q with halted := true })).capFld (rHstStat h) 20 3 k).hstEvent h 23
  | some bs =>
    let x := { x.sqPut k { q with ci := (q.ci + 1) % 65536 } with
      descs := x.descs ++ [⟨k, q.ci % 65536 + 65536 * x.fetchNo, bs, false, false, none⟩], next := (k + 1) % 8, dirty := true
      fetchNo := x.fetchNo + 1 }
    (s.hstPut h x).settle h k

/-- One descriptor of ring k. -/
def State.fetchFrom (s : State) (h k : Nat) (hm : HostMem) : State :=
  let q := (s.hst h).sqAt k
  State.descIn h k q (s.devRead h hm (s.sqBase h k + 64 * (q.ci % s.sqSize h k)) 64)

/-- One round-robin turn (R219). -/
def State.fetchTurn (s : State) (h : Nat) (hm : HostMem) : State :=
  let x := s.hst h
  if !s.hstEn h || decide (64 ≤ x.inflight) then s
  else match (upTo 8).find? fun i => s.mayFetch h ((x.next + i) % 8) with
    | none => s
    | some i => s.fetchFrom h ((x.next + i) % 8) hm

/-- The index page (R216), then the signals that follow it (R230). -/
def State.indexPage (s : State) (h : Nat) : State :=
  let x := s.hst h
  if !s.hstEn h || !x.dirty then s
  else
    let page := ((upTo 8).flatMap fun k => natLe 2 (x.sqAt k).ci) ++ ((upTo 8).flatMap fun k => natLe 2 (x.cqAt k).pi) ++
      natLe 4 ((x.updseq + 1) % 2 ^ 32) ++ List.replicate 28 0
    let s := (s.devWrite h (s.ixBase h) page false).2
    let s := s.hstPut h { s.hst h with dirty := false, updseq := (x.updseq + 1) % 2 ^ 32 }
    (upTo 8).foldl (fun s k => if ((s.hst h).cqAt k).sig then s.signal h k else s) s

/-- MODTIME has passed since the oldest unsignalled record (R230). -/
def State.modTime (s : State) (h c : Nat) : State :=
  let x := s.hst h
  let cfg := s.rw (rCqCfg h c)
  if s.cqEn h c && cfg.getLsbD 30 && wbits cfg 0 10 ≠ 0 && (x.cqAt c).unsig ≠ 0 then
    if x.dirty then s.hstPut h (x.cqPut c { x.cqAt c with sig := true }) else s.signal h c
  else s

/-! ### Enables (R214, R218, R251, R255, R256) -/

/-- Doorbell and index pages may serve (R214, R251). -/
def State.setupOk (s : State) (h : Nat) : Bool :=
  s.hostRange h (s.dbBase h) 64 && s.hostRange h (s.ixBase h) 64 && !overlap (s.dbBase h) 64 (s.ixBase h) 64

/-- The rules of R214 for a submission ring with its configuration word. -/
def State.sqRules (s : State) (h k : Nat) (w : Word) : Bool :=
  let z := wbits w 12 4
  4 ≤ z && z ≤ 12 && s.hostRange h (s.sqBase h k) (64 * 2 ^ z) && !s.rwBit (rCqCfg h (wbits w 0 3)) 29

def State.cqRules (s : State) (h k : Nat) (w : Word) : Bool :=
  let z := wbits w 12 4
  4 ≤ z && z ≤ 12 && s.hostRange h (s.cqBase h k) (16 * 2 ^ z) &&
  (!w.getLsbD 29 || (upTo 8).all fun j => !(s.sqEn h j && s.cqOf h j = k))

/-- The 16-bit value at address a of memory t, as a doorbell page gives it: free where the page lies in a host window
whose link is up, and 0 where nothing answers (R218; notes/assumptions/75.md). -/
def State.peekAt (s : State) (t : Target) (a : Nat) : Nat × State :=
  match t with
  | .pool => (leNat (s.poolRead a 2), s)
  | .bulk => (s.mem.bulk.le a 2, s)
  | .host g => if s.linkOf g then (s.fresh.1 % 65536, s.fresh.2) else (0, s)
  | _ => (0, s)

/-- An index of the doorbell page as it reads at an enable (R218); host memory is outside, so that its value is free. -/
def State.doorbellPeek (s : State) (h o : Nat) : Nat × State :=
  s.peekAt (s.targetRange (s.dbBase h) 64) (s.dbBase h + o)

/-- Submission ring k begins a life with both indexes 0: a doorbell value other than 0 is an invalid one (R216, R218). -/
def State.sqStart (h : Nat) (s : State) (k : Nat) : State :=
  let p := if s.hstEn h then s.doorbellPeek h (2 * k) else (0, s)
  let s := p.2.hstPut h { (p.2.hst h).sqPut k { Sq.zero with bad := if p.1 = 0 then none else some p.1 } with dirty := true }
  if p.1 = 0 then s else s.ringErr h k

/-- Completion ring k begins a life likewise. -/
def State.cqStart (h : Nat) (s : State) (k : Nat) : State :=
  let p := if s.hstEn h then s.doorbellPeek h (0x10 + 2 * k) else (0, s)
  let s := p.2.hstPut h { (p.2.hst h).cqPut k { Cq.zero with bad := if p.1 = 0 then none else some p.1 } with dirty := true }
  if p.1 = 0 then s else s.ringErr h (8 + k)

/-- HST_CTLn.EN is set: the rings enabled before begin (R218, R251). -/
def State.portStart (s : State) (h : Nat) : State :=
  ((upTo 8).filter fun k => s.cqEn h k).foldl (State.cqStart h) (((upTo 8).filter fun k => s.sqEn h k).foldl (State.sqStart h) s)

/-! ### Host faults (R87, R235) -/

/-- Opcodes whose waiting descriptors end at a host fault: sequenced operations, FENCE, NET_TX, NET_RX_POST. -/
def endsAtFault (d : Desc) : Bool := !d.begun || d.opc ∈ [0x03, 0x10, 0x11, 0x12, 0x14, 0x29, 0x31, 0x32, 0x43, 0x44]

/-- The descriptors that end complete ABORTED, those accepted as sequenced operations stay. -/
def State.abortDescs (s : State) (h : Nat) : State :=
  (s.hst h).descs.foldl (fun s d =>
    if endsAtFault d && !(d.accepted && decide (d.opc ≠ 0x44)) then s.post (d.ticket h) stAborted 0 0 else s) s

/-- Frames of a host leave the transmit queues. -/
def Net.dropHost (n : Net) (h : Nat) : Net :=
  { n with ports := n.ports.map fun p => { p with txq := p.txq.filter fun f => match f.kind with
      | .host t _ => t.host ≠ h
      | _ => true } }

/-- Release of a host's claims at a CSN of its own (R62, R87); a standby tells the active unit, the pair's one sequencer (R391). -/
def State.faultClaims (s : State) (h : Nat) : State :=
  let own (c : Claim) : Bool := c.host = h && !c.partner
  if s.twin.st = 4 ∧ s.twin.paired then (s.hitch 0x13 [h] []).dropClaims own
  else if (s.claimsOf h false).isEmpty then s
  else (s.takeCsn.dropClaims own).jRelease h false

/-- A host fault of cause c (R252); `lost`: no completion is posted and every ring and the port are disabled. -/
def State.hostFault (s : State) (h c : Nat) (lost : Bool) : State :=
  let s := (s.capFld (rHstStat h) 11 3 c).hstEvent h 14
  let s := s.faultClaims h
  let s := { s with mix := { s.mix with batches := s.mix.batches.filter fun b => b.host ≠ h } }
  let s := if lost then s.hstPut h { s.hst h with descs := [], held := [] } else s.abortDescs h
  let s := { s with net := s.net.dropHost h }
  let s := s.hstPut h { s.hst h with ver := 0, rxq := [[], [], [], []], subs := List.replicate 8 none }
  if lost then
    let s := s.rwPutBit (rHst h) 31 false
    let s := (upTo 8).foldl (fun s k => (s.rwPutBit (rSqCfg h k) 31 false).rwPutBit (rCqCfg h k) 31 false) s
    s.hstPut h { s.hst h with sq := Vector.replicate 8 Sq.zero, cq := Vector.replicate 8 Cq.zero, dirty := false }
  else s

/-- Teardown of a completion ring: completions to it are lost. -/
def State.dropCq (s : State) (h c : Nat) : State :=
  let x := s.hst h
  s.hstPut h ({ x with
    descs := x.descs.filter fun d => s.cqOf h d.ring ≠ c, held := x.held.filter fun r => r.ring ≠ c, dirty := true }.cqPut c Cq.zero)

/-- Ring teardown (R87, R235): the EN bits named are clear already. -/
def State.teardown (s : State) (h : Nat) (sqs cqs : List Nat) : State :=
  let s := cqs.foldl (fun s c => s.dropCq h c) s
  let s := s.hostFault h 3 false
  sqs.foldl (fun s k => s.hstPut h { (s.hst h).sqPut k Sq.zero with dirty := true }) s

/-! ### Fences (R228) -/

/-- A descriptor of ring k below an index is not done: with ACCEPT, a sequenced operation is once accepted. -/
def HostPort.undone (x : HostPort) (k idx ci : Nat) (accept : Bool) : Bool :=
  x.descs.any fun d => d.ring = k && !(accept && d.accepted && decide (d.opc ≠ 0x44)) &&
    decide ((ci + 65536 - d.index % 65536) % 65536 ≤ 32768 ∧ (idx + 65536 - d.index % 65536) % 65536 ≤ 32768 ∧ idx ≠ d.index % 65536)

/-- Whether a FENCE holds: every descriptor of each named ring below its INDEX is done, the FENCE itself not counted. -/
def State.fenceDone (s : State) (h : Nat) (d : Desc) : Bool :=
  let x := s.hst h
  let y := { x with descs := x.descs.filter fun e => !e.is (d.ticket h) }
  (upTo 8).all fun k => !bit (d.f 0x10 1) k ||
    (let idx := d.f (0x20 + 2 * k) 2
     let ci := (x.sqAt k).ci
     decide ((idx + 65536 - ci) % 65536 = 0 ∨ 32768 ≤ (idx + 65536 - ci) % 65536) && !y.undone k idx ci (bit (d.f 0x11 1) 0))

/-- An INDEX more than the ring size beyond SQCI (R228). -/
def State.fenceBad (s : State) (h : Nat) (d : Desc) : Bool :=
  (upTo 8).any fun k => bit (d.f 0x10 1) k &&
    (let e := (d.f (0x20 + 2 * k) 2 + 65536 - ((s.hst h).sqAt k).ci) % 65536
     decide (s.sqSize h k < e ∧ e < 32768))

/-! ### Range lists (R237, R232) -/

/-- Range list of a version: FIRST and LAST; none: a v1 host set upper bits, or FIRST exceeds LAST. -/
def rangesOf (ver : Nat) : Nat → List Byte → Option (List (Nat × Nat))
  | 0, _ => some []
  | n + 1, bs =>
    let a := leNat (bs.take 4)
    let b := leNat ((bs.drop 4).take 4)
    if (ver = 1 ∧ (65536 ≤ a ∨ 65536 ≤ b)) ∨ b < a then none
    else (rangesOf ver n (bs.drop 8)).map fun r => (a, b) :: r

/-- HST_STATn's RO fields besides the captured ones (R252). -/
def State.hstStat (s : State) (h : Nat) : Word :=
  fld 8 2 (s.hst h).ver ||| fld 0 7 (s.hst h).inflight

end Sys2Proof.Machine
end

