-- ==== Sys2Proof/Machine/Time.lean ====
section
/-! DEFINITION. The Time section (R320 to R347): measurement and qualification of references, selection, jams, build-out,
Smoulder. Times between commands are not counted: the end of a wait comes as a command (notes/assumptions/21.md). -/

namespace Sys2Proof.Machine

def Ref.fresh : Ref := ⟨0, 0, 0, 0, false, false, false, 0⟩

def State.timSet (s : State) (t : Tim) : State := { s with tim := t }

/-- Reference r. -/
def State.ref (s : State) (r : Nat) : Ref := s.tim.refs.getD r Ref.fresh
def State.refSet (s : State) (r : Nat) (x : Ref) : State := s.timSet { s.tim with refs := s.tim.refs.set r x, ran := true }

abbrev rRefCfg (r : Nat) : Nat := wTime + 0x0110 + 4 * r

/-- EN of a reference. -/
def State.refEn (s : State) (r : Nat) : Bool := s.rwBit (rRefCfg r) 31

/-- Threshold F in 10^-12. -/
def State.refThr (s : State) (r : Nat) : Int := (s.rwBits (rRefCfg r) 4 12 : Int) * 100000

/-- Quality in effect: programmed for T2 to T8, from Announce for T0 and T1 (R325). -/
def State.refQual (s : State) (r : Nat) : Nat := if r ≤ 1 then (s.ref r).qual else s.rwBits (rRefCfg r) 16 8

/-- Base quality of a clockClass and what clockAccuracy adds (R325). -/
def announceQual (cls acc : Nat) : Nat :=
  let base := if cls = 6 ∨ cls = 13 then 224 else if cls = 7 ∨ cls = 14 then 192
    else if cls = 52 ∨ cls = 58 ∨ cls = 187 ∨ cls = 193 then 128 else if cls = 248 then 96 else if cls = 255 then 0 else 64
  base + (if 0x20 ≤ acc ∧ acc ≤ 0x31 then 0x31 - acc else 0)

/-- State code of a reference (R327): T8 is QUALIFIED when enabled. -/
def State.refState (s : State) (r : Nat) : Nat :=
  if !s.refEn r then 0 else if r = 8 then 4 else (s.ref r).st

/-- Eligible for selection. -/
def State.eligible (s : State) (r : Nat) : Bool := s.refState r = 4 || s.refState r = 5

/-- Period in ns of a reference without time of day (R324): a third of a microsecond is kept exact by a numerator and
denominator. -/
def State.refPeriod (s : State) (r : Nat) : Option (Nat × Nat) :=
  let sel := s.rwBits (rRefCfg r) 0 4
  if r = 2 then some (if sel = 2 then (1000000000, 48000) else if sel = 1 then (1000000000, 16000) else (1000000000, 8000))
  else if r = 3 then some (1000000000, 1)
  else if 4 ≤ r ∧ r ≤ 7 then some (1000000000, domFsOf (s.rwBits (rTdm sel) 29 2))
  else none
where
  /-- Frame rate of FRATE. -/
  domFsOf (d : Nat) : Nat := if d = 0 then 48000 else if d = 1 then 16000 else 8000

/-- An offset taken in (-P/2, P/2] (R324). -/
def wrapOfs (p : Option (Nat × Nat)) (v : Int) : Int :=
  match p with
  | none => v
  | some (n, d) =>
    let m := (v * (d : Int)) % (n : Int)
    let m := if 2 * m ≤ (n : Int) then m else m - (n : Int)
    m / (d : Int)

/-- The TDM port that a reference T4 to T7 names. -/
def State.refPort (s : State) (r : Nat) : Nat := s.rwBits (rRefCfg r) 0 4

/-- Steering limit of 200 ppm (R320). -/
def clampSteer (v : Int) : Int := clampI (-200000000) 200000000 v

/-- A reference is disqualified (R327). -/
def State.disqualify (s : State) (r : Nat) : State :=
  let x := s.ref r
  (s.refSet r { x with st := 2, dq := true }).scSet rClkStat 22

/-- PHLIM in ns. -/
def State.phLim (s : State) : Int := (s.rwBits (wTime + 0x0184) 0 16 : Int)

/-- Loop bandwidth of a reference's input type in mHz (R332). -/
def State.loopBw (s : State) (r : Nat) : Nat :=
  s.rwBits (wTime + 0x0170 + 4 * (if r ≤ 1 then 0 else if r = 3 then 1 else if r = 2 then 2 else 3)) 0 20

/-- The build-out in ns, TIM_BOPH (R342). -/
def Tim.boNs (t : Tim) : Int := rdiv t.bo 1000000000

/-- The loop follows again after a hold (R328): the 60 s of R337 begin anew. -/
def Tim.resume (t : Tim) : Tim := { t with held := false, since := if t.held then t.nsc else t.since }

/-- The natural frequency w in 10^-3 rad/s of a loop of a bandwidth in mHz (R332). Which bandwidth of a second-order loop is meant
is left open (notes/assumptions/74.md): w is free between what the one-sided noise bandwidth, 0.625 w, and the natural frequency
itself give; the 3 dB bandwidth lies between. -/
def loopW (bw : Nat) : Nat :=
  let lo := max 1 (8 * bw / 5)
  let hi := max lo (6283 * bw / 1000)
  lo + Config.loopNat bw % (hi - lo + 1)

/-- The loop follows the selected reference's offset minus the build-out, `dt` A-samples after its last measurement (R332, R334):
of second order with damping factor 1, so that the steering asked for is 2 w e plus the integral of w^2 e. -/
def State.loopStep (s : State) (ofs : Int) (dt : Nat) : State :=
  let t := s.tim.resume
  let w : Int := loopW t.bw
  let e := ofs - t.boNs
  let i := clampI (-200000000000000) 200000000000000 (t.integ + w * w * e * (dt : Int) / 48000000)
  s.timSet { t with integ := i, want := clampSteer (rdiv i 1000000 + rdiv (2 * w * e) 1000) }

/-- The steering asked for is a given one, and the loop goes on from it. -/
def Tim.ask (t : Tim) (v : Int) : Tim := { t with want := clampSteer v, integ := 1000000 * clampSteer v }

/-! ### Steering (R320, R333, R336) -/

/-- CLK_SWCFG.SLEW in 10^-12 per second, and CLK_BOCFG.BOFMAX in 10^-12. -/
def State.slew (s : State) : Nat := 10000 * s.rwBits (wTime + 0x0180) 0 16
def State.bofMax (s : State) : Int := 100000 * (s.rwBits (wTime + 0x0184) 16 8 : Int)

/-- The largest change of steering in block n: SLEW over 250 us, whole over every two blocks. -/
def slewOf (slew n : Nat) : Int := ((slew * (n + 1) / 4000 - slew * n / 4000 : Nat) : Int)

/-- A value moves towards another by at most r. -/
def toward (r v w : Int) : Int := v + clampI (-r) r (w - v)

/-- A build-out is being removed (R336). -/
def State.removing (s : State) : Bool := s.tim.bo ≠ 0 && s.rwBit rClkCtl 20 && !s.tim.jamPend && s.tim.sel ≤ 7

/-- Magnitudes of the removal offset and of the build-out after a block, both of one sign: the offset rises at the slew rate to its
limit, and falls back as soon as what is left is what its fall removes. -/
def removeStep (slew : Nat) (lim r f b : Int) : Int × Int :=
  let f' := if b ≤ f * f * 500000 / (max slew 1 : Nat) + 250 * f then max 0 (f - r) else min lim (f + r)
  (f', max 0 (b - 250 * f'))

/-- The steering over one block: the removal offset, what is left of the build-out, and the steering itself, which never changes
faster than SLEW. An offset that removed a build-out of the other sign falls back first. -/
def State.steerBlock (s : State) : State :=
  let t := s.tim
  let r := slewOf s.slew (t.nsc / 12)
  let back := toward r t.bof 0
  let p : Int × Int :=
    if !s.removing then (back, t.bo)
    else if t.bof ≠ 0 && (decide (t.bof < 0) != decide (t.bo < 0)) then (back, t.bo - 250 * back)
    else
      let q := removeStep s.slew s.bofMax r t.bof.natAbs t.bo.natAbs
      if t.bo < 0 then (-q.1, -q.2) else q
  s.timSet { t with bof := p.1, bo := p.2, steer := clampSteer (toward r t.steer (t.want + p.1)) }

/-- The steering is what is asked for, with no removal offset: the frequency ramp of a switch has ended (R336). -/
def Tim.steady (t : Tim) : Bool := t.bof = 0 && t.steer = t.want

/-! ### Smoulder (R337 to R339) -/

/-- Smoulder word of a bin (R347): WEIGHT and value. -/
def State.bin (s : State) (k : Nat) : Word := (look k s.tim.bins).getD 0
def binWeight (w : Word) : Nat := wbits w 24 8
def binVal (w : Word) : Int := sgn 24 w.toNat
def State.binSet (s : State) (k : Nat) (w : Word) : State :=
  s.timSet { s.tim with bins := if w = 0 then drop k s.tim.bins else put k w s.tim.bins }

/-- The learned value at a temperature in 0.01 degC, in 10^-12, interpolated between bin centres; none: an invalid bin. -/
def State.smoC (s : State) (t : Int) : Option Int :=
  let x := (t + 4000).toNat
  let k := x / 100
  let f := x % 100
  if t < -4000 ∨ 165 < k then none
  else if binWeight (s.bin k) < 10 then none
  else if f = 0 then some (10 * binVal (s.bin k))
  else if 165 < k + 1 ∨ binWeight (s.bin (k + 1)) < 10 then none
  else some (rdiv (10 * (binVal (s.bin k) * (100 - (f : Int)) + binVal (s.bin (k + 1)) * (f : Int))) 100)

/-- Learning hours (R347), and whether the ageing rate is valid (R339). -/
def State.hours (s : State) : Nat := s.tim.mins / 60
def State.ageValid (s : State) : Bool := 72 ≤ s.hours

/-- The temperature that Smoulder uses (R338). -/
def State.smoTemp (s : State) : Int :=
  if s.rwBit (wTime + 0x020C) 31 ∧ -4000 ≤ s.tim.ext ∧ s.tim.ext ≤ 12500 then s.tim.ext else s.tim.die

/-- The ageing term in 10^-12 after minutes of learning (R338, R339): 0 until the rate is valid. -/
def State.ageing (s : State) (mins : Nat) : Int := if s.ageValid then rdiv (s.tim.age * 60 * (mins : Int)) 1000 else 0

/-- What the XIN model adds to raw XIN, in 10^-12 (R326). -/
def State.xinModel (s : State) : Int := (s.smoC s.smoTemp).getD 0 + s.ageing s.tim.mins

/-- Mean of a list. -/
def meanI (l : List Int) : Int := if l.isEmpty then 0 else rdiv (l.foldl (· + ·) 0) l.length

/-- The Smoulder model's steering (R338) from mean steering and temperature and the window's midpoint. -/
def State.smoSteer (s : State) (sm tm : Int) (at_ : Nat) : Int :=
  let c := match s.smoC s.smoTemp, s.smoC tm with
    | some a, some b => a - b
    | _, _ => 0
  let a := if s.ageValid then rdiv (s.tim.age * ((s.tim.nsc : Int) - (at_ : Int))) 48000000 else 0
  clampSteer (sm + c + a)

/-- Means of the last 60 s (R337). -/
def State.winMeans (s : State) : Int × Int := (meanI (s.tim.win.map (·.1)), meanI (s.tim.win.map (·.2)))

/-- Midpoint of the 60 s that end at the last valid measurement of the reference followed (R337, R338). -/
def State.winMid (s : State) : Nat := (s.ref s.tim.sel).last - 1440000

/-- The steering asked for while the selected reference is not followed (R328). -/
def State.holdSteer (s : State) : State :=
  let m := s.winMeans
  let t := { s.tim with held := true }
  s.timSet (if t.hoValid then t.ask (s.smoSteer m.1 m.2 s.winMid) else if s.tim.held then t else t.ask (t.steer - t.bof))

/-! ### Measurement (R326 to R329) -/

/-- State of a reference after a measurement, within threshold or beyond it (R327): FAILED is left within threshold, and never with
quality 0 (R325). For a measured reference beyond its threshold that is neither qualified nor FAILED the table has no state: it
is RESTORING, its time within threshold not begun (notes/assumptions/74.md). -/
def Ref.next (x : Ref) (zero within half : Bool) : Nat :=
  if x.st = 4 ∨ x.st = 5 then (if within && half then 4 else 5)
  else if x.st = 2 ∧ (zero || !within) then 2 else 3

/-- The phase that a measurement brings, in ns: for T0 and T1 the offset of gm_at_t2 that gPTP sent (R306, R307, R324). -/
def State.refPhase (s : State) (r : Nat) (m : RefMeas) : Int :=
  if r ≤ 1 then (s.net.doms.getD r Gptp.reset).ofs
  else wrapOfs (s.refPeriod r) (m.phase - sgn 32 (s.rw (wTime + 0x0140 + 4 * r)).toNat)

/-- One measurement of an enabled reference T0 to T7. The loop follows it, or builds out a phase hit, or after a hold a phase
error beyond PHLIM; it holds while the reference is beyond its threshold or not eligible (R328, R329). -/
def State.measure (s : State) (r : Nat) (m : RefMeas) : State :=
  let x := s.ref r
  let ofs := s.refPhase r m
  let fofs := m.fofs - s.xinModel
  let f : Int := fofs.natAbs
  let beyond : Bool := s.refThr r < f
  let half : Bool := f ≤ s.refThr r / 2
  let hit : Bool := x.seen && s.phLim < ((ofs - x.ofs).natAbs : Int)
  let st := x.next (s.refQual r = 0) (!beyond) half
  let y := { x with
    st := st, fofs := fofs, ofs := ofs, seen := true, beyond := beyond, last := if beyond then x.last else s.tim.nsc }
  let s := s.refSet r y
  let s := if st = 5 ∧ x.st ≠ 5 then s.scSet rClkStat 21 else s
  let s := if s.refQual r = 0 ∧ st ≠ 2 then s.disqualify r else s
  if s.tim.sel ≠ r then s
  else if beyond || !s.eligible r then s.holdSteer
  else if (if x.beyond then decide (s.phLim < ((ofs - s.tim.boNs).natAbs : Int)) else hit) then
    (s.timSet { s.tim.resume with bo := 1000000000 * ofs }).scSet rClkStat 20
  else s.loopStep ofs (if s.tim.held then 0 else s.tim.nsc - x.last)

/-- No new measurement: the loop holds (R328). -/
def State.missed (s : State) (r : Nat) : State := if s.tim.sel = r then s.holdSteer else s

/-- A reference is lost (R329). -/
def State.lose (s : State) (r : Nat) : State :=
  let x := s.ref r
  let s := s.refSet r { x with st := if x.st = 2 then 2 else 1, seen := false, beyond := true }
  if s.tim.sel = r then s.holdSteer else s

/-- A quality of 0 makes a reference ineligible at once (R325); an invalid domain's reference is LOST instead (R329). -/
def State.failZero (s : State) (r : Nat) : State :=
  if s.refEn r && s.refQual r = 0 && (s.ref r).st ≠ 2 && (2 ≤ r || (s.net.doms.getD r Gptp.reset).valid) then s.disqualify r else s

/-! ### Jams (R323) -/

/-- A time of the old count on the new one. -/
def moved (d : Int) (t : Nat) : Nat := ((t : Int) + d).toNat

/-- Captures of a port and a domain's Sync in device time move with it; the offset shrinks by the jam. -/
def Port.moved (ns : Int) (p : Port) : Port :=
  let v := 65536 * ns
  { p with t1 := p.t1.map (· + v), t24 := p.t24.map fun t => (t.1, t.2 + v), rate := p.rate.map fun t => (t.1, t.2 + v) }
def Gptp.moved (ns : Int) (g : Gptp) : Gptp :=
  { g with ofs := g.ofs - ns, sync := g.sync.map fun t => (t.1 + 65536 * ns, t.2) }

/-- Streams start over: half a packet and a backlog of the old count are dropped; a listener's last placement keeps its age. -/
def Net.moved (d ns : Int) (n : Net) : Net :=
  { n with
    ports := n.ports.map (Port.moved ns), doms := n.doms.map (Gptp.moved ns)
    talkers := n.talkers.map fun t => { t with pack := [], backlog := [] }
    listeners := n.listeners.map fun l => { l with placed := Machine.moved d l.placed } }

/-- What the PCLK timer runs keeps its length (R383, R385); what waits for the next boundary waits for the next one of the new
count (R388). -/
def Twin.moved (d : Int) (t : Twin) : Twin :=
  { t with
    sentAt := Machine.moved d t.sentAt, lease := Machine.moved d t.lease, ackAt := t.ackAt.map (Machine.moved d)
    driveAt := t.driveAt.map fun p => (Machine.moved d p.1 / 12 * 12, p.2)
    guReps := t.guReps.map fun r => (r.1, Machine.moved d r.2 / 12 * 12) }

/-- Time base moved by an offset in ns: NSC and fraction. -/
def Tim.shift (t : Tim) (ns : Int) : Tim :=
  let v := (t.nsc : Int) * 1000000 + (t.frac : Int) + ns * 48
  let v := v.toNat
  { t with nsc := v / 1000000 % 2 ^ 64, frac := v % 1000000 }

/-- A jam to the reference followed: NSC takes its time, once for all; Smoulder becomes invalid. Times that the count dates move
with it, so that no wait grows by the jump. -/
def State.jam (s : State) : State :=
  let x := s.ref s.tim.sel
  let t := s.tim.shift x.ofs
  let d : Int := (t.nsc : Int) - s.tim.nsc
  let refs := t.refs.zipIdx.map fun y =>
    { y.1 with ofs := wrapOfs (s.refPeriod y.2) (y.1.ofs - x.ofs), last := moved d y.1.last }
  let t := { t with
    refs := refs, jammed := true, jamPend := false, jamNow := false, bo := 0, bof := 0, hoValid := false, win := [], since := t.nsc }
  { s with tim := t, net := s.net.moved d x.ofs, twin := s.twin.moved d }

/-! ### Selection (R330, R331, R335) -/

/-- TSTATE codes: 0 FREERUN, 1 ACQUIRING, 2 LOCKED, 3 SMOULDER. -/
def State.enterSmoulder (s : State) : State :=
  if s.tim.tst = 3 then s
  else
    let m := s.winMeans
    let t := s.tim
    let t := t.ask (s.smoSteer m.1 m.2 s.winMid)
    (s.timSet { t with
      tst := 3, sel := 15, smS := m.1, smT := m.2, smAt := s.winMid, switching := false, jamPend := false, jamNow := false
      held := false, win := [] }).scSet rClkStat 19

/-- The time section in FREERUN with a selection: T8 asks for no steering (R324), reached at the slew rate (R333), the switch to it
in progress until then (R336); the other keeps what there is. -/
def Tim.freed (t : Tim) (sel : Nat) : Tim :=
  { t.ask (if sel = 8 then 0 else t.steer) with
    tst := 0, sel := sel, bof := if sel = 8 then t.bof else 0, switching := sel = 8, jamPend := false, jamNow := false
    hoValid := false, held := false, win := [] }

/-- FREERUN, with T8 steering held at 0 (R324). From a reference, unless T8 was chosen by hand, Smoulder that is not valid is the
reason: an event and a health fault, or a give-up cause in a pair (R331). -/
def State.enterFreerun (s : State) (sel : Nat) (report : State → State) : State :=
  let from' := s.tim.sel ≤ 7 && s.tim.tst ≠ 0
  let fell := from' && (sel = 15 || !s.rwBit rClkCtl 31)
  let s := s.timSet { s.tim.freed sel with fell := fell || (s.tim.tst = 0 && s.tim.fell) }
  if fell then report (s.scSet rClkStat 18) else s

/-- A reference of T0 to T7 becomes followed: a jam, or its whole offset as build-out (R323, R335). -/
def State.follow (s : State) (r : Nat) (mixOn : Bool) : State :=
  let t := s.tim
  let free := t.tst = 0
  let can := (r ≤ 1 || (2 ≤ r && r ≤ 7 && free)) && !t.jammed
  let s := s.timSet { t with
    sel := r, tst := if t.tst = 0 ∨ t.tst = 3 then 1 else t.tst, switching := true, hoValid := false, held := false
    win := [], since := t.nsc
    integ := 1000000 * (t.steer - t.bof), want := t.steer - t.bof, bw := s.loopBw r }
  if can && s.rwBit rClkCtl 22 && !mixOn then s.jam
  else s.timSet { s.tim with
    bo := 1000000000 * (s.ref r).ofs, jamPend := can && r ≤ 1, jamNow := s.tim.jamNow && can && r ≤ 1 }

/-- A switch to reference r, T8 included. -/
def State.switchTo (s : State) (r : Nat) (mixOn : Bool) (report : State → State) : State :=
  (if r = 8 then (s.enterFreerun 8 report) else s.follow r mixOn).scSet rClkStat 23


/-- Whether r is preferred to b (R331). -/
def State.better (s : State) (r : Nat) (b : Option Nat) : Bool :=
  match b with
  | none => true
  | some b =>
    let pr (r : Nat) := s.rwBits (rRefCfg r) 24 4
    s.refQual b < s.refQual r || (s.refQual r = s.refQual b && (pr r < pr b || (pr r = pr b && r < b)))

/-- Best eligible reference. -/
def State.best (s : State) : Option Nat :=
  (upTo 9).foldl (fun b r => if s.eligible r && s.better r b then some r else b) none

/-- No reference to follow. -/
def State.fallBack (s : State) (report : State → State) : State :=
  if s.tim.hoValid then s.enterSmoulder
  else if s.tim.sel = 15 ∧ s.tim.tst = 0 then s else s.enterFreerun 15 report

/-- The selection of R330 and R331. -/
def State.select (s : State) (mixOn : Bool) (report : State → State) : State :=
  let ctl := s.rw rClkCtl
  let sel := s.tim.sel
  if ctl.getLsbD 31 then
    let r := wbits ctl 24 4
    if s.eligible r then (if sel = r then s else s.switchTo r mixOn report) else s.fallBack report
  else if s.tim.switching && s.eligible sel then s
  else if sel ≤ 7 && s.eligible sel && !ctl.getLsbD 23 then s
  else
    let best := if s.best = some 8 ∧ s.tim.hoValid then none else s.best
    match best with
    | none => s.fallBack report
    | some r => if r = sel then s else s.switchTo r mixOn report

/-- The external sensor's temperature for a voltage in 0.01 mV (R338, R346); a slope of 0 acts as 1. -/
def State.extTemp (s : State) (v : Int) : Int :=
  let w := s.rw (wTime + 0x020C)
  rdiv (10 * (v - 100 * (wbits w 16 11 : Int))) (max 1 (wbits w 0 8))

/-- The Time section learns (R339): LOCKED to a QUALIFIED reference that the loop follows, without build-out removal. -/
def State.learning (s : State) : Bool :=
  s.tim.tst = 2 && !s.tim.held && s.refState s.tim.sel = 4 && !s.removing && s.tim.bof = 0

/-- Sensors are read, samples of the 60 s window are kept while the loop follows in LOCKED, without the removal offset, and those of
the learning minute while the section learns; SMOULDER steers by its model (R337 to R339). The readings are inputs that no
command brings: free values. -/
def State.sense (s : State) : State :=
  let d := s.fresh
  let e := d.2.fresh
  let s := e.2
  let s := s.timSet { s.tim with die := sgn 16 d.1, ext := satN 16 (s.extTemp ((e.1 % 180001 : Nat) : Int)) }
  let t := s.tim
  let t := { t with
    ran := true
    win := if t.tst = 2 && !t.held then ((t.steer - t.bof, s.smoTemp) :: t.win).take 6000 else t.win
    lrn := if s.learning then (t.lrn.1 + 1, t.lrn.2.1 + t.steer, t.lrn.2.2 + s.smoTemp) else t.lrn }
  s.timSet (if t.tst = 3 then t.ask (s.smoSteer t.smS t.smT t.smAt) else t)

/-- The loop bandwidth of the reference followed takes effect (R332). -/
def State.bandwidth (s : State) : State :=
  if s.tim.sel ≤ 7 then s.timSet { s.tim with bw := s.loopBw s.tim.sel } else s

/-- Least-squares slope in 10^-15 per second of samples in 10^-12 at minutes (R339). -/
def Fit.slope (f : Fit) : Int :=
  let d := f.n * f.tt - f.t * f.t
  if d ≤ 0 then 0 else (f.n * f.ty - f.t * f.y) * 50 / (3 * d)

def Fit.add (f : Fit) (t y : Int) : Fit := ⟨f.n + 1, f.t + t, f.y + y, f.tt + t * t, f.ty + t * y⟩

def Fit.zero : Fit := ⟨0, 0, 0, 0, 0⟩

/-- One learning minute (R339): the bin of the mean temperature moves towards the mean steering less the ageing term since
learning began, and the ageing rate is fitted to the samples less the learned value of their temperature
(notes/assumptions/74.md). -/
def State.learn (s : State) : State :=
  let l := s.tim.lrn
  let m := (rdiv l.2.1 l.1, rdiv l.2.2 l.1)
  let mins := s.tim.mins + 1
  let x := m.1 - s.ageing mins
  let fit := s.tim.fit.add mins (m.1 - (s.smoC m.2).getD 0)
  let k := ((m.2 + 4050) / 100).toNat
  let s :=
    if m.2 < -4050 ∨ 165 < k then s
    else
      let w := s.bin k
      let n := min (binWeight w + 1) 255
      let v := binVal w + rdiv (rdiv x 10 - binVal w) n
      s.binSet k (fld 24 8 n ||| fld 0 24 (unsgn 24 (satN 24 v)))
  s.timSet { s.tim with mins := min mins (65535 * 60), age := fit.slope, fit := fit, lrn := (0, 0, 0) }

/-! ### Registers of the section (R344 to R347) -/

/-- CLK_STAT's RO bits. -/
def State.clkStat (s : State) : Word :=
  let t := s.tim
  fld 11 1 (b2n t.jamPend) ||| fld 10 1 (b2n t.switching) ||| fld 9 1 (b2n t.hoValid) ||| fld 8 1 (b2n t.lock) |||
    fld 4 4 t.sel ||| fld 0 2 t.tst

/-- CLK_REFSTATn (R345): 0 from reset until the section first evaluates or has a reference's state to show. -/
def State.refStat (s : State) (r : Nat) : Word :=
  if s.tim.ran then
    fld 29 3 (s.refState r) ||| fld 16 8 (s.refQual r) ||| fld 0 16 (unsgn 16 (satN 16 (rdiv (s.ref r).fofs 10000)))
  else 0

/-- TIM_SMSTAT. -/
def State.smStat (s : State) : Word :=
  fld 31 1 (b2n s.ageValid) ||| fld 16 8 (s.tim.bins.filter fun p => 10 ≤ binWeight p.2).length ||| fld 0 16 (min s.hours 65535)

/-- A word of the Smoulder data (R347). -/
def State.timIx (s : State) (a : Nat) : Word :=
  if a ≤ 0xA5 then s.bin a else if a = 0x100 then fld 0 32 (unsgn 32 s.tim.age) else if a = 0x101 then fld 0 32 s.hours else 0

/-- A write of a word of the Smoulder data. Writing 0 hours clears the ageing state. -/
def State.timIxSet (s : State) (a : Nat) (w : Word) : State :=
  if a ≤ 0xA5 then s.binSet a w
  else if a = 0x100 then s.timSet { s.tim with age := sgn 32 w.toNat }
  else if a = 0x101 then
    s.timSet { s.tim with mins := 60 * w.toNat, age := if w = 0 then 0 else s.tim.age, fit := if w = 0 then Fit.zero else s.tim.fit }
  else s

/-- The present time: the block's NSC and the place within the block, which the model does not follow (a free value). -/
def State.now (s : State) : Nat × Nat × State :=
  let f := s.fresh
  (s.tim.nsc + f.1 % 12, f.1 / 12 % 1000000, f.2)

/-- Device time in ns of an NSC and a fraction in millionths. -/
def nsOf (nsc frac : Nat) : Nat := (nsc * 1000000 + frac) / 48

/-- State after a Time release (R322): references enabled by their reset values start without a measurement; the Smoulder
data are as restored. -/
def timRelease (old : Tim) (lock : Bool) : Tim :=
  { nsc := 0, frac := 0, lock := lock, tst := 0, sel := 15, steer := 0, want := 0, integ := 0, bw := 0, held := false, bo := 0, bof := 0
    refs := (upTo 9).map fun r => { Ref.fresh with st := if r ≤ 1 then 1 else 0, beyond := true }
    ran := false, fell := false, jammed := false, jamPend := false, jamNow := false, switching := false, hoValid := false, die := 0, ext := 0
    win := [], since := 0, lrn := (0, 0, 0), smS := 0, smT := 0, smAt := 0
    bins := old.bins, age := old.age, mins := old.mins, fit := old.fit }

end Sys2Proof.Machine
end

