-- ==== Sys2Proof/Machine/Tdm.lean ====
section
/-! DEFINITION. Serial audio ports, DAC channels and the all-call bypass (R348 to R375, R161 to R169): configuration, starts,
slot tables, slip buffers, emission. Sub-block time is that of notes/assumptions/20.md. -/

namespace Sys2Proof.Machine

/-! ### Words -/

/-- Conversion of an accumulator value to a destination word of a width, with dither in 2^-12 LSB (R133, R134). -/
def destExact (w : Nat) (v d : Int) : Int :=
  if w = 32 then v * 16 else if w = 24 then rdiv (v * 256 + d) 4096 else rdiv (v + d) 4096

def destWord (w : Nat) (v d : Int) : Int := satN w (destExact w v d)

/-- A received word as a sample: full scale to 2^23 (R92), 32-bit words rounded by R94. -/
def rxSample (w : Nat) (x : Int) : Int := if w = 32 then rdiv x 256 else if w = 24 then x else x * 256

/-! ### Configuration (R349, R350) -/

def State.port (s : State) (n : Fin 16) : Tdm := s.tdm[n]
def State.portSet (s : State) (n : Fin 16) (p : Tdm) : State := { s with tdm := s.tdm.set n p }
def State.tdmCfg (s : State) (n : Nat) : Word := s.rw (rTdm n)

def cfgSlave (c : Word) : Bool := c.getLsbD 31
def cfgFrate (c : Word) : Nat := wbits c 29 2
def cfgFmt (c : Word) : Nat := wbits c 27 2
def cfgWidthCode (c : Word) : Nat := wbits c 25 2
def cfgAuto (c : Word) : Bool := c.getLsbD 18

/-- Slot width in bits. -/
def cfgWidth (c : Word) : Nat := if cfgWidthCode c = 0 then 16 else if cfgWidthCode c = 1 then 24 else 32

/-- Slots of a frame. -/
def cfgSlots (c : Word) : Nat := if cfgFmt c = 0 then wbits c 0 6 else 2

/-- Whether a configuration is valid (R350). -/
def cfgOk (c clk : Word) : Bool :=
  cfgFrate c ≠ 3 && cfgFmt c ≠ 3 && cfgWidthCode c ≠ 3 &&
  (cfgFmt c ≠ 0 || (2 ≤ wbits c 0 6 && wbits c 0 6 ≤ 32 && wbits c 21 2 ≠ 3)) &&
  domFs (cfgFrate c) * cfgSlots c * cfgWidth c ≤ 49152000 &&
  wbits clk 0 13 < 16 * 512 * domDiv (cfgFrate c)

/-- Domain of a port (R21). -/
def State.tdmDom (s : State) (n : Nat) : Nat := cfgFrate (s.tdmCfg n)

/-- Bits of FSYNC's first part of a frame: one BCLK, one slot or half a frame (R349). -/
def cfgFsBits (c : Word) : Nat :=
  if cfgFmt c ≠ 0 then cfgWidth c
  else match wbits c 21 2 with
    | 0 => 1
    | 1 => cfgWidth c
    | _ => cfgSlots c * cfgWidth c / 2

/-- The pins of a port with these settings (R348, R349, R351, R360). -/
def cfgPins (c clk : Word) (clocks : Option Bool) : TdmPins :=
  { clocks := clocks, risingOut := c.getLsbD 20
    fsHigh := (cfgFmt c ≠ 1) != c.getLsbD 23, fsBits := cfgFsBits c
    delay := if cfgFmt c = 0 then wbits c 24 1 else if cfgFmt c = 1 then 1 else 0
    bits := cfgSlots c * cfgWidth c, frame := 16 * 512 * domDiv (cfgFrate c)
    trim := if cfgSlave c then 0 else wbits clk 0 13
    idle := if c.getLsbD 19 then none else some false }

/-- Where the k-th bit period of a frame begins, in sixteenths of an ACLK cycle from the frame's ACLK edge: the nearest point of
the grid, the later one of two (R351). -/
def TdmPins.edge (p : TdmPins) (k : Nat) : Nat := p.trim + (2 * k * p.frame + p.bits) / (2 * p.bits)

/-! ### Slot tables (R355, R356) -/

def mapEn (b : Byte) : Bool := b.getLsbD 7
def mapSlot (b : Byte) : Nat := bits b.toNat 0 5

/-- The 32 entries of a shadow table: receive from 0x040, transmit from 0x060 (R371). -/
def State.shadow (s : State) (n : Nat) (off : Nat) : List Byte :=
  (upTo 8).flatMap fun k => wordBytes (s.rw (rTdm n + off + 4 * k))

def enabledAt (t : List Byte) (p : Nat) : Bool := (t[p]?).elim false mapEn

/-- Copy of both shadow tables into the live tables. Positions newly enabled for transmit send zeros in their first frame. -/
def State.swapTables (s : State) (n : Fin 16) : State :=
  let p := s.port n
  let tx := s.shadow n 0x060
  let new := (upTo 32).filter fun i => enabledAt tx i && !enabledAt p.txLive i
  let s := s.portSet n { p with
    rxLive := s.shadow n 0x040, txLive := tx, swp := false
    fresh := (p.fresh ++ new).eraseDups.filter fun i => enabledAt tx i }
  if n.val = 15 ∧ p.st ≠ 0 then { s with byp := { s.byp with tx15 := tx } } else s

/-- A received frame by logical slots: the highest enabled position that names a slot stands (R355). -/
def mapFrame (t : List Byte) (slots : Nat) (words : List Int) : List Int :=
  (upTo 32).map fun l =>
    match (upTo slots).reverse.find? fun p => (t[p]?).elim false fun b => mapEn b && mapSlot b = l with
    | some p => words.getD p 0
    | none => 0

/-- A transmitted frame by position: enabled positions with their words; the others are idle (R355, R360). -/
def Tdm.txFrame (p : Tdm) (slots : Nat) (logical : List Int) : List (Nat × Int) :=
  (upTo slots).filterMap fun i => (p.txLive[i]?).bind fun b =>
    if mapEn b then some (i, if i ∈ p.fresh then 0 else logical.getD (mapSlot b) 0) else none

/-! ### Engine words -/

/-- The 32 logical transmit words of a port for sample k of the block being emitted (R352). -/
def State.txWords (s : State) (n k : Nat) : List Int :=
  (upTo 32).map fun l => ((look (0x1000 + 32 * n + l) s.mix.dst).getD []).getD k 0

/-- Words of destination c for the block being emitted. -/
def State.dstWords (s : State) (c len : Nat) : List Int := fit len 0 ((look c s.mix.dst).getD [])

/-! ### All-call bypass (R161 to R163) -/

/-- ACTIVE (R163). -/
def State.acActive (s : State) : Bool := (s.byp.pin && s.rwBit rAcCfg 0) || s.byp.latch

/-- A weight in A-samples (0 to 240) after n samples in one direction. -/
def acStep (w : Nat) (up : Bool) (n : Nat) : Nat := if up then min 240 (w + n) else w - n

/-- The weight at sample k of a block that begins at sample p with weight w, with the changes of direction in it. -/
def acWalk (p w : Nat) (up : Bool) (k : Nat) : List (Nat × Bool) → Nat
  | [] => acStep w up (k - p)
  | t :: ts => if k ≤ t.1 then acStep w up (k - p) else acWalk t.1 (acStep w up (t.1 - p)) t.2 k ts

/-- Weight in A-samples at sample k of the block. -/
def State.acWeight (s : State) (k : Nat) : Nat := acWalk 0 s.byp.weight s.byp.up k s.byp.turns

/-- The bypass still drives outputs: active, or crossfading back. -/
def State.acDrives (s : State) : Bool := s.acActive || s.byp.up || s.byp.weight ≠ 0 || s.byp.turns ≠ []

/-- GAIN with its limits (R167). -/
def State.acGain (s : State) : Int := gainM (clampI (-4800) 1200 (sgn 16 (s.rwBits rAcCfg 16 16)))

/-- The bypass's word at sample k of the block for a width (R161). -/
def State.acWord (s : State) (width k : Nat) : Int := destWord width (satN 40 (mulS (nth s.byp.blk k) s.acGain)) 0

/-- Crossfade of an engine word and the bypass's word at sample k. -/
def State.acMix (s : State) (width k : Nat) (eng : Int) : Int :=
  let w := s.acWeight k
  if w = 0 then eng else if w = 240 then s.acWord width k
  else xfade (cosWeight (w - 1) 240, q96) eng (s.acWord width k)

/-- P15's copied setting lets the bypass drive it. -/
def State.ac15 (s : State) : Bool := s.rwBit rAcCfg 2 && s.byp.cfg15.elim false fun c => cfgFrate c = 0

/-- A channel the bypass may drive: in DACMASK and bipolar. -/
def State.acDac (s : State) (n : Nat) : Bool := s.rwBit rAcCfg (8 + n) && !s.rwBit (wStr + 0x3400 + 4 * n) 29

/-- The settings by which P0's and P15's clocks run for the bypass, from its own copy (R161). -/
def State.acCfg (s : State) (n : Fin 16) : Option Word :=
  if s.acDrives ∧ (s.port n).st ≠ 3 then (if n.val = 0 then s.byp.cfg0 else if n.val = 15 then s.byp.cfg15 else none) else none

/-- How a port's pins run (R348, R360). -/
def State.tdmPins (s : State) (n : Fin 16) : TdmPins :=
  let c := (s.acCfg n).getD (s.tdmCfg n)
  cfgPins c (s.rw (rTdm n + 4)) (if cfgSlave c then some false else if (s.port n).st = 0 ∧ s.acCfg n = none then none else some true)

def State.emitPins (s : State) (n : Fin 16) : State := s.emit (.tdmPins n (s.tdmPins n))

/-- The pins of every port that is in use or that the bypass clocks. -/
def State.emitPinsAll (s : State) : State :=
  (List.finRange 16).foldl (fun s n => if (s.port n).st ≠ 0 ∨ (s.acCfg n).isSome then s.emitPins n else s) s

/-- The block of input samples of the bypass: P0's first position or the network's first channel, silence while lost. -/
def State.acInput (s : State) (p0 net : List Int) : List Int :=
  let useP0 := !s.rwBit rAcCfg 1 || s.byp.fallback
  if s.byp.lost && !s.byp.fallback then List.replicate 12 0
  else if useP0 then (if s.byp.cfg0.elim false fun c => cfgFrate c = 0 then fit 12 0 p0 else List.replicate 12 0)
  else fit 12 0 net

/-- A port has no 48 kHz setting for the bypass (R162). -/
def acBad (c : Option Word) : Bool := c.elim true fun c => cfgFrate c ≠ 0

/-- An activation of the bypass takes its sources as good, sets STARTEVT, and RATEERR where a needed port has no 48 kHz
setting (R162, R169). -/
def State.acStarted (s : State) : State :=
  let s := ({ s with byp := { s.byp with lost := false, fallback := false } } : State).scSet rAcStat 17
  if acBad s.byp.cfg0 || acBad s.byp.cfg15 then s.scSet rAcStat 19 else s

/-- P0 or P15 is started: the bypass copies its settings; at another rate than 48 kHz with the bypass active, RATEERR (R162). -/
def State.acCopy (s : State) (n : Fin 16) (c : Word) (tx : List Byte) : State :=
  let t : State :=
    if n.val = 0 then { s with byp := { s.byp with cfg0 := some c } }
    else if n.val = 15 then { s with byp := { s.byp with cfg15 := some c, tx15 := tx } } else s
  if (n.val = 0 || n.val = 15) && s.acActive && acBad (some c) then t.scSet rAcStat 19 else t

/-- CTL_ACSTAT's RO bits (R169). -/
def State.acStat (s : State) : Word :=
  fld 3 1 (b2n (s.acActive && s.byp.fallback)) ||| fld 2 1 (b2n s.byp.pin) ||| fld 1 1 (b2n s.byp.latch) ||| fld 0 1 (b2n s.acActive)

/-! ### References that a port gives (R324, R329) -/

/-- A reference that the Time section measures: enabled, and T0 to T7. -/
def State.measured (s : State) (r : Nat) : Bool := s.up secTime && s.refEn r && r < 8

/-- The input of a reference is gone: a gPTP domain that is not valid, a port not started in slave mode or LOST (R329). -/
def State.refGone (s : State) (r : Nat) : Bool :=
  if r ≤ 1 then !s.up secStr || !(s.net.doms.getD r Gptp.reset).valid
  else 4 ≤ r && r ≤ 7 &&
    ((List.finRange 16).all fun n => n.val ≠ s.refPort r || !cfgSlave (s.tdmCfg n) || (s.port n).st ≤ 1 || (s.port n).st = 4)

/-- References whose input is gone are lost. -/
def State.loseGone (s : State) : State :=
  [0, 1, 4, 5, 6, 7].foldl (fun (s : State) r =>
    if s.measured r && s.refGone r && ((s.ref r).seen || 3 ≤ (s.ref r).st) then s.lose r else s) s

/-- A configuration write of a reference: enabling starts without a measurement; its quality and port take effect. -/
def State.refEnable (s : State) (r : Nat) (was : Bool) : State :=
  let x := s.ref r
  let s := if s.refEn r && !was then s.refSet r { x with st := if x.dq then 2 else 1, seen := false, beyond := true } else s
  (if r < 8 then s.failZero r else s).loseGone

/-! ### Starts and stops (R353, R354) -/

/-- A port that is not in use. -/
def Tdm.idle (p : Tdm) : Tdm :=
  { p with st := 0, start := 0, fresh := [], stopping := false, glitch := false, winOk := false, tick := 0, cap := [],
           rxBuf := [], txBuf := [], lastRx := [], lastTx := [], swaps := [] }

/-- STOP (R353): at the next boundary; a pending start ends there too. -/
def State.tdmStopAt (s : State) (n : Fin 16) : State :=
  let p := s.port n
  if p.stopping then
    let s := s.portSet n p.idle
    ((if p.swp then s.swapTables n else s).emitPins n).loseGone
  else s

/-- Start of one named port with start NSC and lateness. -/
def State.tdmArm (s : State) (start : Nat) (late : Bool) (n : Fin 16) : State :=
  let p := s.port n
  if p.st = 0 ∧ cfgOk (s.tdmCfg n) (s.rw (rTdm n + 4)) then
    let s := s.portSet n { p with st := 1, start := start, stopping := false }
    let c := s.tdmCfg n
    let s := (s.acCopy n c p.txLive).emitPins n
    if late then s.scSet (rTdmStat n) 20 else s
  else s.scSet (rTdmStat n) 19

/-- Ports named in TDM_STARTMASK. -/
def State.startPorts (s : State) : List (Fin 16) := (List.finRange 16).filter fun n => s.rwBit (wStr + 0x3000) n

/-- A start trigger (R354) with NEXT as the trigger finds it. The A-sample at which it comes counts for the limit of 2^31 alone. -/
def State.tdmStart (s : State) : State :=
  let x := s.tim.nsc
  let b := (x / 12 + 1) * 12
  if s.rwBit (wStr + 0x300C) 2 then s.startPorts.foldl (fun s n => s.tdmArm (b + 12) false n) s
  else
    let t := (s.rw (wStr + 0x3008)).toNat * 2 ^ 32 + (s.rw (wStr + 0x3004)).toNat
    let w := s.later
    let s := w.2
    if min (x + w.1) (b - 1) + 2147483648 < t then s.startPorts.foldl (fun (s : State) (n : Fin 16) => s.scSet (rTdmStat n) 19) s
    else
      let r := cdiv t 12 * 12
      let late := r < b
      s.startPorts.foldl (fun s n => s.tdmArm (if late then b else r) late n) s

/-! ### Emission (R352, R360, R377) -/

/-- The unit drives twin-gated outputs (R376, R377). -/
def State.drives (s : State) : Bool := !s.rwBit rHitCfg 31 || s.twin.drive

/-- A TDM port (bit n) or DAC channel (bit 16 + n) of HIT_DRVMASK that the unit does not drive. -/
def State.muzzled (s : State) (i : Nat) : Bool := !s.drives && s.rwBit (wStr + 0x4014) i

/-- The bypass drives P15's transmit positions. -/
def State.acOn15 (s : State) (n : Fin 16) : Bool := n.val = 15 && s.acDrives && s.ac15

/-- Transmit words of one position of a port from sample `first` of the block on, the bypass mixed in on P15 (R20, R161). -/
def State.emitPos (s : State) (n : Fin 16) (width spb first i : Nat) : State :=
  let p := s.port n
  match (p.txLive[i]?) with
  | none => s
  | some b =>
    if !mapEn b ∨ (s.muzzled n ∧ !s.acOn15 n) then s
    else
      let words := (upTo spb).map fun k =>
        if s.muzzled n || p.swaps.any (fun w => w.1 = k && w.2.2.contains i) then 0 else (s.txWords n k).getD (mapSlot b) 0
      let words := if s.acOn15 n then words.zipIdx.map fun q => s.acMix width q.2 q.1 else words
      s.emit (.tdm n i (words.drop first))

/-- The words of a running master port from frame `first` of the block on. -/
def State.emitFrom (s : State) (n : Fin 16) (first : Nat) : State :=
  let c := s.tdmCfg n
  (upTo (cfgSlots c)).foldl (fun s i => s.emitPos n (cfgWidth c) (domSpb (cfgFrate c)) first i) s

/-- The live tables of a running master port are in force from a frame of the block on, and its words follow them (R356). -/
def State.tablesFrom (s : State) (n : Fin 16) (k : Nat) : State :=
  let p := s.port n
  (s.portSet n { p with fresh := [], swaps := p.swaps ++ [(k, p.rxLive, p.fresh)] }).emitFrom n k

/-- The block of a running master port; a copy that waits is made at its first frame (R356). -/
def State.emitMaster (s : State) (n : Fin 16) : State :=
  (if (s.port n).swp then s.swapTables n else s).tablesFrom n 0

/-- P15 as clock master driven by the bypass alone, from its own copy of the settings, from sample `first` of the block on. -/
def State.emitAc15 (s : State) (first : Nat) : State :=
  match s.byp.cfg15 with
  | none => s
  | some c =>
    if s.acDrives ∧ s.ac15 ∧ !cfgSlave c ∧ (s.port 15).st ≠ 3 then
      ((upTo (cfgSlots c)).filter fun i => enabledAt s.byp.tx15 i).foldl
        (fun s i => s.emit (.tdm 15 i (((upTo 12).map fun k => s.acMix (cfgWidth c) k 0).drop first))) s
    else s

/-- P15's words from sample `first` of the block under way on, as the bypass's direction changes there (R163). -/
def State.tail15 (s : State) (first : Nat) : State :=
  if (s.port 15).st = 3 then (if !cfgSlave (s.tdmCfg 15) ∧ s.acOn15 15 then s.emitFrom 15 first else s) else s.emitAc15 first

/-- Every port's words at a boundary. -/
def State.emitTdm (s : State) : State :=
  let s := (List.finRange 16).foldl (fun s n =>
    if (s.port n).st = 3 ∧ !cfgSlave (s.tdmCfg n) then s.emitMaster n else s) s.emitPinsAll
  s.emitAc15 0

/-- The start NSC of an armed port is reached: masters give their first frame, slaves wait for FSYNC (R354). -/
def State.tdmBegin (s : State) (n : Fin 16) : State :=
  let p := s.port n
  if p.st = 1 ∧ p.start ≤ s.tim.nsc then
    if cfgSlave (s.tdmCfg n) then s.portSet n { p with st := 2, rxBlk := p.rxLive }
    else (s.portSet n { p with st := 3, rxBlk := p.rxLive, fresh := (upTo 32).filter fun i => enabledAt p.txLive i }).emitMaster n
  else s

/-! ### Capture (R352, R357) -/

/-- Frames of a master port's block from the received words, by logical slots. -/
def State.masterFrames (s : State) (n : Fin 16) (sdi : List SdiWord) : List (List Int) :=
  let c := s.tdmCfg n
  (upTo (domSpb (cfgFrate c))).map fun k =>
    let ws := sdi.filter fun w => w.port = n.val && w.frame = k
    let words := (upTo (cfgSlots c)).map fun p =>
      (ws.find? fun w => w.pos = p).elim 0 fun w => rxSample (cfgWidth c) (satN (cfgWidth c) w.word)
    let t := ((s.port n).swaps.filter fun w => w.1 ≤ k).getLast?
    mapFrame (t.elim (s.port n).rxBlk fun w => w.2.1) (cfgSlots c) words

/-- One internal tick of a running slave port (R357). -/
def State.slaveTick (s : State) (n : Fin 16) : State :=
  let p := s.port n
  let c := s.tdmCfg n
  if domSpb (cfgFrate c) ≤ p.tick then s
  else
    let slip := p.rxBuf.length ≤ 1
    let out := if slip then p.lastRx else p.rxBuf.headD []
    let isOver := 7 < p.txBuf.length + 1
    let tx := (if isOver then p.txBuf.drop 1 else p.txBuf) ++ [s.txWords n p.tick]
    let s := s.portSet n { p with
      tick := p.tick + 1, cap := p.cap ++ [out], rxBuf := if slip then p.rxBuf else p.rxBuf.drop 1, lastRx := out, txBuf := tx }
    s.countN (rTdm n + 0x014) (b2n slip + b2n isOver)

/-- Some internal ticks of a running slave port. -/
def State.slaveTicks (s : State) (n : Fin 16) : Nat → State
  | 0 => s
  | k + 1 => (s.slaveTick n).slaveTicks n k

/-- The internal ticks of a running slave port up to a number of A-samples of the block under way. -/
def State.slaveUpTo (s : State) (n : Fin 16) (p : Nat) : State :=
  if (s.port n).st = 3 ∧ cfgSlave (s.tdmCfg n) then s.slaveTicks n (cdiv p (domDiv (s.tdmDom n)) - (s.port n).tick) else s

/-- A running slave port leaves RUNNING within the block under way: its internal ticks up to that sample have run. -/
def State.slaveLeave (s : State) (n : Fin 16) : State := let w := s.later; w.2.slaveUpTo n w.1

/-- The internal ticks of the block that no frame has brought, before its words give way to the next block's. -/
def State.slavesEnd (s : State) : State := (List.finRange 16).foldl (fun (s : State) n => s.slaveUpTo n 12) s

/-- The block's received frames of a port, at the boundary that ends it. For frames in which it did not run a port delivers zeros
(R353). -/
def State.tdmCapture (s : State) (sdi : List SdiWord) (n : Fin 16) : State :=
  let p := s.port n
  let spb := domSpb (s.tdmDom n)
  if p.st = 3 ∧ !cfgSlave (s.tdmCfg n) then s.portSet n { p with cap := s.masterFrames n sdi }
  else s.portSet n { p with cap := fit spb [] p.cap }

/-- Samples of logical slot l of a port in the captured block. -/
def State.tdmSrc (s : State) (n : Fin 16) (l : Nat) : List Int := (s.port n).cap.map fun f => f.getD l 0

/-- The port starts its next block. -/
def Tdm.nextBlock (p : Tdm) : Tdm := { p with cap := [], tick := 0, rxBlk := p.rxLive, swaps := [] }

/-- A restart (R359); a copy that was pending takes effect at once (R356). -/
def State.tdmRestart (s : State) (n : Fin 16) : State :=
  let s := s.slaveLeave n
  let s := if (s.port n).swp then s.swapTables n else s
  let p := s.port n
  (s.portSet n { p with st := 2, rxBuf := [], txBuf := [], lastRx := [], lastTx := [], glitch := false, winOk := false
                        fresh := (upTo 32).filter fun i => enabledAt p.txLive i }).count (rTdm n + 0x01C)

/-- RESTART by host: no effect on a master port or one that is STOPPED or ARMED (R359). -/
def State.tdmRestartAsked (s : State) (n : Fin 16) : State :=
  if cfgSlave (s.tdmCfg n) ∧ 2 ≤ (s.port n).st then s.tdmRestart n else s

/-- AUTORESTART's condition (R358). -/
def State.autoDue (s : State) (n : Fin 16) : Bool :=
  let p := s.port n
  cfgSlave (s.tdmCfg n) && cfgAuto (s.tdmCfg n) && ((p.st = 3 && p.glitch) || ((p.st = 4 || p.st = 5) && p.winOk))

/-- SWAP (R356). -/
def State.tdmSwapAsked (s : State) (n : Fin 16) : State :=
  let p := s.port n
  if p.st = 3 then s.portSet n { p with swp := true } else s.swapTables n

/-- TDM_CTLn write (R368). -/
def State.tdmCtl (s : State) (n : Fin 16) (w : Word) : State :=
  match wbits w 0 3 with
  | 1 => if (s.port n).st = 0 then s else s.portSet n { s.port n with stopping := true }
  | 2 => s.tdmSwapAsked n
  | 4 => s.tdmRestartAsked n
  | _ => s

/-- The internal ticks that have passed as an external frame ends, the first of the block included, and not before what is known
to have passed (notes/assumptions/20.md). -/
def State.framePos (s : State) (f : SlaveFrame) (dv : Nat) : Nat := min (12 / dv) (max (max 1 f.pos) (cdiv s.sub dv))

/-- Transmitted words of an external frame of a slave port, the bypass mixed in on P15 at sample k. -/
def State.emitSlave (s : State) (n : Fin 16) (k : Nat) (fr : List (Nat × Int)) : State :=
  let w := cfgWidth (s.tdmCfg n)
  if s.muzzled n && !s.acOn15 n then s
  else fr.foldl (fun s q =>
    let v := if s.muzzled n then 0 else q.2
    s.emit (.tdm n q.1 [if s.acOn15 n then s.acMix w k v else v])) s

/-- What the bypass takes from and gives to an external frame: the sample of a slave P0, and the words of a slave P15 that does
not run (R161). P0 slot 0 is position 0 of P0's frame, whatever P0's receive table says (DESIGN CHOICE, notes/assumptions/72.md). -/
def State.acFrame (s : State) (n : Fin 16) (f : SlaveFrame) : State :=
  if n.val = 0 then
    match s.byp.cfg0 with
    | some c => if cfgSlave c then
        { s with byp := { s.byp with cap := s.byp.cap ++ [rxSample (cfgWidth c) (satN (cfgWidth c) (f.words.headD 0))] } } else s
    | none => s
  else if n.val = 15 then
    match s.byp.cfg15 with
    | some c =>
      if cfgSlave c ∧ s.acDrives ∧ s.ac15 ∧ (s.port 15).st ≠ 3 then
        ((upTo (cfgSlots c)).filter fun i => enabledAt s.byp.tx15 i).foldl
          (fun s i => s.emit (.tdm 15 i [s.acMix (cfgWidth c) (s.framePos f 1 - 1) 0])) s
      else s
    | none => s
  else s

/-- An external frame (R357, R358). -/
def State.slaveFrame (s : State) (n : Fin 16) (f : SlaveFrame) : State :=
  let p := s.port n
  let c := s.tdmCfg n
  let w := cfgWidth c
  let frame := mapFrame p.rxLive (cfgSlots c) (f.words.map fun x => rxSample w (satN w x))
  let now := s.framePos f (domDiv (cfgFrate c))
  let sub := max s.sub ((now - 1) * domDiv (cfgFrate c))
  let marked : State := if f.bclkOk && f.fsyncOk then s
    else ((s.portSet n { p with glitch := true }).scSet (rTdmStat n) 23).count (rTdm n + 0x018)
  if !cfgSlave c then s
  else if p.st = 2 then
    let z := List.replicate 32 0
    let cap := p.cap ++ List.replicate (now - p.cap.length) []
    { (marked.portSet n { marked.port n with
        st := 3, rxBuf := [z, z, z, frame], txBuf := [z, z, z, z], lastRx := z, lastTx := z, cap := cap, tick := cap.length
        fresh := (upTo 32).filter fun i => enabledAt p.txLive i }) with sub := sub }
  else if p.st = 3 then
    let s : State := { marked.slaveTicks n (now - p.tick) with sub := sub }
    let p := s.port n
    let isOver := 7 < p.rxBuf.length + 1
    let rx := (if isOver then p.rxBuf.drop 1 else p.rxBuf) ++ [frame]
    let rep := p.txBuf.length ≤ 1
    let out := if rep then p.lastTx else p.txBuf.headD []
    let s := s.portSet n { p with rxBuf := rx, txBuf := if rep then p.txBuf else p.txBuf.drop 1, lastTx := out, fresh := [] }
    (s.emitSlave n (now - 1) (p.txFrame (cfgSlots c) out)).countN (rTdm n + 0x014) (b2n isOver + b2n rep)
  else s

/-- TDM_STATn's RO bits (R369). -/
def State.tdmStatBits (s : State) (n : Fin 16) : Word := fld 7 1 (b2n (s.port n).swp) ||| fld 0 3 (s.port n).st

/-- TDM_RATEn (R370). -/
def State.tdmRate (s : State) (n : Fin 16) : Word :=
  if cfgSlave (s.tdmCfg n) then fld 0 16 (unsgn 16 (satN 16 (s.port n).ofs)) else 0

/-! ### DAC channels (R361 to R365) -/

abbrev rDacCfg (n : Nat) : Nat := wStr + 0x3400 + 4 * n
abbrev rDacCode (n : Nat) : Nat := wStr + 0x3420 + 4 * n

/-- CODE as stored. -/
def State.dacCode (s : State) (n : Nat) : Int := sgn 24 (s.rw (rDacCode n)).toNat

/-- Calibration (R365): the gain correction in 2^-24, then the offset, saturated to the 24-bit word
(DESIGN CHOICE, notes/assumptions/72.md: R365 names no order and no rounding). -/
def State.dacCal (s : State) (n : Nat) (v : Int) : Int :=
  satN 24 (rdiv (v * (16777216 + sgn 32 (s.dac.cal.getD (2 * n + 1) 0).toNat)) 16777216 + sgn 32 (s.dac.cal.getD (2 * n) 0).toNat)

/-- VP - VN in 2^-24 V for one value of a channel, in its span: ±2.0 V, or 0 to 2.5 V where a negative value gives 0 V (R361). -/
def State.dacOut (s : State) (n : Nat) (v : Int) : Int :=
  if s.rwBit (rDacCfg n) 29 then 5 * max 0 (s.dacCal n (max 0 v)) else 4 * s.dacCal n v

/-- CLAMPEVT at the first negative value after each clear. -/
def State.dacClamp (s : State) (n : Nat) (vs : List Int) : State :=
  if s.rwBit (rDacCfg n) 29 && vs.any (· < 0) && !s.scBit rDacStat 23 then s.scSet rDacStat 23 else s

/-- The interpolated values of a channel's stream words, with its filter's history. -/
def dacFilter (h : List Int) : List Int → List Int × List Int
  | [] => ([], h)
  | x :: xs =>
    let h := (x :: h).take 32
    let r := dacFilter h xs
    (Config.interpDac h :: r.1, r.2)

/-- The bypass drives a channel. -/
def State.acOnDac (s : State) (n : Nat) : Bool := s.acDrives && s.acDac n

/-- CODE of a channel is in force, unless the bypass drives it (R364). -/
def State.dacHold (s : State) (n : Nat) : State :=
  if s.acOnDac n then s else { s with dac := { s.dac with held := s.dac.held.set n (s.dacCode n) } }

/-- A channel takes its stream words of the block through its filter (R362). -/
def State.dacTake (s : State) (n : Nat) : State :=
  let f := dacFilter (s.dac.hist.getD n []) (s.dstWords (0x8000 + n) 12)
  { s with dac := { s.dac with hist := s.dac.hist.set n f.2, blk := s.dac.blk.set n f.1 } }

/-- The bypass has a part in a channel's sample k of the block. -/
def State.acDacAt (s : State) (n k : Nat) : Bool := s.acOnDac n && s.acWeight k ≠ 0

/-- A channel's own value at sample k of the block, before its span: a stream word or CODE (the one in force before the bypass,
while that has a part), none while EN is 0 or the unit does not drive it (R362 to R364, R377). -/
def State.dacOwn (s : State) (n k : Nat) : Option Int :=
  let cfg := s.rw (rDacCfg n)
  if !cfg.getLsbD 31 || s.muzzled (16 + n) then none
  else some (if !cfg.getLsbD 30 then (s.dac.blk.getD n []).getD k 0 else if s.acDacAt n k then s.dac.held.getD n 0 else s.dacCode n)

/-- A channel's output at sample k of the block: with the bypass's part, or its own, or 0 V. -/
def State.dacAt (s : State) (n k : Nat) : Int :=
  if s.acDacAt n k then s.dacOut n (s.acMix 24 k ((s.dacOwn n k).getD 0)) else (s.dacOwn n k).elim 0 (s.dacOut n)

/-- A channel's outputs from sample `first` of the block on. -/
def State.dacGive (s : State) (n first : Nat) : State :=
  let ks := (upTo 12).drop first
  (s.dacClamp n (ks.filterMap (s.dacOwn n))).emit (.dac n (ks.map (s.dacAt n)))

/-- A channel's outputs for what is left of the block under way, after a change without a time of its own. -/
def State.dacRest (s : State) (n : Nat) : State := let w := s.later; w.2.dacGive n (min 11 w.1)

/-- All channels at a boundary. -/
def State.emitDac (s : State) : State := (upTo 8).foldl (fun s n => ((s.dacTake n).dacHold n).dacGive n 0) s

/-- The channels' outputs from sample `first` of the block under way on, as the bypass's direction changes there. -/
def State.tailDac (s : State) (first : Nat) : State :=
  (upTo 8).foldl (fun s n => if s.acOnDac n then s.dacGive n first else s) s

/-- A CODE in force reaches the modulator at once in direct mode, unless the bypass drives the channel (R363, R364). -/
def State.dacDirect (s : State) (n : Nat) : State :=
  let cfg := s.rw (rDacCfg n)
  let s := s.dacHold n
  if cfg.getLsbD 31 && cfg.getLsbD 30 && !s.muzzled (16 + n) && !s.acOnDac n then
    (s.dacClamp n [s.dacCode n]).emit (.dac n [s.dacOut n (s.dacCode n)])
  else s

/-- A channel that the stream feeds or the bypass drives is enabled, or its calibration changes: its outputs follow at once, as in
direct mode (R364, R365). -/
def State.dacAgain (s : State) (n : Nat) : State :=
  if s.acOnDac n || (s.rwBit (rDacCfg n) 31 && !s.rwBit (rDacCfg n) 30) then s.dacRest n else s.dacDirect n

/-- DAC_STAT's BYPASSED (R375). -/
def State.dacBypassed (s : State) : Word :=
  (upTo 8).foldl (fun w n => w ||| fld n 1 (b2n (s.acDrives && s.acDac n))) 0

/-! ### Activation and deactivation of the bypass (R163) -/

/-- The bypass turns within the block under way. Commands carry no time within a block, so the sample at which the crossfade
begins or reverses is a free value not before what has passed (notes/assumptions/20.md). -/
def State.acTurn (s : State) : State :=
  let w := s.later
  let t : State := { w.2 with byp := { w.2.byp with turns := w.2.byp.turns ++ [(w.1, w.2.acActive)] } }
  (t.tail15 w.1).tailDac w.1

/-- The bypass after what may activate or deactivate it. -/
def State.acFollow (was : Bool) (s : State) : State :=
  if was = s.acActive then s else if was then s.acTurn else s.acStarted.acTurn

/-- A change of level or latch. -/
def State.acChange (s : State) (b : Bypass) : State := ({ s with byp := b } : State).acFollow s.acActive

/-- CTL_ACCTL write (R168). -/
def State.acCtl (s : State) (w : Word) : State :=
  if w.getLsbD 0 && w.getLsbD 1 then s
  else if w.getLsbD 0 then s.acChange { s.byp with latch := true }
  else if w.getLsbD 1 then s.acChange { s.byp with latch := false }
  else s

/-- The bypass's crossfade over the block that ends, and its direction in the one that begins. -/
def State.bypBoundary (s : State) : State :=
  { s with sub := 0, byp := { s.byp with weight := s.acWeight 12, up := s.acActive, turns := [], cap := [] } }

end Sys2Proof.Machine
end

