-- ==== Sys2Proof/Machine/Net.lean ====
section
/-! DEFINITION. Ethernet ports and streams (R291 to R319): transmit queues, PRP, MACsec, talkers and listeners, gPTP, peer
table, steering of received frames. Header layouts are those of the standards the spec names (notes/assumptions/40.md). -/

namespace Sys2Proof.Machine

/-- Pair q runs PRP (R294, R315). -/
def State.prpOn (s : State) (q : Nat) : Bool := s.rwBit (wStr + 0x0100 + 4 * q) 31

/-- Ports that a PORT field names (R244). -/
def portsOf (n : Nat) : List Nat := if n = 4 then [0, 1] else if n = 5 then [2, 3] else [n]

/-- PORT names a pair for ports in PRP mode and a single port otherwise (R244). -/
def State.portFieldOk (s : State) (n : Nat) : Bool := if n ≤ 3 then !s.prpOn (n / 2) else n ≤ 5 && s.prpOn (n - 4)

def State.jumbo (s : State) (p : Nat) : Bool := s.rwBit (rPort p) 27
def State.ptpEn (s : State) (p : Nat) : Bool := s.portEn p && s.rwBit (rPort p) 26

/-- Most bytes of MAC client data of a port (R292). -/
def State.clientMax (s : State) (p : Nat) : Nat := if s.jumbo p then 9240 else 1500

/-- A signed register in 2^-16 ns (R313). -/
def State.latency (s : State) (p o : Nat) : Int := sgn 32 (s.rw (rPort p + o)).toNat

/-! ### Peer table (R308, R309) -/

/-- The engine reads an entry from the table, as a STREAM_OPEN names it. -/
def State.peerRead (s : State) (n : Nat) : State :=
  if s.peerOn then s.netSet { s.net with peers := put n (s.mem.bulk.getN (s.peerBase + 64 * n) 64) s.net.peers } else s

/-- Link delay and asymmetry of a port in 2^-16 ns (R307, R309). -/
def State.linkDelay (s : State) (p : Nat) : Option Int :=
  if s.rwBit (rPort p) 25 then (s.nport p).mld.map (· + s.latency p 0x010)
  else (s.peer (s.rwBits (rPort p) 0 14)).map fun e => (recF e 0x10 4 : Int) + sgn 32 (recF e 0x14 4)

/-! ### Transmit queues (R291, R293) -/

/-- A frame's other copy still waits on some port. -/
def State.copyWaits (s : State) (f : TxFrame) : Bool :=
  s.net.ports.any fun x => x.txq.any fun g => match f.kind, g.kind with
    | .host t _, .host u _ => decide (t = u)
    | _, _ => false

/-- A frame is discarded for lack of link. -/
def State.txLost (s : State) (p : Nat) (f : TxFrame) : State :=
  match f.kind with
  | .talker _ _ _ _ => s.count (rPort p + 0x020)
  | .host t _ => if s.copyWaits f then s else s.post t stFault 0 0
  | .own _ _ => s
  | .hitch _ => s

/-- Rate and auto-negotiation of a link by the port's MODE and AN (R291): 1000BASE-X and 2500BASE-X have their one rate; in SGMII it is
100 or 1,000 Mb/s, as the PHY says. -/
def State.linkRate (s : State) (p speed : Nat) (an : Bool) : Nat × Bool :=
  let m := s.rwBits (rPort p) 29 2
  (if m = 1 then 3 else if m = 2 ∧ speed = 1 then 1 else 2, an && s.rwBit (rPort p) 28 && m ≠ 1)

/-- A frame joins a port's queue. -/
def State.enqueue (s : State) (p : Nat) (f : TxFrame) : State :=
  if s.portUp p then s.nportSet p { s.nport p with txq := (s.nport p).txq ++ [f] } else s

/-- A frame for the ports that a PORT field names; a pair gives both copies one sequence number. -/
def State.sendOn (s : State) (port : Nat) (f : TxFrame) : State :=
  let ps := portsOf port
  let q := port - 4
  let f := if 4 ≤ port then { f with prp := some (s.net.prpSeq.getD q 0) } else f
  let s := if 4 ≤ port then s.netSet { s.net with prpSeq := s.net.prpSeq.set q ((s.net.prpSeq.getD q 0 + 1) % 65536) } else s
  let s := ps.foldl (fun s p => s.enqueue p f) s
  (ps.filter fun p => !s.portUp p).foldl (fun s p => s.txLost p f) s

/-- The Hitch frames that wait in a port's Q1 are discarded (R291). -/
def State.dropQ1 (p : Nat) (s : State) : State := s.twinSet { s.twin with q1 := s.twin.q1.filter fun f => f.1 ≠ p }

/-- A link comes up or goes down (R312). -/
def State.linkChange (s : State) (p : Nat) (up : Bool) (speed : Nat) (an : Bool) : State :=
  let x := s.nport p
  let up := up && s.portEn p
  let s := if up = x.link then s else s.scSet (rPort p + 4) 23
  if up then s.nportSet p { x with link := true, speed := (s.linkRate p speed an).1, anDone := (s.linkRate p speed an).2 }
  else x.txq.foldl (fun s f => s.txLost p f) <| State.dropQ1 p
    (s.nportSet p { x with link := false, speed := 0, anDone := false, txq := [], t1 := none, t24 := none, mld := none, rate := none })

/-! ### MACsec (R296 to R298) -/

/-- Port whose secure-channel table serves a port's frame (R297). -/
def scPort (p : Nat) (pair : Bool) : Nat := if pair then p / 2 * 2 else p

def Port.scF (x : Port) (sc o n : Nat) : Nat := x.sc.le (48 * sc + o) n

/-- The secure channel that the Hitch peer entry names (R378). -/
def State.hitchSc (s : State) : Option (Nat × Nat) :=
  (s.peer (s.rwBits (wStr + 0x4008) 0 14)).bind fun e =>
    if bit (recF e 6 1) 1 then some (2 * b2n (s.rwBit rHitCfg 27), recF e 7 1) else none

/-- Key of a secure association, if the association is usable (R298, R406). -/
def State.saKey (s : State) (p sc an : Nat) : Option (List Byte) :=
  let x := s.nport p
  let slot := x.scF sc (0x14 + 8 * an) 1
  if !bit (x.scF sc (0x15 + 8 * an) 1) 0 ∨ !keyVolatile slot ∨ (0x80 ≤ slot ∧ s.hitchSc ≠ some (p, sc)) then none
  else (s.key slot).key.filter fun k => k.length = if bit (x.scF sc 8 1) 2 then 32 else 16

/-- A frame protected for transmission; none: it is refused. PN 0 is the one past the last (notes/assumptions/41.md). -/
def State.macTx (s : State) (p tp sc : Nat) (bs : List Byte) : Option (List Byte × State) :=
  let x := s.nport tp
  let an := x.scF sc 9 1 % 4
  let pn := x.scF sc (0x10 + 8 * an) 4
  if !bit (x.scF sc 8 1) 0 ∨ bit (x.scF sc 8 1) 1 ∨ pn = 0 then none
  else (s.saKey tp sc an).map fun k =>
    let s := s.nportSet tp { x with sc := x.sc.putLe (48 * sc + 0x10 + 8 * an) 4 (pn + 1) }
    (Config.macsecSeal k (x.scF sc 0 8) an pn bs, if pn + 1 = 0xC0000000 then s.scSet (rPort p + 4) 22 else s)

/-- What a received frame is after MACsec: dropped and counted, or its plain bytes with the channel that verified it. -/
structure MacRx where
  plain : Option (List Byte)
  sc : Option Nat
  deriving DecidableEq, Repr

/-- A frame with a SecTAG received on a port (R298); the SecTAG's layout is that of IEEE 802.1AE. With the last PN received and no
replay window left, no later frame of the association is acceptable. -/
def State.macRx (s : State) (p : Nat) (bs : List Byte) : MacRx × State :=
  let tp := scPort p (s.prpOn (p / 2))
  let x := s.nport tp
  let tci := ((bs.drop 14).headD 0).toNat
  let pn := beNat ((bs.drop 16).take 4)
  let sci := if bit tci 5 then recF bs 20 8 else leNat ((bs.drop 6).take 6 ++ [0, 1])
  let hdr := if bit tci 5 then 28 else 20
  match (upTo 32).find? fun c => bit (x.scF c 8 1) 0 && bit (x.scF c 8 1) 1 && x.scF c 0 8 = sci with
  | none => (⟨none, none⟩, s)
  | some c =>
    let an := tci % 4
    let mode := bits (x.scF c 8 1) 3 2
    let low := x.scF c (0x10 + 8 * an) 4
    let bare := bs.take 12 ++ (bs.drop hdr).take (bs.length - hdr - 16)
    let lax := mode ≠ 0 ∧ !bit tci 3 ∧ !bit tci 2
    let good := if mode = 2 then none else (s.saKey tp c an).bind fun k => Config.macsecOpen k sci pn bs
    match good with
    | some pl =>
      if pn < low ∨ 4 * c + an ∈ x.pnEnd then (⟨none, none⟩, s)
      else
        let low' := max low (pn + 1 - x.scF c 0x0C 4)
        (⟨some pl, some c⟩, s.nportSet tp { x with
          sc := x.sc.putLe (48 * c + 0x10 + 8 * an) 4 (min 0xFFFFFFFF low')
          pnEnd := if low' = 0x100000000 then (4 * c + an) :: x.pnEnd else x.pnEnd })
    | none => (⟨if lax then some bare else none, none⟩, s)

/-! ### Departure (R293, R298, R303, R307) -/

/-- The redundancy control trailer of a port (R294). -/
def addRct (p seq : Nat) (bs : List Byte) : List Byte :=
  let tag := if (bs.drop 12).take 2 = [0x81, 0x00] then 18 else 14
  bs ++ natBe 2 seq ++ natBe 2 ((0xA + p % 2) * 4096 + (bs.length - tag + 6) % 4096) ++ [0x88, 0xFB]

/-- Frames that none of the same host and ring precedes in the queue: frames of one ring leave in ring order (R244). -/
def ringFirst (l : List TxFrame) : List TxFrame :=
  l.filter fun f => match f.kind with
    | .host t _ => decide ((l.find? fun g => match g.kind with
        | .host u _ => u.host = t.host && u.ring = t.ring
        | _ => false) = some f)
    | _ => true

/-- The Hitch frames of a port's Q1 that may leave: CKPT frames are paced to 50 Mb/s, 160 ns a byte (R378). -/
def State.hitchReady (s : State) (p ns : Nat) : List TxFrame :=
  (s.twin.q1.filter fun f => f.1 = p && (f.2.kind ≠ .hitch true || s.twin.ckFree.getD (p % 2) 0 ≤ ns)).map (·.2)

/-- A Hitch frame leaves Q1. The first copy of a pair to leave draws the sequence number of both (R294). -/
def State.hitchTake (s : State) (p ns : Nat) (f : TxFrame) : TxFrame × State :=
  let t := s.twin
  let n := s.net.prpSeq.getD (p / 2) 0
  let g : TxFrame := { f with prp := some (f.prp.getD n) }
  let q1 := (t.q1.erase (p, f)).map fun x => if x.2 = f then (x.1, g) else x
  let s := if f.prp.isSome then s else s.netSet { s.net with prpSeq := s.net.prpSeq.set (p / 2) ((n + 1) % 65536) }
  (g, s.twinSet { t with
    q1 := q1, ckFree := if f.kind = .hitch true then t.ckFree.set (p % 2) (ns + 160 * (f.bytes.length + 4)) else t.ckFree })

/-- A frame leaves its queue. -/
def State.takeTx (s : State) (p ns : Nat) (f : TxFrame) : TxFrame × State :=
  if f.q = 1 then s.hitchTake p ns f else (f, s.nportSet p { s.nport p with txq := (s.nport p).txq.erase f })

/-- The frame that leaves next: strict priority; whether the shaper lets a class go is a free value (notes/assumptions/42.md). -/
def State.pickTx (s : State) (p ns : Nat) : Option TxFrame × State :=
  let r := s.fresh
  let q := ringFirst (s.nport p).txq ++ s.hitchReady p ns
  let ok (f : TxFrame) : Bool := !((f.q = 2 && bit r.1 0) || (f.q = 3 && bit r.1 1))
  let first (l : List TxFrame) := (upTo 12).findSome? fun n => l.find? fun f => f.q = n
  (match first (q.filter ok) with
   | some f => some f
   | none => first q, r.2)

/-- The AVTP timestamp of a talker packet as the port writes it at departure (R303). -/
def TxFrame.stamp (f : TxFrame) (ns : Nat) : List Byte :=
  match f.kind with
  | .talker _ launch pres off =>
    if off = 0 then f.bytes
    else
      let late := nsOf launch 0 + 125000 < ns
      f.bytes.zipIdx.map fun b =>
        if b.2 = off + 1 then b.1 ||| 1#8 else if b.2 = off + 3 ∧ late then b.1 ||| 1#8
        else if off + 12 ≤ b.2 ∧ b.2 < off + 16 then (natBe 4 pres).getD (b.2 - off - 12) 0 else b.1
  | _ => f.bytes

/-- The same frame's copy on the other port of a pair takes the protected bytes, so that both LANs carry identical frames. -/
def State.shareSealed (s : State) (p : Nat) (f : TxFrame) (bs : List Byte) : State :=
  if f.prp.isNone then s
  else
    let o := p / 2 * 2 + (1 - p % 2)
    let x := s.nport o
    let other (g : TxFrame) : TxFrame :=
      if g.prp = f.prp then { g with bytes := bs, sc := none, kind := match g.kind with
        | .talker i l pr _ => .talker i l pr 0
        | k => k } else g
    (s.nportSet o { x with txq := x.txq.map other }).twinSet { s.twin with
      q1 := s.twin.q1.map fun q => if q.1 = o then (o, other q.2) else q }

/-- Width of a time field for a version (R232). -/
def timeMod (ver : Nat) : Nat := if ver = 1 then 2 ^ 32 else if ver = 2 then 2 ^ 48 else 2 ^ 64

/-- A host frame has left: departure time, completion. -/
def State.hostLeft (s : State) (f : TxFrame) (ns : Nat) : State :=
  match f.kind with
  | .host t ts =>
    if s.copyWaits f then s
    else match ts with
      | none => s.post t stOk 0 0
      | some a =>
        let r := s.devWrite t.host a (natLe 8 (ns % timeMod (s.hst t.host).ver)) false
        r.2.post t (if r.1 then stOk else stFault) 0 0
  | _ => s

/-- What the departure of a frame of the port's own starts (R306): t1 of Pdelay_Req, the Follow_Up of Pdelay_Resp. -/
def State.ownLeft (s : State) (p : Nat) (f : TxFrame) (t : Int) : State :=
  match f.kind with
  | .own 2 _ => s.nportSet p { s.nport p with t1 := some t }
  | .own 3 d => s.enqueue p ⟨0, [], none, none, .own 10 (d ++ [t.toNat])⟩
  | _ => s

/-- A frame with its FCS, which the port appends (R244): the CRC-32 of IEEE 802.3, least significant byte first. -/
def withFcs (bs : List Byte) : List Byte := bs ++ natLe 4 (crc32 bs)

/-- A frame of the port's own (R294, R306): PRP supervision frames are for 01-15-4E-00-01-00; the rest is the standards'. -/
def ownFrame (k p : Nat) (d : List Nat) : List Byte :=
  if k = 12 then [0x01, 0x15, 0x4E, 0x00, 0x01, 0x00] ++ fit 6 0 (Config.portMac p) ++ [0x88, 0xFB] ++ Config.stdFrame k p d
  else Config.stdFrame k p d

/-- One frame leaves a port at a captured time in 2^-16 ns (R307). -/
def State.depart (s : State) (p t : Nat) : State :=
  if !s.portUp p then s
  else
    let r := s.pickTx p (t / 65536)
    match r.1 with
    | none => s
    | some f =>
      let r := r.2.takeTx p (t / 65536) f
      let f := r.1
      let s := r.2
      let ttx : Int := (t : Int) + s.latency p 0x008
      let ns := (ttx / 65536).toNat
      let bs := match f.kind with
        | .own k d => ownFrame k p (d ++ [ns])
        | _ => f.stamp ns
      let sent : Option (List Byte × State) := match f.sc with
        | none => some (bs, s)
        | some c => (s.macTx p (scPort p f.prp.isSome) c bs).map fun m => (m.1, m.2.shareSealed p f m.1)
      match sent with
      | none =>
        let s := s.count (rPort p + 0x028)
        (match f.kind with
         | .host u _ =>
           let s := s.netSet { s.net with ports := s.net.ports.map fun x => { x with txq := x.txq.filter fun g => match g.kind with
             | .host v _ => decide (u ≠ v)
             | _ => true } }
           s.post u stFault 0 0
         | _ => s)
      | some (out, s) =>
        let s := s.emit (.frame p (withFcs (match f.prp with
          | some n => addRct p n out
          | none => out)))
        (s.hostLeft f ns).ownLeft p f ttx

/-! ### Stream records (R299 to R302) -/

namespace Rec

def fmt (r : List Byte) : Nat := recF r 0 1
def flag (r : List Byte) (i : Nat) : Bool := bit (recF r 1 1) i
def rate (r : List Byte) : Nat := recF r 2 1
def port (r : List Byte) : Nat := recF r 3 1
def nch (r : List Byte) : Nat := recF r 4 1
def sc (r : List Byte) : Nat := recF r 5 1
def chBase (r : List Byte) : Nat := recF r 6 2
def presOff (r : List Byte) : Nat := recF r 0x28 4
def peer (r : List Byte) : Nat := recF r 0x30 2

/-- Bytes of a sample, and blocks and samples of a packet. -/
def width (r : List Byte) : Nat := if flag r 0 then 4 else 3
def blocks (r : List Byte) : Nat := if flag r 1 then 4 else 1
def samples (r : List Byte) : Nat := blocks r * domSpb (rate r)

/-- Audio bytes of a packet, and a stream's bandwidth in bit/s (R300). -/
def audio (r : List Byte) : Nat := samples r * nch r * width r
def bandwidth (r : List Byte) : Nat :=
  ((if fmt r = 1 then 82 else 66) + audio r + (if flag r 3 then 32 else 0) + (if 4 ≤ port r then 6 else 0)) * 8 *
    (if flag r 1 then 1000 else 4000)

/-- Ranges of the fields (R302). -/
def ok (r : List Byte) (listener : Bool) : Bool :=
  let f := fmt r
  f ≤ 2 && recF r 1 1 < 32 && (f = 0 || !flag r 0) && rate r ≤ 2 && (f = 0 || rate r = 0) && port r ≤ 5 &&
  (if f = 2 then nch r = 0 else 1 ≤ nch r && nch r ≤ 64) && (!flag r 3 || sc r ≤ 31) && chBase r ≤ 1023 &&
  chBase r + nch r ≤ 1024 && !bit (recF r 0x16 2) 12 && (f ≠ 1 || (96 ≤ recF r 0x24 1 && recF r 0x24 1 ≤ 127)) &&
  recF r 0x25 1 < 64 && 1 ≤ recF r 0x26 1 && recF r 0x27 1 = 0 && recF r 0x32 8 = 0 && recF r 0x3A 6 = 0 &&
  (if listener then (peer r ≤ 16383 || peer r = 0xFFFF) && (f ≠ 1 || peer r ≠ 0xFFFF || presOff r ≤ 16000000)
   else presOff r ≤ 16000000)

/-- A channel belongs to a record. -/
def has (r : List Byte) (c : Nat) : Bool := chBase r ≤ c && c < chBase r + nch r

/-- Two records name one stream (R302): STREAMID, or DIP and DPORT. -/
def same (a b : List Byte) : Bool :=
  if fmt a = 1 then fmt b = 1 && recF a 0x18 6 = recF b 0x18 6 else fmt b ≠ 1 && recF a 8 8 = recF b 8 8

def meets (a b : List Byte) : Bool := overlap (chBase a) (nch a) (chBase b) (nch b) && nch a ≠ 0 && nch b ≠ 0

end Rec

/-- Line rate of a port in bit/s: of its link, without link of its mode. -/
def State.lineRate (s : State) (p : Nat) : Nat :=
  match (s.nport p).speed with
  | 1 => 100000000
  | 2 => 1000000000
  | 3 => 2500000000
  | _ => if s.rwBits (rPort p) 29 2 = 1 then 2500000000 else 1000000000

/-- The talker bandwidth of a port with one more stream exceeds LIMIT (R301). -/
def State.overRate (s : State) (p bw : Nat) : Bool :=
  let used := (s.net.talkers.filter fun t => p ∈ portsOf (Rec.port t.recd)).foldl (fun n t => n + Rec.bandwidth t.recd) 0
  s.rwBits (rPort p + 0x018) 16 7 * s.lineRate p < 100 * (used + bw)

/-- Status of a STREAM_OPEN by its record (R301, R302). -/
def State.streamCheck (s : State) (listener : Bool) (idx : Nat) (r : List Byte) : Nat :=
  let ps := portsOf (Rec.port r)
  let lim (p : Nat) : Nat := if s.jumbo p then (if Rec.fmt r = 1 then 9200 else 9216) else (if Rec.fmt r = 1 then 1460 else 1476)
  if !Rec.ok r listener || !s.portFieldOk (Rec.port r) || ps.any (fun p => decide (lim p < Rec.audio r)) then stBadArg
  else if listener then
    if s.net.listeners.any fun l => l.idx = idx || Rec.same l.recd r || Rec.meets l.recd r then stBadArg else stOk
  else if s.net.talkers.any fun t => t.idx = idx || (Rec.meets t.recd r && Rec.rate t.recd ≠ Rec.rate r) then stBadArg
  else if ps.any fun p => s.overRate p (Rec.bandwidth r) then stNoSpace
  else stOk

/-- A stream is opened; it starts at the next boundary. -/
def State.streamOpen (s : State) (listener : Bool) (idx : Nat) (r : List Byte) (t : Ticket) : State :=
  if listener then
    let s := if Rec.peer r = 0xFFFF then s else s.peerRead (Rec.peer r)
    s.netSet { s.net with listeners := s.net.listeners ++
      [⟨idx, r, (s.peer (Rec.peer r)).isNone, false, 1, some t, none, [], [], none, 0, 0, []⟩] }
  else s.netSet { s.net with talkers := s.net.talkers ++ [⟨idx, r, false, some t, none, [], 0, [], 0⟩] }

/-- A stream that closes at the next boundary; false: it is not open. -/
def State.streamClose (s : State) (listener : Bool) (idx : Nat) (t : Ticket) : Bool × State :=
  if listener then
    (s.net.listeners.any fun l => l.idx = idx && l.closing.isNone,
      s.netSet { s.net with listeners := s.net.listeners.map fun l => if l.idx = idx ∧ l.closing.isNone then { l with closing := some t } else l })
  else
    (s.net.talkers.any fun l => l.idx = idx && l.closing.isNone,
      s.netSet { s.net with talkers := s.net.talkers.map fun l => if l.idx = idx ∧ l.closing.isNone then { l with closing := some t } else l })

/-- The entries that a PEER_SET wrote, as the engine read them then, are in use (R308). -/
def State.peersIn (s : State) (p : Ticket × Nat × List Byte) : State :=
  let new := (upTo (p.2.2.length / 64)).foldl (fun l i => put (p.2.1 + i) ((p.2.2.drop (64 * i)).take 64) l) s.net.peers
  if s.peerOn then s.netSet { s.net with peers := new } else s

/-- Streams open and close at a boundary, and PEER_SETs apply (R302, R308). -/
def State.streamBoundary (s : State) : State :=
  let n := s.net
  let done := (n.talkers.filterMap (·.opening)) ++ (n.listeners.filterMap (·.opening)) ++ (n.talkers.filterMap (·.closing)) ++
    (n.listeners.filterMap (·.closing)) ++ n.peerSets.map (·.1)
  let s := n.peerSets.foldl State.peersIn s
  let s := s.netSet { s.net with
    peerSets := []
    talkers := (n.talkers.filter fun t => t.closing.isNone).map fun t => { t with run := true, opening := none }
    listeners := (n.listeners.filter fun t => t.closing.isNone).map fun t => { t with run := true, opening := none } }
  done.foldl (fun s t => s.post t stOk 0 0) s

/-! ### Talkers (R300, R303, R305, R389) -/

/-- A 32-bit stream sends a network channel (R133). -/
def State.netWide (s : State) (c : Nat) : Bool := s.net.talkers.any fun t => Rec.has t.recd c && Rec.width t.recd = 4

/-- A channel is sent by a stream of 24 bits. -/
def State.netNarrow (s : State) (c : Nat) : Bool := s.net.talkers.any fun t => Rec.has t.recd c && Rec.width t.recd = 3

/-- Domain of a transmit channel: that of the streams that send it. -/
def State.netDom (s : State) (c : Nat) : Nat := ((s.net.talkers.find? fun t => Rec.has t.recd c).map fun t => Rec.rate t.recd).getD 0

/-- The samples of a block for a stream: one list of channels for each index. -/
def State.talkerBlock (s : State) (r : List Byte) : List (List Int) :=
  (upTo (domSpb (Rec.rate r))).map fun k => (upTo (Rec.nch r)).map fun c =>
    ((look (0x2000 + Rec.chBase r + c + (if Rec.width r = 4 then 65536 else 0)) s.mix.dst).getD []).getD k 0

/-- One's complement sum of big-endian 16-bit words. -/
def ipSum : List Byte → Nat
  | a :: b :: r => (let t := a.toNat * 256 + b.toNat + ipSum r; t % 65536 + t / 65536)
  | [a] => a.toNat * 256
  | [] => 0

/-- Destination, source and VLAN tag of a talker's frame. -/
def State.talkerHead (s : State) (r : List Byte) : List Byte :=
  let p := (portsOf (Rec.port r)).headD 0
  let v := recF r 0x16 2
  let pcp := if v / 8192 ≠ 0 then v / 8192 else s.rwBits (rPort p + 0x018) (if Rec.flag r 2 then 4 else 0) 3
  (r.drop 0x10).take 6 ++ fit 6 0 (Config.portMac p) ++
    (if Rec.flag r 4 then [0x81, 0x00] ++ natBe 2 (pcp * 8192 + v % 4096) else [])

/-- Bytes of a packet with its first A-index, sequence number and audio. -/
def State.talkerBytes (s : State) (r : List Byte) (ua seq : Nat) (audio : List (List Int)) : List Byte :=
  let data := audio.flatMap fun f => f.flatMap fun v => natBe (Rec.width r) (unsgn (8 * Rec.width r) v)
  let sid := ((r.drop 8).take 8)
  if Rec.fmt r = 0 then
    let nsr := if Rec.rate r = 0 then 5 else if Rec.rate r = 1 then 2 else 1
    s.talkerHead r ++ [0x22, 0xF0, 0x02, 0x80, BitVec.ofNat 8 seq, 0] ++ sid ++ natBe 4 0 ++
      [if Rec.flag r 0 then 0x02 else 0x03, BitVec.ofNat 8 (nsr * 16), BitVec.ofNat 8 (Rec.nch r), BitVec.ofNat 8 (8 * Rec.width r)] ++
      natBe 2 data.length ++ [0, 0] ++ data
  else if Rec.fmt r = 2 then
    let ts := (upTo (Rec.blocks r)).flatMap fun i => natBe 8 (nsOf (ua + 12 * i + 48) 0 + Rec.presOff r)
    s.talkerHead r ++ [0x22, 0xF0, 0x04, 0x80, BitVec.ofNat 8 seq, 1] ++ sid ++ natBe 4 48000 ++ natBe 2 ts.length ++ natBe 2 12 ++ ts
  else
    let p := (portsOf (Rec.port r)).headD 0
    let rtp := [0x80#8, BitVec.ofNat 8 (recF r 0x24 1)] ++ natBe 2 seq ++ natBe 4 (ua + recF r 0x2C 4) ++ natBe 4 (recF r 0x20 4) ++ data
    let addr := natBe 4 (s.rw (rPort p + 0x014)).toNat ++ natBe 4 (recF r 0x18 4)
    let udp (c : Nat) := natBe 2 (recF r 0x1E 2) ++ natBe 2 (recF r 0x1C 2) ++ natBe 2 (rtp.length + 8) ++ natBe 2 c
    let us := 65535 - ipSum (addr ++ [0, 17] ++ natBe 2 (rtp.length + 8) ++ udp 0 ++ rtp)
    let ip (c : Nat) := [0x45#8, BitVec.ofNat 8 (4 * recF r 0x25 1)] ++ natBe 2 (rtp.length + 28) ++ [0, 0, 0x40, 0] ++
      [BitVec.ofNat 8 (recF r 0x26 1), 17] ++ natBe 2 c ++ addr
    s.talkerHead r ++ [0x08, 0x00] ++ ip (65535 - ipSum (ip 0)) ++ udp (if us = 0 then 65535 else us) ++ rtp

/-- A packet of a talker for its launch boundary, kept in the backlog (R303, R389). -/
def State.talkerPacket (s : State) (t : Talker) (audio : List (List Int)) : Talker :=
  let r := t.recd
  let ua := 12 * t.first
  let launch := ua + 12 * Rec.blocks r + 36
  let m := if Rec.fmt r = 1 then 65536 else 256
  let seq := if s.rwBit rHitCfg 31 then ua / (12 * Rec.blocks r) % m else t.seq
  let off := if Rec.fmt r ≠ 0 then 0 else if Rec.flag r 4 then 18 else 14
  let f : TxFrame := ⟨if Rec.flag r 2 then 3 else 2, s.talkerBytes r ua seq audio, if Rec.flag r 3 then some (Rec.sc r) else none, none,
    .talker t.idx launch (nsOf launch 0 + Rec.presOff r) off⟩
  { t with pack := [], seq := (t.seq + 1) % m, backlog := (t.backlog.filter fun b => launch ≤ b.1 + 288) ++ [(launch, f)] }

/-- The emit stage of capture block b packs the block of every running talker (R303). -/
def State.packTalkers (s : State) (b : Nat) : State :=
  s.netSet { s.net with talkers := s.net.talkers.map fun t =>
    if !t.run ∨ (t.pack.isEmpty ∧ b % Rec.blocks t.recd ≠ 0) then t
    else
      let t := { t with first := if t.pack.isEmpty then b else t.first, pack := t.pack ++ [s.talkerBlock t.recd] }
      if t.pack.length < Rec.blocks t.recd then t else s.talkerPacket t (t.pack.flatMap id) }

/-- A talker is subject to drive (R377). -/
def State.talkerGated (s : State) (i : Nat) : Bool := s.rwBit rHitCfg 31 && s.rwBit (wStr + 0x4020 + 4 * (i / 32)) (i % 32)

/-- Launches of the present boundary (R303); on a takeover first the backlog (R389). -/
def State.launch (s : State) (took : Bool) : State :=
  let now := s.tim.nsc
  let old : List (Nat × Nat × TxFrame) := if !took then [] else
    (s.net.talkers.filter fun t => s.talkerGated t.idx).flatMap fun t => (t.backlog.filter fun b => match b.2.kind with
      | .talker _ _ pres _ => decide (nsOf now 0 + 125000 ≤ pres)
      | _ => false).map fun b => (Rec.port t.recd, b)
  let own := (s.net.talkers.filter fun t => !s.talkerGated t.idx || s.drives).flatMap fun t =>
    (t.backlog.filter fun b => b.1 = now).map fun b => (Rec.port t.recd, b)
  let back := (upTo 24).flatMap fun k => old.filter fun p => p.2.1 + 12 * (24 - k) = now
  (back ++ own).foldl (fun s p => s.sendOn p.1 p.2.2) s

/-! ### Listeners (R304, R305) -/

/-- A received stream packet: FORMAT, key (STREAMID, or DIP and DPORT), sequence number with its modulus, timestamp valid and
timestamp, whether its format agrees with a record, and the frames of samples. -/
structure Pkt where
  fmt : Nat
  key : Nat
  seq : Nat
  mod : Nat
  tv : Bool
  ts : Nat
  ok : List Byte → Bool
  data : List Byte

/-- An AVTP packet of subtype AAF or CRF at its header. -/
def avtpPkt (h : List Byte) : Option Pkt :=
  let b (o n : Nat) := beNat ((h.drop o).take n)
  let key := leNat ((h.drop 4).take 8)
  if b 0 1 = 2 then
    some ⟨0, key, b 2 1, 256, bit (b 1 1) 0, b 12 4,
      fun r => Rec.fmt r = 0 && b 16 1 = (if Rec.flag r 0 then 2 else 3) && b 19 1 = 8 * Rec.width r &&
        b 17 1 / 16 = (if Rec.rate r = 0 then 5 else if Rec.rate r = 1 then 2 else 1) && b 17 2 % 1024 = Rec.nch r &&
        b 20 2 = Rec.audio r && 24 + Rec.audio r ≤ h.length && b 22 1 % 16 = 0,
      h.drop 24⟩
  else if b 0 1 = 4 then
    some ⟨2, key, b 2 1, 256, true, 0,
      fun r => Rec.fmt r = 2 && b 3 1 = 1 && b 12 4 = 48000 && b 18 2 = 12 && b 16 2 = 8 * Rec.blocks r &&
        20 + 8 * Rec.blocks r ≤ h.length,
      h.drop 20⟩
  else none

/-- An RTP packet over UDP and IPv4, without options or fragments. -/
def rtpPkt (h : List Byte) : Option Pkt :=
  let b (o n : Nat) := beNat ((h.drop o).take n)
  let ul := b 24 2
  let sum := ipSum ((h.drop 12).take 8 ++ [0, 17] ++ natBe 2 ul ++ (h.drop 20).take ul)
  if b 0 1 = 0x45 ∧ b 9 1 = 17 ∧ b 6 2 % 16384 = 0 then
    some ⟨1, b 16 4 + 2 ^ 32 * b 22 2, b 30 2, 65536, true, b 32 4,
      fun r => b 28 1 = 0x80 && b 29 1 % 128 = recF r 0x24 1 && ul = 20 + Rec.audio r && 20 + ul ≤ h.length && (b 26 2 = 0 || sum = 65535),
      h.drop 40⟩
  else none

/-- A packet belongs to a listener. -/
def Listener.takes (l : Listener) (k : Pkt) : Bool :=
  l.run && (if k.fmt = 1 then Rec.fmt l.recd = 1 && recF l.recd 0x18 6 = k.key else Rec.fmt l.recd ≠ 1 && recF l.recd 8 8 = k.key)

/-- PRESOFF that a listener adds: its peer's, or an AES67 record's own (R302, R304). -/
def State.listenOfs (s : State) (l : Listener) : Int :=
  if l.noPeer then (if Rec.fmt l.recd = 1 then Rec.presOff l.recd else 0)
  else match s.peer (Rec.peer l.recd) with
    | some e => sgn 32 (recF e 0x18 4)
    | none => if Rec.fmt l.recd = 1 then Rec.presOff l.recd else 0

/-- Sample frames of a packet for a record, full scale 2^23. -/
def pktFrames (r d : List Byte) : List (List Int) :=
  (upTo (Rec.samples r)).map fun j => (upTo (Rec.nch r)).map fun c =>
    let w := Rec.width r
    rxSample (8 * w) (sgn (8 * w) (beNat ((d.drop ((j * Rec.nch r + c) * w)).take w)))

def State.listenerPut (s : State) (l : Listener) : State :=
  s.netSet { s.net with listeners := s.net.listeners.map fun x => if x.idx = l.idx then l else x }

/-- Samples at index u of the stream's domain on: those in time are placed, the others are zeros and count once as late. -/
def State.place' (s : State) (l : Listener) (now : Nat) (u : Int) (d : List Byte) : State :=
  let r := l.recd
  let due := (s.tim.nsc / 12 + 1) * domSpb (Rec.rate r)
  let fs := (pktFrames r d).zipIdx.filter fun q => (due : Int) ≤ u + q.2
  let s := if fs.length < Rec.samples r then s.count (wStr + 0x011C) else s
  let l := { l with next := some (u + Rec.samples r).toNat }
  if fs.isEmpty then s.listenerPut l
  else s.listenerPut { l with buf := fs.foldl (fun b q => put (u + q.2).toNat q.1 b) l.buf, st := 2, placed := now }

/-- Offset of a CRF timestamp in ns from the nearest media-clock edge, a multiple of 12 A-samples (R305). -/
def crfOfs (ts : Nat) : Int := let m : Int := (ts % 250000 : Nat); if m ≤ 125000 then m else m - 250000

/-- A packet reaches a listener (R304). Without a timestamp it follows the one before, with zeros for the numbers skipped between them; one
that is discarded as early leaves nothing to follow (DESIGN CHOICE, notes/assumptions/72.md). -/
def State.listen (s : State) (l : Listener) (k : Pkt) : State :=
  if !k.ok l.recd then s.count (wStr + 0x0124)
  else if k.seq ∈ l.seqs then s.count (wStr + 0x0118)
  else
    let step : Int := match l.seqs with
      | [] => 1
      | q :: _ => let d := (k.seq + k.mod - q) % k.mod; if d < k.mod / 2 then d else (d : Int) - k.mod
    let s := if 1 < step then s.count (wStr + 0x0128) else s
    let l := { l with seqs := (k.seq :: l.seqs).take 64 }
    let n := s.now
    let s := n.2.2
    if k.fmt = 2 then
      let ts := (upTo (Rec.blocks l.recd)).map fun i => crfOfs (beNat ((k.data.drop (8 * i)).take 8))
      s.listenerPut { l with st := 2, placed := n.1, crfs := l.crfs ++ ts }
    else
      if !k.tv then
        match l.next with
        | some u => s.place' l n.1 ((u : Int) + (step - 1) * Rec.samples l.recd) k.data
        | none => (s.listenerPut l).count (wStr + 0x011C)
      else
        let p : Int :=
          if k.fmt = 1 then
            rdiv ((extend 32 n.1 ((k.ts + 2 ^ 32 - recF l.recd 0x2C 4) % 2 ^ 32) : Int) * 1000000 + s.listenOfs l * 48) 1000000
          else rdiv ((extend 32 (nsOf n.1 n.2.1) k.ts + s.listenOfs l) * 48) 1000000
        if (n.1 : Int) + 768 < p then (s.listenerPut { l with next := none }).count (wStr + 0x0120)
        else s.place' l n.1 (-((-p) / (domDiv (Rec.rate l.recd) : Int))) k.data

/-- No packet placed for 4 packet times: the last one lies that far before the end of the block under way, or further. -/
def State.listenerLost (s : State) (n : Nat) : State :=
  let old (l : Listener) : Bool := decide (l.placed + 48 * Rec.blocks l.recd ≤ (s.tim.nsc / 12 + 1) * 12)
  s.netSet { s.net with listeners := s.net.listeners.map fun l => if l.idx = n ∧ l.st = 2 ∧ old l then { l with st := 3 } else l }

/-- The block of a receive channel for capture block b: domain and words (R18, R304). -/
def State.netSrc (s : State) (c b : Nat) : Nat × List Int :=
  match s.net.listeners.find? fun l => l.run && Rec.has l.recd c with
  | none => (0, List.replicate 12 0)
  | some l =>
    let d := Rec.rate l.recd
    let n := domSpb d
    (d, if l.st = 2 then (upTo n).map fun k => ((look (b * n + k) l.buf).getD []).getD (c - Rec.chBase l.recd) 0 else List.replicate n 0)

/-- Samples of captured blocks leave the listeners' buffers. -/
def State.dropCaptured (s : State) (b : Nat) : State :=
  s.netSet { s.net with listeners := s.net.listeners.map fun l =>
    { l with buf := l.buf.filter fun q => (b + 1) * domSpb (Rec.rate l.recd) ≤ q.1 } }

/-- The mean offset of a CRF listener over the second (R305). -/
def State.crfReport (s : State) (n : Nat) : State :=
  s.netSet { s.net with listeners := s.net.listeners.map fun l =>
    if l.idx = n ∧ Rec.fmt l.recd = 2 ∧ l.crfs ≠ [] then { l with crf := meanI l.crfs, crfs := [] } else l }

/-- STR_LSTATn (R318). -/
def State.lStat (s : State) (n : Nat) : Word :=
  match s.net.listeners.find? fun l => l.idx = n with
  | none => 0
  | some l => fld 30 2 (if l.run then l.st else 1) ||| fld 0 24 (unsgn 24 (satN 24 l.crf))

/-! ### gPTP (R306, R307, R325) -/

/-- Domain of a number (R316). -/
def State.gptpDom (s : State) (n : Nat) : Option Nat :=
  if n = s.rwBits (wStr + 0x010C) 0 8 then some 0 else if n = s.rwBits (wStr + 0x010C) 8 8 then some 1 else none

def State.gptp (s : State) (d : Nat) : Gptp := s.net.doms.getD d Gptp.reset
def State.gptpSet (s : State) (d : Nat) (g : Gptp) : State := s.netSet { s.net with doms := s.net.doms.set d g }

/-- The first list comes before the second. -/
def bytesLt : List Byte → List Byte → Bool
  | a :: x, b :: y => a.toNat < b.toNat || (a = b && bytesLt x y)
  | _, _ => false

/-- This device's own announce data: the defaults of IEEE 802.1AS-2020 for a grandmaster-capable station. -/
def ownAnnounce : List Byte :=
  let m := fit 6 0 (Config.portMac 0)
  [246, 248, 0xFE, 0x43, 0x6A, 248] ++ m.take 3 ++ [0xFF, 0xFE] ++ m.drop 3 ++ [0, 0]

/-- Whether the device is grandmaster of a domain (R306). -/
def State.isGm (s : State) (d : Nat) : Bool :=
  s.rwBit (wStr + 0x010C) 16 && match (s.gptp d).best with
    | none => true
    | some b => bytesLt ownAnnounce b.1

/-- Quality of T0 or T1 as Announce and validity give it (R325). -/
def State.requalify (s : State) (d : Nat) : State :=
  let g := s.gptp d
  let q := match g.best with
    | some b => announceQual (if g.valid then ((b.1.drop 1).headD 0).toNat else 255) ((b.1.drop 2).headD 0).toNat
    | none => 0
  let x := s.ref d
  (s.refSet d { x with qual := q }).failZero d

/-- An Announce message of a domain on a port: the better of the known master's data and this one's stays. -/
def State.announce (s : State) (d p : Nat) (body : List Byte) : State :=
  let g := s.gptp d
  let take := match g.best with
    | none => true
    | some b => b.2 = p || bytesLt body b.1
  let g := if take then { g with best := some (body, p) } else g
  let s := s.gptpSet d g
  (s.gptpSet d { g with gm := s.isGm d }).requalify d

/-- Grandmaster time at a Sync's arrival (R307): origin in ns, correction and arrival in 2^-16 ns. -/
def State.syncDone (s : State) (d p : Nat) (origin : Nat) (corr trx : Int) : State :=
  match s.linkDelay p with
  | none => s
  | some dl =>
    let g := s.gptp d
    (s.gptpSet d { g with valid := true, sync := none, ofs := rdiv ((origin : Int) * 65536 + corr + dl - trx) 65536 }).requalify d

/-- The port of a domain's grandmaster, from which Sync is taken: none while the device is grandmaster itself (R306). -/
def State.slavePort (s : State) (d : Nat) : Option Nat := if s.isGm d then none else (s.gptp d).best.map (·.2)

/-- A gPTP message received on a port, its capture in 2^-16 ns. -/
def State.gptpRx (s : State) (p : Nat) (h : List Byte) (arrival : Nat) : State :=
  if !s.ptpEn p then s
  else
    let b (o n : Nat) := beNat ((h.drop o).take n)
    let seq := b 30 2
    let trx : Int := (arrival : Int) - s.latency p 0x00C
    let corr : Int := sgn 64 (b 8 8)
    let time := b 34 6 * 1000000000 + b 40 4
    let x := s.nport p
    match b 0 1 % 16, s.gptpDom (b 4 1) with
    | 2, _ => s.enqueue p ⟨0, [], none, none, .own 3 [seq, b 20 8, b 28 2, (trx / 65536).toNat]⟩
    | 3, _ => if seq = x.pdSeq then s.nportSet p { x with t24 := some ((time : Int) * 65536 + corr, trx) } else s
    | 10, _ =>
      (match x.t1, x.t24 with
       | some t1, some (t2, t4) =>
         if seq ≠ x.pdSeq then s
         else
           let t3 := (time : Int) * 65536 + corr
           let r : Int × Int := match x.rate with
             | some (u3, u4) => if u4 < t4 then (t3 - u3, t4 - u4) else (1, 1)
             | none => (1, 1)
           s.nportSet p { x with
             mld := some (((t4 - t1) * r.1 / r.2 - (t3 - t2)) / 2), rate := some (t3, t4), t1 := none, t24 := none }
       | _, _ => s)
    | 11, some d => s.announce d p ((h.drop 47).take 16)
    | 0, some d =>
      if s.slavePort d ≠ some p then s
      else if bit (b 6 1) 1 then s.gptpSet d { s.gptp d with sync := some (trx, corr, seq) }
      else s.syncDone d p time corr trx
    | 8, some d =>
      (match (s.gptp d).sync with
       | some (t, c, q) => if s.slavePort d = some p ∧ q = seq then s.syncDone d p time (c + corr) t else s
       | none => s)
    | _, _ => s

/-- A domain without Sync for 3 intervals (R307): it is invalid and its reference is lost. -/
def State.gptpLost (s : State) (d : Nat) : State :=
  let g := { s.gptp d with valid := false, best := none, sync := none }
  let s := s.gptpSet d g
  let s := s.gptpSet d { g with gm := s.isGm d }
  (s.refSet d { s.ref d with qual := 0 }).loseGone

/-- A port may send its own gPTP frames. -/
def State.ptpUp (s : State) (p : Nat) : Bool := s.portUp p && s.ptpEn p

def State.pdelaySend (s : State) (p : Nat) : State :=
  if s.ptpUp p && s.rwBit (rPort p) 25 then
    let x := s.nport p
    let n := (x.pdSeq + 1) % 65536
    (s.nportSet p { x with pdSeq := n, t1 := none, t24 := none }).enqueue p ⟨0, [], none, none, .own 2 [n]⟩
  else s

/-- Number of a domain. -/
def State.domNum (s : State) (d : Nat) : Nat := s.rwBits (wStr + 0x010C) (8 * d) 8

def State.syncSend (s : State) (p d : Nat) : State :=
  if s.ptpUp p && s.isGm d then
    let g := s.gptp d
    (s.gptpSet d { g with gm := true, syncSeq := (g.syncSeq + 1) % 65536 }).enqueue p ⟨0, [], none, none, .own 0 [s.domNum d, g.syncSeq]⟩
  else s

def State.announceSend (s : State) (p d : Nat) : State :=
  if s.ptpUp p && s.isGm d then
    let g := s.gptp d
    (s.gptpSet d { g with gm := true, annSeq := (g.annSeq + 1) % 65536 }).enqueue p ⟨0, [], none, none, .own 11 [s.domNum d, g.annSeq]⟩
  else s

/-- A PRP supervision frame of a pair (R294). -/
def State.superSend (s : State) (q : Nat) : State :=
  if s.prpOn q then s.sendOn (4 + q) ⟨0, [], none, none, .own 12 [q]⟩ else s

/-! ### Reception (R292, R295, R310) -/

/-- VLAN tag, EtherType and the offset behind it. -/
def etherOf (bs : List Byte) : Option Nat × Nat × Nat :=
  let t := beNat ((bs.drop 12).take 2)
  if t = 0x8100 then (some (beNat ((bs.drop 14).take 2)), beNat ((bs.drop 16).take 2), 18) else (none, t, 14)

/-- Sequence number of a valid redundancy control trailer. -/
def rctOf (bs : List Byte) : Option Nat :=
  let t := bs.drop (bs.length - 6)
  let v := beNat ((t.drop 2).take 2)
  if bs.length < 20 ∨ t.drop 4 ≠ [0x88, 0xFB] then none
  else if (v / 4096 = 0xA ∨ v / 4096 = 0xB) ∧ v % 4096 = (bs.length - (etherOf bs).2.2) % 4096 then some (beNat (t.take 2)) else none

/-- Duplicate discard (R295): whether the copy is a later one, and the table after it. -/
def dupCheck (tab : List Dup) (src seq : Nat) : Bool × List Dup :=
  let rest := tab.filter fun e => e.src ≠ src
  match tab.find? fun e => e.src = src with
  | some e => if seq ∈ e.seen then (true, e :: rest) else (false, ⟨src, (seq :: e.seen).take 64⟩ :: rest)
  | none => (false, ⟨src, [seq]⟩ :: rest.take 4095)

/-- The rule of R317 that a frame meets. -/
def State.steerRule (s : State) (e : Option Nat × Nat × Nat) : Option Word :=
  ((upTo 16).map fun r => s.rw (wStr + 0x0140 + 4 * r)).find? fun w =>
    w.getLsbD 31 && wbits w 0 16 = e.2.1 && (!w.getLsbD 30 || e.1.map (· % 4096) = some (wbits w 16 10))

/-- A frame reaches a host's receive queue (R245). -/
def State.toHost (s : State) (p : Nat) (w : Word) (bs : List Byte) (sc : Option Nat) (vlan : Bool) (ns : Nat) : State :=
  let h := wbits w 28 2
  let q := wbits w 26 2
  if !s.hstEn h then s.count (rHst h + 0x024)
  else match (s.hst h).rxq.getD q [] with
    | [] => s.count (rHst h + 0x024)
    | b :: rest =>
      if b.len < bs.length + 32 then s.count (rHst h + 0x030)
      else
        let flags := b2n sc.isSome + 2 * b2n vlan + 4 * b2n (s.prpOn (p / 2))
        let hdr := natLe 2 bs.length ++ natLe 1 p ++ natLe 1 flags ++ natLe 1 (sc.getD 0) ++ [0, 0, 0] ++
          natLe 8 (ns % timeMod (s.hst h).ver) ++ List.replicate 16 0
        let r := s.devWrite h b.addr (hdr ++ bs) false
        let s := r.2.hstPut h { r.2.hst h with rxq := (r.2.hst h).rxq.set q rest }
        s.post b.ticket (if r.1 then stOk else stFault) 0 0

/-- The checks of R378 and R379 on a Hitch frame's client data; a short frame ends in the padding of Ethernet. -/
def State.hitchOk (s : State) (bs d : List Byte) : Bool :=
  let ty := recF d 1 1
  (match s.peer (s.rwBits (wStr + 0x4008) 0 14) with
   | some e => (bs.drop 6).take 6 = e.take 6
   | none => false) &&
  ty ∈ [0x01, 0x02, 0x03, 0x04, 0x05, 0x06, 0x10, 0x11, 0x12, 0x13, 0x20, 0x21, 0x30, 0x31, 0x32] &&
  recF d 2 2 ≤ 1484 && recF d 2 2 + 16 ≤ d.length && d.length ≤ max 46 (recF d 2 2 + 16) &&
  (recF d 0 1 = s.twin.ver || (ty = 1 && recF d 0 1 = 0))

/-- The consumer of a plain frame captured at a time in 2^-16 ns (R310). -/
def State.consume (s : State) (p : Nat) (bs : List Byte) (sc : Option Nat) (arr : Nat) : State :=
  let e := etherOf bs
  let d := bs.drop e.2.2
  let ns := (((arr : Int) - s.latency p 0x00C) / 65536).toNat
  if s.clientMax p < d.length then s.count (rPort p + 0x024)
  else if e.2.1 = 0x88F7 then s.gptpRx p d arr
  else if e.2.1 = 0x8808 then s
  else if e.2.1 = 0x88FB then s
  else if s.rwBit rHitCfg 31 ∧ e.2.1 = s.rwBits rHitCfg 0 16 ∧ p / 2 = b2n (s.rwBit rHitCfg 27) then
    if s.hitchOk bs d then s else s.count (wStr + 0x4060)
  else
    let k := if e.2.1 = 0x22F0 then avtpPkt d else if e.2.1 = 0x0800 then rtpPkt d else none
    match k.bind fun k => (s.net.listeners.find? fun l => l.takes k).map fun l => (l, k) with
    | some (l, k) => s.listen l k
    | none =>
      match s.steerRule e with
      | some w => s.toHost p w bs sc e.1.isSome ns
      | none => s.count (wStr + 0x012C)

/-- MACsec on a received frame, then its consumer (R298). -/
def State.unprotect (s : State) (p : Nat) (bs : List Byte) (arr : Nat) : State :=
  let t := beNat ((bs.drop 12).take 2)
  if t = 0x88E5 then
    let r := s.macRx p bs
    match r.1.plain with
    | some pl => r.2.consume p pl r.1.sc arr
    | none => r.2.count (rPort p + 0x028)
  else if s.rwBit (rPort p) 24 ∧ (etherOf bs).2.1 ≠ 0x888E ∧ (etherOf bs).2.1 ≠ 0x88F7 then s.count (rPort p + 0x028)
  else s.consume p bs none arr

/-- A received frame (R310). -/
def State.frameIn (s : State) (p : Nat) (f : RxFrame) : State :=
  if !s.portUp p then s
  else if !f.fcsOk then s.count (rPort p + 0x024)
  else if (etherOf f.bytes).2.1 = 0x88F7 then s.consume p f.bytes none f.arrival.toNat
  else
    let arr := f.arrival.toNat
    let q := p / 2
    if s.prpOn q then
      match rctOf f.bytes with
      | none => s.unprotect p f.bytes arr
      | some n =>
        let r := dupCheck (s.net.dups.getD q []) (beNat ((f.bytes.drop 6).take 6)) n
        let s := s.netSet { s.net with dups := s.net.dups.set q r.2 }
        if r.1 then s.count (wStr + 0x0110 + 4 * q) else s.unprotect p (f.bytes.take (f.bytes.length - 6)) arr
    else s.unprotect p f.bytes arr

/-- A source without a frame for 500 ms is forgotten (R295). -/
def State.dupForget (s : State) (q src : Nat) : State :=
  s.netSet { s.net with dups := s.net.dups.set q ((s.net.dups.getD q []).filter fun e => e.src ≠ src) }

/-! ### Registers -/

/-- STR_PORTSTATp's RO bits (R312). -/
def State.portStat (s : State) (p : Nat) : Word :=
  let x := s.nport p
  fld 2 2 x.speed ||| fld 1 1 (b2n x.anDone) ||| fld 0 1 (b2n x.link)

/-- A SerDes word's RW bits (R466). -/
def serdesMask (o : Nat) : Word := if o = 0 then 0x00017FFF#32 else if o = 4 then 0x7F#32 else 0

/-- Bits of a word of a secure channel's 48 bytes that are not reserved (R297). -/
def scMask (o : Nat) : Word := if o = 8 then 0x0000FF1F#32 else if 0x10 ≤ o ∧ o % 8 = 4 then 0x000001FF#32 else 0xFFFFFFFF#32

/-- SDSTAT (R466): with a link the clock is recovered from a signal, and the boost in use is CTLE, or what the equaliser found. -/
def State.sdStat (s : State) (p : Nat) : Word :=
  let x := s.nport p
  let w := x.serdes.word 4
  if x.link then fld 9 1 1 ||| fld 8 1 1 ||| fld 0 5 (if w.getLsbD 5 then (Config.eqBoost p).toNat else wbits w 0 5) else 0

/-- Word at an address of the Stream section's indirect space (R464, R466, R297). -/
def State.strIx (s : State) (a : Nat) : Word :=
  if a < 0x400 then (if a % 0x100 = 8 then s.sdStat (a / 0x100) else (s.nport (a / 0x100)).serdes.word (a % 0x100))
  else if 0x10000 ≤ a ∧ a < 0x12000 then
    let o := (a - 0x10000) % 0x800
    if o < 1536 then (s.nport ((a - 0x10000) / 0x800)).sc.word o else 0
  else 0

/-- A write there; false: a SerDes word while its port's EN is 1 (R459). -/
def State.strIxSet (s : State) (a : Nat) (w : Word) : State :=
  if a < 0x400 then
    let p := a / 0x100
    let x := s.nport p
    let m := serdesMask (a % 0x100)
    if m = 0 ∨ s.portEn p then s else s.nportSet p { x with serdes := x.serdes.maskSet (a % 0x100) m w }
  else if 0x10000 ≤ a ∧ a < 0x12000 then
    let p := (a - 0x10000) / 0x800
    let o := (a - 0x10000) % 0x800
    let x := s.nport p
    if o < 1536 then s.nportSet p { x with
      sc := x.sc.setN o (wordBytes (w &&& scMask (o % 48)))
      pnEnd := x.pnEnd.filter fun k => o ≠ 48 * (k / 4) + 0x10 + 8 * (k % 4) } else s
  else s

end Sys2Proof.Machine
end

