-- ==== Sys2Proof/Machine/Players.lean ====
section
/-! DEFINITION. Clip players and tone generators (R135 to R141, R146). Player numbers: 0 to 63 clip players, 64 to 79 tone
generators. -/

namespace Sys2Proof.Machine

/-- Player number of a source code 0x40nn or 0x500n. -/
def playerOf (c : Nat) : Option Nat :=
  if codeClass c = 4 ∧ codeIdx c < 64 then some (codeIdx c)
  else if codeClass c = 5 ∧ codeIdx c < 16 then some (64 + codeIdx c) else none


def State.player (s : State) (p : Nat) : Player := s.mix.players.getD p Player.idle

def State.playerSet (s : State) (p : Nat) (x : Player) : State :=
  { s with mix := { s.mix with players := s.mix.players.set p x } }

/-- First index of a clip in its domain (R137). -/
def Clip.u0 (c : Clip) : Nat := domCeil c.dom c.t

/-! ### Tone programs (R140, R141) -/

def toneF (prog : List Byte) (o n : Nat) : Nat := leNat ((prog.drop o).take n)
def toneMode (prog : List Byte) : Nat := toneF prog 0 1
def toneRepeat (prog : List Byte) : Bool := bit (toneF prog 1 1) 1

/-- Samples of a duration at 48 kHz. -/
def toneD (prog : List Byte) (o : Nat) : Nat := usSamples (toneF prog o 4) 48000

/-- NLEVEL of chime note i; off. -/
def toneNote (prog : List Byte) (i : Nat) : Int := sgn 16 (toneF prog (0x14 + 2 * i) 2)

/-- Pattern length in samples; none: without end (R141). DESIGN CHOICE (notes/assumptions/72.md): that of finite noise is D. -/
def toneLen (prog : List Byte) : Option Nat :=
  let d := toneD prog 0x24
  if toneMode prog = 1 then
    some (match [3, 2, 1, 0].find? fun i => toneNote prog i ≠ -32768 with
      | some i => i * toneD prog 0x1C + d
      | none => 0)
  else if toneMode prog ≠ 2 ∧ toneF prog 0x24 4 = 0 then none else some d

/-- The checks of R140 on a tone program of 64 bytes: every field in its range, but F1 to F3 where the mode does not use them, F
of a silent note, PERIOD without REPEAT, and SEED but for noise. DESIGN CHOICE (notes/assumptions/72.md): REPEAT of a pattern
without end is BADARG. -/
def toneOk (prog : List Byte) : Bool :=
  let mode := toneMode prog
  let fr (o : Nat) := 1000 ≤ toneF prog o 4 && toneF prog o 4 ≤ 2160000
  let tm (o lo hi : Nat) := lo ≤ toneF prog o 4 && toneF prog o 4 ≤ hi
  let gl (v : Int) := -14400 ≤ v && v ≤ 0
  let note (i : Nat) := toneNote prog i = -32768 || mode ≠ 1 || fr (4 + 4 * i)
  let lev (i : Nat) := toneNote prog i = -32768 || gl (toneNote prog i)
  let dur := if mode = 2 then tm 0x24 10000 60000000 else if mode = 1 then tm 0x24 10000 10000000
    else toneF prog 0x24 4 = 0 || tm 0x24 10000 600000000
  let rep := !toneRepeat prog || (tm 0x28 100000 600000000 &&
    match toneLen prog with
    | none => false
    | some l => l ≤ toneD prog 0x28)
  mode ≤ 3 && toneF prog 1 1 < 4 && gl (sgn 16 (toneF prog 2 2)) && dur && rep && ((prog.drop 0x30).take 16).all (· = 0) &&
    (mode = 1 || fr 4) && (mode ≠ 2 || fr 8) && [0, 1, 2, 3].all (fun i => note i && lev i) &&
    tm 0x1C 10000 2000000 && tm 0x20 10000 5000000 && (mode ≠ 3 || toneF prog 0x2C 4 ≠ 0)

/-- A generated frequency in units of 2^-16 of a frequency code, accurate to within 0.01 Hz (R141). -/
def toneFreq (code : Nat) : Nat := (near ((65536 * code : Nat) : Int) 65535 (Config.toneFreq code)).toNat

/-- sin of n / d cycles. -/
def sinCycle (n d : Nat) : Int := sinQ (twoPiQ * (n % d : Nat) / d)

/-- Cycles of a frequency of `toneFreq` at 48 kHz: one per this many units and samples. -/
abbrev toneUnit : Nat := 4800000 * 65536

/-- sin of the phase of a linear sweep at sample k of d: the sum of f(j) over j < k, f from f0 to f1. DEDUCED: phase 0 at sample
0 (notes/assumptions/72.md). -/
def sweepLin (f0 f1 d k : Nat) : Int :=
  sinCycle (((2 * d * k * f0 : Nat) : Int) + ((f1 : Int) - f0) * (k * (k - 1) : Nat)).toNat (2 * d * toneUnit)

/-- The same for an exponential sweep: the sum of f0 rho^j, with rho^d = f1 / f0. -/
def sweepLog (f0 f1 d k : Nat) : Int :=
  let l := lnQ f1 f0
  let c := f0 * divQ (expQ (l * k / d) - q96) (expQ (l / d) - q96) / toneUnit
  sinQ (mulQ twoPiQ (c % q96))

/-- One note of a chime at sample k after its start: Ai exp(-k / Dc) sin, with 96 fractional bits. -/
def chimeNote (prog : List Byte) (i k : Nat) : Int :=
  mulQ (mulQ (powQ (toneNote prog i * cB)) (expQ (-((1000000 * k * q96 / (48000 * toneF prog 0x20 4) : Nat) : Int))))
    (sinCycle (toneFreq (toneF prog (4 + 4 * i) 4) * k) toneUnit)

/-- Sum of a chime's notes at sample k. -/
def chimeSum (prog : List Byte) (k : Nat) : Int :=
  let st := toneD prog 0x1C
  [0, 1, 2, 3].foldl (fun a i =>
    if toneNote prog i ≠ -32768 ∧ i * st ≤ k ∧ k < i * st + toneD prog 0x24 then a + chimeNote prog i (k - i * st) else a) 0

/-- The fade of 5 ms that ends a finite sine or sweep of d samples (R141), with 96 fractional bits. -/
def toneFade (d k : Nat) : Int := if k + 240 < d then q96 else q96 - cosWeight (k + 240 - d) 240

/-- A pattern's sample k relative to A = 1, with 96 fractional bits. -/
def toneWave (prog : List Byte) (k : Nat) : Int :=
  let f (o : Nat) := toneFreq (toneF prog o 4)
  let d := toneD prog 0x24
  let fin (v : Int) := if toneF prog 0x24 4 = 0 then v else mulQ (toneFade d k) v
  if toneMode prog = 0 then fin (sinCycle (f 4 * k) toneUnit)
  else if toneMode prog = 1 then chimeSum prog k
  else fin (if bit (toneF prog 1 1) 0 ∧ f 4 ≠ f 8 then sweepLog (f 4) (f 8) d k else sweepLin (f 4) (f 8) d k)

/-- Pink noise of a seed at sample k relative to A = 1, with 96 fractional bits: 480 components of one level, 48 to the octave, from
20 Hz to 20.5 kHz, so that its RMS is 1 and it falls 3 dB per octave (R141). The frequency of a component in its 48th of an octave, and
its phase, are free (notes/assumptions/8.md). -/
def pinkAt (seed k : Nat) : Int :=
  (upTo 480).foldl (fun a i =>
    let f := expQ (ln2Q * ((1048576 * i + Config.pinkFreq seed i % 1048576 : Nat) : Int) / 50331648)
    a + sinQ (mulQ twoPiQ (((20 * k : Nat) * f / 48000 + (Config.pinkPhase seed i : Nat) * q96 / 65536) % q96))) 0 * 65536 / 1015279

/-- Pattern sample k in accumulator format (R141): A = 2^23 10^(LEVEL / 20), spurious components below -130 dBFS; noise with peaks
limited to 4 A. -/
def toneAt (prog : List Byte) (k : Nat) : Int :=
  let a := powQ (sgn 16 (toneF prog 2 2) * cB)
  if toneMode prog = 3 then
    let x := rdiv a 590295810358705651712
    clampI (-(4 * x)) (4 * x) (rdiv (x * pinkAt (toneF prog 0x2C 4) k) q96)
  else near (rdiv (mulQ a (toneWave prog k)) 590295810358705651712) 42 (Config.toneSpur prog k)

/-- Sample k of a tone program in accumulator format (R141): the pattern restarts every PERIOD with REPEAT. -/
def toneSample (prog : List Byte) (k : Nat) : Int :=
  let k' := if toneRepeat prog ∧ toneD prog 0x28 ≠ 0 then k % toneD prog 0x28 else k
  if (toneLen prog).any fun l => l ≤ k' then 0 else toneAt prog k'

/-! ### Delivery (R137 to R139) -/

/-- Index within the clip of delivered sample k; none: past the end. -/
def Clip.index (c : Clip) (k : Nat) : Option Nat :=
  if k < c.nsamp then some k
  else if c.loop ∧ c.loopStart < c.nsamp then some (c.loopStart + (k - c.nsamp) % (c.nsamp - c.loopStart)) else none

/-- Bytes of a stored sample (R135). -/
def Clip.wide (c : Clip) : Nat := if c.fmt = 0 then 3 else 4

/-- A fetched burst of a clip. -/
def Clip.burst (c : Clip) (bs : List Burst) (no : Nat) : Option Burst := bs.find? fun b => b.csn = c.csn && b.no = no

/-- One byte of a clip as its fetch met it (R136); none: in a failed burst (R139). What no fetch has brought yet is fetched now. -/
def Clip.byte (c : Clip) (bulk : Mem) (bs : List Burst) (i : Nat) : Option Byte :=
  match c.burst bs (i / 64) with
  | none => some (bulk.get (c.addr + i))
  | some b => b.data.map fun d => d.getD (i % 64) 0

/-- One stored sample: 24 bits signed, packed or in four bytes (R135); a failed burst reads zero (R139). -/
def Clip.stored (c : Clip) (bulk : Mem) (bs : List Burst) (i : Nat) : Int :=
  let b := (upTo 3).map fun k => c.byte bulk bs (i * c.wide + k)
  if b.any (·.isNone) then 0 else sgn 24 (leNat (b.map fun x => x.getD 0))

/-- The bursts that a clip's samples at n indices from u on lie in. -/
def Clip.needs (c : Clip) (u n : Nat) : List Nat :=
  ((upTo n).flatMap fun k =>
    if u + k < c.u0 ∨ c.prog ≠ [] then []
    else match c.index (u + k - c.u0) with
      | none => []
      | some i => [i * c.wide / 64, (i * c.wide + 2) / 64]).eraseDups

/-- A burst of a clip in bulk memory. -/
def Clip.fetch (c : Clip) (bulk : Mem) (no : Nat) : Burst := ⟨c.csn, no, some (bulk.getN (c.addr + 64 * no) 64)⟩

/-- The fetches of a clip for n indices from u on that have not been made yet (R137). -/
def Clip.fetches (c : Clip) (bulk : Mem) (u n : Nat) (bs : List Burst) : List Burst :=
  bs ++ ((c.needs u n).filter fun no => (c.burst bs no).isNone).map (c.fetch bulk)

/-- The fade-out in force at index u: the latest that has started. -/
def Clip.outAt (c : Clip) (u : Nat) : Option (Nat × Nat × Nat × Int × Int) := c.out.find? fun o => domCeil c.dom o.1 ≤ u

/-- The fade of a clip at index u of its domain, multiplier and level: fade-in, and from its target on a fade-out. -/
def Clip.fadeAt (c : Clip) (u : Nat) : Int × Int :=
  match c.outAt u with
  | none => if c.n = 0 then onL true else rampAt c.shape (onL false) (onL true) (u - c.u0) (c.n * domSpb c.dom)
  | some (t, n, sh, m0) => rampAt sh m0 (onL false) (u - domCeil c.dom t) (n * domSpb c.dom)

/-- A fade-out starts at A-index t from the multiplier reached there (R77, R138). -/
def Clip.fadeOut (c : Clip) (t n sh : Nat) : Clip := { c with out := (t, n, sh, c.fadeAt (domCeil c.dom t)) :: c.out }

/-- What a clip or tone delivers at index u, in accumulator format (R135, R137, R141). -/
def Clip.at (c : Clip) (bulk : Mem) (bad : List Burst) (u : Nat) : Int :=
  if u < c.u0 then 0
  else
    let m := [gainM c.gain, (c.fadeAt u).1]
    if c.prog ≠ [] then rdiv (toneSample c.prog (u - c.u0) * gainM c.gain * (c.fadeAt u).1) (2 ^ 54)
    else match c.index (u - c.u0) with
      | none => 0
      | some i => mulSL (c.stored bulk bad i) m

/-- A fade-out is over before index u. -/
def Clip.outOver (c : Clip) (u : Nat) : Bool :=
  match c.outAt u with
  | none => false
  | some (t, n, _) => domCeil c.dom t + n * domSpb c.dom ≤ u

/-- The clip or pattern is over before index u (R137, R141). -/
def Clip.overAt (c : Clip) (u : Nat) : Bool :=
  c.outOver u || (c.u0 ≤ u && (if c.prog ≠ [] then
      (!toneRepeat c.prog && match toneLen c.prog with
        | some l => c.u0 + l ≤ u
        | none => false)
    else !c.loop && c.u0 + c.nsamp ≤ u))

/-- Last index at or below u at which the clip is not faded out, and the last sample of the clip by then. -/
def Clip.lastAt (c : Clip) (u : Nat) : Nat :=
  let u := match c.outAt u with
    | none => u
    | some (t, n, _) => min u (domCeil c.dom t + n * domSpb c.dom - 1)
  let k := u - c.u0
  if c.prog ≠ [] then k % 2 ^ 28 else (c.index k).getD (c.nsamp - 1)

/-- The clip has gone back to LOOPSTART, or its pattern has restarted, by index u (R146). -/
def Clip.again (c : Clip) (u : Nat) : Bool :=
  if c.prog ≠ [] then toneRepeat c.prog && c.u0 + toneD c.prog 0x28 ≤ u else c.loop && c.u0 + c.nsamp ≤ u

/-- What a CLIP_PLAY plays. -/
def Op.clip (o : Op) (shape : Nat) : Clip :=
  let a (i : Nat) := o.args.getD i 0
  ⟨a 1, a 2, a 3, a 4 = 1, a 5, a 6, sgn 16 (a 7), o.data, o.t, o.n, shape, o.csn, []⟩

/-- One operation of a player takes effect (R138). -/
def Player.apply (p : Player) (o : Op) : Player :=
  if o.kind = .clipStop then
    { p with cur := p.cur.map fun c => c.fadeOut o.t o.n o.shape, old := p.old.map fun c => c.fadeOut o.t o.n o.shape }
  else
    let c := o.clip o.shape
    let live := (p.old ++ p.cur.toList).filter fun q => q.dom = c.dom
    let sh := if o.shape = 1 ∧ live.any (fun q => !q.overAt c.u0) then 0 else o.shape
    { p with cur := some { c with shape := sh }, old := live.map (fun q => q.fadeOut o.t o.n sh), looped := false, dom := c.dom }

/-- Another operation on the same player at the same target has a higher CSN (R138). -/
def State.outranked (s : State) (o : Op) : Bool :=
  s.mix.ops.any fun a => (a.kind = .clipPlay || a.kind = .clipStop) && a.args.headD 0 = o.args.headD 0 && a.t = o.t && o.csn < a.csn

/-- A clip's sample k of block b, zero where its data is missing (R139). -/
def Clip.captured (c : Clip) (bulk : Mem) (bad : List Burst) (gaps : List ClipGap) (b k : Nat) : Int :=
  if gaps.any fun g => g.csn = c.csn && g.pos.contains k then 0 else c.at bulk bad (b * domSpb c.dom + k)

/-- MIX_CLIPSTATn and MIX_TONESTATn after a capture whose last index is `last` (R146): `sched` says that a start is scheduled. -/
def Player.status (p : Player) (sched : Bool) (last : Nat) : Word :=
  let st := match p.cur with
    | some c => if (c.outAt last).isSome then 3 else if last < c.u0 then 1 else 2
    | none => if p.old ≠ [] then 3 else if sched then 1 else 0
  fld 30 2 st ||| fld 29 1 (b2n p.looped) ||| fld 0 28 p.pos

/-- The fetches of a player after the capture of block b: those of what plays or is scheduled stay until they have been played, and
the next two blocks' are made (R137). -/
def Player.ahead (p : Player) (bulk : Mem) (b : Nat) (sched : List Clip) : Player :=
  let cs := p.old ++ p.cur.toList ++ sched
  let next (c : Clip) := c.needs ((b + 1) * domSpb c.dom) (2 * domSpb c.dom)
  let kept := p.bursts.filter fun x => cs.any fun c =>
    c.csn = x.csn && (!(c.needs (b * domSpb c.dom) (domSpb c.dom)).contains x.no || (next c).contains x.no)
  { p with bursts := cs.foldl (fun bs c => c.fetches bulk ((b + 1) * domSpb c.dom) (2 * domSpb c.dom) bs) kept }

/-- Capture of block b by one player: its block of samples, position, its end, its status (R137, R139, R146), and its fetches. -/
def Player.capture (p : Player) (bulk : Mem) (b : Nat) (gaps : List ClipGap) (sched : List Clip) : Player :=
  let n := domSpb p.dom
  let val (k : Nat) : Int := rqAcc ((p.old ++ p.cur.toList).foldl (fun a c => satN 40 (a + c.captured bulk p.bursts gaps b k)) 0)
  let last := b * n + (n - 1)
  let p := { p with blk := (upTo n).map val, old := p.old.filter fun q => !q.overAt (last + 1) }
  let p := match p.cur with
    | none => p
    | some c =>
      { p with
          cur := if c.overAt (last + 1) then none else some c
          looped := p.looped || c.again last
          pos := if last < c.u0 then 0 else c.lastAt last }
  { p with stat := p.status (!sched.isEmpty) last }.ahead bulk b sched

/-- What the CLIP_PLAYs of a player that wait for their start will play (R146). -/
def State.scheduled (s : State) (p : Nat) : List Clip :=
  (s.mix.ops.filter fun o => o.kind = .clipPlay && playerOf (o.args.headD 0) = some p && !o.part1 && !o.lost).map fun o => o.clip o.shape

/-- An operation becomes pending; a CLIP_PLAY's fetches for its first block are issued at its acceptance (R137). -/
def State.addOp (s : State) (o : Op) : State :=
  let s : State := { s with mix := { s.mix with ops := s.mix.ops ++ [o] } }
  match playerOf (o.args.headD 0) with
  | none => s
  | some p =>
    if o.kind = .clipPlay then
      let c := o.clip o.shape
      s.playerSet p { s.player p with
        bursts := c.fetches s.mem.bulk c.u0 (domSpb c.dom - c.u0 % domSpb c.dom) (s.player p).bursts }
    else s

end Sys2Proof.Machine
end

