-- ==== Sys2Proof/Machine/Zones.lean ====
section
/-! DEFINITION. Zones: records, alignment, the noise servo (R147 to R160). Gains of the servo are kept in 10^-4 dB. -/

namespace Sys2Proof.Machine

namespace Zn

def en (m : Mem) : Bool := (m.get 0).getLsbD 0
def servo (m : Mem) : Bool := (m.get 0).getLsbD 1
def tilt (m : Mem) : Bool := (m.get 0).getLsbD 2
def holdEmerg (m : Mem) : Bool := (m.get 0).getLsbD 3
def nmic (m : Mem) : Nat := (m.get 1).toNat
def pathLat (m : Mem) : Nat := m.le 4 4
def extra (m : Mem) : Nat := m.le 8 4
def alignRamp (m : Mem) : Nat := m.le 0xC 2
def nom (m : Mem) : Int := m.sle 0xE 2
def annBus (m : Mem) (i : Nat) : Nat := m.le (0x10 + 2 * i) 2
def micSrc (m : Mem) (i : Nat) : Nat := m.le (0x18 + 2 * i) 2

/-- A field whose value 0 selects a default (R148). -/
def dflt (v d : Nat) : Nat := if v = 0 then d else v
def target (m : Mem) : Int := dflt (m.le 0x20 2) 1000
def boost (m : Mem) : Int := dflt (m.le 0x22 2) 1800
def rate (m : Mem) : Int := dflt (m.le 0x24 2) 300
def tiltMax (m : Mem) : Int := dflt (m.le 0x26 2) 600
def tiltFreq (m : Mem) : Nat := dflt (m.le 0x28 4) 140000
def navg (m : Mem) : Nat := dflt (m.le 0x2C 4) 2000000
def freezeMax (m : Mem) : Nat := dflt (m.le 0x30 4) 60000000

end Zn

/-- Numeric fields of a zone record with their ranges (R148); the last ones take 0 as their default. -/
def znFlds : List (Nat × Nat × Bool × Int × Int × Bool) :=
  [(1, 1, false, 0, 4, false), (4, 4, false, 0, 131071, false), (8, 4, false, 0, 131071, false), (0xE, 2, true, -6000, 0, false),
   (0x20, 2, true, 100, 3000, true), (0x22, 2, true, 100, 2400, true), (0x24, 2, false, 10, 1000, true),
   (0x26, 2, true, 100, 1200, true), (0x28, 4, false, 50000, 800000, true), (0x2C, 4, false, 250000, 10000000, true),
   (0x30, 4, false, 1000000, 600000000, true)]

/-- A zone record compiled: out-of-range fields at the nearest limit, ANNBUS above 511 none (R149): image, events. -/
def znCompile (m : Mem) : Mem × Nat :=
  let num := znFlds.foldl (fun (r : Mem × Nat) f =>
    let v : Int := if f.2.2.1 then r.1.sle f.1 f.2.1 else (r.1.le f.1 f.2.1 : Int)
    if (f.2.2.2.1 ≤ v ∧ v ≤ f.2.2.2.2.1) ∨ (f.2.2.2.2.2 ∧ v = 0) then r
    else (r.1.putLe f.1 f.2.1 (unsgn (8 * f.2.1) (clampI f.2.2.2.1 f.2.2.2.2.1 v)), r.2 + 1)) (m, 0)
  [0, 1, 2, 3].foldl (fun (r : Mem × Nat) i =>
    let b := Zn.annBus r.1 i
    if 511 < b ∧ b ≠ 0xFFFF then (r.1.putLe (0x10 + 2 * i) 2 0xFFFF, r.2 + 1) else r) num

/-- Zone of an index that has no record in force. -/
def Zone.blank (z : Nat) : Zone :=
  { idx := z, img := Mem.zero, st := .off, gapp := 0, tapp := 0, gOld := 0, tOld := 0, gtgt := 0, ttgt := 0, align := 0, serr := 0,
    noise := List.replicate 7 (-14400), coup := List.replicate 7 0, erle := List.replicate 7 0, updNsc := 0, missed := 0,
    usable := [true, true, true, true], fails := [false, false, false, false], quiet := [0, 0, 0, 0], noMic := 0, lane := none, ref := []
    mics := [], refSq := 0, refN := 0, conv := 0, frozen := 0, pw := [], done := false }

def znPut (z : Zone) : List Zone → List Zone
  | [] => [z]
  | a :: r => if a.idx < z.idx then a :: znPut z r else if a.idx = z.idx then z :: r else z :: a :: r

def State.zoneSet (s : State) (z : Zone) : State := { s with mix := { s.mix with zones := znPut z s.mix.zones } }

/-- The record names a bus in ANNBUS. -/
def Zone.names (z : Zone) (b : Nat) : Bool := [0, 1, 2, 3].any fun i => Zn.annBus z.img i = b

/-- The servo of a zone is on. -/
def Zone.on (z : Zone) : Bool := Zn.en z.img && Zn.servo z.img

/-- Zone that controls a bus: the lowest-numbered enabled one with SERVO 1 that names it (R153); with none, one whose servo is
off and whose gains still move to 0 dB (R159). -/
def State.busZone (s : State) (b : Nat) : Option Zone :=
  if s.znOn then
    (s.mix.zones.find? fun z => z.on && z.names b) <|>
      s.mix.zones.find? fun z => z.names b && (z.gapp ≠ 0 || z.tapp ≠ 0 || z.gOld ≠ 0 || z.tOld ≠ 0)
  else none

/-- Alignment figure, and whether it was limited at 0 (R151). -/
def State.alignFig (s : State) (m : Mem) : Nat × Bool :=
  let v : Int := (s.rwBits (wMix + 0x0190) 0 17 : Int) - Zn.pathLat m + Zn.extra m
  if v < 0 then (0, true) else (v.toNat, false)

/-- Bytes 0x40 to 0x7F of a zone record as the engine writes them (R148). -/
def Zone.status (z : Zone) : List Byte :=
  let g (v : Int) := natLe 2 (unsgn 16 (rdiv v 100))
  let st : Nat := match z.st with
    | .off => 0
    | .converging => 1
    | .tracking => 2
    | .frozen => 3
    | .relaxing => 4
    | .noAnalyser => 5
  natLe 4 z.align ++ g z.gapp ++ g z.tapp ++ g z.gtgt ++ g z.ttgt ++ [BitVec.ofNat 8 st, z.serr, 0, 0] ++
  ((fit 7 (-14400) z.noise).flatMap fun v => natLe 2 (unsgn 16 v)) ++ [0, 0] ++
  ((fit 7 0 z.erle).map fun v => BitVec.ofNat 8 v) ++ [0] ++ natLe 8 z.updNsc ++ natLe 16 0

/-- At an install the engine writes ALIGN and SERR of a zone (R150). -/
def State.putZone (s : State) (z : Zone) : State :=
  ((s.zoneSet z).engWrite (s.znAddr z.idx + 0x40) (natLe 4 z.align)).engWrite (s.znAddr z.idx + 0x4D) [z.serr]

/-- At a servo update the engine writes the servo fields (R150). DESIGN CHOICE (notes/assumptions/72.md): SERR, whose bits 1 and 5 an
update can change, is written with them. -/
def State.putServo (s : State) (z : Zone) : State := (s.zoneSet z).engWrite (s.znAddr z.idx + 0x44) (z.status.drop 4)

/-- An output of a zone takes a new alignment figure: crossfade over ALIGNRAMP from 24 A-samples before the boundary
(R132, R152). -/
def State.realign (s : State) (n blk ramp : Nat) : State :=
  let e := s.ent n
  let add := s.alignOf e.act
  if add = e.add then s
  else
    let t0 := 12 * blk - 24
    let d := e.dom
    let old := mixAt e.ramps .dly d (domCeil d t0) (min (Img.dly 3 e.act + e.add) (Img.dlyCap 3 e.act))
    let e := { e with add := add, ramps := setRamp e.ramps ⟨.dly, t0, ramp, 0, 0, (0, 0), (0, 0), old.old, none⟩ }
    let s := s.entSet e
    if e.dlyClamped then ((s.setErr n 2#8).count cBadField).badAddr false n else s

/-- The outputs whose copies name a zone. -/
def State.zoneOutputs (s : State) (z : Nat) : List Ent := s.mix.ents.filter fun e => kindOf e.idx = 3 && Img.zone e.act = z

/-- The lane whose analyser instance serves a zone (R154, R198): LIBID 2, RUNNING or HALTED, with the zone on its list. -/
def State.serverOf (s : State) (z : Nat) : Option Nat :=
  ((List.finRange 64).find? fun l =>
    let x := s.lanes[l]
    x.libid = 2 && (x.st = LState.running || x.st = LState.halted) && x.zones.contains z).map (·.val)

/-- A microphone source of another class, out of range, or of a TDM port or stream outside the A domain (R149). -/
def State.micSrcBad (s : State) (c : Nat) : Bool :=
  if !srcOk c then true
  else if codeClass c = 1 then s.tdmDom (codeIdx c / 32) ≠ 0
  else if codeClass c = 2 then (s.net.listeners.find? fun l => l.run && Rec.has l.recd (codeIdx c)).any fun l => Rec.rate l.recd ≠ 0
  else true

/-- A microphone in use is unusable by its source. -/
def State.micBad (s : State) (m : Mem) : Bool := (upTo (min 4 (Zn.nmic m))).any fun i => s.micSrcBad (Zn.micSrc m i)

/-- A microphone's source delivers zeros by R19: its TDM slot or channel is not configured or not receiving, its port LOST, its
stream without valid data. -/
def State.micDead (s : State) (c : Nat) : Bool :=
  if codeClass c = 1 then
    (List.finRange 16).all fun n => n.val ≠ codeIdx c / 32 || (s.port n).st ≠ 3 ||
      (s.port n).rxBlk.all fun b => !(mapEn b && mapSlot b = codeIdx c % 32)
  else (s.net.listeners.find? fun l => l.run && Rec.has l.recd (codeIdx c)).all fun l => l.st ≠ 2

/-- A lower-numbered zone holds an announcement bus of a zone (R153). -/
def State.zoneLoses (s : State) (z : Zone) : Bool :=
  z.on && [0, 1, 2, 3].any fun i => Zn.annBus z.img i ≠ 0xFFFF && s.mix.zones.any fun y =>
    y.idx < z.idx && y.on && y.names (Zn.annBus z.img i)

/-- SERR bit 3 of the other zones after an installation. -/
def State.zoneShares (s : State) (z : Nat) : State :=
  s.mix.zones.foldl (fun s y =>
    if y.idx = z ∨ y.serr.getLsbD 3 = s.zoneLoses y then s else s.putZone { y with serr := y.serr ^^^ 8#8 }) s

/-- Installation of a zone record at the boundary of block blk (R149 to R153, R156). -/
def State.installZone (s : State) (z : Nat) (m : Mem) (blk : Nat) : State :=
  let old := { (s.zone z).getD (Zone.blank z) with lane := s.serverOf z }
  let c := znCompile m
  let al := s.alignFig c.1
  let confl := if Zn.en c.1 && Zn.servo c.1 then
      ((([0, 1, 2, 3].map (Zn.annBus c.1)).eraseDups).filter fun b => b ≠ 0xFFFF && s.mix.zones.any fun y =>
        y.idx ≠ z && y.on && y.names b).length
    else 0
  let on := Zn.en c.1 && Zn.servo c.1
  let was := old.on
  let mics := Zn.nmic c.1 ≠ Zn.nmic old.img || c.1.getN 0x18 8 ≠ old.img.getN 0x18 8
  let st := if !on then .off else if old.lane.isNone then .noAnalyser else if !was || mics || decide (old.st = .noAnalyser) then .converging
    else old.st
  let serr : BitVec 8 := BitVec.ofNat 8 (b2n (c.2 ≠ 0) + 2 * b2n (s.micBad c.1) + 4 * b2n al.2 +
    8 * b2n (s.zoneLoses { old with img := c.1 }) + 32 * b2n (on && old.lane.isNone))
  let zn := { old with img := c.1, st := st, align := if Zn.en c.1 then al.1 else 0, serr := serr
                       conv := if st = .converging then (if old.st = .converging && was && !mics then old.conv else 0) else old.conv }
  let s := ((s.zoneSet zn).countN cZnBad c.2).countN cZnConfl confl
  let s := (s.zoneOutputs z).foldl (fun s e => s.realign e.idx blk (Zn.alignRamp c.1)) s
  let clamp := (s.zoneOutputs z).any Ent.dlyClamped
  (s.putZone { zn with serr := if clamp then zn.serr ||| 0x10#8 else zn.serr }).zoneShares z

/-! ### Servo updates (R157 to R160) -/

/-- Move towards a target by at most a step. -/
def stepTo (step v tgt : Int) : Int := if v < tgt then min tgt (v + step) else max tgt (v - step)

/-- Targets of an update in 10^-4 dB (R157), with the gain in force and whether an emergency holds it (R160). -/
def Zone.targets (z : Zone) (emerg : Bool) : Int × Int :=
  let m := z.img
  let d (b : Nat) : Int := Zn.target m - (Zn.nom m + z.coup.getD b 0 - z.noise.getD b 0)
  let low := 50 * (d 2 + d 3)
  let high := 50 * (d 4 + d 5)
  let boost := 100 * Zn.boost m
  let tilt := 100 * Zn.tiltMax m
  let g := min (max low 0) boost
  let t := if Zn.tilt m then min (min (max (high - g) (-tilt)) tilt) (boost - g) else 0
  (if Zn.holdEmerg m && emerg then max g z.gapp else g, t)

/-- Microphones in use. -/
def Zone.nMics (z : Zone) : Nat := min 4 (Zn.nmic z.img)

/-- Residual powers averaged with NAVG over one more update, in units of 2^-96 of full scale (R155): the microphones that fail keep
theirs, and the first measurement is taken as it is. -/
def Zone.average (z : Zone) (m : ZoneMeas) : List (List Int) :=
  (upTo 4).map fun i =>
    let old := z.pw.getD i []
    if z.nMics ≤ i || z.fails.getD i false then old
    else (fit 7 (-14400) (m.noise.getD i [])).zipIdx.map fun p =>
      let x := powQ (2 * p.1 * cB)
      if old.isEmpty then x else smooth (Zn.navg z.img) 100 (old.getD p.2 0) x

/-- The level code of a mean power over some microphones in one band (R155). -/
def bandLevel (ps : List Int) : Int :=
  let t := (ps.foldl (· + ·) 0).toNat
  if t = 0 then -14400 else max (-14400) (rdiv (dbPower t (ps.length * q96)) 1000000000000)

/-- The zone's noise level per band (R155): the mean over the usable microphones, held where the reference is above -60 dBFS with
ERLE below 10 dB; with no usable microphone it holds too, and the first measurement is taken as it is (DESIGN CHOICE,
notes/assumptions/72.md: R155 says neither). -/
def Zone.noiseNow (z : Zone) (m : ZoneMeas) (pw : List (List Int)) : List Int :=
  let us := (upTo z.nMics).filter fun i => !z.fails.getD i false && !(pw.getD i []).isEmpty
  (upTo 7).map fun b =>
    if us.isEmpty || (decide (-6000 < m.refLev.getD b (-14400)) && decide (m.erle.getD b 0 < 20)) then z.noise.getD b (-14400)
    else bandLevel (us.map fun i => (pw.getD i []).getD b 0)

/-- The zone reference has stayed above -60 dBFS (R156): its mean square since the last update, which is a DESIGN CHOICE
(notes/assumptions/72.md) as R156 names no meter. -/
def Zone.refUp (z : Zone) : Bool := z.refN * 70368744177664 < z.refSq * 1000000

/-- ERLE is 10 dB or more in the four speech bands (R156). -/
def Zone.settled (z : Zone) : Bool := [2, 3, 4, 5].all fun b => 20 ≤ z.erle.getD b 0

/-- Both gains of a zone move by at most RATE x 0.01 s towards given ones (R158). -/
def Zone.move (z : Zone) (g t : Int) (nsc : Nat) : Zone :=
  { z with gapp := stepTo (Zn.rate z.img) z.gapp g, tapp := stepTo (Zn.rate z.img) z.tapp t, updNsc := nsc }

/-- An update without a measurement is skipped, but for RELAXING (R158, R159). The count of converged updates begins anew
(DESIGN CHOICE, notes/assumptions/72.md: R156 does not say what a missed update does to the 2 s). -/
def Zone.skip (z : Zone) (nsc : Nat) : Zone :=
  let z := { z with missed := z.missed + 1, conv := 0 }
  if z.st = .relaxing then z.move 0 0 nsc else z

/-- What a measurement says of the zone (R155, R156, R159): `up`, that the reference was up; `bad`, that a microphone's source makes
it unusable. -/
def Zone.take (z : Zone) (m : ZoneMeas) (up bad : Bool) : Zone :=
  let pw := z.average m
  let us := z.fails.map (! ·)
  let z := { z with missed := 0, noise := z.noiseNow m pw, pw := pw, coup := m.coup, erle := m.erle, usable := us }
  let back := (us.take z.nMics).any id && (z.st = .frozen || z.st = .relaxing)
  { z with
    conv := if z.settled && up then z.conv + 1 else 0, st := if back then ZState.tracking else z.st
    serr := (z.serr &&& 0xFD#8) ||| (if (us.take z.nMics).any (! ·) || bad then 2#8 else 0) }

/-- The servo moves as its state says (R159). -/
def Zone.servoMove (z : Zone) (emerg : Bool) (nsc : Nat) : Zone :=
  let t := z.targets emerg
  let z := { z with gtgt := t.1, ttgt := t.2, updNsc := nsc }
  if z.st = .tracking then z.move t.1 t.2 nsc else if z.st = .relaxing then z.move 0 0 nsc else z

/-- One update of a zone at an NSC (R155 to R159). -/
def Zone.update (z : Zone) (ms : Option ZoneMeas) (emerg bad : Bool) (nsc : Nat) : Zone :=
  let up := z.refUp
  let z := { z with gOld := z.gapp, tOld := z.tapp, done := true, refSq := 0, refN := 0 }
  if z.st = .off || z.st = .noAnalyser then z.move 0 0 nsc
  else match ms.filter (!·.missed) with
    | none => z.skip nsc
    | some m => (z.take m up bad).servoMove emerg nsc

/-- A level-15 announcement bus of a zone is active for precedence (R160). -/
def State.zoneEmerg (s : State) (z : Zone) : Bool :=
  s.mix.busAct.any fun b => b.2.1 = 15 && z.names b.1

/-- The servo gains of a bus at sample k of a block in 10^-14 dB: linear in dB over the 40 blocks after an update (R158). -/
def State.servoAt (s : State) (b nsc spb k : Nat) : Int × Int :=
  match s.busZone b with
  | none => (0, 0)
  | some z =>
    let num := (nsc - z.updNsc) / 12 * spb + k + 1
    let den := 40 * spb
    let f (old new : Int) : Int := if den ≤ num then 10000000000 * new else 10000000000 * old + rdiv (10000000000 * (new - old) * (num : Int)) den
    (f z.gOld z.gapp, f z.tOld z.tapp)

end Sys2Proof.Machine
end

