-- ==== Sys2Proof/Machine/Matrix.lean ====
section
/-! DEFINITION. The matrix engine (R120 to R127): crosspoint changes and terms, contributors, scaling, precedence and
ducking, for one capture block. -/

namespace Sys2Proof.Machine

/-! ### Crosspoints at a sample (R75, R121, R122) -/

/-- The terms of a record at index u: source, pick-off and multipliers (gain, level, weight of a move), for a bus. -/
def Xp.terms (x : Xp) (b d u : Nat) : List (Nat × Bool × List Int) :=
  let g := [multAt x.ramps .gain d u (gainM (XpR.gainC x.img)), multAt x.ramps .en d u x.level]
  let m := mixAt x.ramps .move d u (termCode x.img)
  (m.1.filter fun p => termDst p.1 = b).map fun p =>
    (termSrc p.1, termPre p.1, if p.2 = m.2 then g else g ++ [rdiv ((p.2 : Int) * one27) m.2])

/-- The destinations a record has during a block: now, after each of its changes, and those that ramp out. -/
def Xp.dsts (x : Xp) : List Nat :=
  (x.chg.foldl (fun (r : List Nat × Mem) c =>
      let m := applyRecs r.2 (c.recs.filter fun r => r.off < 16)
      (XpR.dst m :: r.1, m)) ([XpR.dst x.img, XpR.dst x.target], if x.wait.isSome then x.target else x.img)).1 ++
    x.ramps.flatMap fun r => r.old.map fun p => termDst p.1

/-- The records that can have a term in a bus during a block. -/
def State.feeders (s : State) (b : Nat) : List Xp := s.mix.xps.filter fun x => x.dsts.contains b

/-- A pick-off block of an entry's last processed block, in a domain (R21, R112, R121). -/
def Ent.pick (e : Ent) (pre : Bool) (d : Nat) : List Int :=
  let blk := if pre then e.run.pre else e.run.post
  if blk.isEmpty then [] else bridgeBlk 32 e.dom d ((if pre then e.run.hPre else e.run.hPost).drop blk.length) blk

/-- One term added to an accumulator, and whether it has saturated (R93, R120). -/
def addTerm (acc : Int × Bool) (v : Int) : Int × Bool := (satN 40 (acc.1 + satN 40 v), acc.2 || outN 40 v || outN 40 (acc.1 + satN 40 v))

/-- Sum of the terms of a bus at sample k of capture block b, in ascending index, saturated at each addition, and whether it
saturated (R93, R120). -/
def State.busSum (s : State) (bus d blk k : Nat) : Int × Bool :=
  let u := blk * domSpb d + k
  (s.feeders bus).foldl (fun acc x =>
    ((x.upTo d u).terms bus d u).foldl (fun acc t => addTerm acc (mulSL (nth ((s.ent t.1).pick t.2.1 d) k) t.2.2)) acc) (0, false)

/-! ### Contributors (R123) -/

/-- Sources and pick-offs of the terms of a record that a bus has in a block: the record's own and those that ramp out. -/
def Xp.codes (x : Xp) (bus d u : Nat) : List Nat :=
  let old := match rampOf x.ramps .move with
    | some r => if r.isOver d u then [] else r.old.map (·.1)
    | none => []
  (termCode x.img :: old).filter fun c => termDst c = bus

/-- A record's terms are live in a block of a bus: the bus delivers a block, the record is active or ramping. A field acts from
the first decision after its target (R73), so `x` has the changes made up to the block's first sample. -/
def State.termLive (s : State) (x : Xp) (bus d blk : Nat) : Bool :=
  let u := blk * domSpb d
  (s.ent (1536 + bus)).runs u &&
    (x.level ≠ 0 || (rampOf x.ramps .en).any (fun r => !r.isOver d u) || (rampOf x.ramps .move).any (fun r => !r.isOver d u))

/-- GAIN is not off, or is ramping. -/
def Xp.audible (x : Xp) (d u : Nat) : Bool :=
  XpR.gainC x.img ≠ -32768 || (rampOf x.ramps .gain).any fun r => !r.isOver d u

/-- Blocks since the pick-off of a term last reached a threshold: 0 in its source's last block, 40 in none of 40 blocks. -/
def State.termSince (s : State) (c : Nat) (thr : Int) : Nat :=
  let e := s.ent (termSrc c)
  ((if termPre c then e.run.pkPre else e.run.pkPost).findIdx? fun p => decide (thr ≤ lev (p : Nat))).getD 40

/-- ACTTHRESH of a bus. -/
def State.actThr (s : State) (bus : Nat) : Int := Img.actThresh (s.ent (1536 + bus)).act * cB

/-- Blocks since a record's pick-off reached ACTTHRESH of its bus, after this block. -/
def State.sinceNext (s : State) (x : Xp) : Nat := s.termSince (termCode x.img) (s.actThr (XpR.dst x.img))

/-- A term's source counts: it delivers a block, is no gated strip, and was loud enough in 40 blocks. -/
def State.termLoud (s : State) (bus c : Nat) : Bool :=
  let e := s.ent (termSrc c)
  !e.run.post.isEmpty && (1536 ≤ e.idx || !e.run.met.gated) && s.termSince c (s.actThr bus) < 40

/-- A record is an active contributor of a bus in a block. -/
def State.contributes (s : State) (x : Xp) (bus d blk : Nat) : Bool :=
  let u := blk * domSpb d
  s.termLive x bus d blk && x.audible d u && (x.codes bus d u).any fun c => s.termLoud bus c

/-- Nr of a bus (R123). -/
def State.contributors (s : State) (bus blk : Nat) : Nat :=
  let d := s.busDom bus
  ((s.feeders bus).filter fun x => s.contributes x bus d blk).length

/-! ### Scaling (R124) -/

/-- A bus at the start of capture block b: its smoothed count one block on. -/
def State.nsStep (s : State) (b : Nat) (e : Ent) : Ent :=
  if kindOf e.idx = 2 ∧ e.runs (b * domSpb e.dom) then
    { e with run := { e.run with nsPrev := e.run.ns, ns := nsSmooth e.run.ns (s.contributors (e.idx - 1536) b) } }
  else e

/-! ### Precedence and ducking (R125 to R127) -/

/-- A ramping FADER or MUTE counts with its value before the change. -/
def Ent.faderOff (e : Ent) (u : Nat) : Bool :=
  match rampOf e.ramps .fader with
  | some r => if r.isOver e.dom u then Img.fader 2 e.act = -32768 else (r.old.headD (0, 0)).1 = 1
  | none => Img.fader 2 e.act = -32768

def Ent.muted (e : Ent) (u : Nat) : Bool :=
  match rampOf e.ramps .mute with
  | some r => if r.isOver e.dom u then Img.mute 2 e.act else (r.old.headD (0, 0)).1 = 1
  | none => Img.mute 2 e.act

/-- Buses active for precedence in a block (R125). DESIGN CHOICE (notes/assumptions/72.md): a bus that fades out after ACTIVE was
cleared still counts, as its terms do (R123). -/
def State.activeBuses (s : State) (blk : Nat) : List Nat :=
  (s.mix.ents.filter fun e => kindOf e.idx = 2 && e.runs (blk * domSpb e.dom) && 1 ≤ s.contributors (e.idx - 1536) blk &&
    !e.muted (blk * domSpb e.dom) && !e.faderOff (blk * domSpb e.dom)).map fun e => e.idx - 1536

/-- DUCKDEPTH of a bus at an A-index; off counts as -144 dB (R126, R127). -/
def State.depthAt (s : State) (b t : Nat) : Int :=
  let e := s.ent (1536 + b)
  let u := domCeil e.dom t
  let e := s.entUpTo e u
  (lvlAt e.ramps .duckDepth e.dom u (gainL (Img.duckDepth e.act))).2

/-- Bus i, active for precedence, ducks bus j (R126). -/
def State.ducks (s : State) (i j : Nat) : Bool :=
  let a := (s.ent (1536 + i)).act
  let c := (s.ent (1536 + j)).act
  (Img.prec c < Img.prec a && Img.duckGrp a = Img.duckGrp c && Img.duckGrp a ≠ 0xFF) ||
    (Img.prec a = 15 && Img.prec c < 15 && Img.duckGrp a = 0xFF)

/-- The bus that sets the target of bus j at A-index t: the deepest, of those the lowest-numbered. -/
def State.duckSetter (s : State) (act : List Nat) (j t : Nat) : Option Nat :=
  (act.filter fun i => s.ducks i j).foldl (fun b i =>
    match b with
    | none => some i
    | some k => if s.depthAt i t < s.depthAt k t then some i else some k) none

/-- Target at sample k, attack and release for bus j (R127). -/
def State.duckAt (s : State) (setter : Option Nat) (rel : Option Nat) (j blk k : Nat) : Int × Nat × Nat :=
  let e := s.ent (1536 + j)
  let t := 12 * blk + k * domDiv e.dom
  let relOf (b : Nat) : Nat := let r := s.ent (1536 + b); Img.duckRel (s.entUpTo r (domCeil r.dom t)).act
  let own := Img.duckRel e.act
  match setter with
  | none => (0, own, match rel with
      | some b => relOf b
      | none => own)
  | some i =>
    let r := s.ent (1536 + i)
    (s.depthAt i t, Img.duckAtt (s.entUpTo r (domCeil r.dom t)).act, relOf (rel.getD i))

/-- An entry has been processed at every one of n indices from u on (R44): it has not become active anew in between. -/
def State.keptOn (s : State) (e : Ent) (u n : Nat) : Bool := (upTo n).all fun k => (s.entUpTo e (u + k)).runs (u + k)

/-- Release source of bus j for a block (R127): it changes only when the target rises above the previous block's; none has been
chosen for a bus that becomes active in the block (`kept` false). -/
def duckRelease (kept : Bool) (e : Ent) (tgt : Int) : Option Nat :=
  if !kept then none
  else if e.run.duckPrev < tgt then (if e.run.duckSet = 0 then e.run.duckRel else some (e.run.duckSet - 1)) else e.run.duckRel

/-- The buses active for precedence with the PREC and DUCKGRP of the decision (R144, R145). -/
def State.actPairs (s : State) (act : List Nat) : List (Nat × Nat × Nat) :=
  act.map fun j => (j, Img.prec (s.ent (1536 + j)).act, Img.duckGrp (s.ent (1536 + j)).act)

/-- MIX_GRPSTATn as of the last block (R145). -/
def State.grpStat (s : State) (g : Nat) : Word :=
  let act := s.mix.busAct.filter fun b => b.2.2 = g
  let top := act.foldl (fun m b => max m b.2.1) 0
  match act.find? fun b => b.2.1 = top with
  | none => 0
  | some b => fld 31 1 1 ||| fld 16 4 top ||| fld 0 9 b.1

end Sys2Proof.Machine
end

