-- ==== Sys2Proof/Machine/Rimund.lean ====
section
/-! DEFINITION. The Rimund instruction set (R177 to R193): one bundle issued on a lane, with the visibility of R188 as a list
of writes that later bundles do not see yet. Choices the spec leaves open: notes/assumptions/30.md to 34.md. -/

namespace Sys2Proof.Machine

/-! ### Registers (R181, R182, R188) -/

/-- Writable bits of sr. -/
abbrev srMask : Word := 0x000303FF#32

/-- A value at its place. -/
def LRegs.put (r : LRegs) (p : LReg) (v : Int) : LRegs :=
  let w := BitVec.ofInt 32 v
  match p with
  | .d n => { r with d := r.d.set (n % 16) w (Nat.mod_lt n (by decide)) }
  | .a n => { r with a := r.a.set (n % 8) w (Nat.mod_lt n (by decide)) }
  | .m n => { r with m := r.m.set (n % 8) w (Nat.mod_lt n (by decide)) }
  | .lc n => { r with lc := r.lc.set (n % 3) (w.toNat % 65536) (Nat.mod_lt n (by decide)) }
  | .ls n => { r with ls := r.ls.set (n % 3) (w.toNat % 4096) (Nat.mod_lt n (by decide)) }
  | .le n => { r with le := r.le.set (n % 3) (w.toNat % 4096) (Nat.mod_lt n (by decide)) }
  | .acc n => { r with acc := r.acc.set (n % 4) v (Nat.mod_lt n (by decide)) }
  | .bex => { r with bex := w.toNat % 32 }

def LRegs.dAt (r : LRegs) (n : Nat) : Word := r.d[n % 16]'(Nat.mod_lt n (by decide))
def LRegs.aAt (r : LRegs) (n : Nat) : Word := r.a[n % 8]'(Nat.mod_lt n (by decide))
def LRegs.mAt (r : LRegs) (n : Nat) : Word := r.m[n % 8]'(Nat.mod_lt n (by decide))
def LRegs.lcAt (r : LRegs) (n : Nat) : Nat := r.lc[n % 3]'(Nat.mod_lt n (by decide))
def LRegs.lsAt (r : LRegs) (n : Nat) : Nat := r.ls[n % 3]'(Nat.mod_lt n (by decide))
def LRegs.leAt (r : LRegs) (n : Nat) : Nat := r.le[n % 3]'(Nat.mod_lt n (by decide))
def LRegs.accAt (r : LRegs) (n : Nat) : Int := r.acc[n % 4]'(Nat.mod_lt n (by decide))
def LRegs.fwdAt (r : LRegs) (n : Nat) : Int := r.fwd[n % 4]'(Nat.mod_lt n (by decide))

/-- One bundle later: writes that become visible now take effect, oldest first. -/
def LRegs.age (r : LRegs) : LRegs :=
  let due := r.pend.filter fun w => w.left ≤ 1
  let rest := (r.pend.filter fun w => 1 < w.left).map fun w => { w with left := w.left - 1 }
  due.foldl (fun r w => r.put w.reg w.val) { r with pend := rest }

/-- All bundles in flight drained (R191). -/
def LRegs.drain (r : LRegs) : LRegs := r.pend.foldl (fun r w => r.put w.reg w.val) { r with pend := [] }

/-- A write first seen by bundle k + lat. -/
def LRegs.wr (r : LRegs) (lat : Nat) (p : LReg) (v : Int) : LRegs :=
  if lat ≤ 1 then r.put p v else { r with pend := r.pend ++ [⟨lat - 1, p, v⟩] }

/-- An accumulator's new value: at once for a following accumulation, at k + 3 for other readers. -/
def LRegs.wrAcc (r : LRegs) (n : Nat) (v : Int) : LRegs :=
  ({ r with fwd := r.fwd.set (n % 4) v (Nat.mod_lt n (by decide)) }).wr 3 (.acc n) v

def LRegs.srOr (r : LRegs) (m : Word) : LRegs := { r with sr := r.sr ||| m }
def LRegs.srBit (r : LRegs) (i : Nat) : Bool := r.sr.getLsbD i

/-- A register by its number in mov; none: reserved. -/
def LRegs.movGet (r : LRegs) (n : Nat) : Option Word :=
  if n < 16 then some (r.dAt n)
  else if n < 24 then some (r.aAt (n - 16))
  else if n < 32 then some (r.mAt (n - 24))
  else if n < 35 then some (BitVec.ofNat 32 (r.lcAt (n - 32)))
  else if n < 38 then some (BitVec.ofNat 32 (r.lsAt (n - 35)))
  else if n < 41 then some (BitVec.ofNat 32 (r.leAt (n - 38)))
  else if n = 41 then some r.sr
  else if n = 42 then some (BitVec.ofNat 32 r.lr)
  else if n = 43 then some (BitVec.ofNat 32 r.ipc)
  else if n = 44 then some r.isr
  else if n = 45 then some (BitVec.ofNat 32 r.bex)
  else if n = 46 then some (BitVec.ofNat 32 r.ecause)
  else if n = 47 then some r.blkn
  else none

/-- A mov into a register; the numbers from 45 on are read only or reserved. -/
def LRegs.movPut (r : LRegs) (n : Nat) (w : Word) : LRegs :=
  let v : Int := w.toInt
  if n < 16 then r.put (.d n) v
  else if n < 24 then r.wr 2 (.a (n - 16)) v
  else if n < 32 then r.wr 2 (.m (n - 24)) v
  else if n < 35 then r.wr 3 (.lc (n - 32)) v
  else if n < 38 then r.wr 3 (.ls (n - 35)) v
  else if n < 41 then r.wr 3 (.le (n - 38)) v
  else if n = 41 then { r with sr := w &&& srMask }
  else if n = 42 then { r with lr := w.toNat % 4096 }
  else if n = 43 then { r with ipc := w.toNat % 4096 }
  else { r with isr := w &&& srMask }

/-! ### Lane memory (R177) -/

/-- The addresses a to a + n - 1 lie in data memory. -/
def inData (a n : Nat) : Bool := a + n ≤ 0x20000

/-- They lie in the lane part of shared SRAM. -/
def inSram (a n : Nat) : Bool := 0x400000 ≤ a && a + n ≤ 0x700000

/-- A lane's two memories. -/
structure LMem where
  data : Mem
  sram : Mem

def LMem.get (m : LMem) (a n : Nat) : List Byte := if inData a n then m.data.getN a n else m.sram.getN (a - 0x400000) n
def LMem.word (m : LMem) (a : Nat) : Word := BitVec.ofNat 32 (leNat (m.get a 4))
def LMem.set (m : LMem) (a : Nat) (bs : List Byte) : LMem :=
  if inData a bs.length then { m with data := m.data.setN a bs } else { m with sram := m.sram.setN (a - 0x400000) bs }

/-! ### Arithmetic (R186, R187, R192, R193) -/

/-- Accumulator limits of 72 bits. -/
def acc72 (v : Int) : Int := satN 72 v

/-- Accumulator value shifted right, rounded to even, saturated to a word (R187). -/
def accWord (acc : Int) (sh : Nat) : Int := satN 32 (rdiv acc (2 ^ sh))
def accSat (acc : Int) (sh : Nat) : Bool := outN 32 (rdiv acc (2 ^ sh))

/-- Bits below bit n that equal s, counted down to the first that differs. -/
def redunFrom (v : Word) (s : Bool) : Nat → Nat
  | 0 => 0
  | n + 1 => if v.getLsbD n = s then redunFrom v s n + 1 else 0

/-- Redundant sign count (R193). -/
def redun (v : Word) : Nat := redunFrom v (v.getLsbD 31) 31

/-- Reversed-carry addition from bit n - 1 down to bit s, with the carry that enters (R192). -/
def revAdd (s : Nat) (a m : Word) : Nat → Bool → Word
  | 0, _ => a
  | n + 1, c =>
    if n < s then a
    else
      let x := b2n (a.getLsbD n) + b2n (m.getLsbD n) + b2n c
      let bit := BitVec.ofNat 32 (2 ^ n)
      revAdd s (if x % 2 = 1 then a ||| bit else a &&& ~~~bit) m n (2 ≤ x)

/-- Address after an access of 2^s bytes. -/
def amodeNext (mode s : Nat) (a m : Word) : Word :=
  if mode = 0 then a else if mode = 1 then a + m else if mode = 2 then a - m else revAdd s a m 32 false

/-! ### Exceptions of a bundle (R183, R184, R190) -/

abbrev exIllegal : Nat := 1
abbrev exAlign : Nat := 2
abbrev exRange : Nat := 3
abbrev exTrap : Nat := 4

def macOp (w : Nat) : Nat := bits w 26 6

/-- MAC slot. -/
def macExc (w : Nat) : Option Nat :=
  if 5 < macOp w then some exIllegal
  else if (macOp w = 4 ∨ macOp w = 5) ∧ bits w 24 2 % 2 = 1 then some exIllegal
  else none

/-- Bytes an LS operation accesses. -/
def lsSize (op : Nat) : Nat :=
  if op = 2 ∨ op = 4 ∨ op = 6 then 8 else if op = 9 ∨ op = 10 then 12 else 4

/-- log2 of the access size, as R192 counts it. -/
def lsLog (op : Nat) : Nat := if lsSize op = 8 then 3 else 2

/-- Access address. -/
def lsAddr (r : LRegs) (w : Nat) : Nat := (r.aAt (bits w 19 3) + BitVec.ofInt 32 (4 * sgn 8 w)).toNat

def lsExc (r : LRegs) (w : Nat) : Option Nat :=
  let op := bits w 26 6
  let a := lsAddr r w
  if op = 0 then none
  else if 10 < op ∨ (lsSize op = 8 ∧ bits w 22 4 % 2 = 1) then some exIllegal
  else if a % (if lsSize op = 8 then 8 else 4) ≠ 0 then some exAlign
  else if !(inData a (lsSize op) || inSram a (lsSize op)) then some exRange
  else none

/-- Operations that R190 keeps out of delay slots and loop ends. -/
def isJump (op : Nat) : Bool := [0x18, 0x19, 0x1A, 0x1B, 0x1C, 0x1D, 0x1E].contains op

/-- A level's loop is active around the bundle at pc. -/
def LRegs.loopOn (r : LRegs) (n : Nat) : Bool := r.srBit 1 && r.lcAt n ≠ 0 && r.lsAt n ≤ r.pc && r.pc ≤ r.leAt n

/-- Count of a loop or loopi. -/
def loopCount (r : LRegs) (w : Nat) : Nat := if bits w 26 6 = 0x1C then bits w 12 12 else (r.dAt (bits w 18 4)).toNat % 65536

/-- The exception a word raises before it executes (R187, R190). A dma whose address register is not 32-byte aligned raises ALIGN and
one outside data memory RANGE (DEDUCED, notes/assumptions/34.md: R194 names no exception for it). -/
def aluExc (r : LRegs) (w : Nat) : Option Nat :=
  let op := bits w 26 6
  let bad :=
    (op = 0 && w ≠ 0) || (0x10 < op && op < 0x18) || 0x25 < op ||
    (op = 0x0F && ((r.movGet (bits w 14 6)).isNone || 45 ≤ bits w 20 6)) ||
    ((op = 0x18 || op = 0x19 || op = 0x1A) && 8 < bits w 22 4) ||
    ((op = 0x1B || op = 0x1C) && (bits w 24 2 = 3 || bits w 0 12 < r.pc + 2 ||
      (upTo (bits w 24 2)).any fun n => r.loopOn n && r.leAt n ≤ bits w 0 12)) ||
    (isJump op && (r.br.isSome || [0, 1, 2].any fun n => r.loopOn n && r.leAt n < r.pc + 3))
  if bad then some exIllegal
  else if op = 0x20 then
    let a := (r.aAt (bits w 18 3)).toNat
    if a % 32 ≠ 0 then some exAlign else if !inData a 32 then some exRange else none
  else none

/-! ### Effects -/

/-- What a bundle works on: the lane, its shared SRAM, the semaphores, the lane's number in its Dray, free values used and
semg errors. -/
structure Core where
  lane : Lane
  sram : Mem
  sem : List (Option Nat)
  me : Nat
  free : Nat
  semErr : Nat

def Core.r (c : Core) (f : LRegs → LRegs) : Core := { c with lane := { c.lane with r := f c.lane.r } }
def Core.mem (c : Core) : LMem := ⟨c.lane.data, c.sram⟩
def Core.store (c : Core) (a : Nat) (bs : List Byte) : Core :=
  let m := c.mem.set a bs
  { c with lane := { c.lane with data := m.data }, sram := m.sram }

/-- MAC slot (R185, R186): `o` holds the registers before the bundle. -/
def Core.mac (c : Core) (o : LRegs) (w : Nat) : Core :=
  let op := macOp w
  if op = 0 then c
  else
    let n := bits w 24 2
    let d (i : Nat) : Int := (o.dAt (bits w i 4)).toInt
    let p1 := d 20 * d 16
    let p2 := if bit w 0 then -(d 12 * d 8) else d 12 * d 8
    let put (c : Core) (n : Nat) (base v : Int) : Core :=
      (c.r fun r => (r.wrAcc n (acc72 (base + v))).srOr (if outN 72 (base + v) then 0x10#32 else 0))
    if op = 1 then put c n (o.fwdAt n) (p1 + p2)
    else if op = 2 then put c n 0 (p1 + p2)
    else if op = 3 then put c n (o.fwdAt n) (-(p1 + p2))
    else if op = 4 then put (put c n (o.fwdAt n) p1) (n + 1) (o.fwdAt (n + 1)) p2
    else put (put c n 0 p1) (n + 1) 0 p2

/-- Marked store of words (R193). -/
def Core.mark (c : Core) (ws : List Word) : Core :=
  ws.foldl (fun c w => c.r fun r => ({ r with bexNew := min r.bexNew (redun w) }).wr 3 .bex (min r.bexNew (redun w))) c

/-- Load/store slot (R184, R185, R192): `o` and `m` are the registers and the memory before the bundle. -/
def Core.ls (c : Core) (o : LRegs) (m : LMem) (w : Nat) : Core :=
  let op := bits w 26 6
  if op = 0 then c
  else
    let a := lsAddr o w
    let rg := bits w 22 4
    let ar := bits w 19 3
    let ac := bits w 22 2
    let sh := bits w 8 6
    let wd (x : Word) : List Byte := wordBytes x
    let v := BitVec.ofInt 32 (accWord (o.accAt ac) sh)
    let c :=
      if op = 1 then c.r fun r => r.wr 2 (.d rg) (m.word a).toInt
      else if op = 2 then c.r fun r => (r.wr 2 (.d rg) (m.word a).toInt).wr 2 (.d (rg + 1)) (m.word (a + 4)).toInt
      else if op = 3 then c.store a (wd (o.dAt rg))
      else if op = 4 then c.store a (wd (o.dAt rg) ++ wd (o.dAt (rg + 1)))
      else if op = 5 then (c.store a (wd (o.dAt rg))).mark [o.dAt rg]
      else if op = 6 then (c.store a (wd (o.dAt rg) ++ wd (o.dAt (rg + 1)))).mark [o.dAt rg, o.dAt (rg + 1)]
      else if op = 9 then c.r fun r => r.wrAcc ac (sgn 72 (leNat (m.get a 12)))
      else if op = 10 then c.store a (natLe 12 (unsgn 96 (o.accAt ac)))
      else
        let c := (c.store a (wd v)).r fun r => r.srOr (if accSat (o.accAt ac) sh then 0x20#32 else 0)
        if op = 8 then c.mark [v] else c
    let mode := bits w 14 2
    if mode = 0 then c else c.r fun r => r.put (.a ar) (amodeNext mode (lsLog op) (o.aAt ar) (o.mAt (bits w 16 3))).toInt

/-- Flags Z and N, and C and V where given. -/
def LRegs.flags (r : LRegs) (v : Word) (cv : Option (Bool × Bool)) : LRegs :=
  let zn := fld 7 1 (b2n (v = 0)) ||| fld 8 1 (b2n v.msb)
  match cv with
  | none => { r with sr := (r.sr &&& ~~~0x180#32) ||| zn }
  | some (cf, vf) => { r with sr := (r.sr &&& ~~~0x3C0#32) ||| zn ||| fld 6 1 (b2n cf) ||| fld 9 1 (b2n vf) }

/-- Integer ALU result of two words with the flags C and V of add, sub and cmp; `free` stands for a result the spec does not
state: a shift by 32 or more, the absolute value of -2^31. C of a subtraction says that no borrow occurred. -/
def aluOp (op : Nat) (x y : Word) (free : Word) : Word × Option (Bool × Bool) :=
  match op with
  | 0x01 => (x + y, some (decide (2 ^ 32 ≤ x.toNat + y.toNat), outN 32 (x.toInt + y.toInt)))
  | 0x03 => (x &&& y, none)
  | 0x04 => (x ||| y, none)
  | 0x05 => (x ^^^ y, none)
  | 0x06 => (if y.toNat < 32 then x <<< y.toNat else free, none)
  | 0x07 => (if y.toNat < 32 then x >>> y.toNat else free, none)
  | 0x08 => (if y.toNat < 32 then x.sshiftRight y.toNat else free, none)
  | 0x09 => (if x.toInt ≤ y.toInt then x else y, none)
  | 0x0A => (if x.toInt ≤ y.toInt then y else x, none)
  | 0x0B => (if x = 0x80000000#32 then free else if x.msb then -x else x, none)
  | _ => (x - y, some (decide (y.toNat ≤ x.toNat), outN 32 (x.toInt - y.toInt)))

/-- Conditions of R185. -/
def LRegs.cond (r : LRegs) (k : Nat) : Bool :=
  let z := r.srBit 7
  let lt := r.srBit 8 != r.srBit 9
  match k with
  | 0 => true
  | 1 => z
  | 2 => !z
  | 3 => lt
  | 4 => !lt
  | 5 => z || lt
  | 6 => !(z || lt)
  | 7 => !r.srBit 6
  | _ => r.srBit 6

/-- The lane waits in bsync after it has handed over its output window (R173, R175, R176). -/
def laneBsync (l : Lane) : Lane :=
  let l := { l with r := l.r.srOr 4#32, synced := !l.late }
  if l.late then { l with out := none, late := false }
  else
    match l.ports with
    | none => { l with out := some [] }
    | some p => { l with out := some ((upTo p.outCnt).map fun k =>
        (upTo (domSpb p.dom)).map fun i => l.data.sle (0x1E000 + 48 * k + 4 * i) 4) }

/-- The DMA engine takes a descriptor, whose STATUS reads pending (R194). -/
def Core.dma (c : Core) (a : Nat) : Core :=
  { c with lane := { c.lane with dq := c.lane.dq ++ [a], data := c.lane.data.set (a + 0x15) 0 } }

/-- ALU and branch slot; the program counter already names the next bundle. -/
def Core.alu (c : Core) (o : LRegs) (w : Nat) : Core :=
  let op := bits w 26 6
  let rd := bits w 22 4
  let x := o.dAt (bits w 18 4)
  let y : Word := if bit w 13 then BitVec.ofInt 32 (sgn 13 w) else o.dAt (bits w 14 4)
  let jump (c : Core) (t : Nat) : Core := c.r fun r => { r with br := some (2, t) }
  if op = 0 then c
  else if op ≤ 0x0C then
    let f : Word := BitVec.ofNat 32 (Config.free c.free)
    let q := aluOp op x y f
    let c := { c with free := c.free + 1 }
    c.r fun r => (if op = 0x0C then r else r.put (.d rd) q.1.toInt).flags q.1 q.2
  else if op = 0x0D then c.r fun r => r.put (.d rd) (sgn 16 w)
  else if op = 0x0E then c.r fun r => r.put (.d rd) ((BitVec.ofNat 32 (bits w 0 16 * 65536) ||| (o.dAt rd &&& 0xFFFF#32)).toInt)
  else if op = 0x0F then c.r fun r => r.movPut (bits w 20 6) ((o.movGet (bits w 14 6)).getD 0)
  else if op = 0x10 then
    let ac := bits w 20 2
    let sh := bits w 14 6
    c.r fun r => (r.put (.d rd) (accWord (o.accAt ac) sh)).srOr (if accSat (o.accAt ac) sh then 0x20#32 else 0)
  else if op = 0x18 then jump c (if o.cond rd then bits w 0 12 else o.pc + 3)
  else if op = 0x19 then
    if o.cond rd then jump (c.r fun r => { r with lr := (o.pc + 3) % 4096 }) (bits w 0 12) else jump c (o.pc + 3)
  else if op = 0x1A then jump c (if o.cond rd then o.lr else o.pc + 3)
  else if op = 0x1B ∨ op = 0x1C then
    let n := bits w 24 2
    let k := loopCount o w
    let e := bits w 0 12
    let c := c.r fun r => ((({ r with sr := r.sr ||| 2#32 }).put (.lc n) k).put (.ls n) (o.pc + 1)).put (.le n) e
    if k = 0 then jump c (e + 1) else c
  else if op = 0x1D then { c with lane := laneBsync c.lane }
  else if op = 0x1E then c.r fun r => { r with sr := o.isr, pc := o.ipc }
  else if op = 0x20 then c.dma (o.aAt (bits w 18 3)).toNat
  else if op = 0x21 then
    let k := y.toNat % 32
    if (c.sem.getD k none).isNone then
      ({ c with sem := c.sem.set k (some c.me) }).r fun r => r.put (.d rd) 1
    else c.r fun r => r.put (.d rd) 0
  else if op = 0x22 then
    let k := y.toNat % 32
    if c.sem.getD k none = some c.me then { c with sem := c.sem.set k none } else { c with semErr := c.semErr + 1 }
  else if op = 0x23 then c.r fun r => ({ r with bexNew := 31 }).wr 3 .bex 31
  else if op = 0x24 then { c with lane := { c.lane with st := .halted } }
  else if op = 0x25 then { c with lane := { c.lane with full := false } }
  else c

/-- Where the bundle after the one at pc lies: delay slots end at the branch's target, a loop's end returns to its start
while counts remain (R190). -/
def LRegs.advance (r : LRegs) : LRegs :=
  let o := r
  match [2, 1, 0].find? fun n => o.loopOn n && o.leAt n = o.pc with
  | some n =>
    let r := r.put (.lc n) ((r.lcAt n : Int) - 1)
    let p := if 1 < o.lcAt n then o.lsAt n else o.pc + 1
    (match r.br with
     | some (1, t) => { r with pc := t, br := none }
     | some (k + 1, t) => { r with pc := p, br := some (k, t) }
     | _ => { r with pc := p })
  | none =>
    (match r.br with
     | some (1, t) => { r with pc := t, br := none }
     | some (k + 1, t) => { r with pc := o.pc + 1, br := some (k, t) }
     | _ => { r with pc := o.pc + 1 })

/-- The bundle at an address. -/
def bundle (l : Lane) (pc : Nat) : Nat := l.prog.le (16 * pc) 16

/-- The first exception of a bundle: ILLEGAL in any slot, then LS0, LS1. -/
def bundleExc (l : Lane) : Option Nat :=
  let r := l.r
  if 4096 ≤ r.pc then some exRange
  else
    let b := bundle l r.pc
    let es := [macExc (bits b 96 32), lsExc r (bits b 64 32), lsExc r (bits b 32 32), aluExc r (bits b 0 32)]
    if es.contains (some exIllegal) then some exIllegal else es.findSome? id

/-- An exception raised: pending, or the lane halts inside a handler (R191). -/
def Lane.raise (l : Lane) (code ipc : Nat) : Lane :=
  if l.r.srBit 3 then { l with st := .halted } else { l with exc := some (code, ipc % 4096) }

/-- A stall: a dma while the queue is full (R194). -/
def dmaStall (l : Lane) : Bool := bits (bundle l l.r.pc) 26 6 = 0x20 && decide (4 ≤ l.dq.length)

/-- One bundle issued (R183 to R193). -/
def Core.issue (c : Core) : Core :=
  let l := c.lane
  match bundleExc l with
  | some e => { c with lane := l.raise e l.r.pc }
  | none =>
    if dmaStall l then c
    else
      let o := l.r
      let m := c.mem
      let b := bundle l o.pc
      let c := c.r fun r => r.advance.age
      let c := ((c.mac o (bits b 96 32)).ls o m (bits b 64 32)).ls o m (bits b 32 32)
      let c := c.alu o (bits b 0 32)
      if bits b 26 6 = 0x1F then { c with lane := c.lane.raise exTrap c.lane.r.pc } else c

end Sys2Proof.Machine
end

