-- ==== Sys2Proof/Machine/Units.lean ====
section
/-! DEFINITION. Processing units with spares (R437 to R441, R448, R449): which physical unit carries which load, retirement,
takeover. Kinds: 0 strip engines, 1 output engines, 2 matrix columns, 3 to 6 the lanes of Drays 0 to 3. -/

namespace Sys2Proof.Machine

def State.ctlSet (s : State) (c : Ctl) : State := { s with ctl := c }

/-- The Stoker's firmware runs (R435). -/
def State.stokerRuns (s : State) : Bool := s.awake && (s.ctl.stage = 4 || s.ctl.stage = 5)

/-- Physical units of a kind (R437). -/
def unitCount (k : Nat) : Nat := [17, 9, 34].getD k 17

/-- Loads of a kind. -/
def loadCount (k : Nat) : Nat := [16, 8, 32].getD k 16

def State.unitsOf (s : State) (k : Nat) : Units := s.ctl.units.getD k ⟨0, []⟩
def State.unitsSet (s : State) (k : Nat) (u : Units) : State := s.ctlSet { s.ctl with units := s.ctl.units.set k u }

/-- Physical units that carry no load and are not retired; one under test is among them. -/
def State.spares (s : State) (k : Nat) : List Nat :=
  let u := s.unitsOf k
  (upTo (unitCount k)).filter fun p => !bit u.retired p && !u.map.contains (some p)

/-- Load that a physical unit carries. -/
def State.loadOf (s : State) (k p : Nat) : Option Nat := (s.unitsOf k).map.findIdx? (· = some p)

/-- A load that no unit carries (R440). -/
def State.lost (s : State) (k l : Nat) : Bool := ((s.unitsOf k).map.getD l none).isNone

/-- A load is moved to a physical unit, or lost. -/
def State.place (s : State) (k l : Nat) (p : Option Nat) : State :=
  let u := s.unitsOf k
  s.unitsSet k { u with map := u.map.set l p }

/-- A unit is retired, for good, and logged: kind, logical (0xFFFFFFFF: none) and physical number (R411, R438). -/
def State.retireUnit (s : State) (k : Nat) (l : Option Nat) (p : Nat) : State :=
  let u := s.unitsOf k
  (s.unitsSet k { u with retired := if bit u.retired p then u.retired else u.retired + 2 ^ p }).audit 0x0010 4 0
    (natLe 4 k ++ natLe 4 (l.getD 0xFFFFFFFF) ++ natLe 4 p)

/-- A test of a kind ends without a result (R441). -/
def State.endTest (s : State) (k : Nat) : State :=
  match s.ctl.test with
  | some (j, _) => if j = k then s.ctlSet { s.ctl with test := none } else s
  | none => s

/-- The spare that takes a faulty unit's load over: one under test first, whose test ends (R441). -/
def State.relief (s : State) (k : Nat) : Option Nat :=
  match s.ctl.test with
  | some (j, p) => if j = k ∧ p ∈ s.spares k then some p else (s.spares k).head?
  | none => (s.spares k).head?

/-- A faulty unit's load goes to the spare, or is lost; the unit is retired. True: a spare took over. -/
def State.takeOver (s : State) (k l p : Nat) : Bool × State :=
  let q := s.relief k
  let s := (s.endTest k).place k l q
  (q.isSome, s.retireUnit k (some l) p)

/-- A takeover of a strip, output or matrix unit at a boundary (R439, R440). -/
def State.unitFaulted (s : State) (k l : Nat) : State :=
  match (s.unitsOf k).map.getD l none with
  | none => s
  | some p =>
    let r := s.takeOver k l p
    if r.1 then r.2.health 21 else (r.2.health 20).giveCause 2

/-- First spare of a kind with its code for none. -/
def State.spareCode (s : State) (k i none : Nat) : Nat := (s.spares k).getD i none

/-- CTL_UNITSTAT (R448). -/
def State.unitStat (s : State) : Word :=
  fld 25 5 (s.spareCode 0 0 31) ||| fld 21 4 (s.spareCode 1 0 15) ||| fld 15 6 (s.spareCode 2 0 63) ||| fld 9 6 (s.spareCode 2 1 63)

/-- CTL_UNITRETn (R449). -/
def State.unitRet (s : State) (n : Nat) : Word :=
  match n with
  | 0 => fld 0 17 (s.unitsOf 0).retired
  | 1 => fld 0 9 (s.unitsOf 1).retired
  | 2 => fld 0 32 (s.unitsOf 2).retired
  | _ => fld 0 2 ((s.unitsOf 2).retired / 2 ^ 32)

/-- CTL_HEALTH.NOSPARE (R447). -/
def State.noSpare (s : State) : Bool := (upTo 7).any fun k => (s.spares k).isEmpty

/-- CTL_STSTAT (R454). -/
def State.stStat (s : State) : Word :=
  let c := s.ctl
  fld 29 3 c.lastKind ||| fld 23 6 c.lastPhys ||| fld 22 1 (b2n c.test.isSome) ||| fld 21 1 (b2n c.lastPass) ||| fld 0 16 (min c.rounds 65535)

/-! ### Rotation (R438) -/

/-- Kind and physical number at a position 0 to 127 of the rotation. -/
def rotUnit (p : Nat) : Nat × Nat :=
  if p < 17 then (0, p) else if p < 26 then (1, p - 17) else if p < 60 then (2, p - 26) else (3 + (p - 60) / 17, (p - 60) % 17)

/-- The rotation skips a unit: retired, of an excluded kind or Dray, or of a kind without a spare. -/
def State.rotSkip (s : State) (k p : Nat) : Bool :=
  bit (s.unitsOf k).retired p || s.rwBit (wCtl + 0x002C) (24 + min k 3) ||
  (3 ≤ k && s.rwBit (rDry (k - 3) + 0x0100) 1) || (s.spares k).isEmpty

/-- The next unit of the rotation from a position on, with its position. -/
def State.rotNext (s : State) : Option (Nat × Nat × Nat) :=
  (upTo 128).findSome? fun i =>
    let p := (s.ctl.pos + i) % 128
    let u := rotUnit p
    if s.rotSkip u.1 u.2 then none else some (p, u.1, u.2)

/-- A unit comes under test: kind and number are shown, its position has been visited. -/
def State.visit (s : State) (pos k p : Nat) : State :=
  let c := s.ctl
  s.ctlSet { c with
    test := some (k, p), lastKind := k + 1, lastPhys := p, pos := (pos + 1) % 128
    rounds := if pos < c.pos ∨ pos = 127 then min (c.rounds + 1) 65535 else c.rounds }

end Sys2Proof.Machine
end

