-- ==== Sys2Proof/Machine/Lanes.lean ====
section
/-! DEFINITION. Drays and logical lanes (R170 to R209): the block cycle, interrupts, DMA, images, control, sparing. -/

namespace Sys2Proof.Machine

def State.lane (s : State) (l : Nat) : Lane := s.lanes[l % 64]'(Nat.mod_lt l (by decide))
def State.laneSet (s : State) (l : Nat) (x : Lane) : State := { s with lanes := s.lanes.set (l % 64) x (Nat.mod_lt l (by decide)) }
def State.dray (s : State) (d : Nat) : Dray := s.drays[d % 4]'(Nat.mod_lt d (by decide))
def State.draySet (s : State) (d : Nat) (x : Dray) : State := { s with drays := s.drays.set (d % 4) x (Nat.mod_lt d (by decide)) }

/-- DRY counters: 0 OVERRUN, 1 ECCCOR, 2 FAULT, 3 STSKIP, 4 DMAERR, 5 SEMERR (R209). -/
abbrev cDry (d k : Nat) : Nat := rDry d + 0x0160 + 4 * k

/-- Lanes of a Dray. -/
def drayLanes (d : Nat) : List Nat := (upTo 16).map (· + 16 * d)

/-- The Dray runs: out of reset, and enabled, or disabled in the block under way (R204). -/
def State.dryOn (s : State) (d : Nat) : Bool := s.up (6 + d) && (s.rwBit (rDry d + 0x0100) 0 || (s.dray d).closing)

/-- Every semaphore of a lane is released (R180). -/
def State.releaseSems (s : State) (l : Nat) : State :=
  let y := s.dray (l / 16)
  s.draySet (l / 16) { y with sem := y.sem.map fun o => if o = some (l % 16) then none else o }

/-! ### Ports (R172 to R174) -/

/-- Domain of a lane input port: that of the lowest-numbered lane that reads it (R172). -/
def State.inPortDom (s : State) (p : Nat) : Nat :=
  ((upTo 64).findSome? fun l => match (s.lane l).ports with
    | some c => if c.inBase ≤ p ∧ p < c.inBase + c.inCnt then some c.dom else none
    | none => none).getD 0

/-- The RUNNING lane that owns an output port. -/
def State.outPortLane (s : State) (p : Nat) : Option (Nat × LPorts) :=
  (upTo 64).findSome? fun l => match (s.lane l).ports with
    | some c => if (s.lane l).st = .running ∧ c.outBase ≤ p ∧ p < c.outBase + c.outCnt then some (l, c) else none
    | none => none

/-- The block a lane output port delivers: its domain and words (R171, R174). -/
def State.laneSrc (s : State) (p : Nat) : Nat × List Int :=
  match s.outPortLane p with
  | none => (0, [])
  | some (l, c) => (c.dom, if (s.lane l).faulted then [] else (((s.lane l).out.getD []).getD (p - c.outBase) []))

/-- Input ports that the running lanes of a Dray read. -/
def State.inPorts (s : State) (d : Nat) : List Nat :=
  ((drayLanes d).flatMap fun l => match (s.lane l).ports with
    | some c => if (s.lane l).st = .running then (upTo c.inCnt).map (· + c.inBase) else []
    | none => []).eraseDups

/-- The Dray takes the block's words of its input ports, newest first. -/
def State.takeInputs (s : State) (d : Nat) : State :=
  let y := s.dray d
  let ps := s.inPorts d
  s.draySet d { y with inBlk := ps.map fun p =>
    let n := domSpb (s.inPortDom p)
    (p, ((fit n 0 ((look (0x3000 + p) s.mix.dst).getD [])).reverse ++ (look p y.inBlk).getD []).take 600) }

/-- Words of an input port for a lane's domain, bridged from the port's where they differ (R172). -/
def State.inWords (s : State) (d p dom : Nat) : List Int :=
  let h := (look p (s.dray d).inBlk).getD []
  let pd := s.inPortDom p
  let n := domSpb pd
  bridgeBlk 32 pd dom (h.drop n) (h.take n).reverse

/-- The input windows of a lane are filled, blkn names the input block, and a wait in bsync ends (R173 to R175). -/
def State.fillInputs (s : State) (l : Nat) : State :=
  let x := s.lane l
  let data := match x.ports with
    | none => x.data
    | some c => (upTo c.inCnt).foldl (fun m k =>
        m.setN (0x1C000 + 48 * k) ((fit 12 0 (s.inWords (l / 16) (c.inBase + k) c.dom)).flatMap fun v => natLe 4 (unsgn 32 v))) x.data
  let b := BitVec.ofInt 32 ((s.tim.nsc / 12 : Nat) - 3 : Int)
  s.laneSet l { x with
    data := data, ready := true, waitIn := false, restart := false
    r := { x.r with sr := x.r.sr &&& ~~~4#32, isr := x.r.isr &&& ~~~4#32, blkn := b } }

/-- LCLK offset 4,096 (R175, R176). -/
def State.inputCopy (s : State) (d : Nat) : State :=
  if !s.dryOn d then s
  else (drayLanes d).foldl (fun s l =>
    let x := s.lane l
    if x.st ≠ .running then s
    else if x.late && !x.r.srBit 2 then s.laneSet l { x with waitIn := true }
    else (s.laneSet l { x with late := false }).fillInputs l) (s.takeInputs d)

/-- The lane deadline (R176). -/
def State.laneDeadline (s : State) (d : Nat) : State :=
  if !s.dryOn d then s
  else (drayLanes d).foldl (fun s l =>
    let x := s.lane l
    if x.st = .running && x.ready && !x.synced then (s.laneSet l { x with late := true, out := none, waitIn := false }).count (cDry d 0)
    else s) s

/-! ### Bundles and interrupts (R183, R191) -/

/-- The lane may issue a bundle now. -/
def State.mayIssue (s : State) (l : Nat) : Bool :=
  let x := s.lane l
  s.dryOn (l / 16) && x.st = .running && x.ready && !x.faulted && x.exc.isNone && !x.r.srBit 2

/-- One bundle of lane l. -/
def State.issueBundle (s : State) (l : Nat) : State :=
  if !s.mayIssue l then s
  else
    let x := s.lane l
    let y := s.dray (l / 16)
    let late := x.late
    let c := Core.issue ⟨x, y.sram, y.sem, l % 16, s.freeCtr, 0⟩
    let s : State := { s with freeCtr := c.free }
    let s := (s.draySet (l / 16) { y with sram := c.sram, sem := c.sem }).laneSet l c.lane
    let s := s.countN (cDry (l / 16) 5) c.semErr
    let s := if c.lane.st = .halted then s.releaseSems l else s
    if late && !c.lane.late && c.lane.waitIn then s.fillInputs l else s

/-- Entry into the vector of the first pending cause that is not masked. -/
def LRegs.enter (r : LRegs) (next vec : Nat) (code : Option Nat) : LRegs :=
  let r := r.drain
  let sr := r.sr &&& ~~~7#32
  { r with
    ipc := next % 4096, isr := r.sr, sr := (if code.isSome then sr ||| 8#32 else sr), ecause := code.getD r.ecause, pc := vec, br := none }

/-- A pending interrupt is taken between bundles (R191). -/
def State.interrupt (s : State) (l : Nat) : State :=
  let x := s.lane l
  if !s.dryOn (l / 16) || x.st ≠ .running || x.faulted then s
  else match x.exc with
    | some (code, ipc) => s.laneSet l { x with exc := none, r := x.r.enter ipc 4 (some code) }
    | none =>
      if x.r.br.isSome || !x.r.srBit 0 then s
      else if x.dmaIrq && x.r.srBit 17 then s.laneSet l { x with dmaIrq := false, r := x.r.enter x.r.pc 8 none }
      else if x.msgIrq && x.r.srBit 16 then s.laneSet l { x with msgIrq := false, r := x.r.enter x.r.pc 12 none }
      else s

/-! ### DMA (R194, R195) -/

/-- The 64-byte bursts of a read that failed, as zeros. -/
def zeroBursts (bad : List Nat) (bs : List Byte) : List Byte := bs.zipIdx.map fun p => if p.2 / 64 ∈ bad then 0 else p.1

/-- A DMA descriptor as its fields name it (R194). -/
structure Dma where
  src : Nat
  dst : Nat
  len : Nat
  srcLane : Bool
  dstLane : Bool
  deriving DecidableEq, Repr

/-- The descriptor at an address of a lane's data memory. -/
def Lane.dma (x : Lane) (a : Nat) : Dma :=
  let src := x.data.le a 8
  let dst := x.data.le (a + 8) 8
  { src := if bit src 63 then src % 2 ^ 32 else src % 2 ^ 40, dst := if bit dst 63 then dst % 2 ^ 32 else dst % 2 ^ 40
    len := x.data.le (a + 0x10) 4, srcLane := bit src 63, dstLane := bit dst 63 }

/-- STATUS with which a descriptor ends that moves nothing: bad, or refused (R194, R195). -/
def State.dmaRefused (s : State) (x : Dma) : Option Nat :=
  let inLane (v : Nat) := inData v x.len || inSram v x.len
  let inDev (v : Nat) : Bool := s.targetRange v x.len = .bulk || s.targetRange v x.len = .pool
  if (!x.srcLane && !x.dstLane) || x.len % 8 ≠ 0 || x.len < 8 || 65536 < x.len || (x.srcLane && !inLane x.src) ||
      (x.dstLane && !inLane x.dst) then some 4
  else if (!x.srcLane && !inDev x.src) || (!x.dstLane && !inDev x.dst) then some 2 else none

/-- The words with an uncorrectable error that a descriptor's read of device memory meets. -/
def Dma.bad (x : Dma) (t : Target) (hits : MemHits) : List Nat :=
  if x.srcLane then [] else (badAt hits t x.src).filter fun b => decide (x.src ≤ b ∧ b < x.src + x.len)

/-- What a lane's DMA reads: lane memory, or device memory in bursts. -/
def State.dmaRead (s : State) (l : Nat) (x : Dma) (hits : MemHits) : List Byte × State :=
  if x.srcLane then ((⟨(s.lane l).data, (s.dray (l / 16)).sram⟩ : LMem).get x.src x.len, s)
  else
    let t := s.targetRange x.src x.len
    (s.rawRead t x.src x.len, (splitAt 512 x.src (x.len + 1) x.len).foldl (fun (s : State) p =>
      (if t = .pool then (s.foreign (5 + l / 16) p.1 p.2).collided (5 + l / 16) p.1 p.2 false hits else s).eccFixed t p.1 p.2 hits) s)

/-- Bytes written at a DMA's destination. -/
def State.dmaStore (s : State) (l : Nat) (x : Dma) (bs : List Byte) : State :=
  if x.dstLane then
    let y := s.lane l
    let w := (⟨y.data, (s.dray (l / 16)).sram⟩ : LMem).set x.dst bs
    (s.laneSet l { y with data := w.data }).draySet (l / 16) { s.dray (l / 16) with sram := w.sram }
  else (s.devWrite (5 + l / 16) x.dst bs false).2

/-- A descriptor moves its bytes; bursts with an uncorrectable error arrive as zeros (R195). -/
def State.dmaMove (s : State) (l : Nat) (x : Dma) (hits : MemHits) : State :=
  let bad := x.bad (s.targetRange x.src x.len) hits
  let bursts := (bad.map fun b => (b - x.src) / 64).eraseDups
  let r := s.dmaRead l x hits
  let s := bursts.foldl (fun (s : State) k => s.uncErr (5 + l / 16) (firstBad bad (x.src + 64 * k) 64) false hits.adr) r.2
  (if bad.isEmpty then s else s.count (cDry (l / 16) 4)).dmaStore l x (zeroBursts bursts r.1)

/-- The descriptor at the front of a lane's queue completes. -/
def State.dmaDone (s : State) (l : Nat) (hits : MemHits) : State :=
  let x := s.lane l
  match x.dq with
  | [] => s
  | a :: rest =>
    let d := x.dma a
    let no := s.dmaRefused d
    let st : Nat := no.getD (if (d.bad (s.targetRange d.src d.len) hits).isEmpty then 1 else 3)
    let s := if no.isSome then s else s.dmaMove l d hits
    let x' := s.lane l
    s.laneSet l { x' with
      dq := rest, data := x'.data.set (a + 0x15) (BitVec.ofNat 8 st), dmaIrq := x'.dmaIrq || bit (x.data.get (a + 0x14)).toNat 1 }

/-- All descriptors of a lane complete (R198). -/
def State.dmaDrain (s : State) (l : Nat) : Nat → State
  | 0 => s
  | n + 1 => if (s.lane l).dq.isEmpty then s else (s.dmaDone l ⟨[], [], false, []⟩).dmaDrain l n

/-- The Dray is reset while a descriptor of a lane moves: what it has written in device memory by then, a free part of its bytes,
stands (R263). -/
def State.dmaCut (s : State) (l : Nat) : State :=
  let x := s.lane l
  match x.dq with
  | [] => s
  | a :: _ =>
    let d := x.dma a
    if d.dstLane || (s.dmaRefused d).isSome || !s.up secMem then s
    else
      let r := s.dmaRead l d ⟨[], [], false, []⟩
      let f := r.2.fresh
      f.2.dmaStore l d (r.1.take (8 * (f.1 % (d.len / 8 + 1))))

/-! ### Images and control (R196 to R198) -/

/-- R196 holds for an image of a length. -/
def laneImgOk (bs : List Byte) (len : Nat) : Bool :=
  let f (o n : Nat) := leNat ((bs.drop o).take n)
  let ps := f 0x10 4
  let ds := f 0x14 4
  let id := f 8 4
  f 0 4 = 0x4C524D49 && f 4 2 = 1 && f 6 1 ≤ 4 && f 7 1 = 0 && (id = 1 || id = 2 || id = 3 || decide (0x80000000 ≤ id)) &&
  ps % 16 = 0 && 16 ≤ ps && ps ≤ 65536 && ds % 8 = 0 && ds ≤ 114624 && f 0x18 1 < 128 &&
  ((bs.drop 0x19).take 39).all (· = 0) && len = 128 + ps + ds

/-- Key for a SIGNER (R196, R404, R406): the running firmware's, or a customer slot; none: empty or revoked. -/
def State.signerKey (s : State) (n : Nat) : Option (List Byte) := if n = 0 then some s.sec.fw.pubkey else s.custKey (0xC0 + n)

/-- Signature and anti-rollback index of an image (R197). -/
def State.laneSigOk (s : State) (bs : List Byte) : Bool :=
  let body := bs.take (bs.length - 64)
  (match s.signerKey (leNat ((bs.drop 6).take 1)) with
   | none => false
   | some k => Config.ecdsaOk k (Config.sha256 body) (bs.drop (bs.length - 64))) && decide (s.sec.rb ≤ leNat ((bs.drop 0x18).take 1))

/-- Lane states in which an image may not be loaded. -/
def Lane.busy (x : Lane) : Bool := x.st = .running || x.st = .halted || x.st = .faulted

/-- Verification has finished (R197). -/
def State.laneLoaded (s : State) (l : Nat) : State :=
  let x := s.lane l
  match x.load with
  | none => s
  | some (t, bs) =>
    let s := s.laneSet l { x with load := none }
    let f (o n : Nat) := leNat ((bs.drop o).take n)
    let rec' (ok : Bool) (s : State) := s.audit 0x0002 t.host (b2n !ok) (natLe 4 l ++ natLe 4 (f 8 4) ++ natLe 1 (f 6 1) ++ natLe 1 (f 0x18 1))
    if x.busy then s.post t stBadArg 0 0
    else if !s.laneSigOk bs then (rec' false s).post t stFault 0 0
    else
      let ps := f 0x10 4
      let prog := Mem.zero.setN 0 ((bs.drop 0x40).take ps)
      let data := Mem.zero.setN 0 ((bs.drop (0x40 + ps)).take (f 0x14 4))
      (rec' true (s.laneSet l { s.lane l with st := .loaded, libid := f 8 4, prog := prog, data := data })).post t stOk 0 0

/-- A range of output ports meets one that another lane in LOADED, RUNNING or HALTED holds (R172). -/
def State.outTaken (s : State) (l base cnt : Nat) : Bool :=
  (upTo 64).any fun j => j ≠ l && ((s.lane j).st = .loaded || (s.lane j).st = .running || (s.lane j).st = .halted) &&
    match (s.lane j).ports with
    | some c => overlap base cnt c.outBase c.outCnt && cnt ≠ 0 && c.outCnt ≠ 0
    | none => false

/-- START accepted: ports and PARAM are taken, and the lane starts at the boundary. -/
def State.laneStart (s : State) (l : Nat) (p : LPorts) (param : Word) (t : Ticket) : State :=
  s.laneSet l { s.lane l with ports := some p, param := param, start := some t }

/-- Registers at a start or a restart (R181, R193, R202). -/
def LRegs.begin (param : Word) (restart : Bool) : LRegs :=
  { LRegs.reset with
    d := LRegs.reset.d.set 0 param, ecause := if restart then 0x80 else 0, bex := if restart then 31 else 0
    bexNew := if restart then 31 else 0 }

/-- A lane that begins at bundle 0 when its inputs have come. -/
def Lane.run (x : Lane) (restart : Bool) : Lane :=
  { x with
    st := .running, r := LRegs.begin x.param restart, ready := false, synced := false, late := false, waitIn := false, out := none
    exc := none, dmaIrq := false, msgIrq := false, dq := [], restart := restart }

/-- A lane ceases (R198, R204). -/
def State.laneCease (s : State) (l : Nat) : State :=
  let s := (s.dmaDrain l 4).releaseSems l
  let x := s.lane l
  s.laneSet l { x with
    st := .loaded, ports := none, ready := false, synced := false, late := false, waitIn := false, out := none, exc := none
    dmaIrq := false, msgIrq := false, full := false, dq := [], zones := [] }

/-- The spare takes a faulty lane over, or the lane is lost (R202, R203). -/
def State.laneFaulted (s : State) (l : Nat) : State :=
  let x := s.lane l
  let k := 3 + l / 16
  match (s.unitsOf k).map.getD (l % 16) none with
  | none => s.laneSet l { x with faulted := false }
  | some p =>
    let r := s.takeOver k (l % 16) p
    if r.1 then
      let y := { x with faulted := false }
      (r.2.laneSet l (if x.st = .running then y.run true else { y with r := LRegs.begin x.param true })).health 21
    else
      let s := (r.2.laneSet l { x with
        faulted := false, lost := x.st = .running, st := .faulted, ready := false, out := none }).health 20
      if x.st = LState.running then s.giveCause 1 else s

/-- Lanes at a block boundary: takeovers, STOP, START; no lane has executed bsync in the new block, nor waits for inputs of the one
before (R176). -/
def State.laneBoundary (s : State) (l : Nat) : State :=
  let s := if (s.lane l).faulted then s.laneFaulted l else s
  let x := s.lane l
  let s := match x.stop with
    | none => s
    | some t =>
      let s := s.laneSet l { x with stop := none }
      let s := if x.st = LState.running ∨ x.st = LState.halted then s.laneCease l else s
      (match t with
       | some t => s.post t stOk 0 0
       | none => s)
  let x := s.lane l
  let s := match x.start with
    | none => s
    | some t => if x.st = LState.loaded then (s.laneSet l (({ x with start := none }).run false)).post t stOk 0 0
      else (s.laneSet l { x with start := none }).post t stAborted 0 0
  s.laneSet l { s.lane l with synced := false, out := none, waitIn := false }

/-! ### Hardware faults and self-test (R200 to R203) -/

/-- An uncorrectable lane-memory error or a failed datapath check of a physical lane (R202). -/
def State.laneFault (s : State) (d p : Nat) (badWords : List Nat) : State :=
  let k := 3 + d
  if bit (s.unitsOf k).retired p then s
  else
    let s := s.count (cDry d 2)
    match s.loadOf k p with
    | none => (s.endTest k).retireUnit k none p
    | some i =>
      let l := 16 * d + i
      let s := s.releaseSems l
      let x := s.lane l
      s.laneSet l { x with
        faulted := true, out := none, dq := [], dmaIrq := false
        data := badWords.foldl (fun m w => if w < 16384 then m.setN (8 * w) (List.replicate 8 0) else m) x.data }

/-- The conditions of a migration (R200). -/
def State.mayMigrate (s : State) (l : Nat) : Bool :=
  let x := s.lane l
  (x.st ≠ .running || x.synced) && x.dq.isEmpty && !x.faulted

/-- The logical lane of the lane due for test is copied to the spare, which carries it from the block boundary on (R200). -/
def State.migrate (s : State) (d : Nat) : State :=
  let y := s.dray d
  match y.mig with
  | none => s
  | some p =>
    match s.loadOf (3 + d) p, (s.spares (3 + d)).head? with
    | some i, some _ =>
      if s.mayMigrate (16 * d + i) then
        (s.draySet d { y with mig := none }).ctlSet { s.ctl with test := some (3 + d, p) }
      else s
    | _, _ => s

/-- A copied lane moves at the boundary, unless it or the spare has faulted meanwhile (R200, R202). -/
def State.migrated (s : State) (d i : Nat) : State :=
  match (s.spares (3 + d)).head? with
  | some q => if (s.lane (16 * d + i)).faulted then s.ctlSet { s.ctl with test := none } else s.place (3 + d) i (some q)
  | none => s.ctlSet { s.ctl with test := none }

/-! ### Registers (R205 to R208) -/

def LState.code : LState → Nat
  | .empty => 0
  | .loaded => 1
  | .running => 2
  | .halted => 3
  | .faulted => 4

/-- DRY_LANESTATn. -/
def State.laneStat (s : State) (l : Nat) : Word :=
  let x := s.lane l
  fld 29 3 x.st.code ||| fld 24 5 (((s.unitsOf (3 + l / 16)).map.getD (l % 16) none).getD (l % 16)) ||| fld 16 8 x.r.ecause |||
    fld 0 16 x.libid

/-- DRY_PORTn: the input word, then the output word. -/
def State.portWord (s : State) (l : Nat) (out : Bool) : Word :=
  match (s.lane l).ports with
  | none => 0
  | some c => fld 30 2 c.dom ||| (if out then fld 10 8 c.outCnt ||| fld 0 10 c.outBase else fld 10 8 c.inCnt ||| fld 0 10 c.inBase)

/-- DRY_SPARE. -/
def State.drySpare (s : State) (d : Nat) : Word :=
  let k := 3 + d
  fld 31 1 (b2n (s.spares k).isEmpty) ||| fld 17 5 (s.spareCode k 0 31) ||| fld 0 17 (s.unitsOf k).retired

end Sys2Proof.Machine
end

