-- ==== Sys2Proof/Machine/Seq.lean ====
section
/-! DEFINITION. Sequenced operations from descriptor to completion (R62 to R86, R135 to R140, R391): requests, staged batches,
acceptance, completion. -/

namespace Sys2Proof.Machine

/-! ### Requests -/

/-- Change records of a list (R65). -/
def parseRecs : Nat → List Byte → List CRec
  | 0, _ => []
  | n + 1, b =>
    ⟨recAt b 0 1, recAt b 2 2, recAt b 4 4, BitVec.ofNat 32 (recAt b 8 4), BitVec.ofNat 32 (recAt b 12 4)⟩ :: parseRecs n (b.drop 16)
where
  /-- A little-endian field. -/
  recAt (b : List Byte) (o n : Nat) : Nat := leNat ((b.drop o).take n)

/-- A change record as bytes (R65). -/
def CRec.bytes (r : CRec) : List Byte :=
  natLe 1 r.op ++ [0] ++ natLe 2 r.off ++ natLe 4 r.idx ++ wordBytes r.mask ++ wordBytes r.val

/-- Timed fields of R236. -/
def Op.timed (o : Op) (d : Desc) (ver : Nat) : Op :=
  let c := d.f 0x1A 1
  { o with next := bit c 0, own := bit c 1, stage := bit c 2, width := targetWidth ver, t := d.f 0x20 8, n := d.f 0x1C 2, shape := bits c 4 2 }

/-- Whether a scene image is well formed (R82). -/
def sceneOk (bs : List Byte) : Bool :=
  let f (o n : Nat) := leNat ((bs.drop o).take n)
  bs.length = 64 + 464 * f 4 2 + 32 * f 8 4 && f 0 4 = 1 && f 0x20 4 = bs.length && f 0x24 4 = sceneCrc bs

/-- The operation that a checked descriptor asks for with the data it points to (R236, R237): FAULT for a scene image that
fails its check, BADARG where a v1 host's index field has upper bits or a range is reversed. -/
def mkOp (ver h : Nat) (d : Desc) (data : List Byte) : Except Nat Op :=
  let mk (k : OpKind) : Op := { Op.mk0 k h d.ring d.index 0 with data := data }
  let rng (n : Nat) (o : Op) : Except Nat Op :=
    match rangesOf ver n data with
    | none => .error stBadArg
    | some rs => .ok { o with recs := rs.map fun r => ⟨0, r.2 + 1 - r.1, r.1, 0, 0⟩ }
  match d.opc with
  | 0x10 =>
    let rs := parseRecs (d.f 0x18 2) data
    if ver = 1 ∧ rs.any (fun r => decide (65536 ≤ r.idx)) then .error stBadArg
    else .ok { (mk .commit).timed d ver with recs := rs }
  | 0x11 => rng (d.f 0x18 1) { mk .claim with args := [d.f 0x1C 4] }
  | 0x12 => .ok { mk .release with args := [d.f 0x10 6] }
  | 0x14 => rng (d.f 0x18 1) { mk .readState with args := [d.f 0x19 1, d.f 0x20 8, ver, d.f 0x1C 4] }
  | 0x29 =>
    if sceneOk data then
      let m := Mem.zero.setN 0 data
      .ok { (mk .recall).timed d ver with recs := sceneRecs m (m.le 4 2) (m.le 8 4) }
    else .error stFault
  | 0x31 =>
    let p := d.f 0x1B 1
    .ok { (mk .clipPlay).timed d ver with
      args := [d.f 0x18 2, d.f 0x10 8, bits p 0 1, d.f 0x28 4, bits p 1 1, d.f 0x2C 4, bits p 2 2, d.f 0x1E 2] }
  | _ => .ok { (mk .clipStop).timed d ver with args := [d.f 0x18 2], data := [] }

/-- Status of a sequenced operation that a check refuses: FAULT comes after ABORTED (R74, R485). -/
def State.seqStatus (s : State) (st : Nat) : Nat := if st = stFault ∧ !s.mix.act then stAborted else st

/-- A sequenced descriptor has its data and waits for acceptance. -/
def State.request (s : State) (h : Nat) (d : Desc) (r : Except Nat Op) : State :=
  match r with
  | .error st => s.finish h d (s.seqStatus st) 0
  | .ok o => s.beganDesc h d fun d => { d with req := some o }

/-- A sequenced descriptor whose data lie at a and take n bytes. -/
def State.requestFrom (s : State) (h : Nat) (d : Desc) (hm : HostMem) (a n : Nat) : State :=
  let r := s.devRead h hm a n
  match r.1 with
  | none => r.2.finish h d (s.seqStatus stFault) 0
  | some bs => r.2.request h d (mkOp (s.hst h).ver h d bs)

/-- An uncorrectable error lies in a sector of a scene slot (R416), by its address in the Peatstore window. -/
def State.sceneLost (s : State) (slot : Nat) (bad : List Nat) : Bool :=
  match look slot s.pea.scenes with
  | none => false
  | some c => c.sectors.any fun k => badIn bad (0x01_2000_0000 + 4096 * k) 4096

/-- What ECC corrects in the sectors of a scene slot as they are read (R416, R425). -/
def State.sceneRead (s : State) (slot : Nat) (hits : MemHits) : State :=
  match look slot s.pea.scenes with
  | none => s
  | some c => c.sectors.foldl (fun s k => s.eccFixed .pea (0x01_2000_0000 + 4096 * k) 4096 hits) s

/-- The scene image a SCENE_RECALL names (R82): a slot's, or the one its header at an address measures. -/
def State.sceneFetch (s : State) (h : Nat) (d : Desc) (hm : HostMem) : Option (List Byte) × State :=
  if d.f 0x18 2 ≠ 0xFFFF then
    (if s.sceneLost (d.f 0x18 2) hm.hits.bad then (none, s.count (wCtl + 0x0748))
      else (s.sceneImg (d.f 0x18 2), s.sceneRead (d.f 0x18 2) hm.hits))
  else
    let a := d.f 0x10 8
    let r := s.devRead h hm a 64
    match r.1 with
    | none => r
    | some b =>
      let n := 64 + 464 * leNat ((b.drop 4).take 2) + 32 * leNat ((b.drop 8).take 4)
      if 5046336 < n then (some b, r.2) else r.2.devRead h hm a n

/-! ### Staged batches (R80) -/

def State.batch (s : State) (h q : Nat) : Option Batch := s.mix.batches.find? fun b => b.host = h && b.ring = q

def State.batchSet (s : State) (b : Batch) : State :=
  { s with mix := { s.mix with batches := b :: s.mix.batches.filter fun x => !(x.host = b.host && x.ring = b.ring) } }

def State.batchDrop (s : State) (h q : Nat) : State :=
  { s with mix := { s.mix with batches := s.mix.batches.filter fun x => !(x.host = h && x.ring = q) } }

/-- Records in the staging store. -/
def State.staged (s : State) : Nat := s.mix.batches.foldl (fun n b => n + b.recs.length) 0

/-- A part of a batch arrives: its status (R80, R485). DESIGN CHOICES (notes/assumptions/73.md): the records of a closing COMMIT and
those of a failed batch take no room in the staging store. -/
def State.stagePart (s : State) (o : Op) : Nat × State :=
  let b := (s.batch o.host o.ring).getD ⟨o.host, o.ring, [], false⟩
  let fail (st : Nat) : Nat × State := (st, s.batchSet ⟨o.host, o.ring, [], true⟩)
  if !s.mix.act then fail stAborted
  else if b.failed then (stAborted, s)
  else if !(1 ≤ o.recs.length && o.recs.length ≤ 4096 && o.recs.all CRec.formOk) then fail stBadArg
  else if 4096 < b.recs.length + o.recs.length ∨ 16384 < s.staged + o.recs.length then fail stNoSpace
  else (stOk, s.batchSet { b with recs := b.recs ++ o.recs })

/-- A closing COMMIT takes the batch of its ring; none: the batch had failed. -/
def State.closeBatch (s : State) (o : Op) : Option Op × State :=
  match s.batch o.host o.ring with
  | none => (some o, s)
  | some b =>
    let s := s.batchDrop o.host o.ring
    if b.failed then (none, s)
    else
      let rs := b.recs ++ o.recs
      (some { o with recs := rs, data := rs.flatMap CRec.bytes }, s)

/-! ### Acceptance (R62 to R68, R80 to R86) -/

/-- The clip of a CLIP_PLAY is placed as R135 and R136 ask. -/
def State.clipOk (s : State) (o : Op) : Bool :=
  let a (i : Nat) := o.args.getD i 0
  let n := a 3 * (if a 2 = 0 then 3 else 4)
  let g := sgn 16 (a 7)
  let gain := (-14400 ≤ g && g ≤ 2400) || g = -32768
  if codeClass (a 0) = 4 ∧ codeIdx (a 0) < 64 then
    a 1 % 64 = 0 && 1 ≤ a 3 && a 3 ≤ 268435456 && a 5 < a 3 && a 6 ≤ 2 && gain && s.inBulk (a 1) n && !s.hitsTables (a 1) n &&
      !(s.rwBit (wMix + 0x0170) 30 && overlap (a 1) n s.mtrBase 0xC000)
  else if codeClass (a 0) = 5 ∧ codeIdx (a 0) < 16 then a 1 % 64 = 0 && gain && o.data.length = 64 && toneOk o.data
  else false

/-- The operation plays a tone program. -/
def Op.toned (o : Op) : Bool := decide (o.kind = .clipPlay ∧ codeClass (o.args.getD 0 0) = 5)

/-- A CLIP_PLAY of a generator reads its tone program at acceptance (R140). -/
def State.withProgram (s : State) (o : Op) : Op :=
  if o.toned then
    let a := o.args.getD 1 0
    let t := s.targetRange a 64
    { o with data := if t = .bulk ∨ t = .pool then s.rawRead t a 64 else [], args := (o.args.set 2 0).set 6 0 }
  else if o.kind = .clipPlay then { o with data := [] } else o

/-- The table engine's read of a tone program (R140, R220, R258); false: it meets an uncorrectable error. -/
def State.programRead (s : State) (o : Op) (hits : MemHits) : Bool × State :=
  let a := o.args.getD 1 0
  let t := s.targetRange a 64
  if o.toned && (t = .bulk || t = .pool) then
    let r := s.devRead 10 ⟨[], hits⟩ a 64
    (r.1.isSome, r.2)
  else (true, s)

/-- Bytes that a READ_STATE writes: images and trailer. -/
def Op.readSize (o : Op) : Nat := o.recs.foldl (fun n r => n + r.off * (if o.args.headD 0 = 1 then 16 else 512)) 16

def Op.readOk (o : Op) : Bool :=
  let xp := o.args.headD 0 = 1
  let tot := o.recs.foldl (fun n r => n + r.off) 0
  o.recs.all (fun r => r.idx + r.off ≤ (if xp then 98304 else 4096)) && tot ≤ (if xp then 8192 else 256) && o.readSize ≤ o.args.getD 3 0

/-- Status of an operation before a CSN is assigned, with its effective target: host h, of the twin partner or not, at
acceptance index x. -/
def State.acceptStatus (s : State) (h : Nat) (p : Bool) (x : Nat) (o : Op) : Nat × Op :=
  let timed := o.writes || o.kind = .clipPlay || o.kind = .clipStop
  let tgt := if timed then target x o.next (if o.next then (x : Int) else extend o.width x o.t) else some (x + 24, false)
  match tgt with
  | none => (stBadArg, o)
  | some (t, late) =>
    let o := { o with t := t, late := late, csn := s.nextCsn, host := h }
    let full := 256 ≤ s.mix.ops.length
    match o.kind with
    | .release =>
      let c := o.args.headD 0
      (if c ≠ 0 ∧ !(s.claimsOf h p).any (fun k => k.csn = c && !k.expired) then stBadArg else if full then stNoSpace else stOk, o)
    | .claim =>
      (if !o.recs.all (fun r => r.idx + r.off ≤ 4096) then stBadArg
       else if o.recs.any (fun r => s.mix.claims.any fun k => !(k.host = h && k.partner = p) &&
           k.ranges.any fun q => overlap q.1 q.2 r.idx r.off) then stClaimed
       else if full ∨ 16 ≤ (s.claimsOf h p).length ∨ 64 ≤ s.mix.claims.length then stNoSpace else stOk, o)
    | .readState => (if !o.readOk then stBadArg else if full then stNoSpace else stOk, o)
    | .clipPlay =>
      let o := s.withProgram o
      (if !s.clipOk o then stBadArg else if full then stNoSpace else stOk, o)
    | .clipStop => (if (playerOf (o.args.headD 0)).isNone then stBadArg else if full then stNoSpace else stOk, o)
    | _ => (if !s.acceptOk o then stBadArg else if s.claimed h p o then stClaimed else if full then stNoSpace else stOk, o)

/-- Claims after an accepted CLAIM or RELEASE. -/
def State.claimEffect (s : State) (h : Nat) (p : Bool) (o : Op) : State :=
  match o.kind with
  | .claim =>
    let l := o.args.headD 0
    { s with mix := { s.mix with
      claims := s.mix.claims ++ [⟨o.csn, h, p, o.recs.map fun r => (r.idx, r.off), if l = 0 then 500 else l, false⟩] } }
  | .release => s.dropClaims fun c => c.host = h && c.partner = p && (o.args.headD 0 = 0 || c.csn = o.args.headD 0)
  | _ => s

/-- A descriptor with NREC as its operation has it, which closes a batch (R65, R391, R392). -/
def withNrec (o : Op) (b : List Byte) : List Byte :=
  if o.kind = .commit then b.take 0x18 ++ natLe 2 o.recs.length ++ b.drop 0x1A else b

/-- An operation with its CSN enters the sequence: leases restart, the journal takes it, what is not done at once is pending. -/
def State.enter (s : State) (h : Nat) (p : Bool) (d : List Byte) (o : Op) : State :=
  let s := (s.takeCsn.renewAll h p).claimEffect h p o
  let s := if s.journals then s.jput fun j =>
      .op j (BitVec.ofNat 48 o.csn) (jHost h p) (BitVec.ofNat 64 o.t) (withNrec o d) o.data else s
  if o.kind = .claim ∨ o.kind = .release ∨ (p ∧ o.kind = .readState) then s
  else s.addOp o

/-- Status as a host's version gives it (R232). -/
def verStatus (ver st : Nat) : Nat := if st = stClaimed ∧ ver = 1 then stBusy else st

/-- The oldest request of a ring. -/
def HostPort.firstReq (x : HostPort) (q : Nat) : Option (Desc × Op) :=
  x.descs.findSome? fun d => if d.ring = q then d.req.map fun o => (d, o) else none

/-- The index fields of a forwarded descriptor: TARGET as extended, at 48 bits (R391, notes/assumptions/44.md). -/
def fwdDesc (d : Desc) (o : Op) (x : Nat) : List Byte :=
  let b := withNrec o d.bytes
  if hasShape d.opc ∧ !o.next then b.take 0x20 ++ natLe 6 (extend o.width x o.t).toNat ++ [0, 0] ++ b.drop 0x28 else b

/-- A standby forwards an operation (R391). -/
def State.forward (s : State) (h : Nat) (d : Desc) (o : Op) (x : Nat) : State :=
  let t := s.twin
  let s := s.twinSet { t with fwdNext := (t.fwdNext + 1) % 2 ^ 32, fwds := t.fwds ++ [⟨t.fwdNext, d.ticket h, o, none, none⟩] }
  (s.setDesc h (d.ticket h) fun d => { d with accepted := true, req := none }).hitch 0x10 [t.fwdNext, h] (fwdDesc d o x ++ o.data)

/-- Acceptance or refusal of one operation of an own host at index x (R62, R74). -/
def State.acceptOwn (s : State) (h : Nat) (d : Desc) (o : Op) (x : Nat) : State :=
  let r := s.acceptStatus h false x o
  if r.1 ≠ stOk then
    let s := if r.1 = stClaimed then s.count cClaimRej else s
    s.finish h d (verStatus (s.hst h).ver r.1) 0
  else
    let s := (s.enter h false d.bytes r.2).setDesc h (d.ticket h) fun d => { d with accepted := true, req := none }
    if o.kind = .claim ∨ o.kind = .release then s.finish h d stOk r.2.csn else s

/-- The oldest request of a ring reaches the commit engine at index x; `hits`: what the read of its tone program meets. -/
def State.accept (s : State) (h q x : Nat) (hits : MemHits) : State :=
  match (s.hst h).firstReq q with
  | none => s
  | some (d, o) =>
    if o.stage then let r := s.stagePart o; r.2.finish h d r.1 0
    else
      let c := if o.kind = .commit then s.closeBatch o else (some o, s)
      match c.1 with
      | none => c.2.finish h d stAborted 0
      | some o =>
        let s := c.2
        let own := (d.req.map (·.recs)).getD []
        if !s.mix.act then s.finish h d stAborted 0
        else if own.length < o.recs.length ∧ 4096 < o.recs.length then
          s.finish h d (if own.all CRec.formOk then stNoSpace else stBadArg) 0
        else if s.twin.st = 4 ∧ s.twin.paired then s.forward h d o x
        else
          let p := s.programRead o hits
          if p.1 then p.2.acceptOwn h d o x else p.2.finish h d stFault 0

/-! ### Completion (R72, R74, R86, R138) -/

/-- Status of an operation whose effects are done. -/
def Op.status (o : Op) (unc : Bool) : Nat :=
  if o.kind = .readState then (if o.aborted then stAborted else stOk)
  else if o.failed then stBadArg else if unc then stFault else if o.lost then stSuper else if o.late then stLate else stOk

/-- What the completion counts (R91). -/
def State.countDone (s : State) (o : Op) (st : Nat) : State :=
  let s := if st = stLate then s.count cLate else s
  if st = stSuper ∧ o.writes then s.count cSupersede else s

/-- An operation may complete. -/
def State.opReady (s : State) (o : Op) : Bool :=
  match o.kind with
  | .readState => o.part2
  | .clipPlay => o.part1
  | .clipStop => o.part1
  | _ => o.part1 && (o.failed || s.opDone o)

/-- The completion of an accepted operation is posted to its host, or reported to the standby that forwarded it (R391). -/
def State.opPost (s : State) (o : Op) (st delay csn : Nat) : State :=
  match o.fwd with
  | some f =>
    if s.twin.st = 4 then
      (s.twinSet { s.twin with fwds := s.twin.fwds.filter fun g => g.id ≠ f }).post ⟨o.host, o.ring, o.cookie⟩ st delay csn
    else s.hitch 0x12 [f, st + 256 * min delay 255] []
  | none => s.post ⟨o.host, o.ring, o.cookie⟩ st delay csn

/-- The Mix section stops: what was accepted after its EN was cleared is not applied any more and completes ABORTED, its one
completion (R74, R485). DEDUCED (notes/assumptions/73.md): with CSN 0, as the table of R74 gives ABORTED. -/
def State.abortOps (s : State) : State :=
  s.mix.ops.foldl (fun s o => s.opPost o stAborted 0 0) { s with mix := { s.mix with ops := [] } }

/-- Completion of a pending operation; `hits`: what the table engine's write-backs met (R258, R279). -/
def State.opComplete (s : State) (o : Op) (hits : MemHits) : State :=
  let s : State := { s with mix := { s.mix with ops := s.mix.ops.filter fun a => a.csn ≠ o.csn } }
  let wrote := o.writes && !o.failed
  let st := o.status (hitsFail hits && wrote)
  let s := if wrote then s.found 10 s.ctBase hits else s
  let s := if o.ring = 8 ∧ o.fwd.isNone then s else s.countDone o st
  let w := if o.kind = .readState ∧ st = stOk then s.devWrite o.host (o.args.getD 1 0) o.data false else (true, s)
  let st := if w.1 then st else stFault
  let st := if o.fwd.isSome ∧ s.twin.st = 4 ∧ st = stOk then stFwd else st
  w.2.opPost o st o.delay o.csn

/-- COMMIT_COMPLETION_POST. -/
def State.complete (s : State) (csn : Nat) (hits : MemHits) : State :=
  match s.opOf csn with
  | none => s
  | some o => if s.opReady o then s.opComplete o hits else s

end Sys2Proof.Machine
end

