-- ==== Sys2Proof/Machine/Twin.lean ====
section
/-! DEFINITION. Twin operation (R376 to R401): pairing and roles, drive and lease, give-up, takeover, handover, forwarding,
journal and checkpoints. Messages are taken and given whole (notes/assumptions/45.md). -/

namespace Sys2Proof.Machine

abbrev cHit (k : Nat) : Nat := wStr + 0x4060 + 4 * k

def State.hitEn (s : State) : Bool := s.rwBit rHitCfg 31
def State.hitHome (s : State) : Bool := s.rwBit rHitCfg 30

/-- A give-up cause is recorded (R388). -/
def State.causeRecorded (s : State) : Bool := s.scBit rHitStat 22

/-- READY of a standby (R388). -/
def State.ready (s : State) : Bool := !s.causeRecorded && s.twin.sync = 2

/-- The drive changes at the next boundary (R377). -/
def State.driveNext (s : State) (on : Bool) : State := s.twinSet { s.twin with driveAt := some (s.tim.nsc + 12, on) }

/-- HIT_CFG.EN may be set (R378). -/
def State.hitMayEnable (s : State) (w : Word) : Bool :=
  s.prpOn (b2n (w.getLsbD 27)) && (s.peer (s.rwBits (wStr + 0x4008) 0 14)).isSome && !s.ckErr

/-- Twin operation starts: SEEKING, without drive from the next boundary (R376, R382). -/
def State.hitStart (s : State) : State :=
  let t := s.twin
  (s.twinSet { Twin.reset with
    st := 1, drive := t.drive, fseq := t.fseq, jsn := t.jsn, ckno := t.ckno, maxCsn := t.maxCsn, lastLatch := t.lastLatch }).driveNext false

/-- The last RENEW stays without a counted ACK: a newer one follows, or the unit leaves ACTIVE (R383, R401). -/
def State.missAck (s : State) : State :=
  if s.twin.st = 3 && !s.twin.acked then (s.twinSet { s.twin with acked := true }).count (cHit 1) else s

/-- EN cleared: the device is no twin and drives from the next boundary. -/
def State.hitStop (s : State) : State :=
  let s := s.missAck
  (s.twinSet { Twin.reset with drive := s.twin.drive, fseq := s.twin.fseq, jsn := s.twin.jsn, ckno := s.twin.ckno }).driveNext true

/-! ### Pairing (R380 to R382) -/

/-- DIGEST (R381). -/
def State.digest (s : State) : Nat :=
  let w (o : Nat) (err : Bool) : List Byte := wordBytes (s.rw (wMix + o) ||| fld 31 1 (b2n err))
  crc32 (w 0x0100 s.ctErr ++ w 0x0104 s.xpErr ++ w 0x018C s.znErr ++ w 0x0170 s.mtrErr ++ w 0x0190 false)

/-- PAIR of a unit that is not paired. -/
def State.pairSend (s : State) : State :=
  if s.hitEn && !s.twin.paired then s.hitch 0x01 [3, b2n s.hitHome + 2 * s.twin.st, s.digest] [] else s

/-- First multiple of 48 at least n A-samples ahead of the present index. -/
def ahead48 (now n : Nat) : Nat := cdiv (now + n) 48 * 48

/-- Chunk n of a checkpoint (R393): tables, then one chunk for each pending operation. -/
def State.chunk (s : State) (n : Nat) : List Byte :=
  if n < 2048 then s.mem.bulk.getN (s.ctBase + 1024 * n) 1024
  else if n < 3584 then s.mem.bulk.getN (s.xpBase + 1024 * (n - 2048)) 1024
  else if n < 3616 then s.mem.bulk.getN (s.znBase + 1024 * (n - 3584)) 1024
  else match s.mix.ops[n - 3616]? with
    | some o =>
      let k := match o.kind with
        | .commit => 0
        | .recall => 1
        | .clipPlay => 2
        | .clipStop => 3
        | _ => 4
      fit 1024 0 (Config.opChunk ([o.csn, k, o.host, o.t, o.n, o.shape, o.recs.length] ++ o.args))
    | none => List.replicate 1024 0

/-- One CKPT frame. -/
def State.sendChunk (s : State) (n : Nat) : State :=
  let d := s.chunk n
  s.hitch 0x30 [s.twin.ckno, n, crc32 d] d

/-- A whole checkpoint with its SEAL (R393): its chunks are read in one step (notes/assumptions/45.md), and its frames leave at the
pacing of R378. -/
def State.checkpoint (s : State) : State :=
  if !s.journals then s
  else
    let s := s.twinSet { s.twin with ckno := (s.twin.ckno + 1) % 2 ^ 32 }
    let n := 3616 + s.mix.ops.length
    let start := s.twin.jsn
    let all := (upTo n).flatMap s.chunk
    let s := (upTo n).foldl State.sendChunk s
    s.hitch 0x31 [s.twin.ckno, start, (start + 2 ^ 48 - 1) % 2 ^ 48, crc32 all] []

/-- The unit becomes ACTIVE at pairing. -/
def State.pairActive (s : State) (driving : Bool) : State :=
  let s := s.missAck
  (s.twinSet { s.twin with
    st := 3, paired := true, sync := 0, pready := false, cready := false, acked := true, free := driving, lease := 0, ackAt := none, guReps := []
    hand := none }).checkpoint

/-- The unit becomes STANDBY: nothing is in step yet, and with different digests nothing will be (R381). -/
def State.beStandby (s : State) : State :=
  let s := s.missAck
  let t := s.twin
  s.twinSet { t with
    st := 4, paired := true, sync := if t.cfgmm then 0 else 1, ackAt := none, sealed := false, chunks := [], sealMsg := none
    ahead := [], jbase := [], jnext := t.jsn, due := false, guPend := false, pready := false, cready := false, replay := false
    free := false, hand := none, lastCsn := 0 }

/-- Roles of the pair, the partner in a state (R381). -/
def State.pairRoles (s : State) (st : Nat) : State :=
  let mine : Bool := s.twin.st = 2 || (s.twin.st = 3 && s.twin.drive)
  let its : Bool := st = 2 || st = 3
  if mine && (!its || s.hitHome) then s.pairActive true
  else if !mine && !its && s.hitHome then s.pairActive false
  else
    let n := s.now
    let s := n.2.2
    (if mine then s.twinSet { s.twin with driveAt := some (ahead48 n.1 96, false) } else s).beStandby

/-- A frame of the partner other than PAIR ends HELD (R382): the units pair by their version and digests as agreed before, the partner
in the state that sends such a frame (R380; notes/assumptions/47.md). -/
def State.heard (s : State) (st : Nat) : State := if s.twin.st = 5 ∧ s.hitEn then s.pairRoles st else s

/-- A received PAIR (R376, R381). -/
def State.pairIn (s : State) (vmask : Nat) (home : Bool) (st dig : Nat) : State :=
  if !s.hitEn then s
  else if home = s.hitHome then s.twinSet { s.twin with roleErr := true }
  else if vmask % 4 = 0 then s.twinSet { s.twin with roleErr := false, verFail := true }
  else
    let mm : Bool := dig ≠ s.digest
    (s.twinSet { s.twin with roleErr := false, verFail := false, ver := if bit vmask 1 then 2 else 1, cfgmm := mm }).pairRoles st

/-- No Hitch frame for 200 ms in SEEKING (R382). -/
def State.seekTimeout (s : State) : State :=
  if s.twin.st = 1 then (s.twinSet { s.twin with st := 2 }).driveNext true else s

/-- HOLDT without a Hitch frame in HELD (R382). -/
def State.heldTimeout (s : State) : State :=
  if s.twin.st = 5 ∧ s.rwBit rHitCfg 28 then (s.twinSet { s.twin with st := 2 }).driveNext true else s

/-! ### Lease (R383 to R385) -/

/-- RENEW at a block number that is a multiple of 4. -/
def State.renewSend (s : State) : State :=
  if s.twin.st = 3 ∧ s.twin.paired ∧ s.tim.nsc % 48 = 0 then
    let s := s.missAck
    let n := (s.twin.rseq + 1) % 2 ^ 32
    (s.twinSet { s.twin with rseq := n, acked := false, sentAt := s.tim.nsc }).hitch 0x02 [n] []
  else s

/-- A standby answers RENEW and records the time of its ACK. -/
def State.renewIn (s : State) (rseq : Nat) : State :=
  if s.twin.st = 4 ∧ s.twin.paired then
    let n := s.now
    let s := n.2.2
    (s.twinSet { s.twin with ackAt := some n.1 }).hitch 0x03 [rseq, b2n s.ready, s.twin.sync] []
  else s

/-- An ACK tells READY and SYNC (R399), and counts when it answers the last RENEW within 500 us. -/
def State.ackIn (s : State) (rseq : Nat) (ready : Bool) (sync rtt : Nat) : State :=
  if s.twin.st ≠ 3 ∨ !s.twin.paired then s
  else
    let t := { s.twin with pready := ready, sync := sync }
    if t.rseq = rseq ∧ !t.acked ∧ rtt ≤ 500 then
      let s := s.twinSet { t with
        acked := true, lease := t.sentAt + 192, free := false, cready := ready, rtt := rtt, rttMax := max t.rttMax rtt }
      if t.drive ∨ t.driveAt.isSome then s else s.driveNext true
    else s.twinSet t

/-- The lease ends at the boundary to come: no drive, HELD, partner claims end (R384). -/
def State.leaseEnd (s : State) : State :=
  let t := s.twin
  if t.st = 3 ∧ t.drive ∧ !t.free ∧ t.lease ≤ s.tim.nsc + 12 then
    let s := s.missAck
    let s := ((s.twinSet { s.twin with st := 5, paired := false }).driveNext false).scSet rHitStat 21
    if s.mix.claims.any (·.partner) then s.takeCsn.dropClaims (·.partner) else s
  else s

/-! ### Takeover (R385, R388, R394) -/

/-- Forwarded operations when the former active unit is gone (R394). DESIGN CHOICE (notes/assumptions/46.md): those under way at a
handover go the same way. -/
def State.settleFwds (s : State) : State :=
  let fs := s.twin.fwds
  let last := s.twin.lastCsn
  let s := s.twinSet { s.twin with fwds := [] }
  fs.foldl (fun s f =>
    match f.csn with
    | some c =>
      if last < c then s.post f.ticket stLost 0 c
      else if s.mix.ops.any fun o => o.csn = c then
        { s with mix := { s.mix with ops := s.mix.ops.map fun o =>
          if o.csn = c then { o with ring := f.ticket.ring, cookie := f.ticket.index, host := f.ticket.host, fwd := none } else o } }
      else s.post f.ticket stFwd 0 c
    | none => s.setDesc f.ticket.host f.ticket fun d => { d with accepted := false, req := some f.op }) s

/-- The standby takes over; partner claims stay after a GIVEUP and end after a lease expiry (R391). -/
def State.takeOverTwin (s : State) (st : Nat) (keep : Bool) : State :=
  let t := s.twin
  let s := s.scSet rHitStat 23
  let s := if t.sealed then s else s.scSet rHitStat 19
  let s : State := { s with mix := { s.mix with csn := max s.mix.csn t.maxCsn } }
  let s := (s.twinSet { s.twin with
    st := st, paired := keep, chunks := [], sealMsg := none, ahead := [], jsn := t.jnext, acked := true, free := keep, pready := false
    cready := false, replay := true, sync := 0, hand := none }).driveNext true
  let s := if keep then s else s.dropClaims (·.partner)
  s.settleFwds

/-- Lease expiry at the boundary to come (R385). -/
def State.leaseTakeover (s : State) : State :=
  match s.twin.ackAt with
  | some a => if s.twin.st = 4 ∧ s.twin.paired ∧ a + 240 ≤ s.tim.nsc + 12 then s.takeOverTwin 2 false else s
  | none => s

/-- A received GIVEUP (R386, R388). -/
def State.giveupIn (s : State) (g : Nat) : State :=
  if s.twin.st = 4 ∧ s.twin.paired then
    let s := s.takeOverTwin 3 true
    if g + 36 < s.tim.nsc + 12 then s.scSet rHitStat 20 else s
  else s

/-- A unit that took over on GIVEUP has counted no ACK within HOLDT (R388). -/
def State.ackTimeout (s : State) : State :=
  if s.twin.st = 3 ∧ s.twin.free then
    let s := s.missAck
    s.twinSet { s.twin with st := 2, paired := false, free := false }
  else s

/-- The give-up at the boundary to come (R388); as a standby the unit asks for a checkpoint (notes/assumptions/46.md). -/
def State.giveUpNow (s : State) : State :=
  let t := s.twin
  if t.st = 3 ∧ t.cready ∧ (t.due ∨ t.guPend) then
    let g := s.tim.nsc + 12
    let s := s.driveNext false
    let s := s.hitch 0x04 [g, t.cause] []
    let s := s.beStandby.askAll
    s.twinSet { s.twin with guReps := [(g, g + 12), (g, g + 24), (g, g + 36)] }
  else s

/-! ### Handover (R395) -/

/-- The home standby asks for a handover. -/
def State.handAsk (s : State) : State :=
  if s.twin.st = 4 ∧ s.twin.paired ∧ s.hitHome ∧ s.twin.hand = none then
    let n := s.now
    let h := ahead48 n.1 96
    (n.2.2.twinSet { n.2.2.twin with hand := some (h, false) }).hitch 0x05 [h] []
  else s

/-- A received HANDOVER. -/
def State.handIn (s : State) (h : Nat) : State :=
  if !s.twin.paired then s
  else
    let n := s.now
    let s := n.2.2
    let ok : Bool := s.twin.st = 3 && n.1 + 48 ≤ h
    let s := s.hitch 0x06 [h, b2n ok] []
    if s.twin.st = 3 then s.twinSet { s.twin with hand := some (h, ok) } else s

/-- A received HANDACK. -/
def State.handAck (s : State) (h : Nat) (ok : Bool) : State :=
  match s.twin.hand with
  | some (g, a) =>
    if s.twin.st = 4 ∧ g = h then
      if ok then s.twinSet { s.twin with hand := some (h, true), driveAt := some (h, true) }
      else if a then s else s.twinSet { s.twin with hand := none }
    else s
  | none => s

/-- The twin state of a unit that takes over at block h. -/
def Twin.assume (t : Twin) (h : Nat) : Twin :=
  { t with
    st := 3, drive := true, driveAt := none, lease := h + 192, acked := true, free := false, pready := false, cready := false, sync := 0
    jsn := t.jnext, ahead := [], chunks := [], sealMsg := none }

/-- A standby takes over at block h; its CSN goes on from the highest it has seen (notes/assumptions/46.md). -/
def State.assume (s : State) (h : Nat) : State :=
  { s.twinSet (s.twin.assume h) with mix := { s.mix with csn := max s.mix.csn s.twin.maxCsn } }

/-- Roles at the handover boundary, and repeats of HANDACK before it. -/
def State.handBoundary (s : State) : State :=
  match s.twin.hand with
  | none => s
  | some (h, ok) =>
    if s.tim.nsc < h then (if s.twin.st = 3 then s.hitch 0x06 [h, b2n ok] [] else s)
    else
      let t := s.twin
      let s := s.twinSet { t with hand := none }
      if !ok then s
      else if t.st = 3 then (s.twinSet { s.twin with drive := false }).beStandby.askAll
      else if t.st = 4 then (s.assume h).settleFwds
      else s

/-- The twin's part of a block boundary: drive changes, repeats of GIVEUP, handover. -/
def State.twinBoundary (s : State) : State :=
  let s := match s.twin.driveAt with
    | some (n, v) => if n ≤ s.tim.nsc then s.twinSet { s.twin with drive := v, driveAt := none } else s
    | none => s
  let s := (s.twin.guReps.filter fun r => r.2 ≤ s.tim.nsc).foldl (fun s r => s.hitch 0x04 [r.1, s.twin.cause] []) s
  (s.twinSet { s.twin with guReps := s.twin.guReps.filter fun r => s.tim.nsc < r.2 }).handBoundary

/-! ### Forwarding (R391) -/

/-- A forwarded operation reaches the active unit: acceptance for partner host h. -/
def State.fwdIn (s : State) (id h : Nat) (desc data : List Byte) (x : Nat) : State :=
  if s.twin.st ≠ 3 ∨ !s.twin.paired then s
  else
    let d : Desc := ⟨8, 0, desc, true, false, none⟩
    match mkOp 3 h d data with
    | .error st => s.hitch 0x11 [id, 0, st] []
    | .ok o =>
      if !s.mix.act then s.hitch 0x11 [id, 0, stAborted] []
      else
        let r := s.acceptStatus h true x { o with ring := 8, fwd := some id, width := 48 }
        if r.1 ≠ stOk then
          let s := if r.1 = stClaimed then s.count cClaimRej else s
          s.hitch 0x11 [id, 0, r.1] []
        else
          let s := (s.enter h true desc r.2).hitch 0x11 [id, r.2.csn, stOk] []
          if o.kind = .claim ∨ o.kind = .release ∨ o.kind = .readState then s.hitch 0x12 [id, stOk] [] else s

/-- A forwarded operation completes at the standby once FWDCPL has come and its record has been applied; STATUS brings the start
delay in its upper byte (R74, R224). -/
def State.fwdTry (s : State) (id : Nat) : State :=
  match s.twin.fwds.find? fun f => f.id = id with
  | none => s
  | some f =>
    match f.csn, f.status with
    | some c, some st =>
      if c ≤ s.twin.lastCsn ∧ f.op.kind ≠ .readState then
        (s.twinSet { s.twin with fwds := s.twin.fwds.filter fun g => g.id ≠ id }).post f.ticket
          (if st % 256 = stOk then stFwd else st % 256) (st / 256) c
      else s
    | _, _ => s

/-- A READ_STATE of this unit is served from its own tables once its record, of this CSN and target, has been applied (R86, R391). -/
def State.serveRead (s : State) (f : Fwd) (csn t : Nat) : State :=
  if f.op.kind = .readState then
    { s with mix := { s.mix with ops := s.mix.ops ++ [{ f.op with
      csn := csn, t := t, fwd := some f.id, ring := f.ticket.ring, cookie := f.ticket.index, host := f.ticket.host }] } }
  else s

/-- Target in an applied record of this CSN. -/
def State.jTarget (s : State) (csn : Nat) : Option Nat :=
  s.twin.jbase.findSome? fun r => match r with
    | .op _ c _ t _ _ => if c.toNat = csn then some t.toNat else none
    | _ => none

/-- A received FWDREPLY; the operation's record may have been applied before. -/
def State.fwdReply (s : State) (id csn st : Nat) : State :=
  match s.twin.fwds.find? fun f => f.id = id with
  | none => s
  | some f =>
    if st ≠ stOk then
      (s.twinSet { s.twin with fwds := s.twin.fwds.filter fun g => g.id ≠ id }).post f.ticket (verStatus (s.hst f.ticket.host).ver st) 0 0
    else
      let s := s.twinSet { s.twin with
        maxCsn := max s.twin.maxCsn csn
        fwds := s.twin.fwds.map fun g => if g.id = id then { g with csn := some csn } else g }
      ((s.jTarget csn).elim s fun t => s.serveRead f csn t).fwdTry id

/-- A received FWDCPL. -/
def State.fwdDone (s : State) (id st : Nat) : State :=
  (s.twinSet { s.twin with fwds := s.twin.fwds.map fun g => if g.id = id then { g with status := some st } else g }).fwdTry id

/-- A received HFAULT (R391). -/
def State.hfaultIn (s : State) (h : Nat) : State :=
  if s.twin.st = 3 ∧ !(s.claimsOf h true).isEmpty then
    (s.takeCsn.dropClaims fun c => c.host = h && c.partner).jRelease h true
  else s

/-! ### Journal (R392) -/

/-- Bytes that replication writes into the live tables: cached copies become stale. -/
def State.replWrite (s : State) (a : Nat) (bs : List Byte) : State :=
  let s := s.engWrite a bs
  if !s.mixEn then s
  else
    let hit := s.itemsAt a bs.length
    let all := hit ++ (hit.flatMap fun i => match i with
      | .xp k => s.ownersOf k
      | _ => [])
    { s with mix := { s.mix with stale := addNew s.mix.stale all } }

/-- A journal record applied by the standby's commit engine. -/
def State.applyJ (s : State) (r : JRec) : State :=
  match r with
  | .write _ a bs => s.replWrite a.toNat bs
  | .op _ c j tgt desc data =>
    let csn := c.toNat
    let h := j.val % 4
    let its : Bool := j.val < 4
    let own := s.twin.fwds.find? fun f => f.csn = some csn
    let s : State := { s with mix := { s.mix with csn := csn } }
    let s := s.twinSet { s.twin with lastCsn := csn, maxCsn := max s.twin.maxCsn csn }
    match mkOp 3 h ⟨8, 0, desc, true, true, none⟩ data with
    | .error _ => s
    | .ok o =>
      let flat : Bool := s.twin.ver = 1 && o.shape ≠ 0
      let s := if flat then s.count (cHit 3) else s
      let clip : Bool := o.kind = .clipPlay || o.kind = .clipStop
      let e := if clip then s.tim.nsc + 12 else if o.recs.any CRec.first then s.tim.nsc else s.tim.nsc - 12
      let late : Bool := (o.writes || clip) && tgt.toNat < e
      let s := if late then s.count (cHit 2) else s
      let o := { o with
        csn := csn, ring := 8, host := h, t := if late then e else tgt.toNat, shape := if flat then 0 else o.shape }
      let s := (s.renewAll h its).claimEffect h its o
      let s := if o.writes || clip then s.addOp o else s
      (match own with
       | some f => (s.serveRead f csn tgt.toNat).fwdTry f.id
       | none => s)

/-- The record with the next JSN is applied and kept among the last 65,536. -/
def State.nextJ (s : State) (r : JRec) : State :=
  let s := (s.applyJ r).jkeep r
  s.twinSet { s.twin with jnext := (s.twin.jnext + 1) % 2 ^ 48, jbase := (s.twin.jbase ++ [r]).drop (s.twin.jbase.length + 1 - 65536) }

/-- Records ahead that have become contiguous. -/
def State.drainJ (s : State) : Nat → State
  | 0 => s
  | n + 1 =>
    match s.twin.ahead.find? fun r => (jsnOf r) = s.twin.jnext with
    | none => s
    | some r => ((s.twinSet { s.twin with ahead := s.twin.ahead.filter fun q => (jsnOf q) ≠ (jsnOf r) }).nextJ r).drainJ n

/-- JSN a lies before b in the 48-bit sequence. -/
def jBefore (a b : Nat) : Bool := a ≠ b && (b + 2 ^ 48 - a) % 2 ^ 48 < 2 ^ 47

/-! ### Checkpoints at the standby (R393) -/

/-- Every journal record from a JSN through another is held, applied or ahead. -/
def State.jHolds (s : State) (a b : Nat) : Bool :=
  let n := (b + 1 + 2 ^ 48 - a) % 2 ^ 48
  n ≤ 131072 && (upTo n).all fun k => (s.twin.jbase ++ s.twin.ahead).any fun r => jsnOf r = (a + k) % 2 ^ 48

/-- Chunks that must be there, by those that have come. -/
def State.ckTop (s : State) : Nat := s.twin.chunks.foldl (fun n k => max n (k + 1)) 3616

/-- Chunks of that number that have not come. -/
def State.ckMissing (s : State) : List Nat := (upTo s.ckTop).filter fun k => k ∉ s.twin.chunks

/-- All the chunks that have come agree with SEAL's CRC. -/
def State.ckAgrees (s : State) (crc : Nat) : Bool := crc32 (s.mem.bulk.getN s.ckBase (1024 * s.ckTop)) = crc

/-- The verified chunks are complete, their data agree with SEAL, and the journal is contiguous from START to END. -/
def State.ckWhole (s : State) : Bool :=
  match s.twin.sealMsg with
  | none => false
  | some (ck, start, e, crc) => ck = s.twin.ckno && s.ckMissing.isEmpty && s.ckAgrees crc && s.jHolds start e

/-- The standby asks again for the chunks that are missing; where none is and SEAL's CRC does not match, for one more, which may be
that of a pending operation (R393). -/
def State.ckAsk (s : State) : State :=
  match s.twin.sealMsg with
  | none => s
  | some (ck, _, _, crc) =>
    let ks := if !s.ckMissing.isEmpty then s.ckMissing else if s.ckAgrees crc || 4096 ≤ s.ckTop then [] else [s.ckTop]
    ks.foldl (fun s k => s.hitch 0x32 [ck, k] []) s

/-- Kind of an operation in a chunk. -/
def opKindOf (k : Nat) : OpKind := if k = 0 then .commit else if k = 1 then .recall else if k = 2 then .clipPlay else .clipStop

/-- A pending operation of a checkpoint. -/
def chunkOp (d : List Byte) : Op :=
  let f := Config.chunkField d
  let o := Op.mk0 (opKindOf (f 1 % 4)) (f 2 % 4) 8 0 (f 3)
  { o with
    csn := f 0, n := f 4, shape := f 5 % 3
    recs := (upTo (f 6 % 4097)).map fun i =>
      ⟨f (7 + 5 * i), f (8 + 5 * i), f (9 + 5 * i), BitVec.ofNat 32 (f (10 + 5 * i)), BitVec.ofNat 32 (f (11 + 5 * i))⟩
    args := (upTo 8).map f }

/-- A journal record re-applied to the tables: writes, and commits whose parts are written back. -/
def State.redoJ (s : State) (r : JRec) : State :=
  match r with
  | .write _ a bs => s.replWrite a.toNat bs
  | .op _ c h _ desc data =>
    match mkOp 3 h ⟨8, 0, desc, true, true, none⟩ data with
    | .error _ => s
    | .ok o =>
      if !o.writes ∨ s.mix.ops.any (fun p => p.csn = c.toNat && !p.part2) then s
      else { s with mem := { s.mem with bulk := o.recs.foldl s.execRec s.mem.bulk } }

/-- Where asked, the journal goes on at a JSN: what lies before is not awaited any more. -/
def State.fromJ (s : State) (start : Nat) (skip : Bool) : State :=
  let s := if skip then s.twinSet { s.twin with
    jnext := start, ahead := s.twin.ahead.filter fun r => !jBefore (jsnOf r) start } else s
  s.drainJ s.twin.ahead.length

/-- A sealed checkpoint is installed: the tables, and the journal from START on, a gap before which it closes (R393). -/
def State.ckInstall (s : State) : State :=
  if !s.ckWhole then s
  else
    let n := s.ckTop
    let start := (s.twin.sealMsg.getD (0, 0, 0, 0)).2.1
    let at_ (k m : Nat) := s.mem.bulk.getN (s.ckBase + 1024 * k) (1024 * m)
    let ops := ((upTo (n - 3616)).map fun k => chunkOp (at_ (3616 + k) 1)).filter fun o => !s.mix.ops.any fun p => p.csn = o.csn
    let ct := at_ 0 2048
    let xp := at_ 2048 1536
    let zn := at_ 3584 32
    let s := (s.replWrite s.ctBase ct).replWrite s.xpBase xp
    let s := if s.znOn then s.replWrite s.znBase zn else s
    let s : State := { s with mix := { s.mix with ops := s.mix.ops ++ ops } }
    let s := (s.twin.jbase.filter fun r => !jBefore (jsnOf r) start).foldl State.redoJ s
    let s := s.fromJ start (jBefore s.twin.jnext start)
    s.twinSet { s.twin with sync := 2, sealed := true, chunks := [], sealMsg := none }

/-- The unit takes part in replication as a standby. -/
def State.replicates (s : State) : Bool := s.twin.st = 4 && s.twin.paired && !s.twin.cfgmm

/-- A received CKPT chunk. -/
def State.ckptIn (s : State) (ck n : Nat) (d : List Byte) (crc : Nat) : State :=
  if !s.replicates then s
  else if crc32 d ≠ crc ∨ 4096 ≤ n then (s.count (cHit 4)).hitch 0x32 [ck, n] []
  else
    let s := if ck = s.twin.ckno then s else s.twinSet { s.twin with ckno := ck, chunks := [], sealMsg := none }
    let s := s.engWrite (s.ckBase + 1024 * n) d
    let s := s.twinSet { s.twin with
      chunks := if n ∈ s.twin.chunks then s.twin.chunks else n :: s.twin.chunks
      maxCsn := if n < 3616 then s.twin.maxCsn else max s.twin.maxCsn (chunkOp d).csn }
    (if 3616 ≤ n ∧ s.ckMissing.isEmpty then s.ckAsk else s).ckInstall

/-- A received SEAL: the first one since pairing says where the journal starts. -/
def State.sealIn (s : State) (ck start e crc : Nat) : State :=
  if !s.replicates then s
  else
    let first : Bool := !s.twin.sealed && s.twin.sealMsg.isNone
    let s := s.twinSet { s.twin with
      ckno := ck, chunks := if ck = s.twin.ckno then s.twin.chunks else [], sealMsg := some (ck, start, e, crc) }
    (s.fromJ start first).ckAsk.ckInstall

/-- A received CKREQ. -/
def State.ckreqIn (s : State) (n : Nat) : State :=
  if !s.journals then s else if n = 0xFFFFFFFF then s.checkpoint else if n < 3616 + s.mix.ops.length then s.sendChunk n else s

/-- The highest CSN of journal records (R394). -/
def topCsn (rs : List JRec) : Nat :=
  rs.foldl (fun n r => match r with
    | .op _ c _ _ _ _ => max n c.toNat
    | _ => n) 0

/-- The active unit's journal store no longer reaches the next record: one that has come lies 65,536 or more further (R392). -/
def State.jFar (s : State) : Bool := s.twin.ahead.any fun r => 65536 ≤ ((jsnOf r) + 2 ^ 48 - s.twin.jnext) % 2 ^ 48

/-- Received journal records: applied in JSN order; on a gap JNACK, or a whole checkpoint once the store no longer reaches. -/
def State.jrnlIn (s : State) (rs : List JRec) : State :=
  if !s.replicates then s
  else
    let far := s.jFar
    let s := s.twinSet { s.twin with maxCsn := max s.twin.maxCsn (topCsn rs) }
    let s := rs.foldl (fun s r =>
      if !s.twin.sealed && s.twin.sealMsg.isNone then s.twinSet { s.twin with ahead := s.twin.ahead ++ [r] }
      else if jsnOf r = s.twin.jnext then s.nextJ r
      else if jBefore s.twin.jnext (jsnOf r) ∧ !(s.twin.ahead.any fun q => (jsnOf q) = (jsnOf r)) then
        s.twinSet { s.twin with ahead := s.twin.ahead ++ [r] }
      else s) s
    if !s.twin.sealed && s.twin.sealMsg.isNone then s
    else
    let s := s.drainJ s.twin.ahead.length
    (if s.twin.ahead.isEmpty then s
     else if !s.jFar then s.hitch 0x21 [s.twin.jnext] []
     else if far then s else s.askAll).ckInstall

/-- A received JNACK: records from a JSN on are sent again. -/
def State.jnackIn (s : State) (j : Nat) : State :=
  if s.journals then (s.twin.store.filter fun r => !jBefore (jsnOf r) j).foldl State.sendJ s else s

/-! ### Registers (R399, R400) -/

/-- HIT_STAT's RO bits. -/
def State.hitStat (s : State) : Word :=
  let t := s.twin
  fld 15 1 (b2n t.guPend) ||| fld 14 1 (b2n t.roleErr) ||| fld 13 1 (b2n t.verFail) ||| fld 12 1 (b2n t.cfgmm) ||| fld 8 4 t.cause |||
    fld 6 2 t.ver ||| fld 4 2 t.sync ||| fld 3 1 (b2n t.pready) ||| fld 0 3 t.st

/-- HIT_CTL write (R398): more than one bit set is ignored. -/
def State.hitCtl (s : State) (w : Word) : State :=
  match wbits w 0 3 with
  | 1 => s.giveCause 7
  | 2 => s.handAsk
  | 4 => if s.twin.st = 4 ∧ s.twin.paired then s.askAll else s
  | _ => s

/-- MIX_CLAIMSTAT's and HIT_PCLAIMSTAT's word (R90, R400). -/
def State.claimStat (s : State) (p : Bool) : Word :=
  (upTo 4).foldl (fun w h => w ||| fld (5 * h) 5 (s.claimsOf h p).length) 0

end Sys2Proof.Machine
end

