-- ==== Sys2Proof/Machine/Reset.lean ====
section
/-! DEFINITION. Resets, release and boot (R26, R426 to R444): what each scope resets and keeps, the order of release, firmware
slots and host push. -/

namespace Sys2Proof.Machine

/-! ### Sections (R26) -/

/-- Section n with every section that needs it, as a mask. -/
def needers (n : Nat) : Nat :=
  match n with
  | 0 => 0x3FF
  | 1 => 0x3FE
  | 4 => 0x3F0
  | 5 => 0x3E0
  | n => if n < 10 then 2 ^ n else 0

/-- The sections that a section needs. -/
def needsOf (n : Nat) : List Nat :=
  match n with
  | 0 => []
  | 1 => [0]
  | 2 => [0, 1]
  | 3 => [0, 1]
  | 4 => [0, 1]
  | 5 => [0, 1, 4]
  | _ => [0, 1, 5]

/-- Named sections with all that need them. -/
def closure (m : Nat) : Nat := (upTo 10).foldl (fun a n => if bit m n then a ||| needers n else a) 0

/-- Register window of a section. -/
def winOf (n : Nat) : Nat := if n < 4 then n + 1 else if n = 4 then 6 else if n = 5 then 5 else n + 1

/-- Registers return to their reset values. -/
def Regs.wipe (r : Regs) (p : Nat → Bool) : Regs :=
  { rw := r.rw.filter fun x => !p x.1, voteB := r.voteB.filter fun x => !p x.1, voteC := r.voteC.filter fun x => !p x.1
    ctrs := r.ctrs.filter fun x => !p x.1, scs := r.scs.filter fun x => !p x.1, caps := r.caps.filter fun x => !p x.1 }

def State.wipe (s : State) (p : Nat → Bool) : State := { s with regs := s.regs.wipe p }

/-- Reset word of a register: HIT_CFG takes HOME and PAIR from the strap in effect (R432). -/
def State.resetOf (s : State) (off : Nat) : Word :=
  if off = rHitCfg then resetWord off ||| fld 30 1 (b2n s.ctl.home) ||| fld 27 1 (b2n !s.ctl.pairsel) else resetWord off

/-- A memory of undefined contents (R429). -/
def State.lostMem (s : State) : Mem × State := (⟨[], some s.freeCtr⟩, { s with freeCtr := s.freeCtr + 1 })

/-! ### Section resets (R427) -/

/-- A host's session ends with its port (R87, R427). -/
def State.hostGone (s : State) (h : Nat) : State :=
  let s := s.faultClaims h
  let x := s.hst h
  let s : State := { s with mix := { s.mix with batches := s.mix.batches.filter fun b => b.host ≠ h }, net := s.net.dropHost h }
  (s.hstPut h { HostPort.reset with link := x.link, width := x.width, speed := x.speed, fetchNo := x.fetchNo }).dropHeads [h]

/-- Descriptors of a host's pending operations end with them, without a completion (R427). -/
def State.dropOps (s : State) (h : Nat) : State :=
  let x := s.hst h
  s.hstPut h { x with descs := x.descs.filter fun d =>
    !(s.mix.ops.any fun o => o.host = h && o.fwd.isNone && o.ring = d.ring && o.cookie = d.index) }

/-- An active twin unit stops its drive at once, without GIVEUP (R444). -/
def State.dropDrive (s : State) : State :=
  if s.twin.st = 3 then s.twinSet { s.twin with st := 5, drive := false, driveAt := none, paired := false, free := false } else s

/-- The pins of the Stream section rest as R431 has them until it drives them again: TDM ports as STOPPED ones (R360), DAC channels at
0 V (R361), but for what the bypass drives. -/
def State.streamPins (s : State) : State :=
  (upTo 8).foldl (fun s n => if s.acOnDac n then s else s.emit (.dac n [0])) ((upTo 16).foldl (fun s n => s.emitPins (Fin.ofNat 16 n)) s)

/-- One section returns to its reset state; `keep`: bulk memory is in self-refresh (R429). -/
def State.resetSec (keep : Bool) (s : State) (n : Nat) : State :=
  let w := winOf n
  let s := s.wipe fun o => o / 0x10000 = w
  match n with
  | 0 =>
    let r := if keep then (s.mem.bulk, s) else s.lostMem
    { r.2 with mem := MemSt.fresh r.1 s.mem.pool [false, false] [false, false] }
  | 1 => { s with tim := { Tim.reset with lock := s.tim.lock, die := s.tim.die, ext := s.tim.ext } }
  | 2 =>
    let s := (upTo 4).foldl State.hostGone s
    [2, 3].foldl State.irqOut { s with mem := { s.mem with busy := [false, false], begun := [false, false] } }
  | 3 =>
    let s : State := { s.dropHeads [9, 12] with net := Net.reset, tdm := Vector.replicate 16 Tdm.reset, dac := Dacs.reset, twin := Twin.reset }
    (s.rwSet rHitCfg (s.resetOf rHitCfg)).loseGone.streamPins
  | 4 => s.dropDrive
  | 5 =>
    let s := (upTo 4).foldl State.dropOps s
    { s.dropDrive.dropHeads [10, 11] with mix := Mix.reset, csnLatch := 0 }
  | n =>
    let d := n - 6
    let s := (drayLanes d).foldl State.dmaCut s
    (drayLanes d).foldl (fun s l => s.laneSet l Lane.empty) ((s.draySet d Dray.reset).dropHeads [5 + d])

/-- Sections of a mask reset, in ascending order. -/
def State.resetMask (s : State) (keep : Bool) (m : Nat) : State :=
  let s := ((upTo 10).filter fun n => bit m n).foldl (State.resetSec keep) s
  s.ctlSet { s.ctl with inrst := s.ctl.inrst ||| m }

/-! ### Core and full-chip resets (R427, R429) -/

/-- The Control section at a core reset: programming of a fuse and a sector write under way end with the old or the new value
(R405, R415), volatile keys are cleared, the debug port locks, the bypass ends. -/
def State.resetControl (s : State) : State :=
  let f := s.fresh
  let s := f.2
  let sec := s.sec
  let sec := { sec with
    keys := sec.keys.filter fun p => !keyVolatile p.1
    rb := (match sec.rbTo with
      | some v => if f.1 % 2 = 0 then sec.rb else v
      | none => sec.rb)
    rbTo := none, fw := ⟨3, 0, 0, []⟩, afail := 0, bfail := 0, refused := [], rngOk := true, rngValid := false, scope := 0, chal := none, fails := 0 }
  let s := match s.pea.busy with
    | some (k, bs) => if f.1 / 2 % 2 = 0 then s else s.peaWrite (4096 * k) bs
    | none => s
  let s : State := { s with
    sec := sec, pea := { s.pea with buf := none, busy := none }
    byp := { s.byp with pin := false, latch := false, weight := 0, up := false, turns := [], lost := false, fallback := false, blk := [], cap := [] } }
  s.wipe fun o => o < 0x10000 ∧ o ≠ 0x0004 ∧ o ≠ 0x0028

/-- BOOT, HOME and PAIRSEL from the strap, or from CTL_STRAP's overrides (R432, R453). -/
def State.applyStrap (s : State) : State :=
  let w := s.rw (wCtl + 0x0028)
  let ch := s.ctl.strap / 4
  let ov := w.getLsbD 31
  let s := s.ctlSet { s.ctl with
    boot := if ov then w.getLsbD 30 else bit ch 3
    home := if ov then w.getLsbD 29 else bit ch 2
    pairsel := if ov then w.getLsbD 28 else bit ch 1
    pcie2 := bit ch 0 }
  s.rwSet rHitCfg (s.resetOf rHitCfg)

/-- A core reset. -/
def State.coreReset (s : State) (keep : Bool) : State :=
  let s := (s.resetMask keep 0x3FF).resetControl
  let c := s.ctl
  (s.ctlSet { c with
    phase := 3, inrst := 0x3FF, auto := 0, stage := 0, pushErr := 0, pushLen := none, scope := 1, pos := 0, test := none, lastKind := 0
    lastPhys := 0, lastPass := false, rounds := 0, faulted := [] }).applyStrap

/-- A full-chip reset: links drop, overrides clear, the root starts again, the fuse load is to come. -/
def State.fullReset (s : State) (phase : Nat) : State :=
  let s := (s.wipe fun o => o = 0x0028).coreReset false
  let s : State := { s with
    hosts := Vector.replicate 4 HostPort.reset, byp := Bypass.reset, tim := { s.tim with lock := false } }
  s.ctlSet { s.ctl with phase := phase, scope := 2, banks33 := 0, strap := Ctl.reset.strap }

/-- A cause bit of CTL_RSTCAUSE. -/
def State.cause (s : State) (b : Nat) : State := s.scSet rRstCause b

/-- The wider of a scope and that of the release under way applies (R428). -/
def State.resetBy (s : State) (full keep : Bool) : State :=
  if full ∨ s.ctl.scope = 2 then s.fullReset (min s.ctl.phase 1) else s.coreReset keep

/-- A reset of named sections with those that need them, released without software except those held (R427, R428, R434). -/
def State.sectionsReset (s : State) (m held : Nat) (keep : Bool) : State :=
  if s.ctl.scope ≠ 0 then s.resetBy false keep
  else
    let c := closure m ||| s.ctl.auto
    let s := s.resetMask keep (closure m)
    let s := s.rwSet rSecRst (s.rw rSecRst ||| fld 0 10 held)
    let hold := (s.rw rSecRst).toNat
    s.ctlSet { s.ctl with auto := c &&& (0x3FF - (hold &&& 0x3FF)) }

/-- CTL_HOSTRST (R450) by host h. -/
def State.hostRst (s : State) (h : Nat) (w : Word) : State :=
  let sc := wbits w 22 2
  let m := wbits w 0 10
  if !s.awake ∨ wbits w 24 8 ≠ 0x5A ∨ sc = 3 ∨ (sc = 0 ∧ m = 0) then s
  else
    let s := if sc = 0 then s.sectionsReset m 0 true else s.resetBy (decide (sc = 2)) true
    (s.cause 12).capSet rRstCause (fld 18 2 h ||| fld 16 2 sc)

/-- Power-on: only POR, pool SRAM undefined (R429, R446). -/
def State.powerOn (s : State) : State :=
  let s := s.fullReset 0
  let p := s.lostMem
  let s : State := { p.2 with mem := { p.2.mem with pool := p.1 } }
  (s.wipe fun o => o < 0x10000).scPut rRstCause ⟨0, [(0, 0)]⟩

/-- Cause bit of a brown-out. -/
def railBit : Rail → Nat
  | .core => 3
  | .serdes => 4
  | .io => 5
  | .mem => 6
  | .mram => 7
  | .dac => 8

/-- A brown-out; pool SRAM is kept but for the core rail (R429). -/
def State.brownOut (s : State) (r : Rail) : State :=
  let s := s.fullReset 0
  let s := if r = .core then
      let p := s.lostMem
      { p.2 with mem := { p.2.mem with pool := p.1 } }
    else s
  s.cause (railBit r)

/-! ### Release (R433, R434) -/

/-- Time starts at NSC 0 with the Smoulder data of the Peatstore (R322, R339). -/
abbrev smoAddr : Nat := 5376 * 4096

def State.timRestore (s : State) : State :=
  let w (a : Nat) : Nat := s.pea.mem.le (smoAddr + 4 * a) 4
  let bins := ((upTo 166).map fun k => (k, BitVec.ofNat 32 (w k))).filter fun p => p.2 ≠ 0#32
  let f (k : Nat) : Int := sgn 128 (s.pea.mem.le (smoAddr + 1032 + 16 * k) 16)
  s.timSet (timRelease { s.tim with
    bins := bins, age := sgn 32 (w 0x100), mins := 60 * w 0x101, fit := ⟨f 0, f 1, f 2, f 3, f 4⟩ } s.tim.lock)

/-- The Stoker saves the Smoulder data in the device-state region (R339, R414). -/
def State.smoSave (s : State) : State :=
  let f := s.tim.fit
  if s.hasFree 3 then
    s.peaWrite smoAddr (((upTo 0x102).flatMap fun a => wordBytes (s.timIx a)) ++
      [f.n, f.t, f.y, f.tt, f.ty].flatMap fun v => natLe 16 (unsgn 128 v)) else s

/-- A section leaves reset. -/
def State.release (s : State) (n : Nat) : State :=
  let s := s.rwPutBit rSecRst n false
  let c := s.ctl
  let s := s.ctlSet { c with
    inrst := if bit c.inrst n then c.inrst - 2 ^ n else c.inrst, auto := if bit c.auto n then c.auto - 2 ^ n else c.auto }
  if n = 1 then s.timRestore else s

/-- What must be done before a section leaves reset: the sections it needs are out, and memory is trained (R26, R278). -/
def State.releasable (s : State) (n : Nat) : Bool :=
  ((needsOf n).all fun k => !bit s.ctl.inrst k) && (n = 0 || s.mem.trained)

/-- The stage of the boot. -/
def State.stage (s : State) (k : Nat) : State := s.ctlSet { s.ctl with stage := k }

/-- The next release: sections after a section reset, else the next step of the boot (R433, R435). -/
def State.releaseNext (s : State) : State :=
  if !s.awake then s
  else match (upTo 10).find? fun n => bit s.ctl.auto n && s.releasable n with
  | some n => s.release n
  | none =>
    let c := s.ctl
    if c.stage = 0 ∧ bit c.inrst 0 then (s.release 0).stage 1
    else if c.stage = 1 ∧ bit c.inrst 1 then (if s.releasable 1 then s.release 1 else s)
    else if c.stage = 1 ∧ bit c.inrst 2 then (s.release 2).stage (if c.boot then 2 else 3)
    else if c.stage = 4 then
      match (upTo 10).find? fun n => 3 ≤ n && bit c.inrst n with
      | some n =>
        if s.releasable n then
          let s := s.release n
          if n = 9 then (s.stage 5).ctlSet { (s.stage 5).ctl with scope := 0 } else s
        else s
      | none => (s.stage 5).ctlSet { (s.stage 5).ctl with scope := 0 }
    else s

/-- Training ends: 2 or 4 GiB, or failure (R278). -/
def State.trained (s : State) (gib : Option Nat) : State :=
  if bit s.ctl.inrst 0 ∨ !s.awake ∨ s.mem.trained then s
  else if gib = some 2 ∨ gib = some 4 then
    { s with mem := { s.mem with trained := true, size := if gib = some 2 then 1 else 2 } }
  else s.stage 6

/-- The conditions under which HOLD of a section may be cleared (R434). -/
def State.holdOk (s : State) (n : Nat) : Bool := ((upTo n).all fun k => !bit s.ctl.inrst k) && (n = 0 || s.mem.trained)

/-- CTL_SECRST.HOLD (R434): set bits reset and hold their sections, cleared bits release where the order allows it, judged by
the sections as they stood before the write. `keep`: bulk memory goes into self-refresh first (R429). -/
def State.secHold (s : State) (w : Word) (keep : Bool) : State :=
  let now := wbits w 0 10
  let old := s.rwBits rSecRst 0 10
  let s0 := s
  let rel := (upTo 10).filter fun n => bit old n && !bit now n
  let s := rel.foldl (fun s n =>
    if s0.holdOk n then s.release n else (s.scSet rSecStat 23).capSet rSecStat (fld 18 4 n)) s
  let new := (upTo 10).foldl (fun m n => if bit now n && !bit old n then m + 2 ^ n else m) 0
  if new = 0 then s else s.sectionsReset new new keep

/-! ### Boot (R404, R435, R436) -/

/-- The slots in the order in which Kindling tries them: 0 A, 1 B. -/
def State.slotOrder (s : State) : List Nat :=
  let f (k o n : Nat) : Nat := s.pea.mem.le (128 * 4096 * k + o) n
  let a := (f 0 6 1, f 0 0xC 4)
  let b := (f 1 6 1, f 1 0xC 4)
  if a.1 < b.1 ∨ (a.1 = b.1 ∧ a.2 < b.2) then [1, 0] else [0, 1]

def State.slotImg (s : State) (k : Nat) : List Byte := s.pea.mem.getN (128 * 4096 * k) 524288

/-- An image from a source (0 slot A, 1 slot B, 2 push) is refused for a reason; the Stoker logs it once it runs (R404). -/
def State.refuse (s : State) (src : Nat) (bs : List Byte) (v : Nat) : State :=
  s.secSet { s.sec with refused := s.sec.refused ++ [(src, fwOf src bs, v)] }

/-- A slot's image is refused, with its failure code in SEC_BOOTSTAT. -/
def State.slotFail (s : State) (k v : Nat) : State :=
  let s := s.refuse k (s.slotImg k) v
  s.secSet (if k = 0 then { s.sec with afail := v } else { s.sec with bfail := v })

/-- An audit record of a boot or a refused image: slot, RBIDX, VERSION, reason (R404, R411). -/
def State.bootAudit (s : State) (slot : Nat) (f : Fw) (why : Nat) : State :=
  s.audit 0x0001 7 (b2n (why ≠ 0)) (natLe 1 slot ++ natLe 1 f.rbidx ++ natLe 4 f.version ++ natLe 1 why)

/-- The accepted image runs; the Stoker writes the records of this boot and of the images refused before it. -/
def State.boot (s : State) (f : Fw) : State :=
  let t := (s.secSet { s.sec with fw := f, refused := [] }).stage 4
  (s.sec.refused.foldl (fun s r => s.bootAudit r.1 r.2.1 r.2.2) t).bootAudit f.src f 0

/-- The slots are verified (R404). -/
def State.verifySlots (s : State) : State :=
  if !s.awake ∨ s.ctl.stage ≠ 2 ∨ s.ctl.pushLen.isSome then s
  else
    let rs := s.slotOrder.map fun k => (k, s.slotImg k)
    match rs with
    | [p, q] =>
      let vp := s.fwCheck p.2
      if vp = 0 then s.boot (fwOf p.1 p.2)
      else
        let s := s.slotFail p.1 vp
        let vq := s.fwCheck q.2
        if vq = 0 then s.boot (fwOf q.1 q.2) else (s.slotFail q.1 vq).stage 3
    | _ => s

/-- CTL_BOOTPUSH (R436). -/
def State.bootPush (s : State) (w : Word) : State :=
  if s.awake ∧ s.ctl.stage = 3 then s.ctlSet { s.ctl with stage := 2, pushLen := some (wbits w 0 20) } else s

/-- The pushed image has been checked. -/
def State.pushCheck (s : State) : State :=
  match s.ctl.pushLen with
  | none => s
  | some n =>
    let bs := s.mem.pool.getN 0 n
    let f := fwOf 2 bs
    let v := if 524288 < n then 5 else s.fwCheck bs
    let s := s.ctlSet { s.ctl with pushLen := none, pushErr := v }
    if v = 0 then s.boot f else (s.refuse 2 bs v).stage 3

/-! ### Power-up (R430 to R433) -/

/-- The fuse load has found copy c, CFGSTRAP has been measured, the I/O banks are classified. -/
def State.fuseDone (s : State) (c strap banks : Nat) : State :=
  if s.ctl.phase ≠ 1 ∨ s.ctl.pinLow ∨ s.ctl.hot then s
  else
    let s := (s.ctlSet { s.ctl with phase := 2, strap := strap, banks33 := banks }).applyStrap
    if c = 0 then s else s.scSet rHealth 16

/-- The root locks (R321, R433). -/
def State.rootLock (s : State) : State :=
  if s.ctl.phase ≠ 2 then s else (s.timSet { s.tim with lock := true }).ctlSet { s.ctl with phase := 3 }

/-! ### Words (R451 to R453) -/

def State.bootStatWord (s : State) : Word := fld 28 4 s.ctl.stage ||| fld 24 4 s.ctl.pushErr
def State.strapWord (s : State) : Word := fld 10 6 s.ctl.strap ||| fld 4 4 (s.ctl.strap / 4)

end Sys2Proof.Machine
end

