-- ==== Sys2Proof/Machine/Regs.lean ====
section
/-! DEFINITION. Register accesses (R455 to R467): what a read shows and does, which writes are refused, what an accepted write
starts, the indirect pairs, the recovery window. -/

namespace Sys2Proof.Machine

/-! ### Reads (R455, R457) -/

/-- RO bits of the Control window. -/
def State.roCtl (s : State) (o : Nat) : Word :=
  match o with
  | 0x0000 => 0x153600B1#32
  | 0x0008 => fld 0 1 (b2n s.noSpare)
  | 0x000C => s.unitStat
  | 0x0014 => s.bootStatWord
  | 0x0024 => fld 0 10 s.ctl.inrst
  | 0x0028 => s.strapWord
  | 0x0040 => s.stStat
  | 0x0408 => s.acStat
  | 0x0608 => fld 0 3 s.sec.scope
  | 0x060C => fld 0 7 s.sec.rb
  | 0x0640 => s.bootStat
  | 0x070C => fld 0 1 (b2n s.pea.busy.isSome)
  | _ => if inArr o 0x0030 4 then s.unitRet ((o - 0x0030) / 4)
    else if inArr o 0x0620 8 then s.slotMap ((o - 0x0620) / 4)
    else if inArr o 0x0720 6 then s.peaSpare ((o - 0x0720) / 4) else 0

/-- RO bits of the Memory window. -/
def State.roMem (s : State) (o : Nat) : Word :=
  match o with
  | 0x0140 => fld 0 10 (min 512 s.mem.flight.sum)
  | 0x0490 => Config.fusedRepair &&& 0xFFFF#32
  | 0x0800 => fld 31 1 (b2n s.mem.trained) ||| fld 0 2 s.mem.size
  | _ => if inArr o 0x0120 8 then
      let w := s.mem.waits.getD ((o - 0x0120) / 4) (0, 0)
      fld 16 8 w.1 ||| fld 0 16 w.2
    else if inArr o 0x0400 32 then fld 4 1 (b2n !(s.mem.hand.getD ((o - 0x0400) / 4) []).isEmpty) else 0

/-- RO bits of the Time window. -/
def State.roTime (s : State) (o : Nat) : Word :=
  match o with
  | 0x0190 => s.clkStat
  | 0x0200 => fld 0 32 (unsgn 32 (satN 32 s.tim.steer))
  | 0x0204 => fld 0 32 (unsgn 32 (satN 32 s.tim.boNs))
  | 0x0208 => fld 16 16 (unsgn 16 s.tim.ext) ||| fld 0 16 (unsgn 16 s.tim.die)
  | 0x0210 => s.smStat
  | _ => if inArr o 0x01A0 9 then s.refStat ((o - 0x01A0) / 4) else 0

/-- TDM port of an offset in the Stream window. -/
def tdmOf (o : Nat) : Fin 16 := ⟨(o - 0x2000) / 0x100 % 16, Nat.mod_lt _ (by decide)⟩

/-- RO bits of the Stream window. -/
def State.roStr (s : State) (o : Nat) : Word :=
  match o with
  | 0x0108 => fld 31 1 (b2n (s.up secStr && s.peerErr))
  | 0x3440 => s.dacBypassed
  | 0x4010 => s.hitStat
  | 0x4040 => fld 0 32 s.twin.lastCsn
  | 0x4044 => fld 0 16 s.twin.lastLatch
  | 0x4048 => fld 16 16 s.twin.rttMax ||| fld 0 16 s.twin.rtt
  | 0x404C => fld 31 1 (b2n (s.up secStr && s.ckErr))
  | 0x4050 => s.claimStat true
  | _ =>
    if inArr o 0x0800 256 then s.lStat ((o - 0x0800) / 4)
    else if 0x1000 ≤ o ∧ o < 0x1400 ∧ o % 0x100 = 4 then s.portStat ((o - 0x1000) / 0x100)
    else if 0x2000 ≤ o ∧ o < 0x3000 then
      (if o % 0x100 = 0x00C then s.tdmStatBits (tdmOf o) else if o % 0x100 = 0x010 then s.tdmRate (tdmOf o) else 0)
    else 0

/-- MIX_REFETCH (R59). -/
def State.refetchWord (s : State) : Word :=
  let xp := s.mix.stale.filter fun i => match i with
    | .xp _ => true
    | _ => false
  let en := s.mix.stale.filter fun i => match i with
    | .entry _ => true
    | _ => false
  fld 16 12 (min xp.length 4095) ||| fld 0 12 en.length

/-- MIX_CMTSTAT (R89). -/
def State.cmtStat (s : State) : Word :=
  fld 16 9 s.mix.ops.length ||| fld 0 12 (s.mix.ents.filter fun e => e.wait.isSome).length

/-- MIX_EMERG's RO bits (R144), as of the last block. -/
def State.emergWord (s : State) : Word :=
  match s.mix.busAct.find? fun b => b.2.1 = 15 with
  | some b => fld 9 1 1 ||| fld 0 9 b.1
  | none => 0

/-- RO bits of the Mix window. A placement error shows once the section is out of reset. -/
def State.roMix (s : State) (o : Nat) : Word :=
  let on := s.up secMix
  match o with
  | 0x0000 => fld 30 1 (b2n s.mix.act)
  | 0x0100 => fld 31 1 (b2n (on && s.ctErr))
  | 0x0104 => fld 31 1 (b2n (on && s.xpErr))
  | 0x0108 => s.refetchWord
  | 0x0140 => fld 0 32 s.mix.csn
  | 0x0144 => fld 0 16 s.csnLatch
  | 0x0148 => s.cmtStat
  | 0x014C => s.claimStat false
  | 0x0170 => fld 31 1 (b2n (on && s.mtrErr))
  | 0x0188 => s.emergWord
  | 0x018C => fld 31 1 (b2n (on && s.znErr))
  | _ =>
    if inArr o 0x0200 64 then s.grpStat ((o - 0x0200) / 4)
    else if inArr o 0x0300 64 then (s.player ((o - 0x0300) / 4)).stat
    else if inArr o 0x0400 16 then (s.player (64 + (o - 0x0400) / 4)).stat else 0

/-- RO bits of a Dray window. -/
def State.roDry (s : State) (d o : Nat) : Word :=
  if o = 0x0150 then s.drySpare d
  else if inArr o 0x0110 16 then s.laneStat (16 * d + (o - 0x0110) / 4)
  else if inArr o 0x0180 32 then s.portWord (16 * d + (o - 0x0180) / 8) (decide (o % 8 = 4)) else 0

/-- RO bits of the register at an offset. -/
def State.roBits (s : State) (off : Nat) : Word :=
  let o := off % 0x10000
  match off / 0x10000 with
  | 0 => s.roCtl o
  | 1 => s.roMem o
  | 2 => s.roTime o
  | 3 => if 0x1000 ≤ o ∧ o < 0x2000 ∧ o % 0x400 = 4 then s.hstStat ((o - 0x1000) / 0x400) else 0
  | 4 => s.roStr o
  | 5 => s.roMix o
  | 6 => if o = 0 then fld 30 1 (b2n s.mix.strip) else 0
  | k => if k < 11 then s.roDry (k - 7) o else 0

/-- The word a register shows (R455, R457): stored bits, event record, captured fields, RO bits. -/
def State.regWord (s : State) (off : Nat) : Word :=
  match regKind off with
  | .none => 0
  | .rw _ _ => s.rw off ||| s.roBits off
  | .ctr => (s.ctr off).word
  | .sc => (s.sc off).word ||| s.cap off ||| s.roBits off
  | .ro => s.cap off ||| s.roBits off

/-! ### Indirect pairs (R464, R465) -/

abbrev aPea : Nat := wCtl + 0x0700
abbrev aTim : Nat := wTime + 0x0300
abbrev aStr : Nat := wStr + 0x0180
abbrev aDac : Nat := wStr + 0x3450

/-- ADDR after one access: a step, wrapping at the field's width. -/
def State.ixNext (s : State) (a step bits : Nat) : State := s.rwSet a (BitVec.ofNat 32 (((s.rw a).toNat + step) % 2 ^ bits))

def State.ixStep (s : State) : IxPair → State
  | .tim => s.ixNext aTim 1 16
  | .str => s.ixNext aStr 4 18
  | .dac => s.ixNext aDac 1 4

/-- Offset of a pair's data register. -/
def ixData : IxPair → Nat
  | .tim => aTim + 4
  | .str => aStr + 4
  | .dac => aDac + 4

/-- The word at the address of a pair. -/
def State.ixWord (s : State) : IxPair → Word
  | .tim => s.timIx (s.rw aTim).toNat
  | .str => s.strIx (s.rw aStr).toNat
  | .dac => s.dac.cal.getD (s.rw aDac).toNat 0

/-- A read of a pair's data register. -/
def State.ixRead (s : State) (p : IxPair) : Word × State := (s.ixWord p, s.ixStep p)

/-- A write of a pair's data register; a SerDes word takes none while its port is enabled (R459). -/
def State.ixWrite (s : State) (src : WrSrc) (p : IxPair) (w : Word) : State :=
  let a := (s.rw aStr).toNat
  let t := match p with
    | .tim => s.timIxSet (s.rw aTim).toNat w
    | .str => if a < 0x400 ∧ serdesMask (a % 0x100) ≠ 0 ∧ s.portEn (a / 0x100) then s.reject src (ixData .str) w 0 else s.strIxSet a w
    | .dac => ({ s with dac := { s.dac with cal := s.dac.cal.set (s.rw aDac).toNat w } } : State).dacAgain ((s.rw aDac).toNat / 2)
  t.ixStep p

/-! ### Peatstore registers (R418) -/

/-- A sector that the PEA registers may write (R414): of a firmware slot that does not run, or of the user region. -/
def State.peaOpen (s : State) (k : Nat) : Bool :=
  if k < 128 then s.sec.fw.src ≠ 0 else if k < 256 then s.sec.fw.src ≠ 1 else 5472 ≤ k

/-- The buffered sector's write starts: words not written keep their content; without a free sector it is discarded (R417). -/
def State.peaStart (s : State) : State :=
  match s.pea.buf with
  | none => s
  | some (k, ws) =>
    let s := s.peaSet { s.pea with buf := none }
    if !s.hasFree (regionOf k) then s.scSet rPeaStat 21
    else
      let m := ws.foldl (fun m q => m.setN q.1 (wordBytes q.2)) (Mem.zero.setN 0 (s.pea.mem.getN (4096 * k) 4096))
      s.peaSet { s.pea with busy := some (k, m.getN 0 4096) }

/-- A write of PEA_IXDATA. -/
def State.peaPut (s : State) (src : WrSrc) (w : Word) : State :=
  let a := (s.rw aPea).toNat
  let k := a / 4096
  let t :=
    if s.pea.busy.isSome then (s.scSet rPeaStat 22).reject src (aPea + 4) w 1
    else if !s.peaOpen k then (s.scSet rPeaStat 23).reject src (aPea + 4) w 1
    else
      let ws := match s.pea.buf with
        | some (j, ws) => if j = k then ws else []
        | none => []
      let s := s.peaSet { s.pea with buf := some (k, put (a % 4096) w ws) }
      if a % 4096 = 0xFFC then s.peaStart else s
  t.ixNext aPea 4 25

/-- A read of PEA_IXDATA. -/
def State.peaGet (s : State) : Word × State :=
  (BitVec.ofNat 32 (leNat (s.peaRead (s.rw aPea).toNat 4)), s.ixNext aPea 4 25)

/-- PEA_CTL. -/
def State.peaCtl (s : State) (w : Word) : State := if w.getLsbD 0 ∧ s.pea.busy.isNone then s.peaStart else s

/-- The sector write ends after a number of retries; more than 3 retire the physical sector (R415, R416). -/
def State.peaDone (s : State) (retries : Nat) : State :=
  match s.pea.busy with
  | none => s
  | some (k, bs) =>
    let s := (s.peaSet { s.pea with busy := none }).peaWrite (4096 * k) bs
    if 3 < retries then s.retireSector k else s

/-! ### Security registers (R405, R409) -/

/-- SEC_RNGDATA (R409). -/
def State.rngRead (s : State) : Word × State :=
  if s.sec.rngOk then
    let r := s.trng
    (r.1, r.2.secSet { r.2.sec with rngValid := true })
  else (0, s.secSet { s.sec with rngValid := false })

/-- SEC_CTL (R409): the TRNG is tested again and resumes. -/
def State.secCtl (s : State) (w : Word) : State := if w.getLsbD 0 then s.secSet { s.sec with rngOk := true } else s

/-- SEC_RBADV (R405); a counter under programming counts with its new value. -/
def State.rbAdv (s : State) (origin : Nat) (w : Word) : State :=
  let v := wbits w 0 7
  if s.sec.rbTo.getD s.sec.rb < v ∧ s.sec.fw.src ≠ 3 ∧ v ≤ s.sec.fw.rbidx then
    (if s.auditOk then s.secSet { s.sec with rbTo := some v, rbBy := origin } else s.logFull)
  else s.scSet rSecurity 23

/-- The counter's new value is programmed. -/
def State.rbDone (s : State) : State :=
  match s.sec.rbTo with
  | none => s
  | some v => (s.secSet { s.sec with rb := v, rbTo := none }).audit 0x0005 s.sec.rbBy 0 (natLe 1 s.sec.rb ++ natLe 1 v)

/-- ORIGIN of an audit record for a register write (R410). -/
def originOf : WrSrc → Nat
  | .recovery _ => 5
  | .matrix m => if m.val < 4 then m.val else if m.val = 13 then 6 else 4

/-! ### Reads with effects -/

/-- A register read and what it does (R88, R400, R409, R465). -/
def State.regRead (s : State) (off : Nat) : Word × State :=
  if off = wMix + 0x0140 then (s.regWord off, { s with csnLatch := s.mix.csn / 2 ^ 32 })
  else if off = wStr + 0x4040 then (s.regWord off, s.twinSet { s.twin with lastLatch := s.twin.lastCsn / 2 ^ 32 })
  else if off = wCtl + 0x0614 then s.rngRead
  else if off = aPea + 4 then s.peaGet
  else if off = aTim + 4 then (if s.up secTime then s.ixRead .tim else (0, s))
  else if off = aStr + 4 then (if s.up secStr then s.ixRead .str else (0, s))
  else if off = aDac + 4 then (if s.up secStr then s.ixRead .dac else (0, s))
  else (s.regWord off, s)

/-! ### Which writes are refused (R459, R460) -/

/-- A register that takes writes only under a condition; reason 0: its block is enabled, 1: its own chapter's rule. -/
def takeIf (ok : Bool) (reason : Nat) (old new : Word) : Word × Option Nat := if ok then (new, none) else (old, some reason)

/-- A register whose block is enabled: only the free bits are taken; a change of the others is recorded (R456). -/
def takeFree (free old new : Word) : Word × Option Nat :=
  ((old &&& ~~~free) ||| (new &&& free), if (old ^^^ new) &&& ~~~free = 0 then none else some 0)

/-- Bit 31. -/
abbrev bit31 : Word := 0x80000000#32

def inRange (lo hi v : Nat) : Bool := lo ≤ v && v ≤ hi

/-- Control window. -/
def State.judgeCtl (s : State) (o : Nat) (old new : Word) : Word × Option Nat :=
  match o with
  | 0x002C => takeIf (inRange 60 3600 (wbits new 0 12)) 1 old new
  | 0x0400 => takeIf (!s.acActive) 0 old new
  | _ => (new, none)

/-- Masters that can request at a point (R259). -/
def pointMasters (t : Nat) : Nat := [14, 14, 13, 13].getD t 6

/-- A quota that MTX_QOSt takes (R268, R281). -/
def qosOk (t : Nat) (w : Word) : Bool :=
  let q := if t < 4 then wbits w 16 7 else 0
  let n := wbits w 0 14
  n % 16 = 0 && inRange 256 8192 n && q ≤ 64 && decide ((q + pointMasters t) * 16 ≤ n)

def judgeMem (o : Nat) (old new : Word) : Word × Option Nat :=
  if inArr o 0x0100 8 then takeIf (qosOk ((o - 0x0100) / 4) new) 1 old new else (new, none)

/-- SEL of a reference (R341). -/
def selOk (r v : Nat) : Bool := if r = 2 then v ≤ 2 else if 4 ≤ r && r ≤ 7 then true else v = 0

/-- Loop bandwidths in mHz (R332). -/
def bwOk (k v : Nat) : Bool :=
  match k with
  | 0 => inRange 1 1000 v
  | 1 => inRange 1 100 v
  | 2 => inRange 1000 1000000 v
  | _ => inRange 10000 1000000 v

def judgeTime (o : Nat) (old new : Word) : Word × Option Nat :=
  match o with
  | 0x0100 => takeIf (wbits new 24 4 ≤ 8) 1 old new
  | 0x0180 => takeIf (inRange 1 3600 (wbits new 20 12) && inRange 1 10000 (wbits new 0 16)) 1 old new
  | 0x0184 => takeIf (inRange 1 255 (wbits new 16 8) && inRange 50 65535 (wbits new 0 16)) 1 old new
  | 0x020C => takeIf (wbits new 16 11 ≤ 1800) 1 old new
  | _ => if inArr o 0x0110 9 then takeIf (inRange 1 2000 (wbits new 4 12) && selOk ((o - 0x0110) / 4) (wbits new 0 4)) 1 old new
    else if inArr o 0x0170 4 then takeIf (bwOk ((o - 0x0170) / 4) (wbits new 0 20)) 1 old new else (new, none)

/-- Host block h at offset b (R214, R251 to R256, R459). -/
def State.judgeHost (s : State) (h b : Nat) (old new : Word) : Word × Option Nat :=
  let en := s.hstEn h
  let k := b / 16 % 16
  if b = 0 then
    (if en then takeFree bit31 old new else takeIf (!new.getLsbD 31 || s.setupOk h) 1 old new)
  else if b = 0x018 ∨ b = 0x01C then (if h < 2 then takeIf (!en) 0 old new else (old, none))
  else if b < 0x100 then takeIf (!en) 0 old new
  else if b < 0x200 then
    (if b % 16 = 8 then
      (if en && s.sqEn h k then takeFree bit31 old new
       else if new.getLsbD 31 && !s.sqRules h k new then (new &&& ~~~bit31, some 1) else (new, none))
     else takeIf (!(en && s.sqEn h k)) 0 old new)
  else
    (if b % 16 = 8 then
      (if en && s.cqEn h k then takeFree bit31 old new
       else if h < 2 ∧ wbits new 24 4 = 15 then (if new.getLsbD 31 then old else old &&& ~~~bit31, some 1)
       else if new.getLsbD 31 && !s.cqRules h k new then (new &&& ~~~bit31, some 1) else (new, none))
     else takeIf (!(en && s.cqEn h k)) 0 old new)

/-- Stream window. -/
def State.judgeStr (s : State) (o : Nat) (old new : Word) : Word × Option Nat :=
  let quiet := !((upTo 4).any fun p => s.portEn p)
  if o = 0x0108 then takeIf quiet 0 old new
  else if o = 0x010C then (if quiet then takeIf (wbits new 0 8 ≠ wbits new 8 8) 1 old new else (old, some 0))
  else if inArr o 0x0100 2 then
    let q := (o - 0x0100) / 4
    (if s.portEn (2 * q) || s.portEn (2 * q + 1) then (old, some 0)
     else if !old.getLsbD 31 && new.getLsbD 31 && s.rwBits (rPort (2 * q)) 29 2 ≠ s.rwBits (rPort (2 * q + 1)) 29 2 then
       (new &&& ~~~bit31, some 1)
     else (new, none))
  else if 0x1000 ≤ o ∧ o < 0x1400 then
    let p := (o - 0x1000) / 0x100
    if o % 0x100 = 0 then (if s.portEn p then takeFree bit31 old new else takeIf (wbits new 29 2 ≠ 3) 1 old new)
    else if o % 0x100 = 0x018 then
      (if s.portEn p then (old, some 0) else takeIf (inRange 10 90 (wbits new 16 7)) 1 old new)
    else (new, none)
  else if 0x2000 ≤ o ∧ o < 0x3000 then
    let t := s.port (tdmOf o)
    if o % 0x100 < 8 then takeIf (t.st = 0) 0 old new else takeIf (!t.swp) 0 old new
  else if inArr o 0x3400 8 then (if old.getLsbD 31 then takeFree bit31 old new else (new, none))
  else if o = 0x4000 then
    (if s.hitEn then takeFree 0xA0000000#32 old new else takeIf (!new.getLsbD 31 || s.hitMayEnable new) 1 old new)
  else if o = 0x4004 then
    takeIf (inRange 10 3600 (wbits new 20 12) && inRange 5 255 (wbits new 8 8)) 1 old new
  else if o = 0x4008 ∨ o = 0x4014 ∨ o = 0x404C then takeIf (!s.hitEn) 0 old new
  else (new, none)

/-- Mix and Strip windows (R27, R459, R467). -/
def State.judgeMix (s : State) (o : Nat) (old new : Word) : Word × Option Nat :=
  if o = 0 then takeIf (!old.getLsbD 31 || new.getLsbD 31 || s.mix.ops.isEmpty) 1 old new
  else takeIf (!s.mixEn) 0 old new

/-- The RW word that a write leaves, and the reason recorded where it is ignored in whole or in part. -/
def State.judge (s : State) (off : Nat) (old new : Word) : Word × Option Nat :=
  let o := off % 0x10000
  match off / 0x10000 with
  | 0 => s.judgeCtl o old new
  | 1 => judgeMem o old new
  | 2 => judgeTime o old new
  | 3 => s.judgeHost ((o - 0x1000) / 0x400) (o % 0x400) old new
  | 4 => s.judgeStr o old new
  | 5 => s.judgeMix o old new
  | 6 => takeIf (!old.getLsbD 31 || new.getLsbD 31 || !s.mix.act) 1 old new
  | _ => (new, none)

/-! ### What accepted writes start -/

/-- The Mix section starts (R467): the sequence begins at CSN 1, the compile begins, and the dither sequences are seeded from the
TRNG (R134). Staged batches, also failed ones, stay with their rings (R80, R485). A section that still runs, its EN cleared in the
same block, first stops at the boundary and starts there. -/
def State.mixStart (s : State) : State :=
  if s.mix.act then { s with mix := { s.mix with compiled := false } }
  else if s.ctErr || s.xpErr then s
  else { s with
    freeCtr := s.freeCtr + 1
    mix := { Mix.reset with
      strip := s.mix.strip, srcHist := s.mix.srcHist, batches := s.mix.batches, seed := (Config.trng s.freeCtr).toNat } }

/-- HST_CTLn.EN cleared: every ring is disabled (R235). -/
def State.portDown (s : State) (h : Nat) : State :=
  let sqs := (upTo 8).filter fun k => s.sqEn h k
  let cqs := (upTo 8).filter fun k => s.cqEn h k
  let s := (upTo 8).foldl (fun s k => (s.rwPutBit (rSqCfg h k) 31 false).rwPutBit (rCqCfg h k) 31 false) s
  s.teardown h sqs cqs

/-- After a write of host block h at offset b: old and new RW words, and the word written. -/
def State.hookHost (s : State) (h b : Nat) (old new w : Word) : State :=
  let k := b / 16 % 16
  let up := !old.getLsbD 31 && new.getLsbD 31
  let down := old.getLsbD 31 && !new.getLsbD 31
  let failed := w.getLsbD 31 && !new.getLsbD 31
  if b = 0 then (if up then s.portStart h else if down then s.portDown h else if failed then s.hstEvent h 7 else s)
  else if 0x100 ≤ b ∧ b < 0x200 ∧ b % 16 = 8 then
    (if up then s.sqStart h k else if failed then s.ringErr h k else if down then s.teardown h [k] [] else s)
  else if 0x200 ≤ b ∧ b % 16 = 8 then
    (if up then s.cqStart h k else if failed ∧ !(h < 2 ∧ wbits w 24 4 = 15) then s.ringErr h (8 + k)
     else if down then s.teardown h [] [k] else s)
  else s

/-- A DAC channel's enable or mode has changed (R363, R364). -/
def State.hookDac (s : State) (n : Nat) (old new : Word) : State :=
  if old.getLsbD 31 && !new.getLsbD 31 && !s.acOnDac n then s.emit (.dac n [0])
  else if old.getLsbD 31 != new.getLsbD 31 then s.dacAgain n else s

/-- After a write of the Stream window. -/
def State.hookStr (s : State) (o : Nat) (old new w : Word) : State :=
  if inArr o 0x1000 1 || inArr o 0x1100 1 || inArr o 0x1200 1 || inArr o 0x1300 1 then
    (if old.getLsbD 31 && !new.getLsbD 31 then s.linkChange ((o - 0x1000) / 0x100) false 0 false else s)
  else if 0x2000 ≤ o ∧ o < 0x3000 ∧ o % 0x100 ≤ 4 then s.emitPins (Fin.ofNat 16 ((o - 0x2000) / 0x100))
  else if o = 0x300C then (if w.getLsbD 0 then s.tdmStart else s)
  else if inArr o 0x3400 8 then s.hookDac ((o - 0x3400) / 4) old new
  else if inArr o 0x3420 8 then s.dacDirect ((o - 0x3420) / 4)
  else if o = 0x4000 then
    (if !old.getLsbD 31 && new.getLsbD 31 then s.hitStart else if old.getLsbD 31 && !new.getLsbD 31 then s.hitStop else s)
  else s

/-- Clearing DRY_CTL.EN stops every lane at the next boundary (R204). -/
def State.dryDown (s : State) (d : Nat) : State :=
  (drayLanes d).foldl (fun s l =>
    let x := s.lane l
    s.laneSet l { x with stop := some (x.stop.getD none) }) (s.draySet d { s.dray d with closing := true })

/-- What an accepted write starts. -/
def State.hook (s : State) (off : Nat) (old new w : Word) : State :=
  let o := off % 0x10000
  match off / 0x10000 with
  | 0 => if o = 0x0400 then s.acFollow ((s.byp.pin && old.getLsbD 0) || s.byp.latch) else s
  | 1 => if inArr o 0x0400 32 then s.bankOwn ((o - 0x0400) / 4) w
    else if inArr o 0x0100 8 && !qosOk ((o - 0x0100) / 4) w then (s.capFld rMtxStat 20 3 ((o - 0x0100) / 4)).scSet rMtxStat 23 else s
  | 2 => if o = 0x0100 then (if w.getLsbD 21 && wbits w 24 4 ≤ 8 && s.tim.jamPend then s.timSet { s.tim with jamNow := true } else s)
    else if inArr o 0x0110 9 then s.refEnable ((o - 0x0110) / 4) (old.getLsbD 31) else s
  | 3 => s.hookHost ((o - 0x1000) / 0x400) (o % 0x400) old new w
  | 4 => s.hookStr o old new w
  | 5 => if o = 0 ∧ !old.getLsbD 31 ∧ new.getLsbD 31 then s.mixStart else s
  | 6 => s
  | k => if o = 0x0100 ∧ old.getLsbD 0 ∧ !new.getLsbD 0 then s.dryDown (k - 7) else s

/-- The write changes security configuration (R411). -/
def secChange (off : Nat) (old new : Word) : Bool :=
  if off = rSecCfg ∨ off = rClkCtl ∨ off = rHitCfg then old ≠ new
  else if inArr off (wTime + 0x0110) 9 then old.getLsbD 31 != new.getLsbD 31
  else if inArr off (rPort 0) 1 || inArr off (rPort 1) 1 || inArr off (rPort 2) 1 || inArr off (rPort 3) 1 then
    old.getLsbD 24 != new.getLsbD 24
  else false

/-- A write of RW fields (R457, R459, R460, R411, R412). -/
def State.rwWrite (s : State) (src : WrSrc) (off : Nat) (w mask : Word) : State :=
  let old := s.rw off
  let j := s.judge off old (w &&& mask)
  if secChange off old j.1 && !s.auditOk then (s.reject src off w 1).logFull
  else
    let s := s.rwSet off j.1
    let s := if secChange off old j.1 then s.audit 0x0007 (originOf src) 0 (natLe 4 off ++ wordBytes old ++ wordBytes j.1) else s
    let s := s.hook off old j.1 w
    match j.2 with
    | some r => s.reject src off w r
    | none => s

/-- Give-up causes whose condition the State shows to persist (R387), in the table's order: a lost lane that was RUNNING, a lost
unit, FREERUN without holdover, and the die's temperature where it is the latest cause. -/
def State.persisting (s : State) : List Nat :=
  (if (upTo 64).any fun l => (s.lane l).lost then [1] else []) ++
    (if (upTo 3).any fun k => (s.unitsOf k).map.any (·.isNone) then [2] else []) ++
    (if s.up secTime && s.tim.tst = 0 && s.tim.fell then [5] else []) ++ (if s.twin.cause = 6 ∧ 12500 ≤ s.tim.die then [6] else [])

/-- A clearing write of a status register (R458), with what clearing does: a halted ring resumes (R220), a pin may fall (R230),
MAXWAIT clears, a give-up cause that persists is recorded again (R387). -/
def State.scClear (s : State) (off : Nat) (q : BitVec 8) : State :=
  let c := s.sc off
  let s := s.scPut off (c.clear q)
  if inArr off (wMem + 0x0120) 8 then
    let t := (off - (wMem + 0x0120)) / 4
    (if since c.seq q = 0 then { s with mem := { s.mem with waits := s.mem.waits.set t ((s.mem.waits.getD t (0, 0)).1, 0) } } else s)
  else if off = rHitStat then
    if (look 22 c.bits).isSome && !s.scBit off 22 then s.persisting.foldl State.giveCause s else s
  else if off / 0x10000 = 3 then
    let h := (off - (wHost + 0x1000)) / 0x400
    let s := if s.scBit off 23 then s
      else s.hstPut h { s.hst h with sq := (s.hst h).sq.map fun q => { q with halted := false } }
    s.irqOut h
  else s

/-- Registers that act when written (R457), by offset. -/
def State.woWrite (s : State) (src : WrSrc) (off : Nat) (w : Word) : State :=
  let o := off % 0x10000
  if off = wCtl + 0x0010 then s.hostRst (match src with
    | .matrix m => m.val % 4
    | .recovery h => h.val) w
  else if off = wCtl + 0x0018 then s.bootPush w
  else if off = wCtl + 0x0404 then s.acCtl w
  else if off = wCtl + 0x0604 then s.secCtl w
  else if off = wCtl + 0x0610 then s.rbAdv (originOf src) w
  else if off = wCtl + 0x0618 then s.zeroise (originOf src) w
  else if off = aPea + 4 then s.peaPut src w
  else if off = wCtl + 0x0708 then s.peaCtl w
  else if off = aTim + 4 then s.ixWrite src .tim w
  else if off = aStr + 4 then s.ixWrite src .str w
  else if off = aDac + 4 then s.ixWrite src .dac w
  else if off = wStr + 0x400C then s.hitCtl w
  else if off / 0x10000 = 4 ∧ 0x2000 ≤ o ∧ o < 0x3000 ∧ o % 0x100 = 0x008 then s.tdmCtl (tdmOf o) w
  else s

/-- Effect of a write at a register that takes accesses. -/
def State.regPut (s : State) (src : WrSrc) (off : Nat) (w : Word) : State :=
  if off = rSecRst then
    (if (upTo 10).any fun n => s.rwBit rSecRst n && !w.getLsbD n && !s.holdOk n then (s.secHold w true).reject src off w 1 else s.secHold w true)
  else match regKind off with
    | .none => s
    | .rw mask _ => s.rwWrite src off w mask
    | .ctr => s.ctrSet off ((s.ctr off).clear (w.extractLsb' 24 8))
    | .sc => s.scClear off (w.extractLsb' 24 8)
    | .ro => s.woWrite src off w

/-! ### Where accesses come from -/

/-- Section of a register window; none: Control. -/
def secOfWin (k : Nat) : Option Nat :=
  match k with
  | 0 => none
  | 1 => some secMem
  | 2 => some secTime
  | 3 => some secHost
  | 4 => some secStr
  | 5 => some secMix
  | 6 => some secStp
  | k => some (k - 1)

/-- Register offsets of the recovery window that are written, and those that are read (R442). -/
def recWrites : List Nat := [0x0004, 0x0008, 0x0010, 0x0018, 0x0404, 0x0408, 0x0618]
def recReads : List Nat := [0x0000, 0x0004, 0x0008, 0x000C, 0x0014, 0x0408]

/-- The recovery window of a host answers (R250, R442). -/
def State.windowOn (s : State) (h : Fin 4) : Bool := s.awake && (2 ≤ h.val || (s.host h).link)

/-- A master that can request at the matrix: the debug master only once unlocked (R413), a host's engine with its section. -/
def State.masterOn (s : State) (m : Nat) : Bool :=
  s.up secMem && (if m < 4 then s.up secHost else if m = 13 then bit s.sec.scope 1 else true)

/-- Whether a register write reaches its register: a recovery window's list, or the matrix with the register's section out of
reset. -/
def State.reaches (s : State) (src : WrSrc) (off : Nat) : Bool :=
  match src with
  | .recovery h => s.windowOn h && recWrites.contains off
  | .matrix m => s.masterOn m.val && (m.val < 5 || m.val = 13) && (secOfWin (off / 0x10000)).all fun n => s.up n

/-- A register write (R455 to R460). -/
def State.regWrite (s : State) (src : WrSrc) (off : Nat) (w : Word) : State :=
  if s.reaches src off then s.regPut src off w else s

/-- A read of a recovery window. -/
def State.recRead (s : State) (off : Nat) : Word := if recReads.contains off then s.regWord off else 0

end Sys2Proof.Machine
end

