-- ==== Sys2Proof/Machine/Access.lean ====
section
/-! DEFINITION. Requests at the matrix with register space (R211 to R213, R246 to R250, R260 to R277): reads and writes of a
master, atomic operations, grants, PCIe requests, SPI transactions. -/

namespace Sys2Proof.Machine

/-- Answer of a request. -/
structure Ans where
  resp : Resp
  bytes : List Byte
  deriving DecidableEq, Repr

abbrev Ans.refused (n : Nat) : Ans := ⟨.decerr, List.replicate n 0⟩

/-! ### Reads and writes of a master (R23, R24, R260) -/

/-- A read of n bytes at a target, by master m. -/
def State.readAt (s : State) (m a n : Nat) : Target → Ans × State
  | .bulk => (⟨.okay, s.mem.bulk.getN a n⟩, s)
  | .pool => (⟨.okay, s.poolRead a n⟩, s.foreign m a n)
  | .pea => (⟨.okay, s.peaRead (a - 0x01_2000_0000) n⟩, s)
  | .reg => if n = 4 ∧ a % 4 = 0 then
      let r := s.regRead (a - regBase)
      (⟨.okay, wordBytes r.1⟩, r.2)
    else (Ans.refused n, s.decerr m a false)
  | .host h => if s.linkOf h then
      let r := s.freeBytes n
      (⟨.okay, r.1⟩, r.2)
    else (Ans.refused n, s.decerr m a false)
  | .none => (Ans.refused n, s.decerr m a false)

/-- A read of one burst by master m. The data of a host window come from outside: free bytes. -/
def State.busRead (s : State) (m a n : Nat) : Ans × State := s.readAt m a n (s.targetRange a n)

/-- A write of one burst by master m. -/
def State.busWrite (s : State) (m : Nat) (src : WrSrc) (a : Nat) (bs : List Byte) : Resp × State :=
  if s.targetRange a bs.length = .reg then
    (if bs.length = 4 ∧ a % 4 = 0 then (.okay, s.regWrite src (a - regBase) (BitVec.ofNat 32 (leNat bs)))
     else (.decerr, s.decerr m a true))
  else
    let r := s.devWrite m a bs false
    (if r.1 then .okay else .decerr, r.2)

/-- Pieces of a transfer at 512-byte boundaries (R212, R260). -/
def pieces (a fuel n : Nat) : List (Nat × Nat) := splitAt 512 a fuel n

/-- Free bytes in the words of a range that contain the addresses listed, and the bytes given elsewhere (R276). -/
def State.freeWords (s : State) (a : Nat) (ws : List Nat) (bs : List Byte) : List Byte × State :=
  let f := s.freeBytes bs.length
  (bs.zipIdx.map fun p => if ws.any fun w => (a + p.2) / 8 = w / 8 then f.1.getD p.2 0 else p.1, f.2)

/-- A host's read of one burst with what it meets in a memory: the beats with an uncorrectable error are undefined, and so are the words
of a collision, which is not repeated (R260, R276, R277). -/
def State.readHits (s : State) (m a n : Nat) (h : MemHits) : Ans × State :=
  let t := s.targetRange a n
  let x := s.busRead m a n
  let bad := badAt h t a
  if x.1.resp ≠ .okay ∨ ¬(t = .bulk ∨ t = .pool ∨ t = .pea) then x
  else if badIn bad a n then
    let f := (x.2.eccLost t m (firstBad bad a n) h.adr).uncBytes (if t = .pea then 16 else 32) a bad x.1.bytes
    (⟨.uncerr, f.1⟩, f.2)
  else
    let c := s.collisions m a n false h
    let r := (x.2.eccFixed t a n h).collided m a n false h
    if c.isEmpty then (x.1, r)
    else
      let f := r.freeWords a (c.map (·.1)) x.1.bytes
      (⟨.collide, f.1⟩, f.2)

/-- A host's write of one burst with what it meets in a memory. -/
def State.writeHits (s : State) (m : Nat) (src : WrSrc) (a : Nat) (bs : List Byte) (h : MemHits) : Resp × State :=
  let n := bs.length
  let t := s.targetRange a n
  if (t = .bulk ∨ t = .pool) ∧ !(lostParts a n (badAt h t a)).isEmpty then (.uncerr, (s.eccWrite m a bs h).2)
  else
    let fixed := if t = .bulk ∨ t = .pool then (s.eccFixed t a n h).collided m a n true h else s
    let x := fixed.busWrite m src a bs
    (if (s.collisions m a n true h).isEmpty then x.1 else .collide, x.2)

/-- The response of a transfer in pieces: refused if one is, else uncorrectable, else collided. -/
def Resp.join (a b : Resp) : Resp :=
  if a = .decerr ∨ b = .decerr then .decerr
  else if a = .uncerr ∨ b = .uncerr then .uncerr
  else if a = .collide ∨ b = .collide then .collide else .okay

/-- A read in pieces. -/
def State.readAll (s : State) (m : Nat) (h : MemHits) : List (Nat × Nat) → Ans × State
  | [] => (⟨.okay, []⟩, s)
  | (a, n) :: r =>
    let x := s.readHits m a n h
    let y := x.2.readAll m h r
    (⟨x.1.resp.join y.1.resp, x.1.bytes ++ y.1.bytes⟩, y.2)

/-- A write in pieces. -/
def State.writeAll (s : State) (m : Nat) (src : WrSrc) (h : MemHits) (bs : List Byte) : List (Nat × Nat) → Resp × State
  | [] => (.okay, s)
  | (a, n) :: r =>
    let x := s.writeHits m src a (bs.take n) h
    let y := x.2.writeAll m src h (bs.drop n) r
    (x.1.join y.1, y.2)

/-! ### Grants (R264 to R277) -/

/-- Point at which a master's request for an address arbitrates (R259, R273). -/
def State.pointOf (s : State) (m a n : Nat) : Option Nat :=
  match s.targetOf a with
  | .bulk => some (a / 512 % 2)
  | .pool => some (if s.pathA m a n then 2 else 3)
  | .reg => some 4
  | .pea => some 5
  | .host h => some (6 + h)
  | .none => none


/-- A read-modify-write of memory at the target: the old bytes and the new ones; none: the master or the word does not allow it
(R272). -/
def opModify (m a : Nat) (old : List Byte) : MtxOp → Option (List Byte)
  | .masked d k => if d.length = k.length ∧ (d.length = 4 ∨ d.length = 8) then
      some ((Mem.zero.setN 0 old).maskN 0 d k |>.getN 0 d.length) else none
  | .swap n v => atomic n v
  | .cas n o v => atomic n (if leNat old = o then v else leNat old)
  | .add n v => atomic n (leNat old + v)
  | _ => none
where
  /-- An atomic operation on an aligned word of the masters that have them. -/
  atomic (n v : Nat) : Option (List Byte) :=
    if (m = 4 ∨ m = 10 ∨ m = 13) ∧ (n = 4 ∨ n = 8) ∧ a % n = 0 then some (natLe n v) else none

/-- The bytes at a range of pool SRAM before the last write that path A took (R272). -/
def State.beforeA (s : State) (a n : Nat) : List Byte :=
  let b := s.mem.prevA
  (s.poolRead a n).zipIdx.map fun p => if b.1 ≤ a + p.2 then (b.2[a + p.2 - b.1]?).getD p.1 else p.1

/-- The operation of a granted head without errors; `broken`: a write of path A falls between the read and the write of an operation on
path B (R272). -/
def State.runOp (s : State) (m : Fin 14) (a : Nat) (op : MtxOp) (broken : Bool) : Ans × State :=
  match op with
  | .read n => s.busRead m a n
  | .write d =>
    let r := s.busWrite m (.matrix m) a d
    (⟨r.1, []⟩, r.2)
  | op =>
    let n := opLen op
    if s.targetRange a n = .bulk ∨ s.targetRange a n = .pool then
      let old := if s.targetRange a n = .bulk then s.mem.bulk.getN a n else if broken then s.beforeA a n else s.poolRead a n
      match opModify m a old op with
      | some new =>
        let r := s.devWrite m a new false
        (⟨.okay, old⟩, r.2)
      | none => (Ans.refused n, s.decerr m a true)
    else (Ans.refused n, s.decerr m a true)

/-- A granted request that meets what ECC finds at its target. -/
def State.eccOp (s : State) (m : Fin 14) (a : Nat) (h : MemHits) (op : MtxOp) (broken : Bool) : Ans × State :=
  let n := opLen op
  let t := s.targetRange a n
  let bad := badAt h t a
  let mem := t = .bulk || t = .pool
  let fixed (x : Ans × State) : Ans × State := (x.1, x.2.eccFixed t a n h)
  if !(mem || (t = .pea && !opWrites op)) then s.runOp m a op broken
  else match op with
    | .write d => if (lostParts a n bad).isEmpty then fixed (s.runOp m a op broken) else (⟨.uncerr, []⟩, (s.eccWrite m a d h).2)
    | .read _ =>
      if !badIn bad a n then fixed (s.runOp m a op broken)
      else
        let s := (if t = .pool then s.foreign m a n else s).eccLost t m (firstBad bad a n) h.adr
        let f := s.uncBytes (if t = .pea then 16 else 32) a bad (s.rawRead t a n)
        (⟨.uncerr, f.1⟩, f.2)
    | _ =>
      if !badIn bad a n then fixed (s.runOp m a op broken)
      else
        let f := ((if t = .pool then s.foreign m a n else s).eccLost t m (firstBad bad a n) h.adr).freeBytes n
        (⟨.uncerr, f.1⟩, f.2)

/-- What a same-word meeting at pool SRAM does to a granted request (R272, R276, R277): port A's grant of a cycle comes before port
B's (notes/assumptions/61.md), and port B's command counts the collision. -/
def State.collision (s : State) (pt : Nat) (h : MtxHead) (c : Fin 14 × Bool × Nat) (x : Ans) : Ans × State :=
  let a := h.addr.toNat
  let w := c.2.1
  if !w && !opWrites h.op then (x, s)
  else if pt = 2 then
    (if opWrites h.op then (x, s)
     else
      let f := s.freeWords a [c.2.2] x.bytes
      (⟨x.resp, f.1⟩, f.2))
  else
    let kind := match h.op with
      | .read _ => 0
      | .write _ => if w then 2 else 1
      | _ => if w then 3 else 1
    let s := s.collide h.master c.1 kind c.2.2
    let s := if h.inbound then s.raiseBusy h.master else s
    match h.op with
    | .read _ =>
      let f := s.freeWords a [c.2.2] x.bytes
      (⟨.collide, f.1⟩, f.2)
    | _ => (⟨.collide, x.bytes⟩, s)

/-- Width of a target in bytes (R259). -/
def Target.width (t : Target) : Nat :=
  match t with
  | .bulk => 32
  | .pool => 32
  | .reg => 4
  | _ => 16

/-- What a burst does whose master is reset after k beats (R263): those beats of a write stand, the rest carry no strobes; a read
happens at its target, and its data are discarded. -/
def cutOp (w a k : Nat) : MtxOp → Option MtxOp
  | .read n => some (.read n)
  | .write d => let d := d.take ((a / w + k) * w - a); if d.isEmpty then none else some (.write d)
  | op => if k = 0 then none else some op

/-- An access of port A falls between the two halves of a read-modify-write at port B (R272). -/
def mtxBreaks (r : MtxReq) (pt : Nat) (op : MtxOp) : Bool :=
  pt = 3 && r.meets.any (·.2.1) && (match op with
    | .read _ => false
    | .write _ => false
    | _ => true)

/-- Path A is about to write: the bytes there stand by for an operation of path B that it breaks (R272). -/
def State.keepA (s : State) (pt : Nat) (h : MtxHead) : State :=
  if pt = 2 ∧ opWrites h.op then
    { s with mem := { s.mem with prevA := (h.addr.toNat, s.poolRead h.addr.toNat (opLen h.op)) } }
  else s

/-- A granted burst to its end, with its response. A read that an engine makes for itself and that collides is repeated: it waits as a
new head (R277). -/
def State.burst (s : State) (pt : Nat) (r : MtxReq) (h : MtxHead) : State :=
  let x := s.eccOp h.master h.addr.toNat r.hits h.op (mtxBreaks r pt h.op)
  let y := match r.meets with
    | some c => if (pt = 2 ∨ pt = 3) ∧ x.1.resp = Resp.okay then x.2.collision pt h c x.1 else x
    | none => x
  let s := y.2.emit (.data y.1.resp y.1.bytes)
  if y.1.resp = .collide ∧ !opWrites h.op ∧ !h.inbound ∧ h.master ≠ 13 then
    { s with mem := { s.mem with heads := s.mem.heads.set pt (s.mem.heads.getD pt [] ++ [{ h with since := r.now }]) } }
  else s

/-- The granted head of a point executes: it leaves its place, the pointer and the wait follow, a precedence grant counts, its
transaction is in flight. -/
def State.granted (s : State) (pt : Nat) (r : MtxReq) (h : MtxHead) : State :=
  let m := h.master
  let a := h.addr.toNat
  let used := s.precUsed pt r.now
  let used := if s.precedence pt r.now && headHigh pt h then r.now :: used else used
  let s : State := { s with mem := { s.mem with
    ptr := s.mem.ptr.set pt ((m.val + 1) % 14), precs := s.mem.precs.set pt used
    heads := s.mem.heads.set pt ((s.mem.heads.getD pt []).erase h) } }
  let s := ((s.waited pt m (r.now - h.since)).fly m (· + 1)).keepA pt h
  match r.cut with
  | none => s.burst pt r h
  | some k => (match cutOp (s.targetOf a).width a k h.op with
    | some op => (s.eccOp m a r.hits op (mtxBreaks r pt op)).2
    | none => s).fly m fun _ => 0

/-- A request of a master that the matrix keeps behind an earlier write of it to the same target: a write, or a read of an overlapping
range (R269). -/
def State.behind (s : State) (h : MtxHead) : Bool :=
  s.mem.heads.any fun l => l.any fun x =>
    x.master = h.master && opWrites x.op && s.targetOf x.addr.toNat = s.targetOf h.addr.toNat &&
      (opWrites h.op || overlap x.addr.toNat (opLen x.op) h.addr.toNat (opLen h.op))

/-- A head is presented at a point, where its master has none waiting there and may issue one (R258, R265, R269, R270, R274). One that may
not is presented by its master again, and ages only from then on. -/
def State.present (pt : Nat) (s : State) (h : MtxHead) : State :=
  let l := s.mem.heads.getD pt []
  if s.masterOn h.master.val && mayReach h.master.val (s.targetOf h.addr.toNat) &&
      s.pointOf h.master.val h.addr.toNat (opLen h.op) = some pt && !(l.any fun x => x.master = h.master) &&
      s.mayIssueTx h.master && !s.behind h && !(s.targetOf h.addr.toNat = .pool && s.withheld h.master) then
    { s with mem := { s.mem with heads := s.mem.heads.set pt (l ++ [h]) } }
  else s

/-- A head for the default target is answered at once (R24, R258, R259). -/
def State.defaulted (s : State) (h : MtxHead) : State :=
  if s.masterOn h.master.val && mayReach h.master.val .none && s.targetOf h.addr.toNat = .none then
    (s.decerr h.master.val h.addr.toNat (opWrites h.op)).emit (.data .decerr (List.replicate (opLen h.op) 0))
  else s

/-- One arbitration (R264 to R267) after the responses delivered since the last one. -/
def State.arbitrate (s : State) (pt : Nat) (r : MtxReq) : State :=
  let s := r.done.foldl (fun (s : State) (m : Fin 14) => s.fly m (· - 1)) s
  let s := r.heads.foldl State.defaulted s
  let s := r.heads.foldl (State.present pt) s
  match pick pt (s.mem.ptr.getD pt 0) r.now (s.precedence pt r.now)
      ((s.mem.heads.getD pt []).filter fun h => s.masterOn h.master.val && !((pt = 2 || pt = 3) && s.withheld h.master)) with
  | some h => s.granted pt r h
  | none => s

/-! ### PCIe (R211, R212, R230) -/

/-- Refusal of an inbound request. -/
def State.inbRefuse (s : State) (h : Fin 4) (read : Bool) : State :=
  let s := s.count (rHst h + 0x020)
  if read then s.emit (.pcie h false []) else s

/-- The MSI-X table is written: a vector that is no longer masked sends its pending message. -/
def State.msixWrite (s : State) (h : Fin 4) (o : Nat) (bs : List Byte) : State :=
  let s := s.hostSet h { s.host h with msix := (s.host h).msix.setN o bs }
  (upTo 16).foldl (fun s v =>
    let x := s.host h
    if bit x.pba v && !(x.msix.get (16 * v + 12)).getLsbD 0 then (s.hostSet h { x with pba := x.pba - 2 ^ v }).emit (.msix h v) else s) s

/-- The bursts of a host's request (R212, R260). -/
def State.hostPieces (s : State) (a n : Nat) : List (Nat × Nat) := if s.targetOf a = .reg then [(a, n)] else pieces a (n + 1) n

/-- A host's read at the matrix: while it is under way it is in flight (R270). -/
def State.hostRead (s : State) (m a n : Nat) (h : MemHits) : Ans × State :=
  let r := (s.fly m (· + 1)).readAll m h (s.hostPieces a n)
  (r.1, r.2.fly m (· - 1))

/-- A BAR request that enters the matrix at a device address (R212, R260). -/
def State.inbMatrix (s : State) (h : Fin 4) (a n : Nat) (wr : Option (List Byte)) (x : MemHits) : State :=
  let m : Fin 14 := ⟨h.val, by omega⟩
  if !s.masterOn h.val then s
  else match wr with
    | some d =>
      let r := s.writeAll h (.matrix m) x d (s.hostPieces a n)
      if r.1 = .decerr then r.2.inbRefuse h false else r.2
    | none =>
      let r := s.hostRead h a n x
      if r.1.resp = .decerr then r.2.inbRefuse h true
      else if r.1.resp = .uncerr then r.2.emit (.data .uncerr r.1.bytes)
      else r.2.emit (.pcie h true r.1.bytes)

/-- A word of a PCIe configuration space (R210): vendor and device ID, class code and revision ID; the spec gives no other word. -/
def cfgWord (o : Nat) : Option Word :=
  if o = 0 then some (fld 16 16 0x1536 ||| fld 0 16 Config.vendor)
  else if o = 8 then some (fld 8 24 0x048000 ||| fld 0 8 0xB1)
  else none

/-- A read of the configuration space. -/
def State.cfgRead (s : State) (h : Fin 4) (o n : Nat) : State :=
  match cfgWord (o / 4 * 4) with
  | some w => s.emit (.pcie h true (((wordBytes w).drop (o % 4)).take n))
  | none =>
    let f := s.freeBytes n
    f.2.emit (.pcie h true f.1)

/-- An inbound request of H0 or H1. The spec gives a configuration write no effect. -/
def State.inbound (s : State) (h : Fin 4) (r : InbReq) : State :=
  if !(s.host h).link then s
  else if r.bar = 3 then (if r.wr.isSome then s else s.cfgRead h r.off r.len)
  else if r.bar = 1 then s.inbMatrix h (poolBase + r.off) r.len r.wr r.hits
  else if r.bar = 2 then s.inbMatrix h r.off r.len r.wr r.hits
  else if r.off < 0x100000 then s.inbMatrix h (regBase + r.off) r.len r.wr r.hits
  else if r.off < 0x101000 then
    (if !s.windowOn h then s
     else if r.len ≠ 4 ∨ r.off % 4 ≠ 0 then s.inbRefuse h r.wr.isNone
     else match r.wr with
      | some d => s.regWrite (.recovery h) (r.off - 0x100000) (BitVec.ofNat 32 (leNat d))
      | none => s.emit (.pcie h true (wordBytes (s.recRead (r.off - 0x100000)))))
  else if 0x101000 ≤ r.off ∧ r.off + r.len ≤ 0x101100 then
    (match r.wr with
     | some d => s.msixWrite h (r.off - 0x101000) d
     | none => s.emit (.pcie h true ((s.host h).msix.getN (r.off - 0x101000) r.len)))
  else if 0x101800 ≤ r.off ∧ r.off + r.len ≤ 0x101808 then
    (match r.wr with
     | some _ => s
     | none => s.emit (.pcie h true (((natLe 8 (s.host h).pba).drop (r.off - 0x101800)).take r.len)))
  else (s.decerr h (regBase + r.off) r.wr.isSome).inbRefuse h r.wr.isNone

/-! ### SPI (R246 to R250) -/

/-- SPI port i as a host number. -/
def spiHost (i : Fin 2) : Fin 4 := ⟨2 + i.val, by omega⟩

/-- A transaction begins: a raised BUSY falls at its end (R277). -/
def State.spiBegin (s : State) (i : Fin 2) : State :=
  if s.mem.busy.getD i false then { s with mem := { s.mem with begun := s.mem.begun.set i true } } else s

/-- A protocol error. -/
def State.spiErr (s : State) (i : Fin 2) : State := if s.up secHost then s.count (rHst (2 + i) + 0x02C) else s

/-- WRERR. -/
def State.spiWrErr (s : State) (i : Fin 2) : State := if s.up secHost then s.scSet (rHstStat (2 + i)) 10 else s

/-- READ ID. -/
def State.spiId (s : State) (i : Fin 2) : State :=
  let s := s.spiBegin i
  s.emit (.spi i (if s.awake then 0xA5#8 :: wordBytes (s.regWord 0) else [0xE1#8, 0xFF#8]))

/-- The status byte (R249). -/
def State.spiStatus (s : State) (i : Fin 2) : Byte :=
  let h := 2 + i.val
  let x := s.host (spiHost i)
  BitVec.ofNat 8 (b2n (s.up secHost && decide (x.wbuf.length < 4)) + 2 * b2n (s.irqLevel h) + 4 * b2n (s.scBit (rHstStat h) 10) +
    8 * b2n (x.ver ≠ 0) + 16 * b2n (s.scBit (rHstStat h) 14))

/-- READ STATUS. -/
def State.spiReadStatus (s : State) (i : Fin 2) : State :=
  let s := s.spiBegin i
  s.emit (.spi i (if s.awake then [0xA5#8, s.spiStatus i] else [0xE1#8, 0xFF#8]))

/-- One buffered write reaches the matrix: register space takes it word by word; DECERR sets WRERR (R248), a collision raises BUSY
(R277). -/
def State.spiWrite1 (s : State) (i : Fin 2) (w : Nat × List Byte × MemHits) : State :=
  let m : Fin 14 := ⟨2 + i.val, by omega⟩
  let n := w.2.1.length
  let ps := if s.targetOf w.1 = .reg then (upTo (n / 4)).map (fun k => (w.1 + 4 * k, 4)) else pieces w.1 (n + 1) n
  let r := s.writeAll m (.matrix m) w.2.2 w.2.1 ps
  if r.1 = .decerr then r.2.spiWrErr i else if r.1 = .collide then r.2.raiseBusy m else r.2

/-- The buffered writes go out in order while the matrix serves the port (notes/assumptions/63.md). -/
def State.spiDrain (s : State) (i : Fin 2) : State :=
  if !s.masterOn (2 + i) then s
  else
    let h := spiHost i
    (s.host h).wbuf.foldl (fun s w => s.spiWrite1 i w) (s.hostSet h { s.host h with wbuf := [] })

/-- READ: at most 64 data bytes, then 0xFF (R248); `late`: no data was ready in time. -/
def State.spiRead (s : State) (i : Fin 2) (a n : Nat) (late : Bool) (x : MemHits) : State :=
  let s := (s.spiBegin i).spiDrain i
  let h := 2 + i.val
  if !s.masterOn h ∨ late then s.emit (.spi i [0xE1#8, 0xFF#8])
  else
    let r := s.hostRead h a (min n 64) x
    if r.1.resp = .decerr then r.2.emit (.spi i [0xE0#8, 0xFF#8])
    else if r.1.resp = .uncerr then r.2.emit (.spi i [0xE2#8, 0xFF#8])
    else (if r.1.resp = .collide then r.2.raiseBusy h else r.2).emit (.spi i (0xA5#8 :: r.1.bytes ++ List.replicate (n - 64) 0xFF#8))

/-- WRITE: whole words are buffered; a fifth write and the bytes of an incomplete word are discarded. -/
def State.spiWrite (s : State) (i : Fin 2) (a : Nat) (d : List Byte) (x : MemHits) : State :=
  let s := s.spiBegin i
  let h := spiHost i
  let d := d.take 64
  let n := d.length / 4 * 4
  let s := if n = d.length then s else (s.spiWrErr i).spiErr i
  if n = 0 ∨ !s.up secHost then s
  else if a % 4 ≠ 0 ∨ 4 ≤ (s.host h).wbuf.length then (s.spiWrErr i).spiErr i
  else s.hostSet h { s.host h with wbuf := (s.host h).wbuf ++ [(a, d.take n, x)] }

/-- MODE. -/
def State.spiMode (s : State) (i : Fin 2) (b : Byte) : State :=
  let s := s.spiBegin i
  let h := spiHost i
  if b = 0 then s.hostSet h { s.host h with modeTo := some false }
  else if b = 1 then s.hostSet h { s.host h with modeTo := some true } else s

/-- A read of a recovery window (R248, R250, R442). -/
def State.recoveryRead (s : State) (h : Fin 4) (off : Nat) : State :=
  if hh : 2 ≤ h.val then
    let i : Fin 2 := ⟨h.val - 2, by omega⟩
    let s := s.spiBegin i
    s.emit (.spi i (if s.windowOn h then 0xA5#8 :: wordBytes (s.recRead off) else [0xE1#8, 0xFF#8]))
  else if s.windowOn h then s.emit (.pcie h true (wordBytes (s.recRead off))) else s

/-- A write of a recovery window. -/
def State.recoveryWrite (s : State) (h : Fin 4) (off : Nat) (w : Word) : State :=
  (if hh : 2 ≤ h.val then s.spiBegin ⟨h.val - 2, by omega⟩ else s).regWrite (.recovery h) off w

/-- RESET ENABLE. -/
def State.spiArm (s : State) (i : Fin 2) : State :=
  let s := s.spiBegin i
  s.hostSet (spiHost i) { s.host (spiHost i) with armed := 1 }

/-- PORT RESET: a host fault when the transaction before armed it; the port returns to STR. -/
def State.spiReset (s : State) (i : Fin 2) : State :=
  let s := s.spiBegin i
  let h := spiHost i
  if (s.host h).armed = 2 then
    let s := if s.up secHost then s.hostFault (2 + i) 2 true else s
    s.hostSet h { s.host h with dtr := false, modeTo := none, armed := 0, wbuf := [] }
  else (s.hostSet h { s.host h with armed := 0 }).spiErr i

/-- Opcodes of R247. -/
def spiOpcodes : List Nat := [0x9F, 0x05, 0x0B, 0x02, 0xE8, 0xC1, 0xC2, 0x66, 0x99]

/-- An opcode outside the table, or in DTR one whose complement does not follow it (R246, R247). -/
def State.spiUnknown (s : State) (i : Fin 2) (op : Nat) : State :=
  let s := s.spiBegin i
  if !spiOpcodes.contains op || (s.host (spiHost i)).dtr then s.spiErr i else s

/-- CS_N rises: MODE takes effect, RESET ENABLE arms the next transaction, BUSY falls, buffered writes go out. -/
def State.spiEnd (s : State) (i : Fin 2) : State :=
  let h := spiHost i
  let x := s.host h
  let s := s.hostSet h { x with dtr := x.modeTo.getD x.dtr, modeTo := none, armed := if x.armed = 1 then 2 else 0 }
  let s := if s.mem.busy.getD i false && s.mem.begun.getD i false then
      { s with mem := { s.mem with busy := s.mem.busy.set i false, begun := s.mem.begun.set i false } } else s
  s.spiDrain i

end Sys2Proof.Machine
end

