-- ==== Sys2Proof/Machine/Barrow.lean ====
section
/-! DEFINITION. The commands of the Barrow engines' own work (R210 to R235) and of the descriptors that are sequenced
(R62 to R86, R236, R237). A descriptor command acts on the next descriptor to begin of its ring; where that is none of its
kind, nothing happens (notes/assumptions/6.md). -/

namespace Sys2Proof.Machine

/-- The effect of a descriptor of opcode o, where it is the next one to begin on ring q of host h. -/
def State.onDesc (s : State) (h q o : Nat) (f : State → Desc → State) : State :=
  match s.next h q o with
  | some d => f s d
  | none => s

/-! ### Rings (R215 to R235) -/

/-- A doorbell write hits the page in pool SRAM (R217), and the engine reads it. -/
def State.doorbellHit (s : State) (h : Nat) (hits : MemHits) : State :=
  if s.up secHost && s.targetRange (s.dbBase h) 64 = .pool then s.doorbell h ⟨[], hits⟩ else s

/-- DOORBELL_HIT (R217). -/
def execDoorbellHit (h : Fin 4) (hits : MemHits) (s : State) : Host.Outcome State Fault Refusal := .next (s.begin.doorbellHit h hits)

/-- The sweep interval ends (R217): a page outside pool SRAM is read. -/
def State.doorbellSweep (s : State) (h : Nat) (hm : HostMem) : State :=
  if s.up secHost && s.targetRange (s.dbBase h) 64 ≠ .pool then s.doorbell h hm else s

/-- DOORBELL_SWEEP (R217, R218). -/
def execDoorbellSweep (h : Fin 4) (hm : HostMem) (s : State) : Host.Outcome State Fault Refusal :=
  .next (s.begin.doorbellSweep h hm)

/-- DESCRIPTOR_FETCH (R219, R220). -/
def execDescriptorFetch (h : Fin 4) (hm : HostMem) (s : State) : Host.Outcome State Fault Refusal :=
  .next (if s.up secHost then s.begin.fetchTurn h hm else s.begin)

/-- INDEX_PAGE_WRITE (R216). -/
def execIndexPageWrite (h : Fin 4) (s : State) : Host.Outcome State Fault Refusal :=
  .next (if s.up secHost then s.begin.indexPage h else s.begin)

/-- COMPLETION_IRQ_TIMEOUT (R230). -/
def execCompletionIrqTimeout (h : Fin 4) (c : Fin 8) (s : State) : Host.Outcome State Fault Refusal :=
  .next (if s.up secHost then s.begin.modTime h c else s.begin)

/-- A watchdog period, counted from the last fetch or enable, passes without a fetch: a host fault (R234). -/
def State.watchdog (s : State) (h : Nat) : State :=
  if !s.up secHost || !s.hstEn h || s.rwBits (rHst h) 16 10 = 0 then s else s.hostFault h 4 false

/-- BARROW_WATCHDOG_EXPIRY (R234). -/
def execBarrowWatchdogExpiry (h : Fin 4) (s : State) : Host.Outcome State Fault Refusal := .next (s.begin.watchdog h)

/-! ### Housekeeping descriptors (R223, R228, R231) -/

/-- NOP (R223). -/
def execNop (h : Fin 4) (q : Fin 8) (s : State) : Host.Outcome State Fault Refusal :=
  .next (s.begin.onDesc h q 0x01 fun s d => s.finish h d stOk 0)

/-- Highest version of a mask of versions 1 to 3; 0: none. -/
def topVersion (v : Nat) : Nat := if bit v 2 then 3 else if bit v 1 then 2 else if bit v 0 then 1 else 0

/-- HELLO (R231). -/
def State.helloDesc (h : Nat) (s : State) (d : Desc) : State :=
  let m := d.f 0x10 1
  let ver := (s.hst h).ver
  if ver = 0 then
    (if topVersion m = 0 then s.finish h d stBadVer 0
     else (s.hstPut h { s.hst h with ver := topVersion m }).finish h d stOk (topVersion m))
  else s.finish h d (if bit m (ver - 1) then stOk else stBadVer) ver

/-- HELLO (R231). -/
def execHello (h : Fin 4) (q : Fin 8) (s : State) : Host.Outcome State Fault Refusal :=
  .next (s.begin.onDesc h q 0x02 (State.helloDesc h))

/-- A FENCE begins (R228). -/
def State.fenceDesc (h : Nat) (s : State) (d : Desc) : State :=
  if s.fenceBad h d then s.finish h d stBadArg 0
  else if s.fenceDone h d then s.finish h d stOk 0
  else s.beganDesc h d id

/-- FENCE (R228). -/
def execFence (h : Fin 4) (q : Fin 8) (s : State) : Host.Outcome State Fault Refusal :=
  .next (s.begin.onDesc h q 0x03 (State.fenceDesc h))

/-- The FENCE that waits on a ring, once its condition holds. -/
def State.fenceEnd (s : State) (h q : Nat) : State :=
  match (s.hst h).descs.find? fun d => d.ring = q && d.opc = 3 && d.begun with
  | some d => if s.up secHost && s.fenceDone h d then s.finish h d stOk 0 else s
  | none => s

/-- FENCE_SATISFIED (R228). -/
def execFenceSatisfied (h : Fin 4) (q : Fin 8) (s : State) : Host.Outcome State Fault Refusal := .next (s.begin.fenceEnd h q)

/-! ### Sequenced descriptors (R62, R236, R237): the request then waits for SEQUENCED_ACCEPTANCE -/

/-- COMMIT (R65, R236): the change list is read. -/
def execCommit (h : Fin 4) (q : Fin 8) (hm : HostMem) (s : State) : Host.Outcome State Fault Refusal :=
  .next (s.begin.onDesc h q 0x10 fun s d => s.requestFrom h d hm (d.f 0x10 8) (16 * d.f 0x18 2))

/-- CLAIM (R83, R237): the range list is read. -/
def execClaim (h : Fin 4) (q : Fin 8) (hm : HostMem) (s : State) : Host.Outcome State Fault Refusal :=
  .next (s.begin.onDesc h q 0x11 fun s d => s.requestFrom h d hm (d.f 0x10 8) (8 * d.f 0x18 1))

/-- RELEASE (R85, R237). -/
def execRelease (h : Fin 4) (q : Fin 8) (s : State) : Host.Outcome State Fault Refusal :=
  .next (s.begin.onDesc h q 0x12 fun s d => s.request h d (mkOp (s.hst h).ver h d []))

/-- RENEW of one claim or of all the host's claims (R85). -/
def State.renewDesc (h : Nat) (s : State) (d : Desc) : State :=
  let c := d.f 0x10 6
  if c = 0 then (s.renewAll h false).finish h d stOk 0
  else if (s.claimsOf h false).any fun k => k.csn = c then
    ({ s with mix := { s.mix with claims := s.mix.claims.map fun k =>
        if k.csn = c ∧ k.host = h ∧ !k.partner then { k with expired := false } else k } } : State).finish h d stOk 0
  else s.finish h d stBadArg 0

/-- RENEW (R85). -/
def execRenew (h : Fin 4) (q : Fin 8) (s : State) : Host.Outcome State Fault Refusal :=
  .next (s.begin.onDesc h q 0x13 (State.renewDesc h))

/-- READ_STATE (R86, R237): the range list is read. -/
def execReadState (h : Fin 4) (q : Fin 8) (hm : HostMem) (s : State) : Host.Outcome State Fault Refusal :=
  .next (s.begin.onDesc h q 0x14 fun s d => s.requestFrom h d hm (d.f 0x10 8) (8 * d.f 0x18 1))

/-- SCENE_RECALL (R82): the image is read and checked. -/
def State.recallDesc (h : Nat) (hm : HostMem) (s : State) (d : Desc) : State :=
  let r := s.sceneFetch h d hm
  match r.1 with
  | none => r.2.finish h d (s.seqStatus stFault) 0
  | some bs => r.2.request h d (mkOp (s.hst h).ver h d bs)

/-- SCENE_RECALL (R82). -/
def execSceneRecall (h : Fin 4) (q : Fin 8) (hm : HostMem) (s : State) : Host.Outcome State Fault Refusal :=
  .next (s.begin.onDesc h q 0x29 (State.recallDesc h hm))

/-- CLIP_PLAY (R135, R140): a tone program is read at acceptance. -/
def execClipPlay (h : Fin 4) (q : Fin 8) (s : State) : Host.Outcome State Fault Refusal :=
  .next (s.begin.onDesc h q 0x31 fun s d => s.request h d (mkOp (s.hst h).ver h d []))

/-- CLIP_STOP (R138). -/
def execClipStop (h : Fin 4) (q : Fin 8) (s : State) : Host.Outcome State Fault Refusal :=
  .next (s.begin.onDesc h q 0x32 fun s d => s.request h d (mkOp (s.hst h).ver h d []))

/-! ### Setting up and losing a port (R87, R210 to R218, R235, R251, R255, R256) -/

/-- A free address of a host window, which the timed-out read named, and the master that asked (R213). -/
def State.readTimeout (s : State) (h : Nat) : State :=
  if !s.linkOf h then s
  else
    let a := s.fresh
    let m := a.2.fresh
    (m.2.decerr (m.1 % 14) (0x80_0000_0000 + h * 0x40_0000_0000 + a.1 % 2 ^ 38) false).emit (.data .decerr [])

/-- OUTBOUND_READ_TIMEOUT (R213). -/
def execOutboundReadTimeout (h : Fin 2) (s : State) : Host.Outcome State Fault Refusal := .next (s.begin.readTimeout h)

/-- H0 or H1 as one of the four hosts. -/
def pcieHost (h : Fin 2) : Fin 4 := ⟨h.val, by omega⟩

/-- INBOUND_HOST_REQUEST (R211, R212). -/
def execInboundHostRequest (h : Fin 2) (r : InbReq) (s : State) : Host.Outcome State Fault Refusal :=
  .next (s.begin.inbound (pcieHost h) r)

/-- A link goes down or PERST_N resets it (R87, R210). -/
def State.linkDown (s : State) (h : Nat) : State :=
  if !s.linkOf h then s
  else
    let s := (s.hstPut h { s.hst h with link := false, width := 0, speed := 0 }).dropHeads [h]
    if s.up secHost then s.hostFault h 0 true else s

/-- PCIE_LINK_DOWN (R87, R210, R252). -/
def execPcieLinkDown (h : Fin 2) (s : State) : Host.Outcome State Fault Refusal := .next (s.begin.linkDown h)

/-- A function-level reset (R87, R210). -/
def State.functionReset (s : State) (h : Nat) : State := if s.linkOf h && s.up secHost then s.hostFault h 1 true else s

/-- FUNCTION_LEVEL_RESET (R87, R210, R252). -/
def execFunctionLevelReset (h : Fin 2) (s : State) : Host.Outcome State Fault Refusal := .next (s.begin.functionReset h)

/-- The link trains at x2 or x1 and at one of three speeds and comes up: H1's port only where the strap gives it (R210, R432). -/
def State.linkUp (s : State) (h : Nat) (x2 : Bool) (gen : Nat) : State :=
  if s.up secHost && (h = 0 || s.ctl.pcie2) then
    s.hstPut h { s.hst h with link := true, width := if x2 then 2 else 1, speed := gen }
  else s

/-- PCIE_LINK_UP (R210, R432, R443). -/
def execPcieLinkUp (h : Fin 2) (x2 : Bool) (gen : Fin 3) (s : State) : Host.Outcome State Fault Refusal :=
  .next (s.begin.linkUp h x2 gen)

/-- HOST_PORT_ENABLE (R214, R251): a write of HST_CTLn. -/
def execHostPortEnable (src : WrSrc) (h : Fin 4) (w : Word) (s : State) : Host.Outcome State Fault Refusal :=
  .next (s.begin.regWrite src (rHst h) w)

/-- RING_ENABLE (R214, R218, R255, R256): a write of HST_SQCFGn_k (`sub`) or HST_CQCFGn_k. -/
def execRingEnable (src : WrSrc) (h : Fin 4) (sub : Bool) (k : Fin 8) (w : Word) (s : State) : Host.Outcome State Fault Refusal :=
  .next (s.begin.regWrite src (if sub then rSqCfg h k else rCqCfg h k) w)

/-- Register that a teardown write names. -/
def ringReg (h : Nat) : RingSel → Nat
  | .port => rHst h
  | .sq k => rSqCfg h k
  | .cq k => rCqCfg h k

/-- RING_TEARDOWN (R87, R235, R251, R255, R256): a write that clears the EN bit. -/
def execRingTeardown (src : WrSrc) (h : Fin 4) (which : RingSel) (w : Word) (s : State) : Host.Outcome State Fault Refusal :=
  .next (s.begin.regWrite src (ringReg h which) w)

end Sys2Proof.Machine
end

