-- ==== Sys2Proof/Machine/Clock.lean ====
section
/-! DEFINITION. The commands of the root, the Time section, the serial audio ports and the DAC channels (R320 to R375). Ends
of waits come as commands (notes/assumptions/21.md); where the condition of one does not hold, nothing happens
(notes/assumptions/6.md). -/

namespace Sys2Proof.Machine

/-! ### Root and references (R321, R326 to R331) -/

/-- ROOT_LOCK (R321, R433). -/
def execRootLock (s : State) : Host.Outcome State Fault Refusal := .next s.begin.rootLock

/-- The root loses lock: a full-chip reset that records power-on and the loss (R321, R426). -/
def State.rootLoss (s : State) : State := if s.awake then ((s.fullReset (min s.ctl.phase 1)).cause 0).cause 1 else s

/-- ROOT_LOSS (R321). -/
def execRootLoss (s : State) : Host.Outcome State Fault Refusal := .next s.begin.rootLoss


/-- REF_MEASUREMENT (R324, R326 to R329). -/
def execRefMeasurement (r : Fin 9) (m : RefMeas) (s : State) : Host.Outcome State Fault Refusal :=
  .next (if !s.measured r then s.begin
    else if s.refGone r then s.begin.lose r
    else if m.present then s.begin.measure r m else s.begin.missed r)

/-- REF_LOST (R329): no edge of WCLK or PPS for its time, or the input of another reference is gone. -/
def execRefLost (r : Fin 9) (s : State) : Host.Outcome State Fault Refusal :=
  .next (if s.measured r && (s.refGone r || r = 2 || r = 3) then s.begin.lose r else s.begin)

/-- A reference has been beyond its threshold for 1 s, or its quality is 0 (R327). -/
def State.disqualifyDue (s : State) (r : Nat) : Bool :=
  s.measured r && ((s.ref r).beyond || s.refQual r = 0) && (s.ref r).st ≠ 2

/-- REF_DISQUALIFY (R327). -/
def execRefDisqualify (r : Fin 9) (s : State) : Host.Outcome State Fault Refusal :=
  .next (if s.disqualifyDue r then s.begin.disqualify r else s.begin)

/-- A restoring reference has served its time within threshold (R327). -/
def State.qualify (s : State) (r : Nat) : State :=
  let x := s.ref r
  if !s.measured r || s.refGone r || x.st ≠ 3 || x.beyond || s.refQual r = 0 then s
  else if s.refThr r / 2 < (x.fofs.natAbs : Int) then (s.refSet r { x with st := 5 }).scSet rClkStat 21
  else s.refSet r { x with st := 4 }

/-- REF_QUALIFY (R327). -/
def execRefQualify (r : Fin 9) (s : State) : Host.Outcome State Fault Refusal := .next (s.begin.qualify r)

/-- The evaluation at a block boundary whose block number is a multiple of 40 (R330, R331). -/
def State.evaluate (s : State) : State :=
  if s.up secTime && s.tim.nsc % 480 = 0 then
    (([2, 3, 4, 5, 6, 7].foldl State.failZero s.sense).select s.mixEn (fun t => t.health 18)).bandwidth else s

/-- REFERENCE_EVALUATION (R330, R331, R335, R338). -/
def execReferenceEvaluation (s : State) : Host.Outcome State Fault Refusal := .next s.begin.evaluate

/-- JAMNOW (R323, R340). -/
def execJamnow (src : WrSrc) (w : Word) (s : State) : Host.Outcome State Fault Refusal :=
  .next (s.begin.regWrite src rClkCtl w)

/-- The phase error at the last measurement is within PHLIM / 4 (R322). -/
def State.inPhase (s : State) : Bool := 4 * (((s.ref s.tim.sel).ofs - s.tim.boNs).natAbs : Int) ≤ s.phLim

/-- ACQUIRING becomes LOCKED (R322). -/
def State.timeLocked (s : State) : State :=
  if s.up secTime && s.tim.tst = 1 && s.inPhase then s.timSet { s.tim with tst := 2, since := s.tim.nsc } else s

/-- TIME_LOCKED (R322). -/
def execTimeLocked (s : State) : Host.Outcome State Fault Refusal := .next s.begin.timeLocked

/-- The build-out is removed, or with BORM 0 or a jam pending kept, and the frequency ramp has ended: the switch is over
(R336). -/
def State.buildoutRemoved (s : State) : State :=
  if s.up secTime && !s.removing && s.tim.steady then s.timSet { s.tim with switching := false } else s

/-- BUILDOUT_REMOVED (R336). -/
def execBuildoutRemoved (s : State) : Host.Outcome State Fault Refusal := .next s.begin.buildoutRemoved

/-! ### Smoulder (R337 to R339) -/

/-- One reference has been followed in LOCKED for 60 s that end at its last valid measurement (R337). -/
def State.smoDue (s : State) : Bool :=
  s.up secTime && s.tim.tst = 2 && s.tim.sel ≤ 7 && !s.tim.held && s.tim.win ≠ [] && s.tim.since + 2880000 ≤ (s.ref s.tim.sel).last

/-- Smoulder becomes valid (R337). -/
def State.smoValid (s : State) : State := if s.smoDue then s.timSet { s.tim with hoValid := true } else s

/-- SMOULDER_VALID (R337). -/
def execSmoulderValid (s : State) : Host.Outcome State Fault Refusal := .next s.begin.smoValid

/-- A learning minute has samples, all taken while the section learned (R339). -/
def State.learnDue (s : State) : Bool := s.up secTime && s.learning && s.tim.lrn.1 ≠ 0

/-- SMOULDER_LEARN (R339). -/
def execSmoulderLearn (s : State) : Host.Outcome State Fault Refusal := .next (if s.learnDue then s.begin.learn else s.begin)

/-- SMOULDER_SAVE (R339). -/
def execSmoulderSave (s : State) : Host.Outcome State Fault Refusal :=
  .next (if s.stokerRuns && s.up secTime then s.begin.smoSave else s.begin)

/-! ### Serial audio ports (R353 to R359) -/

/-- An event of the Stream section's ports. -/
def State.onPorts (s : State) (f : State → State) : State := if s.up secStr then f s else s

abbrev rTdmStart : Nat := wStr + 0x300C

/-- TDM_START_GO (R354, R373). -/
def execTdmStartGo (src : WrSrc) (w : Word) (s : State) : Host.Outcome State Fault Refusal :=
  .next (s.begin.regWrite src rTdmStart w)

/-- TDM_START_PIN (R354): the ball triggers while PINEN is 1. -/
def execTdmStartPin (s : State) : Host.Outcome State Fault Refusal :=
  .next (s.begin.onPorts fun s => if s.rwBit rTdmStart 1 then s.tdmStart else s)

/-- TDM_START_REACHED (R353, R354). -/
def execTdmStartReached (s : State) : Host.Outcome State Fault Refusal :=
  .next (s.begin.onPorts fun s => (List.finRange 16).foldl (fun (s : State) n => s.tdmBegin n) s)

/-- TDM_SLAVE_FRAME (R357, R358). -/
def execTdmSlaveFrame (n : Fin 16) (f : SlaveFrame) (s : State) : Host.Outcome State Fault Refusal :=
  .next ((s.begin.acFrame n f).onPorts fun s => s.slaveFrame n f)

/-- TDM_STOP (R353, R368). -/
def execTdmStop (src : WrSrc) (n : Fin 16) (w : Word) (s : State) : Host.Outcome State Fault Refusal :=
  .next (s.begin.regWrite src (rTdm n + 0x008) w)

/-- TDM_SWAP (R356, R368). -/
def execTdmSwap (src : WrSrc) (n : Fin 16) (w : Word) (s : State) : Host.Outcome State Fault Refusal :=
  .next (s.begin.regWrite src (rTdm n + 0x008) w)

/-- A frame start of a RUNNING port with a copy pending (R356). A master port's frame is a free one of those of the block under way
that have not begun; with none left, the copy is made at the boundary (notes/assumptions/20.md). -/
def State.swapApply (s : State) (n : Fin 16) : State :=
  let p := s.port n
  if p.st = 3 ∧ p.swp then
    if cfgSlave (s.tdmCfg n) then s.swapTables n
    else
      let dv := domDiv (s.tdmDom n)
      let w := s.later
      let k := max (cdiv w.1 dv) ((p.swaps.getLast?).elim 1 fun t => t.1 + 1)
      if 12 / dv ≤ k then w.2
      else
        let s := ({ w.2 with sub := k * dv } : State).swapTables n
        let gone := (upTo (cfgSlots (s.tdmCfg n))).filter fun i => enabledAt p.txLive i && !enabledAt (s.port n).txLive i
        (gone.foldl (fun s i => s.emit (.tdmIdle n i k)) s).tablesFrom n k
  else s

/-- TDM_SWAP_APPLY (R356). -/
def execTdmSwapApply (n : Fin 16) (s : State) : Host.Outcome State Fault Refusal :=
  .next (s.begin.onPorts fun s => s.swapApply n)

/-- TDM_RESTART (R358, R359): by AUTORESTART when its condition holds, else by the write of TDM_CTL. -/
def execTdmRestart (src : WrSrc) (n : Fin 16) (auto : Bool) (w : Word) (s : State) : Host.Outcome State Fault Refusal :=
  .next (if auto then s.begin.onPorts fun s => if s.autoDue n then s.tdmRestart n else s
    else s.begin.regWrite src (rTdm n + 0x008) w)


/-- The clocks of a running slave port stop (R358). -/
def State.clockLost (s : State) (n : Fin 16) : State :=
  let p := s.port n
  if cfgSlave (s.tdmCfg n) ∧ p.st = 3 then
    let s := s.slaveLeave n
    let s := s.portSet n { s.port n with st := 4, winOk := false }
    let s := if p.swp then s.swapTables n else s
    (s.scSet (rTdmStat n) 22).loseGone
  else s

/-- TDM_CLOCK_LOST (R358). -/
def execTdmClockLost (n : Fin 16) (s : State) : Host.Outcome State Fault Refusal :=
  .next (s.begin.onPorts fun s => s.clockLost n)

/-- A 100 ms window of a slave port ends with a rate offset in 0.1 ppm (R357, R358). -/
def State.rateWindow (s : State) (n : Fin 16) (ofs : Int) : State :=
  let p := s.port n
  if !cfgSlave (s.tdmCfg n) ∨ p.st < 2 then s
  else
    let ok : Bool := ofs.natAbs ≤ 10000
    let s := if p.st = 3 ∧ !ok then s.slaveLeave n else s
    let s := s.portSet n { s.port n with ofs := ofs, winOk := ok, st := if p.st = 3 ∧ !ok then 5 else p.st }
    if p.st = 3 ∧ !ok then (if p.swp then s.swapTables n else s).scSet (rTdmStat n) 21 else s

/-- TDM_RATE_WINDOW (R357, R358, R370). -/
def execTdmRateWindow (n : Fin 16) (ofs : Int) (s : State) : Host.Outcome State Fault Refusal :=
  .next (s.begin.onPorts fun s => s.rateWindow n ofs)

/-! ### DAC channels (R363, R364) -/

/-- DAC_CODE_WRITE (R363). -/
def execDacCodeWrite (src : WrSrc) (n : Fin 8) (w : Word) (s : State) : Host.Outcome State Fault Refusal :=
  .next (s.begin.regWrite src (rDacCode n) w)

/-- DAC_CFG_WRITE (R364). -/
def execDacCfgWrite (src : WrSrc) (n : Fin 8) (w : Word) (s : State) : Host.Outcome State Fault Refusal :=
  .next (s.begin.regWrite src (rDacCfg n) w)

end Sys2Proof.Machine
end

