-- ==== Sys2Proof/Machine/Descs.lean ====
section
/-! DEFINITION. The commands of the descriptors that are not sequenced: bulk copies, scenes, meters, lanes, streams, frames,
keys, the audit log, the time (R81, R197, R198, R237 to R245, R302, R308, R406 to R412). -/

namespace Sys2Proof.Machine

/-! ### Bulk copies (R238) -/

/-- One piece of a copy is read: its bytes, undefined ones where the read fails, and whether it failed. -/
def State.copyRead (s : State) (h : Nat) (hm : HostMem) (a n : Nat) : List Byte × Bool × State :=
  let t := s.targetRange a n
  if t = .reg then
    let r := s.busRead h a n
    (r.1.bytes, r.1.resp ≠ .okay, r.2)
  else
    let old := s.rawRead t a n
    let r := s.devRead h hm a n
    match r.1 with
    | some bs => (bs, false, r.2)
    | none =>
      let f := if t = .bulk ∨ t = .pool ∨ t = .pea then r.2.uncBytes (if t = .pea then 16 else 32) a (badAt hm.hits t a) old
        else r.2.freeBytes n
      (f.1, true, f.2)

/-- One piece of a copy is written; true: the write failed. Parts of words that an uncorrectable error keeps from being written are
undefined (R238). -/
def State.copyWrite (s : State) (h : Fin 4) (hm : HostMem) (a : Nat) (bs : List Byte) : Bool × State :=
  let t := s.targetRange a bs.length
  let lost := lostParts a bs.length (badAt hm.hits t a)
  if (t = .bulk ∨ t = .pool) ∧ !lost.isEmpty then
    let s := lost.foldl (fun s p => s.uncErr h p.1 false hm.hits.adr) s
    let f := s.freeBytes bs.length
    let bs := bs.zipIdx.map fun b => if lost.any fun p => decide (p.1 ≤ a + b.2 ∧ a + b.2 < p.1 + p.2.1) then f.1.getD b.2 0 else b.1
    (true, (f.2.busWrite h (.matrix ⟨h.val, by omega⟩) a bs).2)
  else
    let r := s.writeHits h (.matrix ⟨h.val, by omega⟩) a bs hm.hits
    (r.1 = .decerr, r.2)

/-- The pieces of a copy, in order: bytes moved so far, and whether one failed. -/
def State.copyPieces (h : Fin 4) (hm : HostMem) (src dst : Nat) (x : Bool × State) (p : Nat × Nat) : Bool × State :=
  let r := x.2.copyRead h hm (src + (p.1 - dst)) p.2
  let w := r.2.2.copyWrite h hm p.1 r.1
  (x.1 || r.2.1 || w.1, w.2)

/-- WRITE_BULK or READ_BULK; `ok`: the range that must lie in a memory does. -/
def State.copyDesc (ok : State → Desc → Bool) (h : Fin 4) (hm : HostMem) (s : State) (d : Desc) : State :=
  let n := d.f 0x20 4
  if !ok s d || s.crosses (d.f 0x10 8) n || s.crosses (d.f 0x18 8) n then s.finish h d stBadArg 0
  else
    let r := (pieces (d.f 0x18 8) (n + 1) n).foldl (State.copyPieces h hm (d.f 0x10 8) (d.f 0x18 8)) (false, s)
    r.2.finish h d (if r.1 then stFault else stOk) 0

/-- DST of WRITE_BULK lies in bulk memory or pool SRAM. -/
def State.dstOk (s : State) (d : Desc) : Bool :=
  s.targetRange (d.f 0x18 8) (d.f 0x20 4) = .bulk || s.targetRange (d.f 0x18 8) (d.f 0x20 4) = .pool

/-- SRC of READ_BULK lies in bulk memory, pool SRAM or the Peatstore window. -/
def State.bulkSrcOk (s : State) (d : Desc) : Bool :=
  s.targetRange (d.f 0x10 8) (d.f 0x20 4) = .bulk || s.targetRange (d.f 0x10 8) (d.f 0x20 4) = .pool ||
  s.targetRange (d.f 0x10 8) (d.f 0x20 4) = .pea

/-- WRITE_BULK (R238): no re-fetch falls between its writes (R54), since the copy is one command. -/
def execWriteBulk (h : Fin 4) (q : Fin 8) (hm : HostMem) (s : State) : Host.Outcome State Fault Refusal :=
  .next (s.begin.onDesc h q 0x20 (State.copyDesc State.dstOk h hm))

/-- READ_BULK (R238). -/
def execReadBulk (h : Fin 4) (q : Fin 8) (hm : HostMem) (s : State) : Host.Outcome State Fault Refusal :=
  .next (s.begin.onDesc h q 0x21 (State.copyDesc State.bulkSrcOk h hm))

/-! ### SCENE_STORE (R81, R237) -/

/-- Bulk memory with the pending commits of a CSN up to c and a target up to s (R237), without those that R71 will refuse. -/
def State.sceneView (s : State) (c t : Nat) : Mem :=
  let due (s : State) := (opSort s.mix.ops).filter fun a => decide (a.csn ≤ c ∧ a.t ≤ t)
  let f := (due s).foldl State.foresee s
  (due f).foldl s.execOp s.mem.bulk

/-- The capture of ranges of entries, at the check's index. -/
def State.sceneCapture (s : State) (rs : List (Nat × Nat)) (x : Nat) : List Byte :=
  let ents := (rs.flatMap fun r => (upTo (r.2 + 1 - r.1)).map (· + r.1)).foldl (fun l i => natIns i l) []
  s.sceneImage (s.sceneView s.mix.csn (x + 24)) ents s.mix.csn (x + 24)

/-- The image goes to its slot or its buffer: status. -/
def State.sceneWrite (s : State) (h : Nat) (d : Desc) (img : List Byte) : Nat × State :=
  if d.f 0x1A 2 = 0xFFFF then
    if d.f 0x1C 4 < img.length then (stNoSpace, s)
    else
      let w := s.devWrite h (d.f 0x20 8) img false
      (if w.1 then stOk else stFault, w.2)
  else match s.sceneStore (d.f 0x1A 2) img with
    | some t => (stOk, t)
    | none => (stNoSpace, s)

/-- SCENE_STORE. -/
def State.sceneDesc (h : Nat) (hm : HostMem) (s : State) (d : Desc) : State :=
  let r := s.devRead h hm (d.f 0x10 8) (8 * d.f 0x18 1)
  match r.1 with
  | none => r.2.finish h d stFault s.mix.csn
  | some bs =>
    match rangesOf (r.2.hst h).ver (d.f 0x18 1) bs with
    | none => r.2.finish h d stBadArg s.mix.csn
    | some rs =>
      if rs.any fun q => decide (4095 < q.2) then r.2.finish h d stBadArg s.mix.csn
      else
        let n := r.2.now
        let w := n.2.2.sceneWrite h d (r.2.sceneCapture rs n.1)
        w.2.finish h d w.1 s.mix.csn

/-- SCENE_STORE (R81, R226, R237). -/
def execSceneStore (h : Fin 4) (q : Fin 8) (hm : HostMem) (s : State) : Host.Outcome State Fault Refusal :=
  .next (s.begin.onDesc h q 0x28 (State.sceneDesc h hm))

/-! ### Meters (R242, R243) -/

/-- Subscriptions of all hosts but one. -/
def State.otherSubs (s : State) (h sub : Nat) : List Sub :=
  (upTo 4).flatMap fun g => ((s.hst g).subs.zipIdx.filter fun p => !(g = h && p.2 = sub)).filterMap (·.1)

/-- The device-wide rate of subscriptions, entries and periods, passes 1,000,000 records per second (R242). -/
def rateOver (l : List (Nat × Nat)) : Bool :=
  let all := l.foldl (fun n p => n * p.2) 1
  1000000 * all < l.foldl (fun n p => n + 4000 * p.1 * (all / p.2)) 0

/-- A subscription replaces what its number held. -/
def State.subPut (s : State) (h sub : Nat) (x : Option Sub) : State :=
  s.hstPut h { s.hst h with subs := (s.hst h).subs.set sub x }

/-- METER_SUBSCRIBE. -/
def State.meterDesc (h : Nat) (hm : HostMem) (s : State) (d : Desc) : State :=
  let k := d.f 0x19 1
  let c := d.f 0x1A 1
  let n := d.f 0x1C 2
  if d.f 0x18 1 = 0 then (s.subPut h k none).finish h d stOk 0
  else if !s.rwBit (rCqCfg h c) 29 then s.finish h d stBadArg 0
  else
    let r := s.devRead h hm (d.f 0x10 8) (8 * d.f 0x18 1)
    match r.1 with
    | none => r.2.finish h d stFault 0
    | some bs =>
      match rangesOf (r.2.hst h).ver (d.f 0x18 1) bs with
      | none => r.2.finish h d stBadArg 0
      | some rs =>
        if rs.any fun q => decide (3071 < q.2) then r.2.finish h d stBadArg 0
        else
          let es := rs.flatMap fun q => (upTo (q.2 + 1 - q.1)).map (· + q.1)
          if rateOver ((es.length, n) :: (r.2.otherSubs h k).map fun x => (x.ents.length, x.n)) then r.2.finish h d stNoSpace 0
          else ((r.2.subPut h k (some ⟨es, n, c, []⟩)).setDesc h (d.ticket h) fun d => { d with accepted := true }).finish h d stOk 0

/-- METER_SUBSCRIBE (R242). -/
def execMeterSubscribe (h : Fin 4) (q : Fin 8) (hm : HostMem) (s : State) : Host.Outcome State Fault Refusal :=
  .next (s.begin.onDesc h q 0x30 (State.meterDesc h hm))

/-- A record of a period that ends with block b (R243). -/
def SubVal.record (v : SubVal) (n b : Nat) : List Byte :=
  let l (x : Int) := natLe 2 (unsgn 16 x)
  natLe 2 n ++ l v.prepk ++ l v.postpk ++ l v.rms ++ l v.gr ++ l v.holdpk ++
    [BitVec.ofNat 8 (b2n v.valid + 2 * b2n v.isOver + 4 * b2n v.gated)] ++ natLe 3 b

/-- The records of a period go to the completion ring, or the period is dropped and counted. -/
def State.deliver (s : State) (h sub : Nat) (x : Sub) (b : Nat) : State :=
  let s := s.subPut h sub (some { x with acc := [] })
  if s.cqEn h x.cq && decide (s.cqUsed h x.cq + x.ents.length ≤ s.cqSize h x.cq) then
    (x.ents.zip x.acc).foldl (fun s p => s.cqRecord h x.cq (p.2.record p.1 b) false false) s
  else s.count (rHst h + 0x028)

/-- The period of a subscription that ends with the block whose Mix stage ended last. -/
def State.meterPeriod (s : State) (h sub : Nat) : State :=
  match ((s.hst h).subs.getD sub none) with
  | none => s
  | some x =>
    let b := s.tim.nsc / 12 - 3
    if s.up secHost && (b + 1) % x.n = 0 && !x.acc.isEmpty then s.deliver h sub x b else s

/-- METER_PERIOD_DELIVERY (R243). -/
def execMeterPeriodDelivery (h : Fin 4) (sub : Fin 8) (s : State) : Host.Outcome State Fault Refusal :=
  .next (s.begin.meterPeriod h sub)

/-! ### Lanes (R196 to R198, R239) -/

/-- The Dray of a lane is out of reset; a descriptor for one in reset waits. -/
def State.drayUp (s : State) (l : Nat) : Bool := s.up (6 + l / 16)

/-- LANE_LOAD (R197). One lane verifies one image at a time. A read that meets an uncorrectable error completes FAULT (R220). -/
def State.loadDesc (h : Nat) (hits : MemHits) (s : State) (d : Desc) : State :=
  let l := d.f 0x18 1
  let n := d.f 0x1C 4
  let a := d.f 0x10 8
  if !s.drayUp l || (s.lane l).load.isSome then s
  else if (s.lane l).busy || n < 128 || 180352 < n || !(s.targetRange a n = .bulk || s.targetRange a n = .pool) then s.finish h d stBadArg 0
  else
    let r := s.devRead (5 + l / 16) ⟨[], hits⟩ a n
    let s := r.2
    let bs := r.1.getD []
    if r.1.isNone then s.finish h d stFault 0
    else if !laneImgOk bs n then s.finish h d stBadArg 0
    else if !s.auditOk then s.logFull.finish h d stNoSpace 0
    else (s.laneSet l { s.lane l with load := some (d.ticket h, bs) }).beganDesc h d id

/-- LANE_LOAD (R196, R197, R239). -/
def execLaneLoad (h : Fin 4) (q : Fin 8) (hits : MemHits) (s : State) : Host.Outcome State Fault Refusal :=
  .next (s.begin.onDesc h q 0x38 (State.loadDesc h hits))

/-- LANE_LOAD_DONE (R197). -/
def execLaneLoadDone (l : Fin 64) (s : State) : Host.Outcome State Fault Refusal := .next (s.begin.laneLoaded l)

/-- A LANE_CTRL descriptor of an operation, its Dray being out of reset. -/
def State.onCtrl (s : State) (h q oper : Nat) (f : State → Desc → State) : State :=
  s.onDesc h q 0x39 fun s d => if d.f 0x11 1 = oper && s.drayUp (d.f 0x10 1) then f s d else s

/-- START. -/
def State.startDesc (h : Nat) (s : State) (d : Desc) : State :=
  let l := d.f 0x10 1
  let x := s.lane l
  let p : LPorts := ⟨d.f 0x18 1, d.f 0x12 2, d.f 0x14 1, d.f 0x16 2, d.f 0x15 1⟩
  if x.st ≠ .loaded ∨ x.start.isSome ∨ 1024 < p.inBase + p.inCnt ∨ 1024 < p.outBase + p.outCnt ∨ s.outTaken l p.outBase p.outCnt then
    s.finish h d stBadArg 0
  else (s.laneStart l p (BitVec.ofNat 32 (d.f 0x1C 4)) (d.ticket h)).beganDesc h d id

/-- LANE_CTRL_START (R172, R198). -/
def execLaneCtrlStart (h : Fin 4) (q : Fin 8) (s : State) : Host.Outcome State Fault Refusal :=
  .next (s.begin.onCtrl h q 0 (State.startDesc h))

/-- STOP. -/
def State.stopDesc (h : Nat) (s : State) (d : Desc) : State :=
  let l := d.f 0x10 1
  let x := s.lane l
  if !(x.st = .running || x.st = .halted) || (x.stop.getD none).isSome then s.finish h d stBadArg 0
  else (s.laneSet l { x with stop := some (some (d.ticket h)) }).beganDesc h d id

/-- LANE_CTRL_STOP (R198). -/
def execLaneCtrlStop (h : Fin 4) (q : Fin 8) (s : State) : Host.Outcome State Fault Refusal :=
  .next (s.begin.onCtrl h q 1 (State.stopDesc h))

/-- MSG: the mailbox takes 64 bytes (R177, R198). -/
def State.msgDesc (h : Nat) (hm : HostMem) (s : State) (d : Desc) : State :=
  let l := d.f 0x10 1
  if (s.lane l).st ≠ .running then s.finish h d stBadArg 0
  else if (s.lane l).full then s.finish h d stNoSpace 0
  else
    let r := s.devRead h hm (d.f 0x20 8) 64
    match r.1 with
    | none => r.2.finish h d stFault 0
    | some bs =>
      let x := r.2.lane l
      (r.2.laneSet l { x with data := x.data.setN 0x1BFC0 bs, full := true, msgIrq := true }).finish h d stOk 0

/-- LANE_CTRL_MSG (R177, R191, R198). -/
def execLaneCtrlMsg (h : Fin 4) (q : Fin 8) (hm : HostMem) (s : State) : Host.Outcome State Fault Refusal :=
  .next (s.begin.onCtrl h q 2 (State.msgDesc h hm))

/-- Usable microphones of zones. -/
def State.micsOf (s : State) (zs : List Nat) : Nat :=
  zs.foldl (fun n z => n + ((s.zone z).elim 0 fun y => ((y.usable.take (min 4 (Zn.nmic y.img))).filter id).length)) 0

/-- A zone is on another instance's list, or will be. -/
def State.zoneTaken (s : State) (l z : Nat) : Bool :=
  (upTo 64).any fun j => j ≠ l && (let x := s.lane j
    x.libid = 2 && (x.st = .running || x.st = .halted) && (x.zones.contains z || x.zonesTo.any fun p => p.1.contains z))

/-- ZONES: the list waits for the next servo update; a later list waits for the earlier one. -/
def State.zonesDesc (h : Nat) (s : State) (d : Desc) : State :=
  let l := d.f 0x10 1
  let x := s.lane l
  let zs := ((d.bytes.drop 0x28).take (d.f 0x19 1)).map (·.toNat)
  if x.zonesTo.isSome then s
  else if x.st ≠ .running ∨ x.libid ≠ 2 ∨ 32 < s.micsOf zs ∨ zs.any (s.zoneTaken l) then s.finish h d stBadArg 0
  else (s.laneSet l { x with zonesTo := some (zs, d.ticket h) }).beganDesc h d id

/-- LANE_CTRL_ZONES (R154, R198). -/
def execLaneCtrlZones (h : Fin 4) (q : Fin 8) (s : State) : Host.Outcome State Fault Refusal :=
  .next (s.begin.onCtrl h q 3 (State.zonesDesc h))

/-! ### Streams and frames (R240, R244, R245, R302, R308) -/

/-- A descriptor for the Stream section waits while it is in reset. -/
def State.onStream (s : State) (h q o : Nat) (f : State → Desc → State) : State :=
  if s.up secStr then s.onDesc h q o f else s

/-- STREAM_OPEN. -/
def State.openDesc (h : Nat) (hm : HostMem) (s : State) (d : Desc) : State :=
  let r := s.devRead h hm (d.f 0x10 8) 64
  match r.1 with
  | none => r.2.finish h d stFault 0
  | some bs =>
    let st := r.2.streamCheck (d.f 0x1A 1 = 1) (d.f 0x1B 1) bs
    if st ≠ stOk then r.2.finish h d st 0
    else (r.2.streamOpen (d.f 0x1A 1 = 1) (d.f 0x1B 1) bs (d.ticket h)).beganDesc h d id

/-- STREAM_OPEN (R240, R302). -/
def execStreamOpen (h : Fin 4) (q : Fin 8) (hm : HostMem) (s : State) : Host.Outcome State Fault Refusal :=
  .next (s.begin.onStream h q 0x40 (State.openDesc h hm))

/-- STREAM_CLOSE. -/
def State.closeDesc (h : Nat) (s : State) (d : Desc) : State :=
  let r := s.streamClose (d.f 0x1A 1 = 1) (d.f 0x1B 1) (d.ticket h)
  if r.1 then r.2.beganDesc h d id else s.finish h d stBadArg 0

/-- STREAM_CLOSE (R240, R302). -/
def execStreamClose (h : Fin 4) (q : Fin 8) (s : State) : Host.Outcome State Fault Refusal :=
  .next (s.begin.onStream h q 0x41 (State.closeDesc h))

/-- PEER_SET: the entries are copied now and apply at the boundary. -/
def State.peerDesc (h : Nat) (hm : HostMem) (s : State) (d : Desc) : State :=
  let first := d.f 0x18 2
  let n := d.f 0x1A 2
  if !s.peerOn then s.finish h d stBadArg 0
  else
    let r := s.devRead h hm (d.f 0x10 8) (64 * n)
    match r.1 with
    | none => r.2.finish h d stFault 0
    | some bs =>
      let s := r.2.bulkWrite 9 (r.2.peerBase + 64 * first) bs false
      (s.netSet { s.net with peerSets := s.net.peerSets ++ [(d.ticket h, first, bs)] }).beganDesc h d id

/-- PEER_SET (R240, R308). -/
def execPeerSet (h : Fin 4) (q : Fin 8) (hm : HostMem) (s : State) : Host.Outcome State Fault Refusal :=
  .next (s.begin.onStream h q 0x42 (State.peerDesc h hm))

/-- Longest frame a PORT field takes: 4 bytes more with a VLAN tag. -/
def State.txMax (s : State) (port : Nat) (vlan : Bool) : Nat :=
  (if (portsOf port).all fun p => s.jumbo p then 9254 else 1514) + (if vlan then 4 else 0)

/-- A frame has a VLAN tag. -/
def vlanTag (bs : List Byte) : Bool := beNat ((bs.drop 12).take 2) = 0x8100

/-- NET_TX. -/
def State.txDesc (h : Nat) (hm : HostMem) (s : State) (d : Desc) : State :=
  let port := d.f 0x1A 1
  let n := d.f 0x18 2
  if !s.portFieldOk port || n < 60 || s.txMax port true < n then s.finish h d stBadArg 0
  else
    let r := s.devRead h hm (d.f 0x10 8) n
    match r.1 with
    | none => r.2.finish h d stFault 0
    | some bs =>
      if s.txMax port (vlanTag bs) < n ∨ (vlanTag bs ∧ n < 64) then r.2.finish h d stBadArg 0
      else
        let s := r.2.beganDesc h d id
        s.sendOn port ⟨4 + (7 - d.f 0x1D 1), bs, if bit (d.f 0x1B 1) 1 then some (d.f 0x1C 1) else none, none,
          .host (d.ticket h) (if bit (d.f 0x1B 1) 0 then some (d.f 0x20 8) else none)⟩

/-- NET_TX (R244, R293). -/
def execNetTx (h : Fin 4) (q : Fin 8) (hm : HostMem) (s : State) : Host.Outcome State Fault Refusal :=
  .next (s.begin.onDesc h q 0x43 (State.txDesc h hm))

/-- NET_RX_POST. -/
def State.rxDesc (h : Nat) (s : State) (d : Desc) : State :=
  let k := d.f 0x1A 1
  let l := (s.hst h).rxq.getD k []
  if 256 ≤ l.length then s.finish h d stNoSpace 0
  else
    let x := s.hst h
    (s.hstPut h { x with rxq := x.rxq.set k (l ++ [⟨d.ticket h, d.f 0x10 8, d.f 0x18 2⟩]) }).beganDesc h d fun d => { d with accepted := true }

/-- NET_RX_POST (R245). -/
def execNetRxPost (h : Fin 4) (q : Fin 8) (s : State) : Host.Outcome State Fault Refusal :=
  .next (s.begin.onDesc h q 0x44 (State.rxDesc h))

/-! ### Keys and the log (R241, R406, R407, R410, R412) -/

/-- A persistent slot refuses a key. -/
def State.keyRefused (s : State) (k : Nat) (key : List Byte) : Bool :=
  keyPersistent k && (!s.rwBit rSecCfg 31 || (s.key k).key.isSome || (s.key k).revoked || !Config.onCurve key)

/-- KEY_LOAD. A persistent slot lies in the security area, so that without a free sector there its write fails (R417); NOSPACE for that
is a DESIGN CHOICE (notes/assumptions/28.md). -/
def State.keyDesc (h : Nat) (s : State) (d : Desc) : State :=
  let k := d.f 0x10 1
  let n := d.f 0x11 1
  let key := (d.bytes.drop 0x20).take n
  if !keyLenOk k n || (n ≠ 0 && s.keyRefused k key) then s.finish h d stBadArg 0
  else if !s.auditOk && !(n = 0 && keyVolatile k) then s.logFull.finish h d stNoSpace 0
  else if keyPersistent k && !s.hasFree 4 then s.finish h d stNoSpace 0
  else if n = 0 then
    let id := (s.key k).id
    let s := if keyVolatile k then s.secSet { s.sec with keys := drop k s.sec.keys } else s.keySet k ⟨none, id, true⟩
    (s.audit 0x0004 h 0 (natLe 1 k ++ natLe 4 id)).finish h d stOk 0
  else ((s.keySet k ⟨some key, d.f 0x14 4, false⟩).audit 0x0003 h 0 (natLe 1 k ++ natLe 4 (d.f 0x14 4))).finish h d stOk 0

/-- KEY_LOAD (R241, R406, R407, R412). -/
def execKeyLoad (h : Fin 4) (q : Fin 8) (s : State) : Host.Outcome State Fault Refusal :=
  .next (s.begin.onDesc h q 0x50 (State.keyDesc h))

/-- The header and records that LOG_READ writes. -/
def State.logBytes (s : State) (from' max buf : Nat) : List Byte :=
  let a := Nat.max from' s.logOldest
  let n := min (min max (s.sec.logSeq - a)) ((buf - 16) / 64)
  natLe 4 n ++ natLe 4 0 ++ natLe 8 (a + n) ++ (upTo n).flatMap fun i => s.pea.mem.getN (logAddr (a + i)) 64

/-- LOG_READ; a buffer without room for the header takes nothing. -/
def State.logDesc (h : Nat) (s : State) (d : Desc) : State :=
  if d.f 0x1C 4 < 16 then s.finish h d stNoSpace 0
  else
    let w := s.devWrite h (d.f 0x20 8) (s.logBytes (d.f 0x10 8) (d.f 0x18 4) (d.f 0x1C 4)) false
    w.2.finish h d (if w.1 then stOk else stFault) 0

/-- LOG_READ (R241, R410). -/
def execLogRead (h : Fin 4) (q : Fin 8) (s : State) : Host.Outcome State Fault Refusal :=
  .next (s.begin.onDesc h q 0x51 (State.logDesc h))

/-! ### Time (R241) -/

/-- Seconds and nanoseconds of a gPTP domain at a time of the device in ns; undefined ones where it is not valid. -/
def State.gptpTime (s : State) (dom ns : Nat) : List Byte × State :=
  let g := s.gptp dom
  if g.valid then
    let t := ((ns : Int) + g.ofs).toNat
    (natLe 6 (t / 1000000000) ++ [0, 0] ++ natLe 4 (t % 1000000000), s)
  else
    let f := s.freeBytes 12
    (f.1, f.2)

/-- The record of TIME_QUERY for a host of a version. -/
def State.timeRecord (s : State) (ver : Nat) : List Byte × State :=
  let n := s.now
  let ns := nsOf n.1 n.2.1
  let a := n.2.2.gptpTime 0 ns
  let b := a.2.gptpTime 1 ns
  let qual := if s.tim.sel ≤ 8 then s.refQual s.tim.sel else 0
  (natLe 8 (n.1 % timeMod ver) ++ natLe 4 (n.2.1 * 2 ^ 32 / 1000000) ++ natLe 1 s.tim.sel ++ natLe 1 s.tim.tst ++ natLe 1 qual ++
    natLe 1 (b2n (s.gptp 0).valid + 2 * b2n (s.gptp 1).valid) ++ a.1 ++ natLe 4 0 ++ b.1 ++ natLe 20 0, b.2)

/-- TIME_QUERY. -/
def State.timeDesc (h : Nat) (s : State) (d : Desc) : State :=
  let r := s.timeRecord (s.hst h).ver
  let w := r.2.devWrite h (d.f 0x10 8) r.1 false
  w.2.finish h d (if w.1 then stOk else stFault) 0

/-- TIME_QUERY (R241). -/
def execTimeQuery (h : Fin 4) (q : Fin 8) (s : State) : Host.Outcome State Fault Refusal :=
  .next (s.begin.onDesc h q 0x52 (State.timeDesc h))

end Sys2Proof.Machine
end

