-- ==== Sys2Proof/Machine/Dray.lean ====
section
/-! DEFINITION. The commands of the Drays and lanes (R175 to R204) and of units, self-test and sparing (R200 to R203, R437 to
R441). -/

namespace Sys2Proof.Machine

/-! ### The block cycle of a Dray -/

/-- DRAY_INPUT_COPY_DONE (R175, R176). -/
def execDrayInputCopyDone (d : Fin 4) (s : State) : Host.Outcome State Fault Refusal := .next (s.begin.inputCopy d)

/-- LANE_DEADLINE (R176). -/
def execLaneDeadline (d : Fin 4) (s : State) : Host.Outcome State Fault Refusal := .next (s.begin.laneDeadline d)

/-- Single-bit errors that an access to lane memory met are corrected and counted (R177). -/
def State.laneCorrected (s : State) (l cor : Nat) : State := s.countN (cDry (l / 16) 1) cor

/-- BUNDLE_ISSUE (R183 to R195); `cor` single-bit errors are corrected in what it reads (R177). -/
def execBundleIssue (l : Fin 64) (cor : Nat) (s : State) : Host.Outcome State Fault Refusal :=
  .next (if s.mayIssue l then (s.begin.laneCorrected l cor).issueBundle l else s.begin)

/-- LANE_INTERRUPT_ENTRY (R191). -/
def execLaneInterruptEntry (l : Fin 64) (s : State) : Host.Outcome State Fault Refusal := .next (s.begin.interrupt l)

/-- LANE_DMA_COMPLETE (R194, R195); `cor` single-bit errors are corrected in the lane memory it reads (R177). -/
def execLaneDmaComplete (l : Fin 64) (hits : MemHits) (cor : Nat) (s : State) : Host.Outcome State Fault Refusal :=
  .next (if s.dryOn (l / 16) && (s.lane l).dq ≠ [] then (s.begin.laneCorrected l cor).dmaDone l hits else s.begin)

/-- LANE_HW_FAULT (R202, R203): the takeover follows at the boundary. -/
def execLaneHwFault (d : Fin 4) (phys : Fin 17) (badWords : List Nat) (s : State) : Host.Outcome State Fault Refusal :=
  .next (if s.up (6 + d) then s.begin.laneFault d phys badWords else s.begin)

/-- DRY_CTL_WRITE (R204). -/
def execDryCtlWrite (src : WrSrc) (d : Fin 4) (w : Word) (s : State) : Host.Outcome State Fault Refusal :=
  .next (s.begin.regWrite src (rDry d + 0x0100) w)

/-! ### Self-test (R200, R208, R438, R441) -/

/-- A lane awaits its migration in some Dray. -/
def State.migrating (s : State) : Bool := (upTo 4).any fun d => (s.dray d).mig.isSome

/-- The rotation reaches its next unit: a lane with a load first migrates, any other unit comes under test. -/
def State.stVisit (s : State) : State :=
  if !s.stokerRuns || !s.rwBit (wCtl + 0x002C) 31 || s.ctl.test.isSome || s.migrating then s
  else match s.rotNext with
    | none => s
    | some (pos, k, p) =>
      let t := s.visit pos k p
      if 3 ≤ k ∧ (s.loadOf k p).isSome then
        (t.ctlSet { t.ctl with test := none }).draySet (k - 3) { t.dray (k - 3) with mig := some p, migN := 0 }
      else t

/-- SELFTEST_VISIT (R200, R438). -/
def execSelftestVisit (s : State) : Host.Outcome State Fault Refusal := .next s.begin.stVisit

/-- LANE_MIGRATION (R200). -/
def execLaneMigration (d : Fin 4) (s : State) : Host.Outcome State Fault Refusal := .next (s.begin.migrate d)

/-- The rotation gives a migration up after 4,000 blocks (R200). -/
def State.migrateSkip (s : State) (d : Nat) : State :=
  if (s.dray d).mig.isSome && decide (4000 ≤ (s.dray d).migN) then (s.draySet d { s.dray d with mig := none }).count (cDry d 3) else s

/-- LANE_MIGRATION_SKIP (R200, R209). -/
def execLaneMigrationSkip (d : Fin 4) (s : State) : Host.Outcome State Fault Refusal := .next (s.begin.migrateSkip d)

/-- DRY_STSTAT after a lane's test (R208). -/
def State.dryTested (s : State) (k p : Nat) (pass : Bool) : State :=
  if 3 ≤ k then
    let o := rDry (k - 3) + 0x0154
    let s := s.capSet o (fld 8 5 p ||| fld 0 1 (b2n pass))
    if pass then s else s.scSet o 16
  else s

/-- The unit under test passes and becomes a spare, or fails and is retired. -/
def State.stDone (s : State) (pass : Bool) : State :=
  match s.ctl.test with
  | none => s
  | some (k, p) =>
    if (s.loadOf k p).isSome then s
    else
      let s := (s.ctlSet { s.ctl with test := none, lastPass := pass }).dryTested k p pass
      if pass then s else (s.retireUnit k none p).health 19

/-- SELFTEST_COMPLETE (R200, R438). -/
def execSelftestComplete (pass : Bool) (s : State) : Host.Outcome State Fault Refusal := .next (s.begin.stDone pass)

/-- Number of a kind of unit. -/
def unitKind : UnitKind → Nat
  | .strip => 0
  | .output => 1
  | .column => 2

/-- A physical unit faults (R439, R441): its load fails for this block and moves at the boundary; a unit without a load is
retired. -/
def State.unitFault (s : State) (k p : Nat) : State :=
  if bit (s.unitsOf k).retired p ∨ unitCount k ≤ p then s
  else match s.loadOf k p with
    | some l => if (k, l) ∈ s.ctl.faulted then s else s.ctlSet { s.ctl with faulted := s.ctl.faulted ++ [(k, l)] }
    | none => (s.endTest k).retireUnit k none p

/-- UNIT_FAULT (R439 to R441). -/
def execUnitFault (k : UnitKind) (phys : Fin 34) (s : State) : Host.Outcome State Fault Refusal :=
  .next (if s.awake then s.begin.unitFault (unitKind k) phys else s.begin)

end Sys2Proof.Machine
end

