-- ==== Sys2Proof/Machine/Pipeline.lean ====
section
/-! DEFINITION. The work of the pipeline stages on their blocks (R15 to R22, R96 to R134), done whole at the boundary that ends
a block (notes/assumptions/12.md): Mix stage, Strip stage, Capture. -/

namespace Sys2Proof.Machine

/-! ### Sources (R18, R21) -/

/-- A captured source: its code, its domain, its block. -/
abbrev SrcBlk := Nat × Nat × List Int

/-- Sources that TDM ports captured. -/
def State.tdmSources (s : State) : List SrcBlk :=
  (List.finRange 16).flatMap fun n =>
    if (s.port n).cap.isEmpty then [] else (upTo 32).map fun l => (0x1000 + 32 * n.val + l, s.tdmDom n, s.tdmSrc n l)

/-- Sources that network listeners captured for block b. -/
def State.netSources (s : State) (b : Nat) : List SrcBlk :=
  s.net.listeners.flatMap fun l =>
    if l.run then (upTo (Rec.nch l.recd)).map fun c => (0x2000 + Rec.chBase l.recd + c, s.netSrc (Rec.chBase l.recd + c) b) else []

/-- Sources that running lanes wrote. -/
def State.laneSources (s : State) : List SrcBlk :=
  (upTo 64).flatMap fun l => match (s.lane l).ports with
    | some c => if (s.lane l).st = .running then (upTo c.outCnt).map fun k => (0x3000 + c.outBase + k, s.laneSrc (c.outBase + k)) else []
    | none => []

/-- Sources that players and generators gave. -/
def State.playerSources (s : State) : List SrcBlk :=
  (upTo 80).filterMap fun p =>
    let x := s.player p
    if x.cur.isNone && x.blk.all (· = 0) then none else some (if p < 64 then 0x4000 + p else 0x5000 + (p - 64), x.dom, x.blk)

/-- Key of a source's history: code and domain. -/
def srcKey (c d : Nat) : Nat := c + 65536 * d

/-- A source's history with a block appended; one that is silent throughout is not listed. -/
def histPut (k : Nat) (blk : List Int) (h : List (Nat × List Int)) : List (Nat × List Int) :=
  let v := histAdd ((look k h).getD []) blk
  if v.all (· = 0) then drop k h else put k v h

/-- One source's block: a history in another domain ends (R138). -/
def srcAdd (h : List (Nat × List Int)) (x : SrcBlk) : List (Nat × List Int) :=
  histPut (srcKey x.1 x.2.1) (fit (domSpb x.2.1) 0 x.2.2) (h.filter fun q => q.1 % 65536 ≠ x.1 || q.1 / 65536 = x.2.1)

/-- Histories of all sources after a capture; a source that delivers nothing is silent. -/
def srcHistNext (h : List (Nat × List Int)) (xs : List SrcBlk) : List (Nat × List Int) :=
  let named := h.filter fun q => xs.any fun x => x.1 = q.1 % 65536
  let rest := h.filter fun q => !(xs.any fun x => x.1 = q.1 % 65536)
  let aged := rest.foldl (fun a q => let v := histAdd q.2 (List.replicate (domSpb (q.1 / 65536)) 0)
                                     if v.all (· = 0) then a else put q.1 v a) named
  xs.foldl srcAdd aged

/-- The last captured block of a source in a domain (R21): silence where nothing came (R19). -/
def State.srcBlk (s : State) (c d : Nat) : List Int :=
  match [0, 1, 2].find? fun e => (look (srcKey c e) s.mix.srcHist).isSome with
  | none => []
  | some e =>
    let h := (look (srcKey c e) s.mix.srcHist).getD []
    bridgeBlk 32 e d (h.drop (domSpb e)) (h.take (domSpb e)).reverse

/-- What a strip's source code delivers (R17, R18). -/
def State.feedBlk (s : State) (c d : Nat) : List Int :=
  if !srcOk c then []
  else match codeClass c with
    | 0 => []
    | 6 => (s.ent (1536 + codeIdx c)).pick false d
    | 7 => (s.ent (2048 + codeIdx c)).pick false d
    | _ => s.srcBlk c d

/-- Sample k of an entry's key tap for a reader in a domain (R104). -/
def State.keyAt (s : State) (d n k : Nat) : Int :=
  let e := s.ent n
  if e.live && e.dom = d then nth e.run.key k else 0

/-! ### One entry -/

/-- The engine that carries an entry is faulty in this block or lost (R439, R440). -/
def State.engineDown (s : State) (n : Nat) : Bool :=
  let k := if n < 1536 then 0 else 1
  let l := if n < 1536 then n / 96 else engineOf n - 16
  s.lost k l || (k, l) ∈ s.ctl.faulted

/-- A faulty column, or a lost one, sums no terms (R439, R440). -/
def State.columnDown (s : State) (b : Nat) : Bool := s.lost 2 (b % 32) || (2, b % 32) ∈ s.ctl.faulted

/-- The mirror record of an entry after block b (R115, R116). DESIGN CHOICE (notes/assumptions/58.md): an active entry whose engine is
faulty in the block or lost (R439, R440) is not metered; its record is written once with VALID 0 and then no more. -/
def State.mirrorBlk (s : State) (e : Ent) (done : Bool) (b : Nat) : State :=
  let m := done && Img.mirror e.act
  let a := s.mtrBase + 16 * e.idx
  let t := if !s.mtrOn then s
    else if m then s.engWrite a e.run.met.record
    else if e.run.met.mir then s.engWrite a (recordOff b) else s
  t.entSet { e with run := { e.run with met := { e.run.met with mir := m } } }

/-- Counters of a processed entry (R118, R143). -/
def State.countBlk (s : State) (n : Nat) (late isOver dly sl : Bool) : State :=
  let strip : Bool := n < 1536
  let s := s.countN (if strip then cStpOverrun else cMixOverrun) (b2n late)
  let s := s.countN (if strip then cStpSat else cMixSat) (b2n isOver)
  let s := s.countN (if strip then cStpDlyErr else cMixDlyErr) (b2n dly)
  s.countN cSlAct (b2n sl)

/-- Samples that an engine finished of an entry's block (R22). -/
def doneOf (io : BlockIn) (n spb : Nat) : Nat :=
  match io.lateEntries.find? fun p => p.1 = n with
  | some p => min p.2 spb
  | none => spb

/-- Side-chain fields in use with their offsets. -/
def sidePairs (k : Nat) (m : Mem) : List (Nat × Nat) :=
  ((flds k m).filter fun f => f.use && f.fix = .keep && f.alt = some 0xFFFF && f.size = 2 && f.hi = 3071).map fun f => (f.off, m.le f.off 2)

/-- The checks of R104 after commits took effect in a block: side-chain fields of entry n that changed, and the readers of an
entry that became active; `e` is the entry before the stage. -/
def State.keyChecks (old : State) (s : State) (n : Nat) : State :=
  let e := old.ent n
  let e' := s.ent n
  let k := kindOf n
  let bad := (sidePairs k e'.img).filter fun p => p ∉ sidePairs k e.img && p.2 < 3072 && (s.ent p.2).live && (s.ent p.2).dom ≠ e'.dom
  let s := if bad.isEmpty then s
    else ((s.setErr n 2#8).countN cBadField bad.length).badAddr false n
  if !e.live && e'.live then s.checkReaders n else s

/-- Capture block b of one entry: `s0` is the state that its feed and its changes read. -/
def State.processEnt (s0 : State) (f : Ent → Feed) (after : Ent → Ent) (io : BlockIn) (b : Nat) (s : State) (n : Nat) : State :=
  let e := s0.ent n
  let spb := domSpb e.dom
  if !e.live && e.chg.isEmpty then s.mirrorBlk { e.silent with err := (s.ent n).err } false b
  else if s.engineDown n then s.mirrorBlk { (s0.entUpTo e (b * spb + spb - 1)).silent with err := (s.ent n).err } false b
  else
    let done := doneOf io n spb
    let w := s0.runBlock (f e) b done e s.mem.bulk
    let e' := { after (w.finish b) with err := (s.ent n).err }
    let s : State := { s with mem := { s.mem with bulk := w.bulk } }
    (s.mirrorBlk e' w.on b).countBlk n (w.on && done < spb) (w.on && e'.run.met.isOver) (w.on && w.dlyErr) (w.on && w.sl)

/-- The entries of a kind in the working store. -/
def State.entsOf (s : State) (k : Nat) : List Nat := (s.mix.ents.filter fun e => kindOf e.idx = k).map (·.idx)

/-! ### Mix stage (R120 to R134) -/

/-- Changes due at the first sample of capture block b, in buses and outputs and in records. -/
def State.mixDue (s : State) (b : Nat) : State :=
  { s with mix := { s.mix with
      ents := s.mix.ents.map fun e => if e.idx < 1536 then e else s.entUpTo e (b * domSpb e.dom)
      xps := s.mix.xps.map fun x => let d := s.busDom (XpR.dst x.img); x.upTo d (b * domSpb d) } }

/-- The changes of the records in capture block b are made, and each record's level is noted (R123). -/
def State.xpsDone (s0 : State) (b : Nat) (s : State) : State :=
  { s with mix := { s.mix with
      xps := s.mix.xps.map fun x =>
        let d := s0.busDom (XpR.dst x.img)
        { x.upTo d (b * domSpb d + domSpb d - 1) with since := s0.sinceNext x } } }

/-- The start of capture block b: the changes due at its first sample, and every bus with its smoothed count (R124), taken from the
contributors after them. A bus that is processed already has the new count before its changes, so that a SCALE ramp starts from the
factor in force at that sample (R77); one that becomes active starts from none. -/
def State.mixBegin (s : State) (b : Nat) : State :=
  let c := s.mixDue b
  let on (e : Ent) := e.runs (b * domSpb e.dom)
  let t := State.mixDue { s with mix := { s.mix with ents := s.mix.ents.map fun e => if on e then c.nsStep b e else e } } b
  { t with mix := { t.mix with ents := t.mix.ents.map fun e => if on (s.ent e.idx) then e else c.nsStep b e } }

/-- Feed of a bus: its terms, servo and duck gains; `s` is the state before the stage. -/
def State.busFeed (s : State) (b : Nat) (act : List Nat) (e : Ent) : Feed :=
  let j := e.idx - 1536
  let d := e.dom
  let spb := domSpb d
  let setter := s.duckSetter act j (12 * b)
  let rel (k : Nat) := duckRelease (s.keptOn e (b * spb) (k + 1)) e (s.duckAt setter e.run.duckRel j b 0).1
  { src := fun _ k => if s.columnDown j then 0 else (s.busSum j d b k).1
    key := fun n k => s.keyAt d n k
    servo := fun k => s.servoAt j s.tim.nsc spb k
    tiltF := (s.busZone j).elim 0 fun z => Zn.tiltFreq z.img
    duck := fun k => s.duckAt (s.duckSetter act j (12 * b + k * domDiv d)) (rel k) j b k
    srcOv := fun k => !s.columnDown j && (s.busSum j d b k).2 }

/-- Duck state of a bus after capture block b: `e` is the entry before it. -/
def State.busAfter (s : State) (b : Nat) (act : List Nat) (e e' : Ent) : Ent :=
  if !e'.live then e'
  else
    let j := e.idx - 1536
    let setter := s.duckSetter act j (12 * b)
    let tgt := (s.duckAt setter e.run.duckRel j b 0).1
    { e' with run := { e'.run with
        duckRel := duckRelease (s.keptOn e (b * domSpb e.dom) (domSpb e.dom)) e tgt, duckPrev := tgt
        duckSet := match setter with
          | some i => i + 1
          | none => 0 } }

/-- Feed of an output: `s0` is the state before the stage, `s1` the one after the bus chains. -/
def State.outFeed (s0 s1 : State) (e : Ent) : Feed :=
  { src := fun c k => if c < 512 then nth ((s1.ent (1536 + c)).pick false e.dom) k else 0
    key := fun n k => s0.keyAt e.dom n k
    servo := fun _ => (0, 0), tiltF := 0, duck := fun _ => (0, 0, 0), srcOv := fun _ => false }

/-- Emergency announcements (R144). DESIGN CHOICE (notes/assumptions/72.md): a bus already active for precedence whose PREC is
raised to 15 has not become active, so it sets no EVENT. -/
def State.emergEvent (s : State) (act : List Nat) : State :=
  if act.any (fun j => Img.prec (s.ent (1536 + j)).act = 15 && s.mix.busAct.all fun b => b.1 ≠ j) then s.scSet rEmerg 16 else s

/-! ### Destinations (R20, R21, R133, R134) -/

/-- Domain of a destination, and the width of its words; 0: a lane input port. -/
def State.destInfo (s : State) (c : Nat) : Nat × Nat :=
  match codeClass c with
  | 1 => (s.tdmDom (codeIdx c / 32), cfgWidth (s.tdmCfg (codeIdx c / 32)))
  | 2 => (s.netDom (codeIdx c), 24)
  | 3 => (s.inPortDom (codeIdx c), 0)
  | _ => (0, 24)

/-- A destination record of an output during a block: the output's processed entry, its mixture of codes and DITHER by sample. -/
structure Tap where
  ent : Ent
  mix : List Taps
  dither : List Bool
  deriving DecidableEq, Repr

/-- The destination records of an output in capture block b; `e` is the entry before the block, `e'` after it. -/
def State.taps (s : State) (b : Nat) (e e' : Ent) : List Tap :=
  let n := domSpb e.dom
  if e'.run.acc.isEmpty then []
  else [0, 1, 2, 3].map fun i =>
    let at_ (k : Nat) := s.entUpTo e (b * n + k)
    ⟨e', (upTo n).map fun k => mixAt (at_ k).ramps (.dest i) e.dom (b * n + k) (Img.dest (at_ k).act i),
     (upTo n).map fun k => Img.dither (at_ k).act i⟩

/-- Codes that a record names in the block. -/
def Tap.codes (t : Tap) : List Nat := ((t.mix.flatMap fun m => m.1.map (·.1)).eraseDups).filter fun c => dstOk c && codeClass c ≠ 0

/-- Position in a record's block of sample j of a destination in a domain. -/
def Tap.at (t : Tap) (d j : Nat) : Nat := j * domSpb t.ent.dom / domSpb d

/-- What a record gives a destination in a domain, in accumulator format (R21, R131). -/
def Tap.give (t : Tap) (c d : Nat) : List Int :=
  let n := domSpb t.ent.dom
  let blk := bridgeBlk 40 t.ent.dom d (t.ent.run.hAcc.drop n) t.ent.run.acc
  (upTo (domSpb d)).map fun j =>
    let x := t.mix.getD (t.at d j) ([], 1)
    let m := x.1.foldl (fun (w : Nat) p => if p.1 = c then w + p.2 else w) 0
    if m = x.2 then nth blk j else rdiv (nth blk j * (m : Int)) x.2

/-- TPDF dither of sample u of a destination in 2^-12 of its LSB (R134): each destination has its own sequence of the seed. -/
def ditherAt (seed c u : Nat) : Int :=
  ((Config.dither seed c (2 * u) % 4096 + Config.dither seed c (2 * u + 1) % 4096 : Nat) : Int) - 4096

/-- A record contributes to a destination at a position of its block: it names its code, or fades it (R142). -/
def Tap.feeds (t : Tap) (c k : Nat) : Bool := (t.mix.getD k ([], 1)).1.any fun p => p.1 = c && p.2 ≠ 0

/-- A destination's value from its records, saturated to the 32-bit sample limits (R133), and whether it is dithered: a record that
contributes to the sample asks for it (R134). -/
def destSum (ts : List Tap) (c d j : Nat) : Int × Bool :=
  let mine := ts.filter fun t => c ∈ t.codes
  (clampI (-34359738368) 34359738352 (mine.foldl (fun (a : Int) t => a + nth (t.give c d) j) 0),
    mine.any fun t => t.feeds c (t.at d j) && t.dither.getD (t.at d j) false)

/-- Word of a width at sample u before saturation; width 0: a lane input port. -/
def destVal (seed w c u : Nat) (v : Int × Bool) : Int :=
  if w = 0 then rdiv v.1 16 else destExact w v.1 (if v.2 && w ≠ 32 then ditherAt seed c u else 0)

/-- The words of one destination in capture block b (R133), and whether one meets a limit. -/
def State.destBlk (s : State) (ts : List Tap) (b c d w : Nat) : List Int × Bool :=
  let n := domSpb d
  let x (j : Nat) := destVal s.mix.seed w c (b * n + j) (destSum ts c d j)
  let l := if w = 0 then 32 else w
  ((upTo n).map fun j => satN l (x j), (upTo n).any fun j => outN l (x j + 1) || outN l (x j - 1))

/-- One destination: a network channel has words of each width that a stream sends it with, those of 32 bits under its code
plus 65,536 (R133). Its 24-bit word counts at a limit unless streams send it with 32 bits alone. -/
def State.destPut (ts : List Tap) (b : Nat) (s : State) (c : Nat) : State :=
  let i := s.destInfo c
  let r := s.destBlk ts b c i.1 i.2
  let wide : Bool := codeClass c = 2 && s.netWide (codeIdx c)
  let q := s.destBlk ts b c i.1 32
  let dst := put c r.1 s.mix.dst
  ({ s with mix := { s.mix with dst := if wide then put (c + 65536) q.1 dst else dst } } : State).countN cDstClip
    (b2n ((r.2 && (!wide || s.netNarrow (codeIdx c))) || (wide && q.2)))

/-- All destinations of the block. -/
def State.destAll (s : State) (ts : List Tap) (b : Nat) : State :=
  ((ts.flatMap Tap.codes).eraseDups).foldl (State.destPut ts b) { s with mix := { s.mix with dst := [] } }

/-- The Mix stage on capture block b (R15): buses, then outputs, then destinations. -/
def State.mixStage (io : BlockIn) (b : Nat) (s : State) : State :=
  let s0 := s.mixBegin b
  let act := s0.activeBuses b
  let t := s0.emergEvent act
  let buses := s.entsOf 2
  let outs := s.entsOf 3
  let s1 := buses.foldl (fun t n => s0.processEnt (s0.busFeed b act) (s0.busAfter b act (s0.ent n)) io b t n) t
  let t := outs.foldl (s0.processEnt (s0.outFeed s1) id io b) s1
  let t := (buses ++ outs).foldl s.keyChecks t
  let t := t.destAll (outs.flatMap fun n => s0.taps b (s0.ent n) (t.ent n)) b
  let t := s0.xpsDone b t
  let missed : Bool := io.lateEntries.any fun p => 1536 ≤ p.1
  { t with mix := { t.mix with busAct := s0.actPairs act, missMix := if missed then t.mix.missMix + 1 else 0 } }

/-! ### Feeds of the noise analyser (R147, R154, R155) -/

/-- The zone reference in a block: the post-processing results of the zone's outputs, bridged to the A domain, summed. -/
def State.zoneRef (s : State) (z : Nat) : List Int :=
  (s.zoneOutputs z).foldl (fun a e => let x := e.pick false 0; (upTo 12).map fun k => nth a k + nth x k) (List.replicate 12 0)

/-- A zone with the feeds of the block and what they say of its microphones (R155): one fails while its source delivers zeros or
is no microphone source (R149), in a block whose peak exceeds -1 dBFS, and after 1 s below -100 dBFS (by the peak of each
block: DESIGN CHOICE, notes/assumptions/72.md). -/
def State.zoneFeed (s : State) (z : Zone) : Zone :=
  let n := z.nMics
  let mics := (upTo n).map fun i => let c := Zn.micSrc z.img i; if s.micSrcBad c then [] else fit 12 0 (s.srcBlk c 0)
  let pk (i : Nat) := peak (mics.getD i [])
  let quiet := (upTo 4).map fun i => if i < n && 100000 * pk i < 8388608 then z.quiet.getD i 0 + 1 else 0
  let fails := (upTo 4).map fun i =>
    let c := Zn.micSrc z.img i
    i < n && (s.micSrcBad c || s.micDead c || decide (7476354 < pk i) || decide (4000 ≤ quiet.getD i 0))
  let none' := (fails.take n).all id
  let ref := if Zn.en z.img then s.zoneRef z.idx else List.replicate 12 0
  { z with
    mics := mics, ref := ref, quiet := quiet, fails := fails, done := false
    noMic := if none' then z.noMic + 1 else 0, frozen := if z.st = .frozen then z.frozen + 1 else 0
    refSq := ref.foldl (fun a x => a + x.natAbs * x.natAbs) z.refSq, refN := z.refN + 12 }

/-- Every zone's feeds of the block. -/
def State.zoneFeeds (s : State) : State :=
  if s.mix.act && s.znOn then { s with mix := { s.mix with zones := s.mix.zones.map s.zoneFeed } } else s

/-! ### Strip stage (R96) -/

/-- Feed of a strip. -/
def State.stripFeed (s : State) (e : Ent) : Feed :=
  { src := fun c k => nth (s.feedBlk c e.dom) k
    key := fun n k => s.keyAt e.dom n k
    servo := fun _ => (0, 0), tiltF := 0, duck := fun _ => (0, 0, 0), srcOv := fun _ => false }

/-- The Strip stage on capture block b. -/
def State.stripStage (io : BlockIn) (b : Nat) (s : State) : State :=
  let s0 := s
  let s := (s.entsOf 1).foldl (s0.processEnt s0.stripFeed id io b) s
  let s := (s0.entsOf 1).foldl s0.keyChecks s
  let missed : Bool := io.lateEntries.any fun p => p.1 < 1536
  { s with mix := { s.mix with missStrip := if missed then s.mix.missStrip + 1 else 0 } }

/-! ### Subscriptions (R117, R243) -/

/-- A period's values with those of block b (R117, R243): VALID as in its last block, the others over the blocks that the entry
was processed in. DESIGN CHOICE (notes/assumptions/72.md): with no such block, the values of the last one processed before. -/
def SubVal.join (a : Option SubVal) (e : Ent) (b : Nat) : SubVal :=
  let m := e.run.met
  let on : Bool := m.block = b && !e.run.post.isEmpty
  let v : SubVal := ⟨on, on, m.prepk, m.postpk, m.rms, m.gr, m.holdpk, on && m.isOver, on && m.gated⟩
  match a with
  | none => v
  | some a =>
    if !on then { a with valid := false, rms := m.rms, holdpk := m.holdpk }
    else if !a.seen then v
    else { v with prepk := max a.prepk m.prepk, postpk := max a.postpk m.postpk, gr := min a.gr m.gr
                  isOver := a.isOver || v.isOver, gated := a.gated || v.gated }

/-- A subscription after capture block b, whose period starts at a multiple of N. -/
def Sub.meter (s : State) (b : Nat) (x : Sub) : Sub :=
  { x with acc := x.ents.zipIdx.map fun p => SubVal.join (if b % x.n = 0 then none else x.acc[p.2]?) (s.ent p.1) b }

/-- All subscriptions after the Mix stage of block b. -/
def State.meterSubs (b : Nat) (s : State) : State :=
  { s with hosts := s.hosts.map fun h => { h with subs := h.subs.map fun x => x.map (Sub.meter s b) } }

/-! ### Capture (R15, R138, R139) -/

/-- One operation of a player takes effect, is outranked, or was cancelled (R138). -/
def State.playerOp (s : State) (o : Op) : State :=
  match playerOf (o.args.headD 0) with
  | none => s
  | some p =>
    if o.lost then s.opPut { o with part1 := true }
    else if s.outranked o then s.opPut { o with part1 := true, lost := true }
    else
      let s := (s.playerSet p ((s.player p).apply o)).opPut { o with part1 := true }
      if o.kind = .clipStop then
        { s with mix := { s.mix with ops := s.mix.ops.map fun a =>
          if a.kind = .clipPlay ∧ a.args.headD 0 = o.args.headD 0 ∧ !a.part1 ∧ o.t ≤ a.t ∧ a.csn < o.csn then { a with lost := true } else a } }
      else s

/-- Operations of players whose targets lie in capture block b, in the order of R69. -/
def State.playerOps (b : Nat) (s : State) : State :=
  let due := (opSort s.mix.ops).filter fun o => (o.kind = .clipPlay || o.kind = .clipStop) && !o.part1 && o.t / 12 ≤ b
  (due.map (·.csn)).foldl (fun s c => match s.opOf c with
    | some o => s.playerOp o
    | none => s) s

/-- Data of a clip of a player is missing in the block (R139). -/
def Player.misses (p : Player) (gaps : List ClipGap) : Bool :=
  (p.old ++ p.cur.toList).any fun c => gaps.any fun g => g.csn = c.csn && g.pos ≠ []

/-- The players' samples of capture block b. -/
def State.playersCapture (io : BlockIn) (b : Nat) (s : State) : State :=
  let n := ((s.mix.players.take 64).filter fun p => p.misses io.lateClips).length
  ({ s with mix := { s.mix with
    players := s.mix.players.zipIdx.map fun q => q.1.capture s.mem.bulk b io.lateClips (s.scheduled q.2) } } : State).countN cClipUr n

/-- The words of P0's first position in the block (R161). -/
def State.p0Words (s : State) (sdi : List SdiWord) : List Int :=
  let c := s.byp.cfg0.getD 0
  if cfgSlave c then s.byp.cap
  else (upTo 12).map fun k =>
    (sdi.find? fun w => w.port = 0 && w.frame = k && w.pos = 0).elim 0 fun w => rxSample (cfgWidth c) (satN (cfgWidth c) w.word)

/-- The bypass takes its samples of the block (R161). -/
def State.bypCapture (io : BlockIn) (b : Nat) (s : State) : State :=
  let net := s.netSrc 0 b
  { s with byp := { s.byp with blk := s.acInput (s.p0Words io.sdi) (if net.1 = 0 then net.2 else []) } }

/-- The Capture stage of block b. -/
def State.captureStage (io : BlockIn) (b : Nat) (s : State) : State :=
  let s := if s.up secStr then (List.finRange 16).foldl (fun s n => s.tdmCapture io.sdi n) s else s
  let s := s.bypCapture io b
  let s := if s.mix.act then (s.playerOps b).playersCapture io b else s
  let xs := s.tdmSources ++ s.netSources b ++ s.laneSources ++ s.playerSources
  let h := if s.up secStp && s.rwBit rStpCtl 31 then srcHistNext s.mix.srcHist xs else []
  ({ s with mix := { s.mix with srcHist := h } } : State).dropCaptured b

/-- The work of all stages in block m, at the boundary that ends it. -/
def State.finishBlock (io : BlockIn) (s : State) : State :=
  let m := s.tim.nsc / 12
  let s := if s.up secStr then s.slavesEnd else s
  let s := if 3 ≤ m then s.packTalkers (m - 3) else s
  let s := if s.mix.act && 2 ≤ m then ((s.mixStage io (m - 2)).meterSubs (m - 2)).zoneFeeds else s
  let s := if s.mix.act && s.mix.strip && 1 ≤ m then s.stripStage io (m - 1) else s
  s.captureStage io m

end Sys2Proof.Machine
end

