-- ==== Sys2Proof/Machine/Boundary.lean ====
section
/-! DEFINITION. The block boundary (R14, R53): what takes effect at it, after the stages have finished their blocks. -/

namespace Sys2Proof.Machine

/-! ### The count (R14, R323) -/


def Ramp.moved (d : Int) (r : Ramp) : Ramp := { r with t := Machine.moved d r.t }
def Chg.moved (d : Int) (c : Chg) : Chg := { c with t := Machine.moved d c.t }
def Wait.moved (d : Int) (w : Wait) : Wait := { w with t := Machine.moved d w.t }
def Clip.moved (d : Int) (c : Clip) : Clip :=
  { c with t := Machine.moved d c.t, out := c.out.map fun o => (Machine.moved d o.1, o.2) }

/-- An operation that now lies below the new NSC + 24 takes effect there, late (R323). -/
def Op.jam (nsc : Nat) (o : Op) : Op := if o.t < nsc + 24 then { o with t := nsc + 24, late := true } else o

/-- The Mix and Strip sections after a jam by d A-samples: the blocks under way are discarded. -/
def Mix.jam (x : Mix) (d : Int) (nsc : Nat) : Mix :=
  { x with
    ents := x.ents.map fun e => { e.silent with
      chg := e.chg.map (Chg.moved d), ramps := e.ramps.map (Ramp.moved d), wait := e.wait.map (Wait.moved d) }
    xps := x.xps.map fun y => { y with
      chg := y.chg.map (Chg.moved d), ramps := y.ramps.map (Ramp.moved d), wait := y.wait.map (Wait.moved d) }
    ops := x.ops.map (Op.jam nsc)
    players := x.players.map fun p => { p with cur := p.cur.map (Clip.moved d), old := p.old.map (Clip.moved d), blk := [] }
    srcHist := [], dst := [] }

/-- A jam with the sections running (R323). -/
def State.jamRunning (s : State) : State :=
  let was := s.tim.nsc
  let s := s.jam
  { s with mix := s.mix.jam ((s.tim.nsc : Int) - (was : Int)) s.tim.nsc, tdm := s.tdm.map fun p => { p with cap := [] } }

/-- The next block begins. -/
def State.nextBlock (s : State) : State :=
  let s := s.steerBlock
  let s := s.timSet { s.tim with nsc := (s.tim.nsc / 12 + 1) * 12 % 2 ^ 64 }
  let s : State := { s with mix := { s.mix with nEnt := 0, nXp := 0, nZn := 0 } }
  if s.tim.jamNow && s.tim.jamPend then s.jamRunning else s

/-! ### Units (R438 to R441) -/

/-- Faulty units are taken over, and the load of a unit due for test moves to the spare. -/
def State.unitsBoundary (s : State) : State :=
  let fs := s.ctl.faulted
  let s := fs.foldl (fun s f => s.unitFaulted f.1 f.2) (s.ctlSet { s.ctl with faulted := [] })
  match s.ctl.test with
  | none => s
  | some (k, p) =>
    match s.loadOf k p with
    | none => s
    | some l => if 3 ≤ k then s.migrated (k - 3) l else s.place k l (s.spares k).head?

/-! ### Starting and stopping of the sections (R467) -/

/-- The Mix section without its working store. -/
def Mix.stopped (x : Mix) : Mix :=
  { x with
    act := false, compiled := false, ents := [], xps := [], stale := [], fetching := [], ready := [], deferred := []
    players := List.replicate 80 Player.idle, zones := [], dst := [], busAct := [] }

/-- The Strip section stops: its strips deliver nothing. -/
def Mix.stripOff (x : Mix) : Mix :=
  { x with strip := false, srcHist := [], missStrip := 0, ents := x.ents.map fun e => if e.idx < 1536 then e.silent else e }

/-- Blocks in a row that the Mix section has missed, while it is off: with the Strip section in reset it misses every one, so that
its watchdog fires (R22, R26). -/
def State.missedOff (s : State) : Nat := if s.up secStp then 0 else s.mix.missMix + 1

/-- EN takes effect (R467). The Mix section stops also where EN was cleared and set again within the block: it then starts anew, if
its tables are placed (R27). -/
def State.sectionsBoundary (s : State) : State :=
  let en := s.up secStp && s.rwBit rStpCtl 31
  let s : State := { s with mix := if en then { s.mix with strip := true } else s.mix.stripOff }
  let on := s.up secMix && s.mixEn
  if on && (s.mix.compiled || !s.mix.act) then
    (if s.mix.compiled && s.mix.strip then { s with mix := { s.mix with act := true } } else s)
  else
    let s := s.abortOps
    let s : State := { s with mix := { s.mix.stopped with missMix := s.missedOff } }
    if on then s.mixStart else s

/-! ### Tables and commits (R50 to R53, R72, R86) -/

/-- Position of ready copies in the order of installation: records, then entries with their lists, then zones (R50, R150). -/
def readyRank (r : Ready) : Nat :=
  match r.item with
  | .xp _ => 0
  | .entry _ => 1
  | .zone _ => 2

/-- One ready copy is installed. -/
def State.install (blk : Nat) (s : State) (r : Ready) : State :=
  match r.item with
  | .xp n => s.installXp n r.img blk
  | .entry n => s.installEntry n r.img blk
  | .zone n => s.installZone n r.img blk

/-- A ready copy waits for an item of a list: an owner for a record that made it stale, a record for an owner it made stale. -/
def State.waitsFor (s : State) (w : List Item) (it : Item) : Bool :=
  match it with
  | .xp i => (s.ownersOf i).any fun o => o ∈ w
  | .entry n => w.any fun x => match x with
    | .xp i => Item.entry n ∈ s.ownersOf i
    | _ => false
  | _ => false

/-- Items that are not installed at this boundary: the ones not fetched yet, and the ready ones that wait for them. -/
def State.unready (s : State) : Nat → List Item → List Item
  | 0, w => w
  | k + 1, w => s.unready k (addNew w ((s.mix.ready.map (·.item)).filter (s.waitsFor w)))

/-- The ready copies are installed; an owner's new list goes with the new copies of the records it is walked over (R50). -/
def State.installReady (s : State) (blk : Nat) : State :=
  if s.mix.ready.isEmpty then s
  else
    let w := s.unready s.mix.ready.length (s.mix.stale ++ s.mix.fetching)
    let go := s.mix.ready.filter fun r => !s.waitsFor w r.item
    let rs := [0, 1, 2].flatMap fun k => go.filter fun r => readyRank r = k
    (rs.foldl (State.install blk) { s with mix := { s.mix with ready := s.mix.ready.filter fun r => s.waitsFor w r.item } }).setOn

/-- Entries or records that a READ_STATE names, in order. -/
def Op.named (o : Op) : List Nat := o.recs.flatMap fun r => (upTo r.off).map (· + r.idx)

/-- Pending commits and recalls that a READ_STATE's images contain (R86). -/
def State.seenBy (s : State) (o : Op) : List Op :=
  (opSort s.mix.ops).filter fun a => a.writes && !a.failed && a.csn < o.csn && a.t ≤ o.t

/-- The image of entry n for a READ_STATE at its stage boundary: fields of the view, the status area as of the snapshot. -/
def State.snapEnt (s : State) (o : Op) (view : Mem) (n : Nat) : List Byte :=
  let a := s.entAddr n
  if 3072 ≤ n then view.getN a 512
  else
    let e := s.ent n
    let last := ((s.seenBy o).filter fun p => p.entries.contains n && !(if firstPart n then p.part1 else p.part2)).getLast?
    let u := domCeil e.dom (stageIndex s.tim.nsc n)
    let live := Img.active (s.imgIn view n) && ((!(s.compile n (s.imgIn view n)).2 && !e.noCopy) || e.runs u)
    let st := if e.faulted then 4 else if e.held then 3 else if !live then 0 else if e.dualAt u then 2 else 1
    view.getN a imgSize ++ natLe 6 ((last.map (·.csn)).getD e.lastCsn) ++ [BitVec.ofNat 8 st, e.err] ++
      natLe 8 ((last.map (·.t)).getD e.lastNsc) ++ view.getN (a + 0x1D0) 48

/-- The part of a READ_STATE whose stage boundary is that of block number blk is read out, before commits apply. -/
def State.snapshot (blk : Nat) (s : State) (o : Op) : State :=
  let first := o.t / 12 + 1 ≤ blk && !o.part1
  let second := o.t / 12 + 2 ≤ blk && !o.part2
  if o.kind ≠ .readState ∨ o.aborted ∨ (!first && !second) then s
  else
    let view := (s.seenBy o).foldl s.execOp s.mem.bulk
    let xp := o.args.headD 0 = 1
    let z := if xp then 16 else 512
    let imgs := o.named.zipIdx.flatMap fun p =>
      if xp then (if second then view.getN (s.xpAddr p.1) 16 else List.replicate 16 0)
      else if (if firstPart p.1 then first else second) then s.snapEnt o view p.1
      else fit z 0 ((o.data.drop (z * p.2)).take z)
    let m := timeMod (o.args.getD 2 3)
    let data := if second then imgs ++ natLe 8 (o.t % m) ++ natLe 6 o.csn ++ [0, 0] else imgs
    s.opPut { o with data := data, part1 := true, part2 := o.part2 || second }

/-- An aborted READ_STATE has nothing to read out any more. -/
def State.abortedDone (s : State) : State :=
  { s with mix := { s.mix with ops := s.mix.ops.map fun o =>
      if o.kind = .readState ∧ o.aborted then { o with part1 := true, part2 := true } else o } }

/-- SERR bit 4 of the zones mirrors the clamps of their outputs' delays (R132, R151). -/
def State.zonesClamp (s : State) : State :=
  s.mix.zones.foldl (fun (s : State) z =>
    if z.serr.getLsbD 4 = (s.zoneOutputs z.idx).any Ent.dlyClamped then s else s.putZone { z with serr := z.serr ^^^ 16#8 }) s

/-- Installations, then the snapshots and the commits of the boundary (R53). -/
def State.tablesBoundary (s : State) : State :=
  if !s.mix.act then s
  else
    let blk := s.tim.nsc / 12
    let s := (s.installReady blk).checkCommits blk
    let s := (s.mix.ops.foldl (State.snapshot blk) s).abortedDone
    (s.applyCommits blk).zonesClamp

/-- Claims whose lease has run out end (R85). -/
def State.claimsBoundary (s : State) : State :=
  (s.countN cLeaseExp (s.mix.claims.filter (·.expired)).length).dropClaims (·.expired)

/-! ### Emission (R15, R303, R352, R377) -/

/-- TDM ports, DAC channels and talkers at the boundary; `took`: the unit begins to drive. -/
def State.emitBoundary (s : State) (took : Bool) : State :=
  let s := s.bypBoundary
  let s := if s.up secStr then
      (List.finRange 16).foldl (fun s n => (s.tdmStopAt n).portSet n (((s.tdmStopAt n).port n).nextBlock)) s else s
  (s.emitTdm.emitDac).launch took

/-- One more block has passed without the migration that a Dray waits for (R200). -/
def State.migWait (s : State) (d : Nat) : State :=
  let y := s.dray d
  if y.mig.isSome then s.draySet d { y with migN := y.migN + 1 } else s

/-- Lanes at the boundary. -/
def State.lanesBoundary (s : State) : State :=
  let s := (upTo 4).foldl State.migWait ((upTo 64).foldl State.laneBoundary s)
  { s with drays := s.drays.map fun y => { y with closing := false } }

/-- Without a Time section there are no block boundaries; the bypass works on its own 12 samples (R26, R161). -/
def State.bypAlone (s : State) (io : BlockIn) : State :=
  if s.acDrives then ((s.bypCapture io 0).bypBoundary.emitPinsAll.emitAc15 0).emitDac else s

/-- What takes effect as a block begins. -/
def State.beginBlock (s : State) : State :=
  let was := s.drives
  let s := s.unitsBoundary.twinBoundary
  let s := s.streamBoundary.lanesBoundary
  let s := s.sectionsBoundary.claimsBoundary
  let took := s.drives && s.twin.replay
  let s := if took then s.twinSet { s.twin with replay := false } else s
  s.tablesBoundary.emitBoundary (took && !was)

/-- The block boundary (R14). After a jam that left NSC off the multiples of 12, no block is under way and none begins until the
next multiple (R5, R323). -/
def State.boundary (s : State) (io : BlockIn) : State :=
  if !s.up secTime then s.bypAlone io
  else
    let t := (if s.tim.nsc % 12 = 0 then s.finishBlock io else s).nextBlock
    if t.tim.nsc % 12 = 0 then t.beginBlock else t

end Sys2Proof.Machine
end

