-- ==== Sys2Proof/Machine/Engine.lean ====
section
/-! DEFINITION. The commands of the pipeline, the table engine, the commit engine and the entries' own events (R13 to R141). -/

namespace Sys2Proof.Machine

/-! ### Blocks (R13, R14, R22) -/

/-- BLOCK_BOUNDARY (R14, R15, R53). -/
def execBlockBoundary (io : BlockIn) (s : State) : Host.Outcome State Fault Refusal := .next (s.begin.boundary io)

/-- The Mix section has missed three blocks in a row, or a section it needs is in reset so that no blocks come (R22, R26). -/
def State.mixLate (s : State) : Bool :=
  3 ≤ s.mix.missStrip || 3 ≤ s.mix.missMix || (s.awake && (!s.up secMem || !s.up secTime))

/-- The Mix watchdog (R22): in a twin pair a give-up cause, otherwise a health fault. -/
def State.mixDog (s : State) : State :=
  if s.mixLate then
    (if s.rwBit rHitCfg 31 && s.twin.paired then s.giveCause 4 else s.health 23)
  else s

/-- MIX_WATCHDOG (R22). -/
def execMixWatchdog (s : State) : Host.Outcome State Fault Refusal := .next s.begin.mixDog

/-- An interface clock stops (R13): its converter holds the core side idle, and only its own interface's chapter gives an effect,
by a command of its own. -/
def execInterfaceClockStop (_i : Iface) (s : State) : Host.Outcome State Fault Refusal := .next s.begin

/-! ### Tables (R49 to R57) -/

/-- A write at the bulk-memory port by a master (R49, R55): those of the Hitch engine are replayed direct writes (R392). -/
def State.portWrite (s : State) (m : Fin 14) (a : Nat) (bs : List Byte) : State :=
  if !s.masterOn m then s
  else if !s.inBulk a bs.length then s.decerr m a true
  else if m.val = 12 then s.replWrite a bs
  else s.bulkWrite m a bs false

/-- TABLE_DIRECT_WRITE (R49, R55). -/
def execTableDirectWrite (m : Fin 14) (addr : BitVec 40) (data : List Byte) (s : State) : Host.Outcome State Fault Refusal :=
  .next (s.begin.portWrite m addr.toNat data)

/-- TABLE_REFETCH (R50, R150). -/
def execTableRefetch (s : State) : Host.Outcome State Fault Refusal :=
  .next (if s.mixEn then { s.begin with mix := s.mix.refetch } else s.begin)

/-- Where an item lies in bulk memory, and its length. -/
def State.itemAt (s : State) (it : Item) : Nat × Nat :=
  match it with
  | .entry n => (s.entAddr n, 512)
  | .xp n => (s.xpAddr n, 16)
  | .zone n => (s.znAddr n, 128)

/-- The table engine's read of an item meets an uncorrectable error at `a` (R57, R279). -/
def State.itemLost (s : State) (it : Item) (hits : MemHits) : Option Nat :=
  let p := s.itemAt it
  let bad := badAt hits .bulk p.1
  if badIn bad p.1 p.2 then some (firstBad bad p.1 p.2) else none

/-- A re-fetch that meets an uncorrectable error keeps the previous copy (R57). -/
def State.refetchFailed (s : State) (it : Item) (a : Nat) (adr : Bool) : State :=
  let s := s.uncErr 10 a false adr
  match it with
  | .entry n => (s.entSet { s.ent n with faulted := true }).setErr n 0x80#8
  | _ => s

/-- A re-fetch and compile completes; the copy waits for the next boundary (R50). -/
def State.compileDone (s : State) (it : Item) (hits : MemHits) : State :=
  if it ∉ s.mix.fetching then s
  else
    let s : State := { s with mix := { s.mix with fetching := s.mix.fetching.filter (· ≠ it) } }
    let s := s.eccFixed .bulk (s.itemAt it).1 (s.itemAt it).2 hits
    match s.itemLost it hits with
    | some a => s.refetchFailed it a hits.adr
    | none => { s with mix := { s.mix with ready := (s.mix.ready.filter fun r => r.item ≠ it) ++ [⟨it, s.fetchImg it⟩] } }

/-- COMPILE_COMPLETE (R50, R57). -/
def execCompileComplete (it : Item) (hits : MemHits) (s : State) : Host.Outcome State Fault Refusal := .next (s.begin.compileDone it hits)

/-- A compiled copy fails its check (R57). The recompile it asks for is installed as one after a direct write is
(notes/assumptions/73.md). -/
def State.storeBad (s : State) (it : Item) : State :=
  if s.mix.act && itemCounts it then
    ({ s with mix := { s.mix with stale := addNew s.mix.stale [it] } } : State).count cWsErr
  else s

/-- WORKING_STORE_ECC_ERROR (R57). -/
def execWorkingStoreEccError (it : Item) (s : State) : Host.Outcome State Fault Refusal := .next (s.begin.storeBad it)

/-! ### Sequenced operations (R62 to R85) -/

/-- SEQUENCED_ACCEPTANCE (R62, R66): at the index of the block's A-sample `pos`. -/
def execSequencedAcceptance (h : Fin 4) (q : Fin 8) (pos : Fin 12) (hits : MemHits) (s : State) : Host.Outcome State Fault Refusal :=
  .next (if s.up secHost then s.begin.accept h q (s.tim.nsc + pos) hits else s.begin)

/-- COMMIT_COMPLETION_POST (R72, R74). -/
def execCommitCompletionPost (csn : BitVec 48) (hits : MemHits) (s : State) : Host.Outcome State Fault Refusal :=
  .next (s.begin.complete csn.toNat hits)

/-- DUAL_PATH_SLOT_GRANT (R79). -/
def execDualPathSlotGrant (s : State) : Host.Outcome State Fault Refusal := .next (s.begin.grantSlots s.tim.nsc)

/-- SECOND_TERM_GRANT (R122). -/
def execSecondTermGrant (s : State) : Host.Outcome State Fault Refusal := .next (s.begin.grantTerms s.tim.nsc)

/-- Ramps without one that is over before an index, its field being at its new value. A fade-out has its own end. -/
def endRamp (rs : List Ramp) (f : RampFld) (d u : Nat) : List Ramp :=
  rs.filter fun r => !(r.fld = f && r.isOver d u && !(f = .active && r.m1.1 = 0))

/-- A ramp is over before the block that the owner's stage begins now (R75 to R79, R122). -/
def State.rampOver (s : State) (k : RampKey) : State :=
  match k.owner with
  | .entry n =>
    if s.mix.ents.any (fun e => e.idx = n) then
      let e := s.ent n
      let u := domCeil e.dom (stageIndex s.tim.nsc n)
      let e := { e with ramps := endRamp e.ramps k.fld e.dom u }
      (s.entSet e).putStatus e u
    else s
  | .xp n =>
    if s.mix.xps.any (fun x => x.idx = n) then
      let x := s.xp n
      let d := s.busDom (XpR.dst x.img)
      s.xpSet { x with ramps := endRamp x.ramps k.fld d (domCeil d (s.tim.nsc - 24)) }
    else s

/-- RAMP_END (R75, R78, R122). -/
def execRampEnd (k : RampKey) (s : State) : Host.Outcome State Fault Refusal := .next (s.begin.rampOver k)

/-- The fade-out of an entry is over: processing stops (R44). The mirror record with VALID 0 follows at the end of the stage's
block (R116). -/
def State.fadeOutEnd (s : State) (n : Nat) : State :=
  let e := s.ent n
  let u := domCeil e.dom (stageIndex s.tim.nsc n)
  if e.live && e.faded u then
    let e := { e with live := false, ramps := [], wait := none }
    (s.entSet e).putStatus e u
  else s

/-- ENTRY_FADE_OUT_END (R44, R116). -/
def execEntryFadeOutEnd (e : Fin 3072) (s : State) : Host.Outcome State Fault Refusal := .next (s.begin.fadeOutEnd e)

/-- CLAIM_LEASE_EXPIRY (R85): the claim ends at the next boundary. -/
def execClaimLeaseExpiry (csn : BitVec 48) (s : State) : Host.Outcome State Fault Refusal :=
  .next { s.begin with mix := { s.mix with
    claims := s.mix.claims.map fun c => if c.csn = csn.toNat then { c with expired := true } else c } }

/-! ### Events inside an entry (R105, R111, R114, R123) -/

/-- The hold count of a gate has run out with the key below threshold (R105). -/
def Gate.expire (g : Gate) : Gate := if g.st = 1 ∧ g.left = 0 ∧ g.below then { g with st := 0 } else g

/-- An update of the run state of a processed entry. -/
def State.runUpd (s : State) (n : Nat) (f : Run → Run) : State :=
  if s.mix.ents.any (fun e => e.idx = n) && (s.ent n).live then s.entSet { s.ent n with run := f (s.ent n).run } else s

/-- GATE_HOLD_EXPIRY (R105). -/
def execGateHoldExpiry (e : Fin 1536) (s : State) : Host.Outcome State Fault Refusal :=
  .next (s.begin.runUpd e fun r => { r with gate := r.gate.expire })

/-- The hold time of a meter is over (R114): the held peak decays from the next update on. -/
def Met.expire (m : Met) : Met := { m with holdLeft := max m.holdLeft 0 }

/-- PEAK_HOLD_EXPIRY (R114). -/
def execPeakHoldExpiry (e : Fin 3072) (s : State) : Host.Outcome State Fault Refusal :=
  .next (s.begin.runUpd e fun r => { r with met := r.met.expire })

/-- A burst of a delay-line read of the delay/clip engine arrives (R111, R258); one with an uncorrectable error delivers zeros. -/
def State.delayBurst (s : State) (n first : Nat) (hits : MemHits) : State :=
  if !(s.ent n).live then s
  else
    let s := s.found 11 (Img.dlyAddr (kindOf n) (s.ent n).act) hits
    if hitsFail hits then (s.entSet { s.ent n with badBursts := (s.ent n).badBursts ++ [first] }).setErr n 0x80#8 else s

/-- DELAY_BURST_COMPLETE (R111). -/
def execDelayBurstComplete (e : Fin 3072) (first : Nat) (hits : MemHits) (s : State) : Host.Outcome State Fault Refusal :=
  .next (s.begin.delayBurst e first hits)

/-- A record whose pick-off has stayed below the threshold for 40 blocks (R123). -/
def State.hangOver (s : State) (n : Nat) : State :=
  if s.mix.xps.any (fun x => x.idx = n) && (s.xp n).since = 39 && s.sinceNext (s.xp n) = 40 then s.xpSet { s.xp n with since := 40 } else s

/-- CONTRIBUTOR_HANG_EXPIRY (R123). -/
def execContributorHangExpiry (x : Fin 98304) (s : State) : Host.Outcome State Fault Refusal := .next (s.begin.hangOver x)

/-! ### Players (R137 to R141) -/

/-- What a player plays is over before the block under way: it delivers zeros and is idle. -/
def State.playerOver (s : State) (p : Nat) : State :=
  let x := s.player p
  match x.cur with
  | some c => if c.overAt (domCeil c.dom s.tim.nsc) then s.playerSet p { x with cur := none } else s
  | none => s

/-- CLIP_END (R137). -/
def execClipEnd (p : Fin 64) (s : State) : Host.Outcome State Fault Refusal := .next (s.begin.playerOver p)

/-- TONE_PATTERN_END (R141): a pattern that repeats goes on at the next PERIOD by its own index, another one ends. -/
def execTonePatternEnd (g : Fin 16) (s : State) : Host.Outcome State Fault Refusal := .next (s.begin.playerOver (64 + g.val))

/-- A burst of clip data arrives as bulk memory holds it (R136, R139), for a clip that plays, fades out or is scheduled. -/
def State.clipBurst (s : State) (p csn burst : Nat) (hits : MemHits) : State :=
  let x := s.player p
  match (x.cur.toList ++ x.old ++ s.scheduled p).find? fun c => c.csn = csn with
  | none => s
  | some c =>
    let b := if hitsFail hits then ⟨csn, burst, none⟩ else c.fetch s.mem.bulk burst
    let s := s.playerSet p { x with bursts := (x.bursts.filter fun y => !(y.csn = csn && y.no = burst)) ++ [b] }
    let s := s.found 11 c.addr hits
    if hitsFail hits then s.count cClipErr else s

/-- CLIP_DATA_FETCH_COMPLETE (R139). -/
def execClipDataFetchComplete (p : Fin 64) (csn : BitVec 48) (burst : Nat) (hits : MemHits) (s : State) :
    Host.Outcome State Fault Refusal :=
  .next (s.begin.clipBurst p csn.toNat burst hits)

/-! ### Starting and stopping (R467) -/

/-- An entry or record whose start read failed at `a` (R57, R279). -/
def State.startFailed (s : State) (it : Item) (a : Nat) (adr : Bool) : State :=
  let s := s.uncErr 10 a false adr
  match it with
  | .entry n =>
    let e := { Ent.blank n with faulted := true, noCopy := true, err := 0x80#8 }
    (s.entSet e).putStatus e 0
  | .xp n => s.xpSet { Xp.blank n with bad := true }
  | _ => s

/-- One item of the start compile. -/
def State.startItem (hits : MemHits) (blk : Nat) (s : State) (it : Item) : State :=
  let s := s.eccFixed .bulk (s.itemAt it).1 (s.itemAt it).2 hits
  match if itemCounts it then s.itemLost it { hits with adr := hits.adr && !hits.bad.isEmpty } else none with
  | some a => s.startFailed it a hits.adr
  | none => s.install blk ⟨it, s.fetchImg it⟩

/-- The start compile (R467): every record, entry and zone record. -/
def State.startCompile (s : State) (hits : MemHits) : State :=
  let items := (upTo 98304).map Item.xp ++ (upTo 3072).map Item.entry ++ (if s.znOn then (upTo 256).map Item.zone else [])
  let s := (items.foldl (State.startItem hits (s.tim.nsc / 12)) s).setOn
  { s with mix := { s.mix with compiled := true } }

/-- The start compile may complete: the section is enabled with both tables placed, and it has not completed yet. -/
def State.mayCompile (s : State) : Bool :=
  s.up secMix && s.mixEn && !s.mix.act && !s.mix.compiled && !s.ctErr && !s.xpErr

/-- MIX_START_COMPILE_DONE (R57, R467): ACT follows at the next boundary. -/
def execMixStartCompileDone (hits : MemHits) (s : State) : Host.Outcome State Fault Refusal :=
  .next (if s.mayCompile then s.begin.startCompile hits else s.begin)

end Sys2Proof.Machine
end

