-- ==== Sys2Proof/Machine/Hitch.lean ====
section
/-! DEFINITION. The commands of twin operation (R376 to R401). A message of the Hitch comes as one command with its fields
(notes/assumptions/45.md); it ends HELD, and outside the states that take it, it has no other effect (notes/assumptions/6.md). -/

namespace Sys2Proof.Machine

/-- HIT_ENABLE (R378, R382). -/
def execHitEnable (src : WrSrc) (w : Word) (s : State) : Host.Outcome State Fault Refusal :=
  .next (s.begin.regWrite src rHitCfg w)

/-- HITCH_PAIR_SEND (R380, R381). -/
def execHitchPairSend (s : State) : Host.Outcome State Fault Refusal := .next s.begin.pairSend

/-- SEEK_TIMEOUT (R382). -/
def execSeekTimeout (s : State) : Host.Outcome State Fault Refusal := .next s.begin.seekTimeout

/-- HITCH_PAIR (R376, R380, R381). -/
def execHitchPair (vmask : BitVec 8) (home : Bool) (st : BitVec 3) (digest : BitVec 32) (s : State) :
    Host.Outcome State Fault Refusal := .next (s.begin.pairIn vmask.toNat home st.toNat digest.toNat)

/-- HITCH_RENEW_SEND (R383). -/
def execHitchRenewSend (s : State) : Host.Outcome State Fault Refusal := .next s.begin.renewSend

/-- HITCH_RENEW (R383). -/
def execHitchRenew (rseq : BitVec 32) (s : State) : Host.Outcome State Fault Refusal := .next ((s.begin.heard 3).renewIn rseq.toNat)

/-- HITCH_ACK (R383, R384). -/
def execHitchAck (rseq : BitVec 32) (ready : Bool) (sync : BitVec 2) (rtt : Nat) (s : State) : Host.Outcome State Fault Refusal :=
  .next ((s.begin.heard 4).ackIn rseq.toNat ready sync.toNat rtt)

/-- DRIVE_LEASE_END (R384). -/
def execDriveLeaseEnd (s : State) : Host.Outcome State Fault Refusal := .next s.begin.leaseEnd

/-- LEASE_EXPIRY_TAKEOVER (R385). -/
def execLeaseExpiryTakeover (s : State) : Host.Outcome State Fault Refusal := .next s.begin.leaseTakeover

/-- HELD_TIMEOUT (R382). -/
def execHeldTimeout (s : State) : Host.Outcome State Fault Refusal := .next s.begin.heldTimeout

/-- A give-up cause of R387 occurs or persists; 0 is none. -/
def State.trigger (s : State) (c : Nat) : State := if c = 0 then s else s.giveCause c

/-- GIVEUP_TRIGGER (R387, R388). -/
def execGiveupTrigger (cause : Fin 8) (s : State) : Host.Outcome State Fault Refusal := .next (s.begin.trigger cause)

/-- GIVE_UP (R388). -/
def execGiveUp (s : State) : Host.Outcome State Fault Refusal := .next s.begin.giveUpNow

/-- HITCH_GIVEUP (R386, R388). -/
def execHitchGiveup (g : BitVec 64) (cause : BitVec 8) (s : State) : Host.Outcome State Fault Refusal :=
  let _ := cause
  .next ((s.begin.heard 3).giveupIn g.toNat)

/-- The home standby has been READY and SYNCED for WTR, and reverts (R395). -/
def State.revert (s : State) : State := if s.rwBit rHitCfg 29 && s.ready then s.handAsk else s

/-- HANDOVER_START (R395). -/
def execHandoverStart (s : State) : Host.Outcome State Fault Refusal := .next s.begin.revert

/-- HITCH_HANDOVER (R395). -/
def execHitchHandover (hb : BitVec 64) (s : State) : Host.Outcome State Fault Refusal := .next ((s.begin.heard 4).handIn hb.toNat)

/-- HITCH_HANDACK (R395). -/
def execHitchHandack (hb : BitVec 64) (accept : Bool) (s : State) : Host.Outcome State Fault Refusal :=
  .next ((s.begin.heard 3).handAck hb.toNat accept)

/-- HITCH_FWD (R391). -/
def execHitchFwd (fwdid : BitVec 32) (h : Fin 4) (desc : List Byte) (data : List Byte) (s : State) :
    Host.Outcome State Fault Refusal :=
  let n := (s.begin.heard 4).now
  .next (n.2.2.fwdIn fwdid.toNat h desc data n.1)

/-- HITCH_FWDREPLY (R391). -/
def execHitchFwdreply (fwdid : BitVec 32) (csn : BitVec 48) (status : BitVec 16) (s : State) : Host.Outcome State Fault Refusal :=
  .next ((s.begin.heard 3).fwdReply fwdid.toNat csn.toNat status.toNat)

/-- HITCH_FWDCPL (R391). -/
def execHitchFwdcpl (fwdid : BitVec 32) (status : BitVec 16) (s : State) : Host.Outcome State Fault Refusal :=
  .next ((s.begin.heard 3).fwdDone fwdid.toNat status.toNat)

/-- HITCH_HFAULT (R391). -/
def execHitchHfault (h : Fin 4) (s : State) : Host.Outcome State Fault Refusal := .next ((s.begin.heard 4).hfaultIn h)

/-- HITCH_JRNL (R392). -/
def execHitchJrnl (recs : List JRec) (s : State) : Host.Outcome State Fault Refusal := .next ((s.begin.heard 3).jrnlIn recs)

/-- HITCH_JNACK (R392). -/
def execHitchJnack (jsn : BitVec 48) (s : State) : Host.Outcome State Fault Refusal := .next ((s.begin.heard 4).jnackIn jsn.toNat)

/-- HITCH_CKPT (R393). -/
def execHitchCkpt (ckno chunk : BitVec 32) (data : List Byte) (crc : BitVec 32) (s : State) : Host.Outcome State Fault Refusal :=
  .next ((s.begin.heard 3).ckptIn ckno.toNat chunk.toNat data crc.toNat)

/-- HITCH_SEAL (R393). -/
def execHitchSeal (ckno : BitVec 32) (startJ endJ : BitVec 48) (crc : BitVec 32) (s : State) : Host.Outcome State Fault Refusal :=
  .next ((s.begin.heard 3).sealIn ckno.toNat startJ.toNat endJ.toNat crc.toNat)

/-- HITCH_CKREQ (R393): a chunk of the checkpoint, or a whole one. -/
def execHitchCkreq (ckno chunk : BitVec 32) (s : State) : Host.Outcome State Fault Refusal :=
  let _ := ckno
  .next ((s.begin.heard 4).ckreqIn chunk.toNat)

/-- HIT_TIME.CKPER minutes have passed; 0 is none (R393, R397). -/
def State.ckPeriod (s : State) : State := if s.rwBits (wStr + 0x4004) 0 8 = 0 then s else s.checkpoint

/-- CHECKPOINT_PERIOD (R393). -/
def execCheckpointPeriod (s : State) : Host.Outcome State Fault Refusal := .next s.begin.ckPeriod

/-- A write of HIT_CTL that sets a bit (R398). -/
def State.hitCtlBit (s : State) (b : Nat) (w : Word) : State := if s.up secStr && w.getLsbD b then s.hitCtl w else s

/-- HIT_CTL_GIVEUP (R387, R398). -/
def execHitCtlGiveup (w : Word) (s : State) : Host.Outcome State Fault Refusal := .next (s.begin.hitCtlBit 0 w)

/-- HIT_CTL_HANDOVER (R395, R398). -/
def execHitCtlHandover (w : Word) (s : State) : Host.Outcome State Fault Refusal := .next (s.begin.hitCtlBit 1 w)

/-- RESYNC (R398). -/
def execResync (w : Word) (s : State) : Host.Outcome State Fault Refusal := .next (s.begin.hitCtlBit 2 w)

/-- NEW_ACTIVE_ACK_TIMEOUT (R388). -/
def execNewActiveAckTimeout (s : State) : Host.Outcome State Fault Refusal := .next s.begin.ackTimeout

end Sys2Proof.Machine
end

