-- ==== Sys2Proof/Machine/NetCmd.lean ====
section
/-! DEFINITION. The commands of the Ethernet ports, streams and gPTP (R291 to R319). An event of the Stream section has no
effect while the section is in reset (notes/assumptions/6.md). -/

namespace Sys2Proof.Machine

/-- An event of the Stream section. -/
def State.inStr (s : State) (f : State → State) : State := if s.up secStr then f s else s

/-- LINK_CHANGE (R291, R312). -/
def execLinkChange (p : Fin 4) (up : Bool) (speed : BitVec 2) (an : Bool) (s : State) : Host.Outcome State Fault Refusal :=
  .next (s.begin.inStr fun s => s.linkChange p up speed.toNat an)

/-- FRAME_RECEIVE (R292, R295, R298, R304, R310). -/
def execFrameReceive (p : Fin 4) (f : RxFrame) (s : State) : Host.Outcome State Fault Refusal := .next (s.begin.frameIn p f)

/-- FRAME_DEPARTURE (R293, R294, R298, R303, R307). -/
def execFrameDeparture (p : Fin 4) (t : BitVec 80) (s : State) : Host.Outcome State Fault Refusal :=
  .next (s.begin.depart p t.toNat)

/-- LISTENER_LOST (R304). -/
def execListenerLost (n : Fin 256) (s : State) : Host.Outcome State Fault Refusal :=
  .next (s.begin.inStr fun s => s.listenerLost n)

/-- PRP_SUPERVISION_SEND (R294). -/
def execPrpSupervisionSend (q : Fin 2) (s : State) : Host.Outcome State Fault Refusal :=
  .next (s.begin.inStr fun s => s.superSend q)

/-- PRP_ENTRY_AGEOUT (R295). -/
def execPrpEntryAgeout (q : Fin 2) (src : BitVec 48) (s : State) : Host.Outcome State Fault Refusal :=
  .next (s.begin.inStr fun s => s.dupForget q src.toNat)

/-- PDELAY_REQ_SEND (R306). -/
def execPdelayReqSend (p : Fin 4) (s : State) : Host.Outcome State Fault Refusal := .next (s.begin.pdelaySend p)

/-- SYNC_SEND (R306, R307). -/
def execSyncSend (p : Fin 4) (dom : Fin 2) (s : State) : Host.Outcome State Fault Refusal := .next (s.begin.syncSend p dom)

/-- GPTP_SYNC_TIMEOUT (R307). -/
def execGptpSyncTimeout (dom : Fin 2) (s : State) : Host.Outcome State Fault Refusal :=
  .next (s.begin.inStr fun s => s.gptpLost dom)

/-- CRF_OFFSET_REPORT (R305). -/
def execCrfOffsetReport (n : Fin 256) (s : State) : Host.Outcome State Fault Refusal :=
  .next (s.begin.inStr fun s => s.crfReport n)

/-- ANNOUNCE_SEND (R306). -/
def execAnnounceSend (p : Fin 4) (dom : Fin 2) (s : State) : Host.Outcome State Fault Refusal :=
  .next (s.begin.announceSend p dom)

end Sys2Proof.Machine
end

