-- ==== Sys2Proof/Machine/Power.lean ====
section
/-! DEFINITION. The commands of power, reset and boot, and the plain register accesses (R426 to R462, R467, R472, R477). -/

namespace Sys2Proof.Machine

/-! ### Reset sources (R426 to R428) -/

/-- POWER_ON (R426). -/
def execPowerOn (s : State) : Host.Outcome State Fault Refusal := .next s.begin.powerOn

/-- SUPPLIES_GOOD (R430, R472): the fuse load begins. -/
def State.suppliesGood (s : State) : State := if s.ctl.phase = 0 then s.ctlSet { s.ctl with phase := 1 } else s

/-- SUPPLIES_GOOD (R430, R433). -/
def execSuppliesGood (s : State) : Host.Outcome State Fault Refusal := .next s.begin.suppliesGood

/-- BROWN_OUT (R426, R429). -/
def execBrownOut (rail : Rail) (s : State) : Host.Outcome State Fault Refusal := .next (s.begin.brownOut rail)

/-- RESET_N is low for its filter time: the device is in reset until it rises (R426, R477). -/
def State.pinReset (s : State) : State :=
  let s := (s.fullReset (min s.ctl.phase 1)).cause 9
  s.ctlSet { s.ctl with pinLow := true }

/-- RESET_PIN (R426). -/
def execResetPin (s : State) : Host.Outcome State Fault Refusal := .next s.begin.pinReset

/-- RESET_PIN_RELEASE (R477). -/
def execResetPinRelease (s : State) : Host.Outcome State Fault Refusal :=
  .next (s.begin.ctlSet { s.ctl with pinLow := false })

/-- The Stoker's firmware, which started the watchdog, has not serviced it for 1 s (R426, R435). -/
def State.stokerReset (s : State) : State :=
  if s.awake ∧ (s.ctl.stage = 4 ∨ s.ctl.stage = 5) then (s.resetBy false true).cause 10 else s

/-- STOKER_WATCHDOG (R426). -/
def execStokerWatchdog (s : State) : Host.Outcome State Fault Refusal := .next s.begin.stokerReset

/-- The thermal trip resets the device and holds it (R426). -/
def State.thermalTrip (s : State) : State :=
  let s := (s.fullReset (min s.ctl.phase 1)).cause 11
  s.ctlSet { s.ctl with hot := true }

/-- THERMAL_TRIP (R426). -/
def execThermalTrip (s : State) : Host.Outcome State Fault Refusal := .next s.begin.thermalTrip

/-- THERMAL_RELEASE (R426). -/
def execThermalRelease (s : State) : Host.Outcome State Fault Refusal := .next (s.begin.ctlSet { s.ctl with hot := false })

/-- A write of CTL_HOSTRST with a scope, through host h's recovery window (R442, R450). -/
def State.hostReset (s : State) (scope : Nat) (h : Fin 4) (w : Word) : State :=
  if wbits w 22 2 = scope then s.regWrite (.recovery h) 0x0010 w else s

/-- HOST_RESET_SECTIONS (R427, R450). -/
def execHostResetSections (h : Fin 4) (w : Word) (s : State) : Host.Outcome State Fault Refusal := .next (s.begin.hostReset 0 h w)

/-- HOST_RESET_CORE (R427, R450). -/
def execHostResetCore (h : Fin 4) (w : Word) (s : State) : Host.Outcome State Fault Refusal := .next (s.begin.hostReset 1 h w)

/-- HOST_RESET_FULL_CHIP (R427, R450). -/
def execHostResetFullChip (h : Fin 4) (w : Word) (s : State) : Host.Outcome State Fault Refusal :=
  .next (s.begin.hostReset 2 h w)

/-- The debug port's reset instruction, with scope STOKER unlocked (R413, R426). -/
def State.jtagReset (s : State) : State :=
  if s.awake && bit s.sec.scope 2 then (s.resetBy false false).cause 13 else s

/-- JTAG_RESET (R426). -/
def execJtagReset (s : State) : Host.Outcome State Fault Refusal := .next s.begin.jtagReset

/-- TAP_RESET (R426): only the test access port, which holds nothing that the model holds. -/
def execTapReset (s : State) : Host.Outcome State Fault Refusal := .next s.begin

/-! ### Release and boot (R430 to R436) -/

/-- FUSE_LOAD_DONE (R430, R432). -/
def execFuseLoadDone (copy : Fin 3) (strap : BitVec 6) (banks33 : BitVec 5) (s : State) : Host.Outcome State Fault Refusal :=
  .next (s.begin.fuseDone copy strap.toNat banks33.toNat)

/-- FUSE_LOAD_RETRY (R430): all copies fail, the device stays in reset and loads again. -/
def execFuseLoadRetry (s : State) : Host.Outcome State Fault Refusal := .next s.begin

/-- SECTION_RELEASE (R427, R433, R435). -/
def execSectionRelease (s : State) : Host.Outcome State Fault Refusal := .next s.begin.releaseNext

/-- FIRMWARE_VERIFY_DONE (R404, R435). -/
def execFirmwareVerifyDone (s : State) : Host.Outcome State Fault Refusal :=
  .next (if s.awake then s.begin.verifySlots else s.begin)

/-- BOOT_PUSH (R436). -/
def execBootPush (w : Word) (s : State) : Host.Outcome State Fault Refusal :=
  .next (if s.awake then s.begin.bootPush w else s.begin)

/-- PUSH_CHECK_DONE (R436). -/
def execPushCheckDone (s : State) : Host.Outcome State Fault Refusal :=
  .next (if s.awake then s.begin.pushCheck else s.begin)

/-- SECTION_HOLD_WRITE (R434). -/
def execSectionHoldWrite (src : WrSrc) (w : Word) (s : State) : Host.Outcome State Fault Refusal :=
  .next (s.begin.regWrite src rSecRst w)

/-! ### Voted registers (R462, R463) -/

/-- Registers with voted fields. -/
def votedOffs : List Nat :=
  [rSecRst, wCtl + 0x0028, rSecCfg, rClkCtl, rHitCfg, rHst 0, rHst 1, rHst 2, rHst 3] ++ (upTo 9).map fun r => wTime + 0x0110 + 4 * r

/-- Voted fields of a register: lowest bit and width. -/
def votedFlds (off : Nat) : List (Nat × Nat) :=
  if off = rSecRst then [(0, 10)]
  else if off = wCtl + 0x0028 then [(28, 1), (29, 1), (30, 1), (31, 1)]
  else if off = rSecCfg then [(30, 1), (31, 1)]
  else if off = rClkCtl then [(22, 1), (23, 1), (24, 4), (31, 1)]
  else if off = rHitCfg then [(27, 1), (28, 1), (29, 1), (30, 1), (31, 1)]
  else if off / 0x10000 = 3 then [(31, 1)]
  else [(24, 4), (31, 1)]

/-- Upsets flip voted bits of one copy. -/
def Regs.upset (r : Regs) (u : VoteUpset) : Regs :=
  let f := u.flip &&& votedMask u.off
  let x (l : List (Nat × Word)) := copySet l u.off (copyAt l u.off ^^^ f)
  if u.copy = 0 then { r with rw := x r.rw }
  else if u.copy = 1 then { r with voteB := x r.voteB }
  else { r with voteC := x r.voteC }

/-- The value that a field takes at a scrub from its three copies, and whether there is no majority. -/
def vote (off lo n : Nat) (a b c : Word) : Nat × Bool :=
  let x := wbits a lo n
  let y := wbits b lo n
  let z := wbits c lo n
  if x = y ∨ x = z then (x, false) else if y = z then (y, false) else (wbits (resetWord off) lo n, true)

/-- One field of a register is scrubbed. Where the register's value changes by it (upsets of two copies, or of all three), it acts as the
write of that value would: HOLD holds or releases sections (R434), an EN bit starts or stops its block. -/
def State.scrubFld (off : Nat) (s : State) (f : Nat × Nat) : State :=
  let a := copyAt s.regs.rw off
  let b := copyAt s.regs.voteB off
  let c := copyAt s.regs.voteC off
  let g (w : Word) := wbits w f.1 f.2
  if g a = g b ∧ g b = g c then s
  else
    let v := vote off f.1 f.2 a b c
    let m := fld f.1 f.2 (2 ^ f.2 - 1)
    let put (x : Nat) (l : List (Nat × Word)) := copySet l off (maskWord (copyAt l off) m (fld f.1 f.2 x))
    let same (x : Nat) (s : State) : State :=
      { s with regs := { s.regs with rw := put x s.regs.rw, voteB := put x s.regs.voteB, voteC := put x s.regs.voteC } }
    let s := (s.count (wCtl + (if v.2 then 0x0064 else 0x0060))).capSet (wCtl + 0x0068) (fld 31 1 (b2n v.2) ||| fld 0 20 off)
    if v.1 = g a then same v.1 s
    else if off = rSecRst then (same (g a) s).secHold (fld 0 10 v.1) false
    else
      let t := same v.1 s
      t.hook off a (t.rw off) (t.rw off)

/-- A register's window is out of reset. -/
def State.windowUp (s : State) (off : Nat) : Bool := s.awake && (secOfWin (off / 0x10000)).all fun n => s.up n

/-- The upsets since the last scrub, and the scrub of every voted register. -/
def State.voteScrub (s : State) (us : List VoteUpset) : State :=
  let us := us.filter fun u => s.windowUp u.off
  let s : State := { s with regs := us.foldl Regs.upset s.regs }
  (votedOffs.filter fun off => s.windowUp off).foldl (fun (s : State) off => (votedFlds off).foldl (State.scrubFld off) s) s

/-- VOTE_SCRUB (R462, R463). -/
def execVoteScrub (upsets : List VoteUpset) (s : State) : Host.Outcome State Fault Refusal := .next (s.begin.voteScrub upsets)

/-! ### Register accesses (R88, R455 to R460, R467) -/

/-- A status or counter register, whose write clears by sequence (R458). -/
def clearsBySeq (off : Nat) : Bool :=
  match regKind off with
  | .ctr => true
  | .sc => true
  | _ => false

/-- SEQUENCE_CLEAR (R458). -/
def execSequenceClear (src : WrSrc) (off : BitVec 20) (w : Word) (s : State) : Host.Outcome State Fault Refusal :=
  .next (if clearsBySeq off.toNat then s.begin.regWrite src off.toNat w else s.begin)

/-- CSN_READ_LATCH (R88): a read of MIX_CSNLO latches the upper bits. -/
def State.csnRead (s : State) : State :=
  let r := s.regRead (wMix + 0x0140)
  r.2.emit (.data .okay (wordBytes r.1))

/-- CSN_READ_LATCH (R88). -/
def execCsnReadLatch (s : State) : Host.Outcome State Fault Refusal :=
  .next (if s.up secMem && s.up secMix then s.begin.csnRead else s.begin)

/-- MIX_ENABLE (R467): a write of MIX_CTL with EN set. -/
def execMixEnable (src : WrSrc) (w : Word) (s : State) : Host.Outcome State Fault Refusal :=
  .next (if w.getLsbD 31 then s.begin.regWrite src rMixCtl w else s.begin)

/-- MIX_DISABLE (R467): a write of MIX_CTL with EN clear. -/
def execMixDisable (src : WrSrc) (w : Word) (s : State) : Host.Outcome State Fault Refusal :=
  .next (if w.getLsbD 31 then s.begin else s.begin.regWrite src rMixCtl w)

/-- STRIP_ENABLE (R467): a write of STP_CTL with EN set. -/
def execStripEnable (src : WrSrc) (w : Word) (s : State) : Host.Outcome State Fault Refusal :=
  .next (if w.getLsbD 31 then s.begin.regWrite src rStpCtl w else s.begin)

/-- STRIP_DISABLE (R467): a write of STP_CTL with EN clear. -/
def execStripDisable (src : WrSrc) (w : Word) (s : State) : Host.Outcome State Fault Refusal :=
  .next (if w.getLsbD 31 then s.begin else s.begin.regWrite src rStpCtl w)

/-- REGISTER_WRITE (R455 to R461). -/
def execRegisterWrite (src : WrSrc) (off : BitVec 20) (w : Word) (s : State) : Host.Outcome State Fault Refusal :=
  .next (s.begin.regWrite src off.toNat w)

/-- The die sensor reads t in 0.01 degC: THERMWARN at 125 degC (R346, R447). -/
def State.dieWarning (s : State) (t : Int) : State :=
  if !s.up secTime then s
  else
    let s := s.timSet { s.tim with die := t }
    if 12500 ≤ t then s.health 17 else s

/-- DIE_TEMPERATURE_WARNING (R447). -/
def execDieTemperatureWarning (t : BitVec 16) (s : State) : Host.Outcome State Fault Refusal :=
  .next (s.begin.dieWarning t.toInt)

end Sys2Proof.Machine
end

