-- ==== Sys2Proof/Machine/Secure.lean ====
section
/-! DEFINITION. The commands of the security functions, the Peatstore and the indirect pairs (R402 to R425, R464, R465). -/

namespace Sys2Proof.Machine

/-! ### Keys and anti-rollback (R405, R408) -/

abbrev rZeroise : Nat := wCtl + 0x0618

/-- ZEROISE_VOLATILE (R408): a write of SEC_ZEROISE with VOLATILE set. -/
def execZeroiseVolatile (src : WrSrc) (w : Word) (s : State) : Host.Outcome State Fault Refusal :=
  .next (if w.getLsbD 0 then s.begin.regWrite src rZeroise w else s.begin)

/-- ZEROISE_SIGNERS (R408): a write of SEC_ZEROISE with SIGNERS set. -/
def execZeroiseSigners (src : WrSrc) (w : Word) (s : State) : Host.Outcome State Fault Refusal :=
  .next (if w.getLsbD 1 then s.begin.regWrite src rZeroise w else s.begin)

/-- ANTI_ROLLBACK_ADVANCE (R405). -/
def execAntiRollbackAdvance (src : WrSrc) (w : Word) (s : State) : Host.Outcome State Fault Refusal :=
  .next (s.begin.regWrite src (wCtl + 0x0610) w)

/-- ANTI_ROLLBACK_PROGRAMMED (R405). -/
def execAntiRollbackProgrammed (s : State) : Host.Outcome State Fault Refusal := .next (if s.awake then s.begin.rbDone else s.begin)

/-! ### TRNG (R409) -/

/-- A read of a register with its data as the answer. -/
def State.readOut (s : State) (off : Nat) : State :=
  let r := s.regRead off
  r.2.emit (.data .okay (wordBytes r.1))

/-- RNG_READ (R409). -/
def execRngRead (s : State) : Host.Outcome State Fault Refusal :=
  .next (if s.awake then s.begin.readOut (wCtl + 0x0614) else s.begin)

/-- RNGRST (R409). -/
def execRngrst (w : Word) (s : State) : Host.Outcome State Fault Refusal := .next (if s.awake then s.begin.secCtl w else s.begin)

/-- A health test fails: delivery stops until RNGRST or a reset (R409, R411). -/
def State.rngFail (s : State) (test : BitVec 8) : State :=
  if s.awake then ((s.secSet { s.sec with rngOk := false }).scSet rSecurity 22).audit 0x0008 4 0 [test] else s

/-- TRNG_HEALTH_FAIL (R409). -/
def execTrngHealthFail (test : BitVec 8) (s : State) : Host.Outcome State Fault Refusal := .next (s.begin.rngFail test)

/-! ### Debug port (R413) -/

/-- A challenge is answered with a nonce unless R413 refuses it. -/
def State.mayChallenge (s : State) : Bool := s.rwBit rSecCfg 30 && !s.sec.perm && s.sec.rngOk && s.sec.fails < 3

/-- DATA of a record of the debug port: scope, key used (0xFF: none, 0 the firmware's, 0xC0 the customer's). -/
def debugData (scope key : Nat) : List Byte := natLe 4 scope ++ natLe 1 key

/-- A debugger asks for a challenge. -/
def State.debugAsk (s : State) (scope : Nat) : State :=
  if !s.awake then s
  else if !s.auditOk then s.logFull
  else if s.mayChallenge then
    let n := s.nonce
    ((n.2.secSet { n.2.sec with chal := some (scope, n.1) }).audit 0x0006 6 0 (debugData scope 0xFF)).emit (.debug n.1)
  else ((s.secSet { s.sec with chal := none }).scSet rSecurity 20).audit 0x0006 6 1 (debugData scope 0xFF)

/-- DEBUG_CHALLENGE (R413). -/
def execDebugChallenge (scope : BitVec 3) (s : State) : Host.Outcome State Fault Refusal := .next (s.begin.debugAsk scope.toNat)

/-- The key that verifies a signature over a digest: the firmware's, else the one of slot 0xC0. -/
def State.debugKey (s : State) (digest sig : List Byte) : Option Nat :=
  if s.sec.fw.src ≠ 3 ∧ Config.ecdsaOk s.sec.fw.pubkey digest sig then some 0
  else (s.custKey 0xC0).bind fun k => if Config.ecdsaOk k digest sig then some 0xC0 else none

/-- A debugger answers the open challenge a number of seconds after it: one attempt. -/
def State.debugAnswer (s : State) (sig : List Byte) (secs : Nat) : State :=
  match s.sec.chal with
  | none => s
  | some (scope, n) =>
    let s := s.secSet { s.sec with chal := none }
    if !s.auditOk then s.logFull
    else
      let digest := Config.sha256 (n ++ fit 8 0 Config.deviceId ++ natLe 4 scope)
      match (if secs ≤ 60 then s.debugKey digest sig else none) with
      | some k => ((s.secSet { s.sec with scope := s.sec.scope ||| scope }).scSet rSecurity 20).audit 0x0006 6 0 (debugData scope k)
      | none =>
        ((s.secSet { s.sec with fails := s.sec.fails + 1 }).scSet rSecurity 20).audit 0x0006 6 1 (debugData scope 0xFF)

/-- DEBUG_RESPONSE (R413). -/
def execDebugResponse (sig : List Byte) (secs : Nat) (s : State) : Host.Outcome State Fault Refusal :=
  .next (if s.awake then s.begin.debugAnswer sig secs else s.begin)

/-- The debugger locks the port. -/
def State.debugLock (s : State) : State :=
  if !s.awake then s
  else if !s.auditOk then s.logFull
  else (s.secSet { s.sec with scope := 0, chal := none }).audit 0x0006 6 0 (debugData s.sec.scope 0xFF)

/-- DEBUG_LOCK (R413). -/
def execDebugLock (s : State) : Host.Outcome State Fault Refusal := .next s.begin.debugLock

/-! ### Peatstore (R415 to R418) -/

/-- PEA_IXDATA_WRITE (R418). -/
def execPeaIxdataWrite (src : WrSrc) (w : Word) (s : State) : Host.Outcome State Fault Refusal :=
  .next (s.begin.regWrite src (aPea + 4) w)

/-- PEA_IXDATA_READ (R418). -/
def execPeaIxdataRead (s : State) : Host.Outcome State Fault Refusal :=
  .next (if s.awake then s.begin.readOut (aPea + 4) else s.begin)

/-- PEA_COMMIT (R418). -/
def execPeaCommit (src : WrSrc) (w : Word) (s : State) : Host.Outcome State Fault Refusal :=
  .next (s.begin.regWrite src (wCtl + 0x0708) w)

/-- PEA_SECTOR_WRITE_DONE (R415, R416). -/
def execPeaSectorWriteDone (retries : Nat) (s : State) : Host.Outcome State Fault Refusal :=
  .next (if s.awake then s.begin.peaDone retries else s.begin)

/-- Physical sector's writes so far. -/
def State.wearOf (s : State) (p : Nat) : Nat := (look p s.pea.wear).getD 0

/-- A rarely written logical sector moves onto a worn physical sector of its region: one of the pool, or one whose own logical
sector takes the other place (R415). -/
def State.wearSwap (s : State) (k q : Nat) : State :=
  let r := regionOf k
  let p := s.physOf k
  let m := s.pea.map
  let worn := put p (s.wearOf p + 1) (put q (s.wearOf q + 1) s.pea.wear)
  if s.wearOf q ≤ s.wearOf p + 1000000 then s
  else if q ∈ s.poolOf r then
    s.peaSet { s.pea with
      map := put k q m, spare := s.pea.spare.set r ((s.poolOf r).filter (· ≠ q) ++ [p]), wear := put q (s.wearOf q + 1) s.pea.wear }
  else
    match (upTo (regionBase.getD (r + 1) 0 - regionBase.getD r 0)).find? fun i => s.physOf (regionBase.getD r 0 + i) = q with
    | some i => s.peaSet { s.pea with map := put (regionBase.getD r 0 + i) p (put k q m), wear := worn }
    | none => s

/-- WEAR_LEVEL_SWAP (R415): the rarely written logical sector and the worn physical sector. -/
def execWearLevelSwap (rarely : Fin 8192) (worn : Fin 8704) (s : State) : Host.Outcome State Fault Refusal :=
  .next (if s.awake then s.begin.wearSwap rarely worn else s.begin)

/-! ### Indirect pairs (R464, R465) -/

/-- IXDATA_ACCESS (R464, R465). -/
def execIxdataAccess (src : WrSrc) (pair : IxPair) (wr : Option Word) (s : State) : Host.Outcome State Fault Refusal :=
  .next (match wr with
    | some w => s.begin.regWrite src (ixData pair) w
    | none => if s.reaches src (ixData pair) then s.begin.readOut (ixData pair) else s.begin)

end Sys2Proof.Machine
end

