-- ==== Sys2Proof/Machine/SpiMtx.lean ====
section
/-! DEFINITION. The commands of the SPI ports, the recovery windows and the Memory section (R246 to R250, R258 to R290,
R442). -/

namespace Sys2Proof.Machine

/-! ### SPI transactions (R246 to R250) -/

/-- READ_ID (R247). -/
def execReadId (i : Fin 2) (s : State) : Host.Outcome State Fault Refusal := .next (s.begin.spiId i)

/-- READ_STATUS (R249). -/
def execReadStatus (i : Fin 2) (s : State) : Host.Outcome State Fault Refusal := .next (s.begin.spiReadStatus i)

/-- READ (R248, R260, R277). -/
def execRead (i : Fin 2) (addr : BitVec 40) (len : Nat) (late : Bool) (hits : MemHits) (s : State) : Host.Outcome State Fault Refusal :=
  .next (s.begin.spiRead i addr.toNat len late hits)

/-- WRITE (R247, R248). -/
def execWrite (i : Fin 2) (addr : BitVec 40) (data : List Byte) (hits : MemHits) (s : State) : Host.Outcome State Fault Refusal :=
  .next (s.begin.spiWrite i addr.toNat data hits)

/-- MODE (R246, R247). -/
def execMode (i : Fin 2) (b : Byte) (s : State) : Host.Outcome State Fault Refusal := .next (s.begin.spiMode i b)

/-- RECOVERY_READ (R250, R442). -/
def execRecoveryRead (h : Fin 4) (off : BitVec 12) (s : State) : Host.Outcome State Fault Refusal :=
  .next (s.begin.recoveryRead h off.toNat)

/-- RECOVERY_WRITE (R250, R442). -/
def execRecoveryWrite (h : Fin 4) (off : BitVec 12) (w : Word) (s : State) : Host.Outcome State Fault Refusal :=
  .next (s.begin.recoveryWrite h off.toNat w)

/-- RESET_ENABLE (R247, R249). -/
def execResetEnable (i : Fin 2) (s : State) : Host.Outcome State Fault Refusal := .next (s.begin.spiArm i)

/-- PORT_RESET (R247, R249). -/
def execPortReset (i : Fin 2) (s : State) : Host.Outcome State Fault Refusal := .next (s.begin.spiReset i)

/-- SPI_UNKNOWN_OPCODE (R247). -/
def execSpiUnknownOpcode (i : Fin 2) (op : Byte) (s : State) : Host.Outcome State Fault Refusal :=
  .next (s.begin.spiUnknown i op.toNat)

/-- SPI_CS_RISE (R246, R277). -/
def execSpiCsRise (i : Fin 2) (s : State) : Host.Outcome State Fault Refusal := .next (s.begin.spiEnd i)

/-! ### Matrix and memories (R258 to R290) -/

/-- MATRIX_GRANT (R264 to R277). -/
def execMatrixGrant (pt : Fin 8) (r : MtxReq) (s : State) : Host.Outcome State Fault Refusal := .next (s.begin.arbitrate pt r)

/-- QOS_WRITE (R268, R281). -/
def execQosWrite (src : WrSrc) (pt : Fin 8) (w : Word) (s : State) : Host.Outcome State Fault Refusal :=
  .next (s.begin.regWrite src (wMem + 0x0100 + 4 * pt) w)

/-- BANK_OWNER_WRITE (R274). -/
def execBankOwnerWrite (src : WrSrc) (n : Fin 32) (w : Word) (s : State) : Host.Outcome State Fault Refusal :=
  .next (s.begin.regWrite src (wMem + 0x0400 + 4 * n) w)

/-- BANK_HANDOVER_DONE (R274). -/
def execBankHandoverDone (n : Fin 32) (s : State) : Host.Outcome State Fault Refusal :=
  .next (if s.up secMem then s.begin.bankDone n else s.begin)

/-- One word that the patrol scrub found bad: corrected and counted, or reported with the table engine's number (R279). -/
def State.scrubHit (s : State) (x : ScrubHit) : State :=
  if s.targetRange x.addr.toNat 8 ≠ .bulk then s
  else if x.unc || x.addrChk then s.uncErr 10 x.addr.toNat true x.addrChk
  else s.count (wMem + 0x080C)

/-- A round of the patrol scrub (R279, R288). -/
def State.patrol (s : State) (found : List ScrubHit) : State :=
  if s.up secMem && s.mem.trained && s.rwBit (wMem + 0x0800) 8 then found.foldl (fun (s : State) x => s.scrubHit x) s else s

/-- PATROL_SCRUB (R279). -/
def execPatrolScrub (found : List ScrubHit) (s : State) : Host.Outcome State Fault Refusal := .next (s.begin.patrol found)

/-- MEMORY_TRAINING_DONE (R278). -/
def execMemoryTrainingDone (gib : Option Nat) (s : State) : Host.Outcome State Fault Refusal := .next (s.begin.trained gib)

end Sys2Proof.Machine
end

