-- ==== Sys2Proof/Machine/Zone.lean ====
section
/-! DEFINITION. The commands of the noise servo (R154 to R160) and of the all-call bypass (R161 to R169). -/

namespace Sys2Proof.Machine

/-! ### Zones -/

/-- The zones are processed. -/
def State.zonesRun (s : State) : Bool := s.mix.act && s.znOn

/-- A zone with a record in force changes; its status area follows at the next update (R150). -/
def State.zoneUpd (s : State) (z : Nat) (f : Zone → Zone) : State :=
  match s.zone z with
  | some y => if s.zonesRun then s.zoneSet (f y) else s
  | none => s

/-- A zone list that waits on a lane takes effect (R198). -/
def State.lanesZones (s : State) : State :=
  (List.finRange 64).foldl (fun s l =>
    let x := s.lanes[l]
    match x.zonesTo with
    | none => s
    | some (zs, t) =>
      let ok := x.st = LState.running ∧ x.libid = 2
      let s : State := { s with lanes := s.lanes.set l { x with zonesTo := none, zones := if ok then zs else x.zones } }
      s.post t (if ok then stOk else stAborted) 0 0) s

/-- The instance that serves a zone, and what that changes (R154, R198). -/
def Zone.serve (z : Zone) (l : Option Nat) : Zone :=
  let on := Zn.en z.img && Zn.servo z.img
  let z := { z with lane := l, serr := (z.serr &&& 0xDF#8) ||| (if on && l.isNone then 0x20#8 else 0) }
  if !on then z
  else if l.isNone then { z with st := .noAnalyser }
  else if z.st = .noAnalyser then { z with st := .converging, conv := 0 } else z

/-- The servo update (R157 to R160, R198), at a block number that is a multiple of 40. -/
def State.servoStep (s : State) (ms : List ZoneMeas) : State :=
  if s.tim.nsc % 480 ≠ 0 then s
  else
    let s := s.lanesZones
    if !s.zonesRun then s
    else (s.mix.zones.filter (!·.done)).foldl (fun s z =>
      s.putServo ((z.serve (s.serverOf z.idx)).update (ms.find? fun m => m.zone = z.idx) (s.zoneEmerg z) (s.micBad z.img) s.tim.nsc)) s

/-- SERVO_UPDATE (R157, R158, R198). -/
def execServoUpdate (ms : List ZoneMeas) (s : State) : Host.Outcome State Fault Refusal := .next (s.begin.servoStep ms)

/-- SERVO_CONVERGED (R156, R159). -/
def execServoConverged (z : Fin 256) (s : State) : Host.Outcome State Fault Refusal :=
  .next (s.begin.zoneUpd z fun y => if y.st = .converging && decide (200 ≤ y.conv) then { y with st := .tracking } else y)

/-- A zone may freeze (R158, R159): it has had no usable microphone for 1 s, or has missed 40 updates. -/
def Zone.mayFreeze (z : Zone) : Bool :=
  (z.st = .converging || z.st = .tracking || z.st = .relaxing) &&
    (40 ≤ z.missed || (z.st ≠ .relaxing && decide (4000 ≤ z.noMic)))

/-- FROZEN, counted. -/
def State.freeze (s : State) (z : Nat) : State :=
  if s.zonesRun && (s.zone z).any Zone.mayFreeze then (s.zoneUpd z fun y => { y with st := .frozen, frozen := 0 }).count cZnFreeze else s

/-- SERVO_FREEZE (R158, R159). -/
def execServoFreeze (z : Fin 256) (s : State) : Host.Outcome State Fault Refusal := .next (s.begin.freeze z)

/-- SERVO_RELAX (R159). -/
def execServoRelax (z : Fin 256) (s : State) : Host.Outcome State Fault Refusal :=
  .next (s.begin.zoneUpd z fun y =>
    if y.st = .frozen && decide (Zn.freezeMax y.img ≤ 250 * y.frozen) then { y with st := .relaxing, missed := 0 } else y)

/-- MIC_UNUSABLE (R155, R148): a microphone that fails is counted as unusable, and SERR bit 1 shows it. -/
def execMicUnusable (z : Fin 256) (m : Fin 4) (s : State) : Host.Outcome State Fault Refusal :=
  .next (s.begin.zoneUpd z fun y =>
    if m.val < Zn.nmic y.img && y.fails.getD m false then { y with usable := y.usable.set m false, serr := y.serr ||| 2#8 } else y)

/-! ### All-call bypass -/

/-- ALLCALL_PIN_ACCEPT (R163). -/
def execAllcallPinAccept (asserted : Bool) (s : State) : Host.Outcome State Fault Refusal :=
  .next (if s.awake then s.begin.acChange { s.byp with pin := asserted } else s.begin)

/-- ALLCALL_START (R163, R168): a write of CTL_ACCTL with START set. -/
def execAllcallStart (w : Word) (s : State) : Host.Outcome State Fault Refusal :=
  .next (if s.awake && w.getLsbD 0 then s.begin.acCtl w else s.begin)

/-- ALLCALL_STOP (R163, R168): a write of CTL_ACCTL with STOP set. -/
def execAllcallStop (w : Word) (s : State) : Host.Outcome State Fault Refusal :=
  .next (if s.awake && w.getLsbD 1 then s.begin.acCtl w else s.begin)

/-- The crossfade that ends within the block under way (R163). -/
def Bypass.crossed (b : Bypass) : Bypass :=
  if b.turns ≠ [] then b
  else if b.up then (if 228 ≤ b.weight then { b with weight := 240 } else b) else if b.weight ≤ 12 then { b with weight := 0 } else b

/-- The crossfade ends within the block under way. A channel that the bypass leaves follows its own words from there on, CODE as
stored meanwhile among them (R364). -/
def State.acCrossed (s : State) : State :=
  let t : State := { s with byp := s.byp.crossed }
  if t.byp.weight ≠ 0 ∨ t.byp = s.byp then t
  else ((upTo 12).find? fun k => s.acWeight k = 0).elim t fun p =>
    (upTo 8).foldl (fun t n => if s.acOnDac n then (t.dacHold n).dacGive n p else t) { t with sub := max t.sub p }

/-- ALLCALL_CROSSFADE_END (R163). -/
def execAllcallCrossfadeEnd (s : State) : Host.Outcome State Fault Refusal := .next s.begin.acCrossed

/-- The bypass's present source is lost (R162). -/
def State.acLost (s : State) : State :=
  if !s.awake then s
  else
    let net := s.rwBit rAcCfg 1
    ({ s with byp := { s.byp with lost := true, fallback := s.byp.fallback || (net && s.rwBit rAcCfg 3) } } : State).scSet rAcStat 18

/-- ALLCALL_SOURCE_LOST (R162, R169). -/
def execAllcallSourceLost (s : State) : Host.Outcome State Fault Refusal := .next s.begin.acLost

/-- ALLCALL_SOURCE_RETURN (R162). -/
def execAllcallSourceReturn (s : State) : Host.Outcome State Fault Refusal :=
  .next { s.begin with byp := { s.byp with lost := false, fallback := false } }

end Sys2Proof.Machine
end

