-- ==== Sys2Proof/Machine/Dispatch.lean ====
section
/-! DEFINITION. The one dispatch of commands: an arm for each row of spec/opcode_table.json. -/

namespace Sys2Proof.Machine

/-- The effect of a command on everything but the queue. -/
def exec (i : Instr) (s : State) : Host.Outcome State Fault Refusal :=
  match i with
  | .blockBoundary io => Sys2Proof.Machine.execBlockBoundary io s
  | .mixWatchdog => Sys2Proof.Machine.execMixWatchdog s
  | .interfaceClockStop f => Sys2Proof.Machine.execInterfaceClockStop f s
  | .tableDirectWrite m addr data => Sys2Proof.Machine.execTableDirectWrite m addr data s
  | .tableRefetch => Sys2Proof.Machine.execTableRefetch s
  | .compileComplete it hits => Sys2Proof.Machine.execCompileComplete it hits s
  | .workingStoreEccError it => Sys2Proof.Machine.execWorkingStoreEccError it s
  | .sequencedAcceptance h q pos hits => Sys2Proof.Machine.execSequencedAcceptance h q pos hits s
  | .commitCompletionPost csn hits => Sys2Proof.Machine.execCommitCompletionPost csn hits s
  | .dualPathSlotGrant => Sys2Proof.Machine.execDualPathSlotGrant s
  | .secondTermGrant => Sys2Proof.Machine.execSecondTermGrant s
  | .rampEnd k => Sys2Proof.Machine.execRampEnd k s
  | .entryFadeOutEnd e => Sys2Proof.Machine.execEntryFadeOutEnd e s
  | .claimLeaseExpiry csn => Sys2Proof.Machine.execClaimLeaseExpiry csn s
  | .gateHoldExpiry e => Sys2Proof.Machine.execGateHoldExpiry e s
  | .peakHoldExpiry e => Sys2Proof.Machine.execPeakHoldExpiry e s
  | .delayBurstComplete e first hits => Sys2Proof.Machine.execDelayBurstComplete e first hits s
  | .contributorHangExpiry x => Sys2Proof.Machine.execContributorHangExpiry x s
  | .clipEnd p => Sys2Proof.Machine.execClipEnd p s
  | .clipDataFetchComplete p csn burst hits => Sys2Proof.Machine.execClipDataFetchComplete p csn burst hits s
  | .tonePatternEnd g => Sys2Proof.Machine.execTonePatternEnd g s
  | .servoUpdate ms => Sys2Proof.Machine.execServoUpdate ms s
  | .servoConverged z => Sys2Proof.Machine.execServoConverged z s
  | .servoFreeze z => Sys2Proof.Machine.execServoFreeze z s
  | .servoRelax z => Sys2Proof.Machine.execServoRelax z s
  | .micUnusable z m => Sys2Proof.Machine.execMicUnusable z m s
  | .allcallPinAccept asserted => Sys2Proof.Machine.execAllcallPinAccept asserted s
  | .allcallStart w => Sys2Proof.Machine.execAllcallStart w s
  | .allcallStop w => Sys2Proof.Machine.execAllcallStop w s
  | .allcallCrossfadeEnd => Sys2Proof.Machine.execAllcallCrossfadeEnd s
  | .allcallSourceLost => Sys2Proof.Machine.execAllcallSourceLost s
  | .allcallSourceReturn => Sys2Proof.Machine.execAllcallSourceReturn s
  | .drayInputCopyDone d => Sys2Proof.Machine.execDrayInputCopyDone d s
  | .laneDeadline d => Sys2Proof.Machine.execLaneDeadline d s
  | .bundleIssue l cor => Sys2Proof.Machine.execBundleIssue l cor s
  | .laneInterruptEntry l => Sys2Proof.Machine.execLaneInterruptEntry l s
  | .laneDmaComplete l hits cor => Sys2Proof.Machine.execLaneDmaComplete l hits cor s
  | .laneHwFault d phys badWords => Sys2Proof.Machine.execLaneHwFault d phys badWords s
  | .selftestVisit => Sys2Proof.Machine.execSelftestVisit s
  | .laneMigration d => Sys2Proof.Machine.execLaneMigration d s
  | .laneMigrationSkip d => Sys2Proof.Machine.execLaneMigrationSkip d s
  | .selftestComplete pass => Sys2Proof.Machine.execSelftestComplete pass s
  | .unitFault k phys => Sys2Proof.Machine.execUnitFault k phys s
  | .dryCtlWrite src d w => Sys2Proof.Machine.execDryCtlWrite src d w s
  | .doorbellHit h hits => Sys2Proof.Machine.execDoorbellHit h hits s
  | .doorbellSweep h hm => Sys2Proof.Machine.execDoorbellSweep h hm s
  | .descriptorFetch h hm => Sys2Proof.Machine.execDescriptorFetch h hm s
  | .indexPageWrite h => Sys2Proof.Machine.execIndexPageWrite h s
  | .completionIrqTimeout h c => Sys2Proof.Machine.execCompletionIrqTimeout h c s
  | .nop h q => Sys2Proof.Machine.execNop h q s
  | .hello h q => Sys2Proof.Machine.execHello h q s
  | .fence h q => Sys2Proof.Machine.execFence h q s
  | .fenceSatisfied h q => Sys2Proof.Machine.execFenceSatisfied h q s
  | .commit h q hm => Sys2Proof.Machine.execCommit h q hm s
  | .claim h q hm => Sys2Proof.Machine.execClaim h q hm s
  | .release h q => Sys2Proof.Machine.execRelease h q s
  | .renew h q => Sys2Proof.Machine.execRenew h q s
  | .readState h q hm => Sys2Proof.Machine.execReadState h q hm s
  | .writeBulk h q hm => Sys2Proof.Machine.execWriteBulk h q hm s
  | .readBulk h q hm => Sys2Proof.Machine.execReadBulk h q hm s
  | .sceneStore h q hm => Sys2Proof.Machine.execSceneStore h q hm s
  | .sceneRecall h q hm => Sys2Proof.Machine.execSceneRecall h q hm s
  | .meterSubscribe h q hm => Sys2Proof.Machine.execMeterSubscribe h q hm s
  | .meterPeriodDelivery h sub => Sys2Proof.Machine.execMeterPeriodDelivery h sub s
  | .clipPlay h q => Sys2Proof.Machine.execClipPlay h q s
  | .clipStop h q => Sys2Proof.Machine.execClipStop h q s
  | .laneLoad h q hits => Sys2Proof.Machine.execLaneLoad h q hits s
  | .laneLoadDone l => Sys2Proof.Machine.execLaneLoadDone l s
  | .laneCtrlStart h q => Sys2Proof.Machine.execLaneCtrlStart h q s
  | .laneCtrlStop h q => Sys2Proof.Machine.execLaneCtrlStop h q s
  | .laneCtrlMsg h q hm => Sys2Proof.Machine.execLaneCtrlMsg h q hm s
  | .laneCtrlZones h q => Sys2Proof.Machine.execLaneCtrlZones h q s
  | .streamOpen h q hm => Sys2Proof.Machine.execStreamOpen h q hm s
  | .streamClose h q => Sys2Proof.Machine.execStreamClose h q s
  | .peerSet h q hm => Sys2Proof.Machine.execPeerSet h q hm s
  | .netTx h q hm => Sys2Proof.Machine.execNetTx h q hm s
  | .netRxPost h q => Sys2Proof.Machine.execNetRxPost h q s
  | .keyLoad h q => Sys2Proof.Machine.execKeyLoad h q s
  | .logRead h q => Sys2Proof.Machine.execLogRead h q s
  | .timeQuery h q => Sys2Proof.Machine.execTimeQuery h q s
  | .barrowWatchdogExpiry h => Sys2Proof.Machine.execBarrowWatchdogExpiry h s
  | .outboundReadTimeout h => Sys2Proof.Machine.execOutboundReadTimeout h s
  | .inboundHostRequest h r => Sys2Proof.Machine.execInboundHostRequest h r s
  | .pcieLinkDown h => Sys2Proof.Machine.execPcieLinkDown h s
  | .functionLevelReset h => Sys2Proof.Machine.execFunctionLevelReset h s
  | .hostPortEnable src h w => Sys2Proof.Machine.execHostPortEnable src h w s
  | .ringEnable src h sub k w => Sys2Proof.Machine.execRingEnable src h sub k w s
  | .ringTeardown src h which w => Sys2Proof.Machine.execRingTeardown src h which w s
  | .readId q => Sys2Proof.Machine.execReadId q s
  | .readStatus q => Sys2Proof.Machine.execReadStatus q s
  | .read q addr len late hits => Sys2Proof.Machine.execRead q addr len late hits s
  | .write q addr data hits => Sys2Proof.Machine.execWrite q addr data hits s
  | .mode q b => Sys2Proof.Machine.execMode q b s
  | .recoveryRead h off => Sys2Proof.Machine.execRecoveryRead h off s
  | .recoveryWrite h off w => Sys2Proof.Machine.execRecoveryWrite h off w s
  | .resetEnable q => Sys2Proof.Machine.execResetEnable q s
  | .portReset q => Sys2Proof.Machine.execPortReset q s
  | .spiUnknownOpcode q op => Sys2Proof.Machine.execSpiUnknownOpcode q op s
  | .spiCsRise q => Sys2Proof.Machine.execSpiCsRise q s
  | .matrixGrant pt r => Sys2Proof.Machine.execMatrixGrant pt r s
  | .qosWrite src pt w => Sys2Proof.Machine.execQosWrite src pt w s
  | .bankOwnerWrite src n w => Sys2Proof.Machine.execBankOwnerWrite src n w s
  | .bankHandoverDone n => Sys2Proof.Machine.execBankHandoverDone n s
  | .patrolScrub found => Sys2Proof.Machine.execPatrolScrub found s
  | .memoryTrainingDone gib => Sys2Proof.Machine.execMemoryTrainingDone gib s
  | .linkChange p up speed an => Sys2Proof.Machine.execLinkChange p up speed an s
  | .frameReceive p f => Sys2Proof.Machine.execFrameReceive p f s
  | .frameDeparture p t => Sys2Proof.Machine.execFrameDeparture p t s
  | .listenerLost n => Sys2Proof.Machine.execListenerLost n s
  | .prpSupervisionSend q => Sys2Proof.Machine.execPrpSupervisionSend q s
  | .prpEntryAgeout q src => Sys2Proof.Machine.execPrpEntryAgeout q src s
  | .pdelayReqSend p => Sys2Proof.Machine.execPdelayReqSend p s
  | .syncSend p dom => Sys2Proof.Machine.execSyncSend p dom s
  | .gptpSyncTimeout dom => Sys2Proof.Machine.execGptpSyncTimeout dom s
  | .crfOffsetReport n => Sys2Proof.Machine.execCrfOffsetReport n s
  | .rootLock => Sys2Proof.Machine.execRootLock s
  | .rootLoss => Sys2Proof.Machine.execRootLoss s
  | .refMeasurement r m => Sys2Proof.Machine.execRefMeasurement r m s
  | .refLost r => Sys2Proof.Machine.execRefLost r s
  | .refDisqualify r => Sys2Proof.Machine.execRefDisqualify r s
  | .refQualify r => Sys2Proof.Machine.execRefQualify r s
  | .referenceEvaluation => Sys2Proof.Machine.execReferenceEvaluation s
  | .jamnow src w => Sys2Proof.Machine.execJamnow src w s
  | .timeLocked => Sys2Proof.Machine.execTimeLocked s
  | .buildoutRemoved => Sys2Proof.Machine.execBuildoutRemoved s
  | .smoulderValid => Sys2Proof.Machine.execSmoulderValid s
  | .smoulderLearn => Sys2Proof.Machine.execSmoulderLearn s
  | .smoulderSave => Sys2Proof.Machine.execSmoulderSave s
  | .tdmStartGo src w => Sys2Proof.Machine.execTdmStartGo src w s
  | .tdmStartPin => Sys2Proof.Machine.execTdmStartPin s
  | .tdmStartReached => Sys2Proof.Machine.execTdmStartReached s
  | .tdmSlaveFrame n f => Sys2Proof.Machine.execTdmSlaveFrame n f s
  | .tdmStop src n w => Sys2Proof.Machine.execTdmStop src n w s
  | .tdmSwap src n w => Sys2Proof.Machine.execTdmSwap src n w s
  | .tdmSwapApply n => Sys2Proof.Machine.execTdmSwapApply n s
  | .tdmRestart src n auto w => Sys2Proof.Machine.execTdmRestart src n auto w s
  | .tdmClockLost n => Sys2Proof.Machine.execTdmClockLost n s
  | .tdmRateWindow n ofs => Sys2Proof.Machine.execTdmRateWindow n ofs s
  | .dacCodeWrite src n w => Sys2Proof.Machine.execDacCodeWrite src n w s
  | .dacCfgWrite src n w => Sys2Proof.Machine.execDacCfgWrite src n w s
  | .hitEnable src w => Sys2Proof.Machine.execHitEnable src w s
  | .hitchPairSend => Sys2Proof.Machine.execHitchPairSend s
  | .seekTimeout => Sys2Proof.Machine.execSeekTimeout s
  | .hitchPair vmask home st digest => Sys2Proof.Machine.execHitchPair vmask home st digest s
  | .hitchRenewSend => Sys2Proof.Machine.execHitchRenewSend s
  | .hitchRenew rseq => Sys2Proof.Machine.execHitchRenew rseq s
  | .hitchAck rseq ready sync rtt => Sys2Proof.Machine.execHitchAck rseq ready sync rtt s
  | .driveLeaseEnd => Sys2Proof.Machine.execDriveLeaseEnd s
  | .leaseExpiryTakeover => Sys2Proof.Machine.execLeaseExpiryTakeover s
  | .heldTimeout => Sys2Proof.Machine.execHeldTimeout s
  | .giveupTrigger cause => Sys2Proof.Machine.execGiveupTrigger cause s
  | .giveUp => Sys2Proof.Machine.execGiveUp s
  | .hitchGiveup g cause => Sys2Proof.Machine.execHitchGiveup g cause s
  | .handoverStart => Sys2Proof.Machine.execHandoverStart s
  | .hitchHandover hb => Sys2Proof.Machine.execHitchHandover hb s
  | .hitchHandack hb accept => Sys2Proof.Machine.execHitchHandack hb accept s
  | .hitchFwd fwdid h desc data => Sys2Proof.Machine.execHitchFwd fwdid h desc data s
  | .hitchFwdreply fwdid csn status => Sys2Proof.Machine.execHitchFwdreply fwdid csn status s
  | .hitchFwdcpl fwdid status => Sys2Proof.Machine.execHitchFwdcpl fwdid status s
  | .hitchHfault h => Sys2Proof.Machine.execHitchHfault h s
  | .hitchJrnl recs => Sys2Proof.Machine.execHitchJrnl recs s
  | .hitchJnack jsn => Sys2Proof.Machine.execHitchJnack jsn s
  | .hitchCkpt ckno chunk data crc => Sys2Proof.Machine.execHitchCkpt ckno chunk data crc s
  | .hitchSeal ckno startJ endJ crc => Sys2Proof.Machine.execHitchSeal ckno startJ endJ crc s
  | .hitchCkreq ckno chunk => Sys2Proof.Machine.execHitchCkreq ckno chunk s
  | .checkpointPeriod => Sys2Proof.Machine.execCheckpointPeriod s
  | .hitCtlGiveup w => Sys2Proof.Machine.execHitCtlGiveup w s
  | .hitCtlHandover w => Sys2Proof.Machine.execHitCtlHandover w s
  | .resync w => Sys2Proof.Machine.execResync w s
  | .zeroiseVolatile src w => Sys2Proof.Machine.execZeroiseVolatile src w s
  | .zeroiseSigners src w => Sys2Proof.Machine.execZeroiseSigners src w s
  | .antiRollbackAdvance src w => Sys2Proof.Machine.execAntiRollbackAdvance src w s
  | .antiRollbackProgrammed => Sys2Proof.Machine.execAntiRollbackProgrammed s
  | .rngRead => Sys2Proof.Machine.execRngRead s
  | .rngrst w => Sys2Proof.Machine.execRngrst w s
  | .trngHealthFail test => Sys2Proof.Machine.execTrngHealthFail test s
  | .debugChallenge scope => Sys2Proof.Machine.execDebugChallenge scope s
  | .debugResponse sig secs => Sys2Proof.Machine.execDebugResponse sig secs s
  | .debugLock => Sys2Proof.Machine.execDebugLock s
  | .peaIxdataWrite src w => Sys2Proof.Machine.execPeaIxdataWrite src w s
  | .peaIxdataRead => Sys2Proof.Machine.execPeaIxdataRead s
  | .peaCommit src w => Sys2Proof.Machine.execPeaCommit src w s
  | .peaSectorWriteDone retries => Sys2Proof.Machine.execPeaSectorWriteDone retries s
  | .wearLevelSwap rarely worn => Sys2Proof.Machine.execWearLevelSwap rarely worn s
  | .ixdataAccess src pair wr => Sys2Proof.Machine.execIxdataAccess src pair wr s
  | .powerOn => Sys2Proof.Machine.execPowerOn s
  | .brownOut rail => Sys2Proof.Machine.execBrownOut rail s
  | .resetPin => Sys2Proof.Machine.execResetPin s
  | .stokerWatchdog => Sys2Proof.Machine.execStokerWatchdog s
  | .thermalTrip => Sys2Proof.Machine.execThermalTrip s
  | .thermalRelease => Sys2Proof.Machine.execThermalRelease s
  | .hostResetSections h w => Sys2Proof.Machine.execHostResetSections h w s
  | .hostResetCore h w => Sys2Proof.Machine.execHostResetCore h w s
  | .hostResetFullChip h w => Sys2Proof.Machine.execHostResetFullChip h w s
  | .jtagReset => Sys2Proof.Machine.execJtagReset s
  | .tapReset => Sys2Proof.Machine.execTapReset s
  | .fuseLoadDone copy strap banks33 => Sys2Proof.Machine.execFuseLoadDone copy strap banks33 s
  | .fuseLoadRetry => Sys2Proof.Machine.execFuseLoadRetry s
  | .sectionRelease => Sys2Proof.Machine.execSectionRelease s
  | .firmwareVerifyDone => Sys2Proof.Machine.execFirmwareVerifyDone s
  | .bootPush w => Sys2Proof.Machine.execBootPush w s
  | .pushCheckDone => Sys2Proof.Machine.execPushCheckDone s
  | .sectionHoldWrite src w => Sys2Proof.Machine.execSectionHoldWrite src w s
  | .voteScrub upsets => Sys2Proof.Machine.execVoteScrub upsets s
  | .sequenceClear src off w => Sys2Proof.Machine.execSequenceClear src off w s
  | .csnReadLatch => Sys2Proof.Machine.execCsnReadLatch s
  | .mixEnable src w => Sys2Proof.Machine.execMixEnable src w s
  | .mixStartCompileDone hits => Sys2Proof.Machine.execMixStartCompileDone hits s
  | .mixDisable src w => Sys2Proof.Machine.execMixDisable src w s
  | .stripEnable src w => Sys2Proof.Machine.execStripEnable src w s
  | .stripDisable src w => Sys2Proof.Machine.execStripDisable src w s
  | .registerWrite src off w => Sys2Proof.Machine.execRegisterWrite src off w s
  | .suppliesGood => Sys2Proof.Machine.execSuppliesGood s
  | .resetPinRelease => Sys2Proof.Machine.execResetPinRelease s
  | .pcieLinkUp h x2 gen => Sys2Proof.Machine.execPcieLinkUp h x2 gen s
  | .newActiveAckTimeout => Sys2Proof.Machine.execNewActiveAckTimeout s
  | .dieTemperatureWarning t => Sys2Proof.Machine.execDieTemperatureWarning t s
  | .announceSend p dom => Sys2Proof.Machine.execAnnounceSend p dom s

end Sys2Proof.Machine
end

