-- ==== Sys2Proof/Safety.lean ====
section
/-! DEFINITION. What counts as a safe step and as an invariant of the block, in the terms the claims use. -/

namespace Sys2Proof.Safety

open Sys2Proof.Machine

/-- A step goes on: it neither faults nor is refused. -/
def Goes (s : State) : Prop := ∃ t, step s = .next t

/-- What every step keeps: memories are in canonical form, no event count passes its 24 bits (R61), NSC fits its 64 bits (R14),
the anti-rollback counter its 7 (R405). -/
structure Inv (s : State) : Prop where
  bulk : s.mem.bulk.wf
  pool : s.mem.pool.wf
  pea : s.pea.mem.wf
  ctrs : ∀ p ∈ s.regs.ctrs, p.2.count ≤ 0xFFFFFF
  nsc : s.tim.nsc < 2 ^ 64
  rb : s.sec.rb < 128
  rbTo : ∀ v, s.sec.rbTo = some v → v < 128

end Sys2Proof.Safety
end

