-- ==== Sys2Proof/Certificates/Slice0/Obligations.lean ====
section
/-! DEFINITION. The statements about the model for the provers. -/

open Sys2Proof Sys2Proof.Machine Sys2Proof.Safety

/-- A step runs the command at the front of the queue. For every command c and state s, the step of s with c put at the front of
its queue is exec of c on s with the rest of its queue. -/
def Obligations.StepRunsTheFrontCommand : Prop :=
  ∀ (c : Instr) (s : State), step { s with pending := c :: s.pending } = exec c s

/-- On an empty queue the block idles. With no command waiting, a step answers the same state: the model's choice (assumption
11), since the table has no row for a tick. -/
def Obligations.EmptyQueueIdles : Prop :=
  ∀ s : State, s.pending = [] → step s = .next s

/-- No command stops the block, and none touches the queue. For every command with every operand and every state, exec answers a
next state, whose queue of waiting commands is that of the state before. -/
def Obligations.EveryCommandCompletes : Prop :=
  ∀ (c : Instr) (s : State), ∃ t, exec c s = .next t ∧ t.pending = s.pending

/-- The state after reset meets the invariant. Right after reset the memories are in canonical form, every counter is at most
0xFFFFFF, NSC is below 2^64 and the anti-rollback values are below 128. -/
def Obligations.ResetMeetsTheInvariant : Prop :=
  Inv State.reset

/-- Every step keeps the invariant. From every state that meets the invariant, not only those a run reaches, a step answers a
state that meets it: bulk memory, pool SRAM and the Peatstore stay in canonical form, no counter passes 0xFFFFFF (a counter
saturates, R458), NSC stays a 64-bit count (R14), and the anti-rollback counter and a value being programmed stay below 128
(R405). -/
def Obligations.EveryStepKeepsTheInvariant : Prop :=
  ∀ s t : State, Inv s → step s = .next t → Inv t

/-- What the state before power-on holds. Before power-on, as the model states it, every section is in reset, no event is
counted, the only status bit set is POR of CTL_RSTCAUSE, every RW register holds its reset value, memory lists no byte, the
lanes are EMPTY and no command waits. -/
def Obligations.ResetLeavesTheSpecsValues : Prop :=
  State.reset.ctl.inrst = 0x3FF ∧ State.reset.ctl.phase = 0 ∧ (∀ off, State.reset.ctr off = ⟨0, 0⟩) ∧
    (∀ off b, State.reset.scBit off b = decide (off = rRstCause ∧ b = 0)) ∧ (∀ off, State.reset.rw off = resetWord off) ∧
    (∀ l : Fin 64, State.reset.lanes[l].st = LState.empty) ∧ State.reset.pending = [] ∧
    State.reset.mem.bulk.cells = [] ∧ State.reset.mem.pool.cells = [] ∧ State.reset.pea.mem.cells = []

/-- The resets that need no clock. POWER_ON leaves only POR set in CTL_RSTCAUSE, and a pool SRAM of undefined contents; BROWN_OUT
sets its rail's cause bit; RESET_PIN and THERMAL_TRIP set theirs and hold the device. With no DMA transfer of a lane under
way, which a reset would cut, pool SRAM keeps its contents unless the core rail browned out. Every one of them puts every
section in reset, and a full-chip reset is under way. -/
def Obligations.PowerAndPinResets : Prop :=
  ∀ s : State,
    (∃ t, exec .powerOn s = .next t ∧ (∀ b, t.scBit rRstCause b = decide (b = 0)) ∧ (∃ k, t.mem.pool = ⟨[], some k⟩) ∧
      t.ctl.phase = 0 ∧ t.ctl.inrst = 0x3FF ∧ t.ctl.scope = 2) ∧
    (∀ r, ∃ t, exec (.brownOut r) s = .next t ∧ t.scBit rRstCause (railBit r) ∧ (r ≠ .core → (∀ l, (s.lane l).dq = []) → t.mem.pool = s.mem.pool) ∧
      t.ctl.phase = 0 ∧ t.ctl.inrst = 0x3FF ∧ t.ctl.scope = 2) ∧
    (∃ t, exec .resetPin s = .next t ∧ t.scBit rRstCause 9 ∧ ((∀ l, (s.lane l).dq = []) → t.mem.pool = s.mem.pool) ∧ t.ctl.pinLow ∧
      t.ctl.phase = min s.ctl.phase 1 ∧ t.ctl.inrst = 0x3FF ∧ t.ctl.scope = 2) ∧
    (∃ t, exec .thermalTrip s = .next t ∧ t.scBit rRstCause 11 ∧ ((∀ l, (s.lane l).dq = []) → t.mem.pool = s.mem.pool) ∧ t.ctl.hot ∧
      t.ctl.phase = min s.ctl.phase 1 ∧ t.ctl.inrst = 0x3FF ∧ t.ctl.scope = 2)

/-- The watchdog's, the debug port's and the hosts' resets. With the Control section out of reset and no wider reset or release
under way, STOKER_WATCHDOG (firmware running) and JTAG_RESET (scope STOKER unlocked) are core resets with cause bits SWDOG
and JTAG, which leave pool SRAM as it is where no DMA transfer of a lane is under way. A host's write of CTL_HOSTRST with KEY
0x5A is a core reset, a full-chip reset or a reset of the named sections with all that need them, as it names; it sets HOST
and records the host and the scope. ROOT_LOSS sets POR and XINLOSS and puts every section in reset. TAP_RESET changes nothing
that the model holds. -/
def Obligations.ResetsThatNeedTheControlSection : Prop :=
  ∀ s : State, s.awake →
    ((s.ctl.stage = 4 ∨ s.ctl.stage = 5) → s.ctl.scope ≠ 2 → ∃ t, exec .stokerWatchdog s = .next t ∧ t.scBit rRstCause 10 ∧
      t.ctl.inrst = 0x3FF ∧ t.ctl.phase = 3 ∧ ((∀ l, (s.lane l).dq = []) → t.mem.pool = s.mem.pool)) ∧
    (bit s.sec.scope 2 → s.ctl.scope ≠ 2 → ∃ t, exec .jtagReset s = .next t ∧ t.scBit rRstCause 13 ∧
      t.ctl.inrst = 0x3FF ∧ t.ctl.phase = 3 ∧ ((∀ l, (s.lane l).dq = []) → t.mem.pool = s.mem.pool)) ∧
    (∀ (h : Fin 4) (w : Word), s.windowOn h → wbits w 24 8 = 0x5A →
      (wbits w 22 2 = 1 → s.ctl.scope ≠ 2 → ∃ t, exec (.hostResetCore h w) s = .next t ∧ t.scBit rRstCause 12 ∧
        t.cap rRstCause = fld 18 2 h ||| fld 16 2 1 ∧ t.ctl.inrst = 0x3FF ∧ t.ctl.phase = 3) ∧
      (wbits w 22 2 = 2 → ∃ t, exec (.hostResetFullChip h w) s = .next t ∧ t.scBit rRstCause 12 ∧
        t.cap rRstCause = fld 18 2 h ||| fld 16 2 2 ∧ t.ctl.inrst = 0x3FF ∧ t.ctl.phase = min s.ctl.phase 1) ∧
      (wbits w 22 2 = 0 → wbits w 0 10 ≠ 0 → s.ctl.scope = 0 → ∃ t, exec (.hostResetSections h w) s = .next t ∧
        t.scBit rRstCause 12 ∧ t.cap rRstCause = fld 18 2 h ∧ t.ctl.inrst = s.ctl.inrst ||| closure (wbits w 0 10) ∧
        t.ctl.phase = s.ctl.phase)) ∧
    (∃ t, exec .rootLoss s = .next t ∧ t.scBit rRstCause 0 ∧ t.scBit rRstCause 1 ∧ t.ctl.inrst = 0x3FF ∧ t.ctl.phase ≤ 1) ∧
    exec .tapReset s = .next { s with out := [] }

/-- From good supplies to the lock of the root. SUPPLIES_GOOD begins the fuse load. FUSE_LOAD_DONE, with the pin high and no
thermal hold, takes the strap and the bank classification and sets CTL_HEALTH.FUSECOPY where an earlier copy failed.
FUSE_LOAD_RETRY leaves the device as it is. ROOT_LOCK then releases the Control section. The pin's release and the fall of
the temperature end their holds. -/
def Obligations.PowerUpSteps : Prop :=
  ∀ s : State,
    (s.ctl.phase = 0 → exec .suppliesGood s = .next { s with out := [], ctl := { s.ctl with phase := 1 } }) ∧
    (∀ (c : Fin 3) (strap : BitVec 6) (b : BitVec 5), s.ctl.phase = 1 → s.ctl.pinLow = false → s.ctl.hot = false →
      ∃ t, exec (.fuseLoadDone c strap b) s = .next t ∧ t.ctl.phase = 2 ∧ t.ctl.strap = strap.toNat ∧ t.ctl.banks33 = b.toNat ∧
        t.scBit rHealth 16 = (c ≠ 0 || s.scBit rHealth 16) ∧
        ((s.rw (wCtl + 0x0028)).getLsbD 31 = false → t.ctl.boot = bit (strap.toNat / 4) 3 ∧ t.ctl.home = bit (strap.toNat / 4) 2)) ∧
    exec .fuseLoadRetry s = .next { s with out := [] } ∧
    (s.ctl.phase = 2 → exec .rootLock s = .next { s with
      out := [], tim := { s.tim with lock := true }, ctl := { s.ctl with phase := 3 } }) ∧
    exec .resetPinRelease s = .next { s with out := [], ctl := { s.ctl with pinLow := false } } ∧
    exec .thermalRelease s = .next { s with out := [], ctl := { s.ctl with hot := false } }

/-- What SECTION_RELEASE releases. With the Control section out of reset, SECTION_RELEASE releases first the lowest section that
a section reset has left to be released and whose needs are met. With none left it goes on with the boot: Memory, then Time
with NSC 0 once memory is trained, then Host with the choice of boot source, and after the firmware runs each further section
in ascending order; when the last one is out the boot is done and the scope of the reset ends. A released section is out of
reset and its HOLD bit is clear. -/
def Obligations.SectionsLeaveResetInOrder : Prop :=
  ∀ s : State, s.awake →
    (∀ n < 10, bit s.ctl.auto n → (∀ k < n, bit s.ctl.auto k = false) → s.releasable n → ∃ t, exec .sectionRelease s = .next t ∧
      t.ctl.inrst = (if bit s.ctl.inrst n then s.ctl.inrst - 2 ^ n else s.ctl.inrst) ∧ t.ctl.auto = s.ctl.auto - 2 ^ n ∧
      t.rwBit rSecRst n = false ∧ t.ctl.stage = s.ctl.stage) ∧
    (s.ctl.auto = 0 →
      (s.ctl.stage = 0 → bit s.ctl.inrst 0 → ∃ t, exec .sectionRelease s = .next t ∧
        t.ctl.inrst = s.ctl.inrst - 1 ∧ t.ctl.stage = 1 ∧ t.rwBit rSecRst 0 = false) ∧
      (s.ctl.stage = 1 → bit s.ctl.inrst 1 → bit s.ctl.inrst 0 = false → s.mem.trained → ∃ t, exec .sectionRelease s = .next t ∧
        t.ctl.inrst = s.ctl.inrst - 2 ∧ t.ctl.stage = 1 ∧ t.rwBit rSecRst 1 = false ∧ t.tim.nsc = 0) ∧
      (s.ctl.stage = 1 → bit s.ctl.inrst 1 = false → bit s.ctl.inrst 2 → ∃ t, exec .sectionRelease s = .next t ∧
        t.ctl.inrst = s.ctl.inrst - 4 ∧ t.ctl.stage = (if s.ctl.boot then 2 else 3) ∧ t.rwBit rSecRst 2 = false) ∧
      (s.ctl.stage = 4 → ∀ n < 10, 3 ≤ n → bit s.ctl.inrst n → (∀ k, 3 ≤ k → k < n → bit s.ctl.inrst k = false) → s.releasable n →
        ∃ t, exec .sectionRelease s = .next t ∧ t.ctl.inrst = s.ctl.inrst - 2 ^ n ∧ t.ctl.stage = (if n = 9 then 5 else 4) ∧
          t.rwBit rSecRst n = false ∧ t.ctl.scope = (if n = 9 then 0 else s.ctl.scope)))

/-- Memory training, the firmware slots and the host push. MEMORY_TRAINING_DONE with 2 or 4 GiB records the size; a failure stops
the boot at stage 6. FIRMWARE_VERIFY_DONE at stage 2 runs the first slot in the slots' order that the check accepts, with the
failure code of a slot refused before it; if it accepts neither the boot waits for a push at stage 3. BOOT_PUSH at stage 3
begins the check of so many bytes of pool SRAM. PUSH_CHECK_DONE runs an accepted image, else it shows the failure code (5:
too long) and waits again. Each refused image is kept for the Stoker to log once one runs. -/
def Obligations.TrainingAndBoot : Prop :=
  ∀ s : State, s.awake →
    (bit s.ctl.inrst 0 = false → s.mem.trained = false →
      exec (.memoryTrainingDone (some 2)) s = .next { s with out := [], mem := { s.mem with trained := true, size := 1 } } ∧
      exec (.memoryTrainingDone (some 4)) s = .next { s with out := [], mem := { s.mem with trained := true, size := 2 } } ∧
      exec (.memoryTrainingDone none) s = .next { s with out := [], ctl := { s.ctl with stage := 6 } }) ∧
    (s.ctl.stage = 2 → s.ctl.pushLen = none → ∀ p q, s.slotOrder = [p, q] →
      (s.fwCheck (s.slotImg p) = 0 → ∃ t, exec .firmwareVerifyDone s = .next t ∧ t.sec.fw = fwOf p (s.slotImg p) ∧
        t.ctl = { s.ctl with stage := 4 }) ∧
      (s.fwCheck (s.slotImg p) ≠ 0 → s.fwCheck (s.slotImg q) = 0 → ∃ t, exec .firmwareVerifyDone s = .next t ∧
        t.sec.fw = fwOf q (s.slotImg q) ∧ t.ctl = { s.ctl with stage := 4 } ∧
        (if p = 0 then t.sec.afail else t.sec.bfail) = s.fwCheck (s.slotImg p)) ∧
      (s.fwCheck (s.slotImg p) ≠ 0 → s.fwCheck (s.slotImg q) ≠ 0 → ∃ t, exec .firmwareVerifyDone s = .next t ∧
        t.sec = { s.sec with
          afail := s.fwCheck (s.slotImg 0), bfail := s.fwCheck (s.slotImg 1)
          refused := s.sec.refused ++ [(p, fwOf p (s.slotImg p), s.fwCheck (s.slotImg p)), (q, fwOf q (s.slotImg q), s.fwCheck (s.slotImg q))] } ∧
        t.ctl = { s.ctl with stage := 3 })) ∧
    (∀ w, s.ctl.stage = 3 → exec (.bootPush w) s = .next { s with
      out := [], ctl := { s.ctl with stage := 2, pushLen := some (wbits w 0 20) } }) ∧
    (∀ n, s.ctl.pushLen = some n →
      (n ≤ 524288 → s.fwCheck (s.mem.pool.getN 0 n) = 0 → ∃ t, exec .pushCheckDone s = .next t ∧
        t.sec.fw = fwOf 2 (s.mem.pool.getN 0 n) ∧ t.ctl = { s.ctl with stage := 4, pushLen := none, pushErr := 0 } ∧ t.sec.refused = []) ∧
      (n ≤ 524288 → s.fwCheck (s.mem.pool.getN 0 n) ≠ 0 → exec .pushCheckDone s = .next { s with
        out := [], ctl := { s.ctl with stage := 3, pushLen := none, pushErr := s.fwCheck (s.mem.pool.getN 0 n) }
        sec := { s.sec with refused := s.sec.refused ++ [(2, fwOf 2 (s.mem.pool.getN 0 n), s.fwCheck (s.mem.pool.getN 0 n))] } }) ∧
      (524288 < n → exec .pushCheckDone s = .next { s with
        out := [], ctl := { s.ctl with stage := 3, pushLen := none, pushErr := 5 }
        sec := { s.sec with refused := s.sec.refused ++ [(2, fwOf 2 (s.mem.pool.getN 0 n), 5)] } }))

/-- The HOLD bits, the die sensor and a stopped interface clock. With no reset or release under way, a write of CTL_SECRST that
sets HOLD bits where none was set puts the named sections and all that need them in reset and stores the HOLD bits. A write
that clears the only HOLD bit, with memory trained and every lower section out of reset, releases that section. A refused
clear is recorded and leaves the section held. DIE_TEMPERATURE_WARNING stores the temperature, and sets the health bit of a
high temperature from 125 degC on. INTERFACE_CLOCK_STOP leaves the block as it is. -/
def Obligations.HoldsAndSensors : Prop :=
  ∀ (s : State) (src : WrSrc) (w : Word), s.reaches src rSecRst →
    (s.rwBits rSecRst 0 10 = 0 → wbits w 0 10 ≠ 0 → s.ctl.scope = 0 → ∃ t, exec (.sectionHoldWrite src w) s = .next t ∧
      t.ctl.inrst = s.ctl.inrst ||| closure (wbits w 0 10) ∧ t.rwBits rSecRst 0 10 = wbits w 0 10) ∧
    (∀ n < 10, s.rwBits rSecRst 0 10 = 2 ^ n → wbits w 0 10 = 0 →
      (s.holdOk n → ∃ t, exec (.sectionHoldWrite src w) s = .next t ∧ t.rwBit rSecRst n = false ∧
        t.ctl.inrst = (if bit s.ctl.inrst n then s.ctl.inrst - 2 ^ n else s.ctl.inrst)) ∧
      (s.holdOk n = false → ∃ t, exec (.sectionHoldWrite src w) s = .next t ∧ t.rw rSecRst = s.rw rSecRst ∧ t.ctl = s.ctl ∧
        t.scBit rSecStat 23 ∧ t.cap rSecStat = fld 18 4 n ∧ t.scBit (wCtl + 0x0050) 23)) ∧
    (s.up secTime → ∀ c : BitVec 16,
      (c.toInt < 12500 → exec (.dieTemperatureWarning c) s = .next { s with out := [], tim := { s.tim with die := c.toInt } }) ∧
      (12500 ≤ c.toInt → ∃ t, exec (.dieTemperatureWarning c) s = .next t ∧ t.tim = { s.tim with die := c.toInt } ∧
        t.scBit rHealth 17 ∧ t = { s with out := [], tim := t.tim, regs := t.regs })) ∧
    (∀ i, exec (.interfaceClockStop i) s = .next { s with out := [] })

/-- What every block boundary does. With the Time section out of reset and no jam due at it, BLOCK_BOUNDARY takes NSC to the next
multiple of 12, modulo 2^64; no claim whose lease has run out is left; and a Mix section in reset or with EN clear is not
active and holds no entry. With the Time section in reset nothing happens, but that an all-call bypass which drives its
outputs goes on. -/
def Obligations.BlockBoundaryBeginsTheNextBlock : Prop :=
  ∀ (s : State) (io : BlockIn),
    (s.up secTime → ∃ t, exec (.blockBoundary io) s = .next t ∧
      (s.tim.jamNow = false → t.tim.nsc = (s.tim.nsc / 12 + 1) * 12 % 2 ^ 64 ∧ (∀ c ∈ t.mix.claims, c.expired = false) ∧
        ((s.up secMix = false ∨ s.mixEn = false) → t.mix.act = false ∧ t.mix.ents = [] ∧ t.mix.xps = []))) ∧
    (s.up secTime = false → s.acDrives = false → exec (.blockBoundary io) s = .next { s with out := [] }) ∧
    (s.up secTime = false → s.acDrives → ∃ t, exec (.blockBoundary io) s = .next t ∧
      t = { s with out := t.out, regs := t.regs, byp := t.byp, dac := t.dac })

/-- A direct write at the bulk-memory port stores its bytes and no others. A write by a master that can request, wholly in usable
bulk memory, changes exactly the bytes it names, but that the active unit of a twin pair also keeps what it journals in its
journal store; pool SRAM and the other sections stay as they are, but for the marks of the table cache, counters, outputs and
the twin's journal. Outside usable bulk memory nothing is stored: the master gets DECERR, which is counted and captured. -/
def Obligations.DirectWriteStoresItsBytes : Prop :=
  ∀ (s : State) (m : Fin 14) (addr : BitVec 40) (data : List Byte), s.masterOn m →
    (s.inBulk addr.toNat data.length → ∃ t, exec (.tableDirectWrite m addr data) s = .next t ∧
      (∀ a, (s.journals = false ∨ s.ckErr ∨ a < s.ckBase + 0x400000 ∨ s.ckBase + 0x800000 ≤ a) → t.mem.bulk.get a =
        if addr.toNat ≤ a ∧ a < addr.toNat + data.length then data.getD (a - addr.toNat) 0 else s.mem.bulk.get a) ∧
      t = { s with out := t.out, regs := t.regs, mem := { s.mem with bulk := t.mem.bulk }, mix := t.mix, twin := t.twin }) ∧
    (s.inBulk addr.toNat data.length = false → ∃ t, exec (.tableDirectWrite m addr data) s = .next t ∧
      t = { s with out := [], regs := t.regs } ∧ t.ctr (wMem + 0x014C) = (s.ctr (wMem + 0x014C)).inc ∧
      t.cap (wMem + 0x0144) = fld 0 32 addr.toNat)

/-- Re-fetch, compiled copies and the start compile. TABLE_REFETCH starts the re-fetch of a stale item that is not deferred and
has room in this block: of the only stale item, exactly that; of an entry or record before which every stale entry and record
is deferred, that one among what it starts; a deferred item stays stale. COMPILE_COMPLETE of an item under re-fetch leaves
its image of bulk memory ready for the next boundary; with an uncorrectable error in the item's words it keeps the previous
copy, marks an entry FAULT with ERR bit 7, counts the error and sets the health bit. WORKING_STORE_ECC_ERROR of an entry or
record in an active section marks it stale and counts. MIX_START_COMPILE_DONE completes the start compile, and an entry whose
read failed is FAULT. -/
def Obligations.TableEngineWorks : Prop :=
  ∀ s : State,
    (∀ it, s.mixEn → s.mix.stale = [it] → it ∉ s.mix.deferred → s.mix.room it → exec .tableRefetch s = .next { s with
      out := [], mix := { s.mix.use it with stale := [], fetching := addNew s.mix.fetching [it] } }) ∧
    (∀ it pre post, s.mixEn → s.mix.stale = pre ++ it :: post → (∀ j ∈ pre, itemIsZone j ∨ j ∈ s.mix.deferred) →
      itemIsZone it = false → it ∉ s.mix.deferred → s.mix.room it →
      ∃ t, exec .tableRefetch s = .next t ∧ it ∈ t.mix.fetching ∧ it ∉ t.mix.stale) ∧
    (∀ it, it ∈ s.mix.stale → it ∈ s.mix.deferred → ∃ t, exec .tableRefetch s = .next t ∧ it ∈ t.mix.stale) ∧
    (∀ it (m : MemHits), it ∈ s.mix.fetching → m.adr = false → badIn m.bad (s.itemAt it).1 (s.itemAt it).2 = false →
      ∃ t, exec (.compileComplete it m) s = .next t ∧ (m.cor = [] → t.regs = s.regs) ∧ t = { s with
        out := [], regs := t.regs, mix := { s.mix with
          fetching := s.mix.fetching.filter (· ≠ it)
          ready := (s.mix.ready.filter fun r => r.item ≠ it) ++ [⟨it, s.fetchImg it⟩] } }) ∧
    (∀ it (m : MemHits), it ∈ s.mix.fetching → badIn m.bad (s.itemAt it).1 (s.itemAt it).2 →
      ∃ t, exec (.compileComplete it m) s = .next t ∧ t.scBit rHealth 22 ∧ t.ctr (wMem + 0x0810) = (s.ctr (wMem + 0x0810)).inc ∧
      t.mix.fetching = s.mix.fetching.filter (· ≠ it) ∧ t.mix.ready = s.mix.ready ∧
      (∀ n, it = .entry n → (t.ent n).faulted ∧ (t.ent n).err = (s.ent n).err ||| 0x80#8 ∧ (t.ent n).img = (s.ent n).img)) ∧
    (∀ it, s.mix.act → itemCounts it → exec (.workingStoreEccError it) s = .next { s.count cWsErr with
      out := [], mix := { s.mix with stale := addNew s.mix.stale [it] } }) ∧
    (∀ m : MemHits, s.mayCompile → ∃ t, exec (.mixStartCompileDone m) s = .next t ∧ t.mix.compiled ∧ t.mix.act = false ∧
      (∀ n < 3072, badIn m.bad (s.entAddr n) 512 → (t.ent n).faulted ∧ (t.ent n).noCopy ∧ (t.ent n).err = 0x80#8 ∧ t.scBit rHealth 22))

/-- Ramps, fade-outs, gates, meters, delay bursts and contributors. RAMP_END takes a ramp that is over out of its entry or record
and brings an entry's status area up to date, no other byte. ENTRY_FADE_OUT_END stops an entry whose fade-out is over and
rewrites its status area and no other byte. GATE_HOLD_EXPIRY closes a gate whose hold has run out, PEAK_HOLD_EXPIRY ends a
meter's hold time, both of an entry that is processed and nothing else. DELAY_BURST_COMPLETE with an uncorrectable error
delivers zeros for that burst and sets ERR bit 7, counted and with the health bit; with nothing found it changes nothing.
CONTRIBUTOR_HANG_EXPIRY stops a record from counting as a contributor after 40 blocks. -/
def Obligations.EventsInsideAnEntry : Prop :=
  ∀ s : State,
    (∀ n f, s.mix.ents.any (fun e => e.idx = n) → ∃ t, exec (.rampEnd ⟨.entry n, f⟩) s = .next t ∧
      t.ent n = { s.ent n with ramps := endRamp (s.ent n).ramps f (s.ent n).dom (domCeil (s.ent n).dom (stageIndex s.tim.nsc n)) } ∧
      (∀ k, k ≠ n → t.ent k = s.ent k) ∧ (n < 3072 → t.mem.bulk.getN (s.entAddr n + 0x1C0) 16 =
        (t.ent n).status (domCeil (s.ent n).dom (stageIndex s.tim.nsc n))) ∧
      (∀ a, (a < s.entAddr n + 0x1C0 ∨ s.entAddr n + 0x1D0 ≤ a) → t.mem.bulk.get a = s.mem.bulk.get a) ∧
      t = { s with out := [], mem := { s.mem with bulk := t.mem.bulk }, mix := { s.mix with ents := t.mix.ents } }) ∧
    (∀ n f, s.mix.xps.any (fun x => x.idx = n) → ∃ t, exec (.rampEnd ⟨.xp n, f⟩) s = .next t ∧
      t.xp n = { s.xp n with ramps := endRamp (s.xp n).ramps f (s.busDom (XpR.dst (s.xp n).img))
                                        (domCeil (s.busDom (XpR.dst (s.xp n).img)) (s.tim.nsc - 24)) } ∧
      (∀ k, k ≠ n → t.xp k = s.xp k) ∧ t = { s with out := [], mix := { s.mix with xps := t.mix.xps } }) ∧
    (∀ e : Fin 3072, (s.ent e).live → (s.ent e).faded (domCeil (s.ent e).dom (stageIndex s.tim.nsc e)) →
      ∃ t, exec (.entryFadeOutEnd e) s = .next t ∧ t.ent e = { s.ent e with live := false, ramps := [], wait := none } ∧
        (∀ a, (a < s.entAddr e + 0x1C0 ∨ s.entAddr e + 0x1D0 ≤ a) → t.mem.bulk.get a = s.mem.bulk.get a) ∧
        t.mem.bulk.getN (s.entAddr e + 0x1C0) 16 =
          Ent.status { s.ent e with live := false, ramps := [], wait := none } (domCeil (s.ent e).dom (stageIndex s.tim.nsc e)) ∧
        t = { s with out := [], mem := { s.mem with bulk := t.mem.bulk }, mix := { s.mix with ents := t.mix.ents } }) ∧
    (∀ e : Fin 1536, s.mix.ents.any (fun x => x.idx = e.val) → (s.ent e).live →
      ∃ t, exec (.gateHoldExpiry e) s = .next t ∧
        t.ent e = { s.ent e with run := { (s.ent e).run with gate := (s.ent e).run.gate.expire } } ∧
        t = { s with out := [], mix := { s.mix with ents := t.mix.ents } }) ∧
    (∀ g : Gate, g.st = 1 → g.left = 0 → g.below → g.expire.st = 0) ∧
    (∀ e : Fin 3072, s.mix.ents.any (fun x => x.idx = e.val) → (s.ent e).live →
      ∃ t, exec (.peakHoldExpiry e) s = .next t ∧ (t.ent e).run.met.holdLeft = max (s.ent e).run.met.holdLeft 0 ∧
        t = { s with out := [], mix := { s.mix with ents := t.mix.ents } }) ∧
    (∀ (e : Fin 3072) b (m : MemHits), hitsFail m = false → (m.cor = [] ∨ (s.ent e).live = false) →
      exec (.delayBurstComplete e b m) s = .next { s with out := [] }) ∧
    (∀ (e : Fin 3072) b (m : MemHits), hitsFail m → (s.ent e).live → ∃ t, exec (.delayBurstComplete e b m) s = .next t ∧
      t.ent e = { s.ent e with badBursts := (s.ent e).badBursts ++ [b], err := (s.ent e).err ||| 0x80#8 } ∧ t.scBit rHealth 22 ∧
      t.ctr (wMem + 0x0810) = (s.ctr (wMem + 0x0810)).inc) ∧
    (∀ x : Fin 98304, s.mix.xps.any (fun y => y.idx = x.val) → (s.xp x).since = 39 → s.sinceNext (s.xp x) = 40 →
      ∃ t, exec (.contributorHangExpiry x) s = .next t ∧ t.xp x = { s.xp x with since := 40 } ∧
        t = { s with out := [], mix := { s.mix with xps := t.mix.xps } })

/-- The end of clips and tone programs, and clip data. CLIP_END and TONE_PATTERN_END make a player or generator idle whose clip
or program is over, and leave one that still plays as it is. CLIP_DATA_FETCH_COMPLETE of a clip of the player that plays,
fades out or is scheduled keeps the burst as bulk memory holds it then; with an uncorrectable error it keeps none for it,
counts it and sets the health bit; where no clip of that CSN is known it changes nothing. -/
def Obligations.PlayersEnd : Prop :=
  ∀ s : State, s.mix.players.length = 80 →
    (∀ (p : Fin 64) c, (s.player p).cur = some c →
      (c.overAt (domCeil c.dom s.tim.nsc) → exec (.clipEnd p) s = .next { s with
        out := [], mix := { s.mix with players := s.mix.players.set p { s.player p with cur := none } } }) ∧
      (c.overAt (domCeil c.dom s.tim.nsc) = false → exec (.clipEnd p) s = .next { s with out := [] })) ∧
    (∀ (g : Fin 16) c, (s.player (64 + g)).cur = some c →
      (c.overAt (domCeil c.dom s.tim.nsc) → exec (.tonePatternEnd g) s = .next { s with
        out := [], mix := { s.mix with players := s.mix.players.set (64 + g) { s.player (64 + g) with cur := none } } }) ∧
      (c.overAt (domCeil c.dom s.tim.nsc) = false → exec (.tonePatternEnd g) s = .next { s with out := [] })) ∧
    (∀ (p : Fin 64) c (csn : BitVec 48) b (m : MemHits), let x := s.player p
      (x.cur.toList ++ x.old ++ s.scheduled p).find? (fun c => c.csn = csn.toNat) = some c →
      let rest := x.bursts.filter fun y => !(y.csn = csn.toNat && y.no = b)
      (hitsFail m = false → m.cor = [] → exec (.clipDataFetchComplete p csn b m) s = .next { s with
        out := [], mix := { s.mix with players := s.mix.players.set p { x with
          bursts := rest ++ [⟨csn.toNat, b, some (s.mem.bulk.getN (c.addr + 64 * b) 64)⟩] } } }) ∧
      (hitsFail m → ∃ t, exec (.clipDataFetchComplete p csn b m) s = .next t ∧
        t.player p = { x with bursts := rest ++ [⟨csn.toNat, b, none⟩] } ∧ t.ctr cClipErr = (s.ctr cClipErr).inc ∧
        t.ctr (wMem + 0x0810) = (s.ctr (wMem + 0x0810)).inc ∧ t.scBit rHealth 22)) ∧
    (∀ (p : Fin 64) (csn : BitVec 48) b (m : MemHits),
      (∀ c ∈ (s.player p).cur.toList ++ (s.player p).old ++ s.scheduled p, c.csn ≠ csn.toNat) →
      exec (.clipDataFetchComplete p csn b m) s = .next { s with out := [] })

/-- The Mix watchdog and the expiry of a claim's lease. When the Strip or the Mix stage has missed its end three times in a row,
or a section that the Mix section needs is in reset, MIX_WATCHDOG records give-up cause 4 in a paired twin unit and sets the
health bit in any other; otherwise it does nothing. CLAIM_LEASE_EXPIRY marks the claim, which ends at the next boundary. -/
def Obligations.WatchdogAndLeaseEvents : Prop :=
  ∀ s : State,
    let late : Prop := 3 ≤ s.mix.missStrip ∨ 3 ≤ s.mix.missMix ∨ (s.awake ∧ (s.up secMem = false ∨ s.up secTime = false))
    (late → s.rwBit rHitCfg 31 → s.twin.paired → ∃ t, exec .mixWatchdog s = .next t ∧
      t.scBit rHitStat 22 ∧ t.twin.cause = 4 ∧ t = { s with out := [], regs := t.regs, twin := t.twin }) ∧
    (late → (s.rwBit rHitCfg 31 && s.twin.paired) = false →
      exec .mixWatchdog s = .next { s.scSet rHealth 23 with out := [] }) ∧
    (¬ late → exec .mixWatchdog s = .next { s with out := [] }) ∧
    (∀ csn : BitVec 48, exec (.claimLeaseExpiry csn) s = .next { s with out := [], mix := { s.mix with
      claims := s.mix.claims.map fun c => if c.csn = csn.toNat then { c with expired := true } else c } })

/-- What a register write does. A write that does not reach a register, or that names an offset outside the map, changes nothing.
A write of a Mix configuration register takes its RW bits while MIX_CTL.EN is 0; while EN is 1 it is ignored, and CTL_CFGREJ,
CTL_CFGADDR and CTL_CFGDATA record it. A write of a counter, and SEQUENCE_CLEAR of one, leave COUNT at the smaller of COUNT
and the events since the sequence written; SEQUENCE_CLEAR of a status register outside the Host window keeps the bits set
since. Nothing else changes. -/
def Obligations.RegisterWritesAndClears : Prop :=
  ∀ (s : State) (src : WrSrc) (off : BitVec 20) (w : Word),
    (s.reaches src off.toNat = false → exec (.registerWrite src off w) s = .next { s with out := [] } ∧
      exec (.sequenceClear src off w) s = .next { s with out := [] }) ∧
    (s.reaches src off.toNat → regKind off.toNat = .none → exec (.registerWrite src off w) s = .next { s with out := [] }) ∧
    (∀ m r, s.reaches src off.toNat → regKind off.toNat = .rw m r → off.toNat / 0x10000 = 5 → off.toNat ≠ rMixCtl →
      (s.mixEn = false → exec (.registerWrite src off w) s = .next { s.rwSet off.toNat (w &&& m) with out := [] }) ∧
      (s.mixEn → ∃ t, exec (.registerWrite src off w) s = .next t ∧ t = { s with out := [], regs := t.regs } ∧
        (∀ o, t.rw o = s.rw o) ∧ t.scBit (wCtl + 0x0050) 23 ∧
        t.cap (wCtl + 0x0050) = fld 14 4 (srcNum src) ∧ t.cap (wCtl + 0x0054) = fld 0 20 off.toNat ∧ t.cap (wCtl + 0x0058) = w)) ∧
    (s.reaches src off.toNat → regKind off.toNat = .ctr →
      exec (.registerWrite src off w) s =
        .next { s.ctrSet off.toNat ((s.ctr off.toNat).clear (w.extractLsb' 24 8)) with out := [] } ∧
      exec (.sequenceClear src off w) s =
        .next { s.ctrSet off.toNat ((s.ctr off.toNat).clear (w.extractLsb' 24 8)) with out := [] }) ∧
    (s.reaches src off.toNat → regKind off.toNat = .sc → off.toNat / 0x10000 ≠ 3 → inArr off.toNat (wMem + 0x0120) 8 = false →
      exec (.sequenceClear src off w) s =
        .next { s.scPut off.toNat ((s.sc off.toNat).clear (w.extractLsb' 24 8)) with out := [] })

/-- A clear with the sequence read loses no later event. Fewer than 256 events after a read of a counter, a clear with the SEQ
that was read leaves COUNT at the number of those events. Of a status register, whose latest settings are recent enough that
no sequence wraps, it leaves exactly the bits that were set since. -/
def Obligations.ClearingLosesNoLaterEvent : Prop :=
  (∀ (c : Ctr) (n : Nat), n < 256 → (((upTo n).foldl (fun (x : Ctr) _ => x.inc) c).clear c.seq).count = n) ∧
  (∀ (c : Sc) (bs : List Nat), bs.length < 256 → (∀ p ∈ c.bits, since c.seq p.2 + bs.length < 256) →
    ∀ b, (look b ((bs.foldl Sc.event c).clear c.seq).bits).isSome ↔ b ∈ bs)

/-- MIX_CTL.EN, STP_CTL.EN and MIX_CSNLO. MIX_ENABLE sets EN; where both tables are placed, the section starts with an empty
sequence and an empty working store, a seed drawn from the TRNG, the strip section's activity, the source histories and the
staged batches staying; with RANGEERR, or with EN already 1, only EN is set; a section that has not stopped yet stops at the
boundary and compiles anew. MIX_DISABLE clears EN while no operation is pending, and is ignored and recorded otherwise.
STRIP_ENABLE sets EN; STRIP_DISABLE clears it while ACT of the Mix section is 0, and is ignored and recorded otherwise. A
read of MIX_CSNLO latches the upper bits of the CSN into MIX_CSNHI. -/
def Obligations.MixAndStripSwitches : Prop :=
  ∀ (s : State) (src : WrSrc) (w : Word),
    (s.reaches src rMixCtl → w.getLsbD 31 → s.mixEn = false → s.mix.act = false → s.ctErr = false → s.xpErr = false →
      exec (.mixEnable src w) s = .next { s.rwSet rMixCtl 0x80000000#32 with
        out := [], freeCtr := s.freeCtr + 1
        mix := { Mix.reset with
          strip := s.mix.strip, srcHist := s.mix.srcHist, batches := s.mix.batches, seed := (Config.trng s.freeCtr).toNat } }) ∧
    (s.reaches src rMixCtl → w.getLsbD 31 → s.mixEn = false → s.mix.act → exec (.mixEnable src w) s = .next { s.rwSet rMixCtl 0x80000000#32 with
      out := [], mix := { s.mix with compiled := false } }) ∧
    (s.reaches src rMixCtl → w.getLsbD 31 → (s.mixEn ∨ (s.mix.act = false ∧ (s.ctErr ∨ s.xpErr))) →
      exec (.mixEnable src w) s = .next { s.rwSet rMixCtl 0x80000000#32 with out := [] }) ∧
    (s.reaches src rMixCtl → w.getLsbD 31 = false → s.mix.ops = [] →
      exec (.mixDisable src w) s = .next { s.rwSet rMixCtl 0 with out := [] }) ∧
    (s.reaches src rMixCtl → w.getLsbD 31 = false → s.mixEn → s.mix.ops ≠ [] → ∃ t, exec (.mixDisable src w) s = .next t ∧
      t.mixEn ∧ t.scBit (wCtl + 0x0050) 23 ∧ t = { s with out := [], regs := t.regs }) ∧
    (s.reaches src rStpCtl → w.getLsbD 31 →
      exec (.stripEnable src w) s = .next { s.rwSet rStpCtl 0x80000000#32 with out := [] }) ∧
    (s.reaches src rStpCtl → w.getLsbD 31 = false → s.mix.act = false →
      exec (.stripDisable src w) s = .next { s.rwSet rStpCtl 0 with out := [] }) ∧
    (s.reaches src rStpCtl → w.getLsbD 31 = false → s.rwBit rStpCtl 31 → s.mix.act → ∃ t, exec (.stripDisable src w) s = .next t ∧
      t.rwBit rStpCtl 31 ∧ t.scBit (wCtl + 0x0050) 23 ∧ t = { s with out := [], regs := t.regs }) ∧
    (s.up secMem → s.up secMix → s.cap (wMix + 0x0140) = 0 → exec .csnReadLatch s = .next { s with
      csnLatch := s.mix.csn / 2 ^ 32, out := [.data .okay (natLe 4 (s.mix.csn % 2 ^ 32))] })

/-- MTX_QOS and the bank owners. A write of MTX_QOSt that keeps the starvation bound takes its fields; one that would break it
leaves them and sets QOSERR with the point. A write of DEP_BANKOWNn queues a handover to the owner written, 0xE standing for
none, and sets the register; when a handover ends, the bank takes the owner at the head of the queue. -/
def Obligations.QuotasAndBanks : Prop :=
  ∀ (s : State) (src : WrSrc) (w : Word),
    (∀ (pt : Fin 8) m r, regKind (wMem + 0x0100 + 4 * pt) = .rw m r → s.reaches src (wMem + 0x0100 + 4 * pt) →
      (qosOk pt w → exec (.qosWrite src pt w) s = .next { s.rwSet (wMem + 0x0100 + 4 * pt) (w &&& m) with out := [] }) ∧
      (qosOk pt w = false → ∃ t, exec (.qosWrite src pt w) s = .next t ∧
        (∀ o, t.rw o = s.rw o) ∧ t.scBit rMtxStat 23 ∧ wbits (t.cap rMtxStat) 20 3 = pt ∧ t.scBit (wCtl + 0x0050) 23 ∧
        t = { s with out := [], regs := t.regs })) ∧
    (∀ n : Fin 32, s.reaches src (wMem + 0x0400 + 4 * n) → exec (.bankOwnerWrite src n w) s =
      .next { s.rwSet (wMem + 0x0400 + 4 * n) (w &&& 0xF#32) with
        out := []
        mem := { s.mem with hand := s.mem.hand.set n (s.mem.hand.getD n [] ++ [if wbits w 0 4 = 14 then 15 else wbits w 0 4]) } }) ∧
    (∀ (n : Fin 32) o r, s.up secMem → s.mem.hand.getD n [] = o :: r → exec (.bankHandoverDone n) s =
      .next { s with out := [], mem := { s.mem with owner := s.mem.owner.set n o, hand := s.mem.hand.set n r } })

/-- Enabling and tearing down host ports and rings. HOST_PORT_ENABLE of a disabled port takes its fields, EN only where the pages
are placed as R214 asks, and then starts each ring that is enabled; otherwise the write is ignored and SETUPERR is set.
RING_ENABLE of a ring that is disabled takes the fields and starts the ring from index 0; where the doorbell page of an
enabled port does not read 0 for it (R218), the ring has RINGERR and waits for a valid value; clearing EN of a ring, or of a
port, is a host fault: the rings concerned start from 0 when they are enabled again, the session ends (version, claims,
staged batches, subscriptions), and completions to a torn-down completion ring are lost. -/
def Obligations.HostPortsAndRings : Prop :=
  ∀ (s : State) (src : WrSrc) (h : Fin 4) (w : Word),
    let peek (off v : Nat) : Prop := (s.hstEn h = false → v = 0) ∧
      (s.hstEn h → s.targetRange (s.dbBase h) 64 = .pool → v = leNat (s.poolRead (s.dbBase h + off) 2)) ∧
      (s.hstEn h → s.targetRange (s.dbBase h) 64 = .bulk → v = s.mem.bulk.le (s.dbBase h + off) 2)
    let bad (v : Nat) : Option Nat := if v = 0 then none else some v
    (s.reaches src (rHst h) → s.hstEn h = false →
      (w.getLsbD 31 = false ∨ (s.setupOk h ∧ ∀ k : Fin 8, s.sqEn h k = false ∧ s.cqEn h k = false)) →
      exec (.hostPortEnable src h w) s = .next { s.rwSet (rHst h) (w &&& 0x83FF7F00#32) with out := [] }) ∧
    (s.reaches src (rHst h) → s.hstEn h = false → w.getLsbD 31 → s.setupOk h → ∃ t,
      exec (.hostPortEnable src h w) s = .next t ∧ t.hstEn h ∧ t.rw (rHst h) = w &&& 0x83FF7F00#32 ∧
      ∀ k : Fin 8, (s.sqEn h k → ∃ v, (t.hst h).sqAt k = { Sq.zero with bad := bad v }) ∧
        (s.cqEn h k → ∃ v, (t.hst h).cqAt k = { Cq.zero with bad := bad v }) ∧
        (s.sqEn h k = false → (t.hst h).sqAt k = (s.hst h).sqAt k) ∧ (s.cqEn h k = false → (t.hst h).cqAt k = (s.hst h).cqAt k)) ∧
    (s.reaches src (rHst h) → s.hstEn h = false → w.getLsbD 31 → s.setupOk h = false → ∃ t,
      exec (.hostPortEnable src h w) s = .next t ∧ (∀ o, t.rw o = s.rw o) ∧ t.scBit (rHstStat h) 7 ∧ t.scBit (wCtl + 0x0050) 23) ∧
    (∀ k : Fin 8, s.reaches src (rSqCfg h k) → s.sqEn h k = false → w.getLsbD 31 → s.sqRules h k (w &&& 0x8FFFF007#32) →
      ∃ v t, exec (.ringEnable src h true k w) s = .next t ∧ peek (2 * k) v ∧ t.rw (rSqCfg h k) = w &&& 0x8FFFF007#32 ∧
        (t.hst h).sqAt k = { Sq.zero with bad := bad v } ∧ (v ≠ 0 → t.scBit (rHstStat h) 19) ∧
        (v = 0 → t = { (s.rwSet (rSqCfg h k) (w &&& 0x8FFFF007#32)).hstPut h
          { (s.hst h).sqPut k Sq.zero with dirty := true } with out := [], freeCtr := t.freeCtr })) ∧
    (∀ k : Fin 8, s.reaches src (rCqCfg h k) → s.cqEn h k = false → w.getLsbD 31 → s.cqRules h k (w &&& 0xEFFFF3FF#32) →
      (2 ≤ h.val ∨ wbits w 24 4 ≠ 15) →
      ∃ v t, exec (.ringEnable src h false k w) s = .next t ∧ peek (16 + 2 * k) v ∧ t.rw (rCqCfg h k) = w &&& 0xEFFFF3FF#32 ∧
        (t.hst h).cqAt k = { Cq.zero with bad := bad v } ∧ (v ≠ 0 → t.scBit (rHstStat h) 19) ∧
        (v = 0 → t = { (s.rwSet (rCqCfg h k) (w &&& 0xEFFFF3FF#32)).hstPut h
          { (s.hst h).cqPut k Cq.zero with dirty := true } with out := [], freeCtr := t.freeCtr })) ∧
    (∀ which : RingSel, w.getLsbD 31 = false → s.reaches src (ringReg h which) → s.rwBit (ringReg h which) 31 → ∃ t,
      exec (.ringTeardown src h which w) s = .next t ∧ t.rwBit (ringReg h which) 31 = false ∧
      (∀ k : Fin 8, which = .sq k ∨ which = .port → t.sqEn h k = false ∧ (s.sqEn h k → (t.hst h).sqAt k = Sq.zero)) ∧
      (∀ k : Fin 8, which = .cq k ∨ which = .port → t.cqEn h k = false ∧ (s.cqEn h k → (t.hst h).cqAt k = Cq.zero)) ∧
      (t.hst h).ver = 0 ∧ (t.hst h).subs = List.replicate 8 none ∧ (∀ c ∈ t.mix.claims, c.host = h.val → c.partner) ∧
      (∀ b ∈ t.mix.batches, b.host ≠ h.val) ∧ t.scBit (rHstStat h) 14 ∧ t.tim = s.tim)

/-- TDM_CTL, DAC_CODE and DAC_CFG. Of the bits of TDM_CTLn, STOP marks a port in use to stop at the next boundary, SWAP of a
RUNNING port leaves SWPEND set and of any other port copies both shadow tables at once; a write with none or more than one
bit set does nothing. A write of CODE is stored, and reaches the output at once in direct mode; MODE and SPAN take a write
only while EN is 0, clearing EN takes the output to 0 V, and setting it in stream mode gives the samples of what is left of
the block; while the bypass drives the channel, the output follows the bypass alone. -/
def Obligations.StreamPortControls : Prop :=
  ∀ (s : State) (src : WrSrc) (w : Word),
    (∀ (n : Fin 16) c, (c = .tdmStop src n w ∨ c = .tdmSwap src n w ∨ c = .tdmRestart src n false w) → s.reaches src (rTdm n + 0x008) →
      (wbits w 0 3 ∉ [1, 2, 4] → exec c s = .next { s with out := [] }) ∧
      (wbits w 0 3 = 1 → (s.port n).st = 0 → exec c s = .next { s with out := [] }) ∧
      (wbits w 0 3 = 1 → (s.port n).st ≠ 0 →
        exec c s = .next { s.portSet n { s.port n with stopping := true } with out := [] }) ∧
      (wbits w 0 3 = 2 → (s.port n).st = 3 → exec c s = .next { s.portSet n { s.port n with swp := true } with out := [] }) ∧
      (wbits w 0 3 = 2 → (s.port n).st ≠ 3 → ∃ t, exec c s = .next t ∧ (t.port n).rxLive = s.shadow n 0x040 ∧
        (t.port n).txLive = s.shadow n 0x060 ∧ (t.port n).swp = false ∧ (t.port n).st = (s.port n).st ∧
        (∀ k, k ≠ n → t.port k = s.port k) ∧ t = { s with out := [], tdm := t.tdm, byp := t.byp })) ∧
    (∀ n : Fin 8, s.reaches src (rDacCode n) →
      (s.rwBit (rDacCfg n) 31 = false ∨ s.rwBit (rDacCfg n) 30 = false ∨ s.muzzled (16 + n) ∨ (s.acDrives ∧ s.acDac n) →
        exec (.dacCodeWrite src n w) s = .next { s.rwSet (rDacCode n) (w &&& 0xFFFFFF#32) with
          out := [], dac := if s.acDrives ∧ s.acDac n then s.dac else { s.dac with held := s.dac.held.set n (sgn 24 w.toNat) } }) ∧
      (s.rwBit (rDacCfg n) 31 → s.rwBit (rDacCfg n) 30 → s.muzzled (16 + n) = false → (s.acDrives = false ∨ s.acDac n = false) →
        ∃ t, exec (.dacCodeWrite src n w) s = .next t ∧ t.rw (rDacCode n) = w &&& 0xFFFFFF#32 ∧
          t.out = [.dac n [t.dacOut n (sgn 24 w.toNat)]] ∧ t = { s with
            out := t.out, regs := t.regs, dac := { s.dac with held := s.dac.held.set n (sgn 24 w.toNat) } })) ∧
    (∀ n : Fin 8, s.reaches src (rDacCfg n) → ∃ t, exec (.dacCfgWrite src n w) s = .next t ∧
      t = { s with out := t.out, regs := t.regs, dac := { s.dac with held := t.dac.held }, freeCtr := t.freeCtr, sub := t.sub } ∧
      (s.rwBit (rDacCfg n) 31 → t.dac = s.dac) ∧
      (s.rwBit (rDacCfg n) 31 = false → t.rw (rDacCfg n) = w &&& 0xE0000000#32) ∧
      (s.rwBit (rDacCfg n) 31 → t.rw (rDacCfg n) = (s.rw (rDacCfg n) &&& 0x7FFFFFFF#32) ||| (w &&& 0x80000000#32)) ∧
      (s.rwBit (rDacCfg n) 31 → w.getLsbD 31 = false → (s.acDrives = false ∨ s.acDac n = false) → t.out = [.dac n [0]]) ∧
      (s.rwBit (rDacCfg n) 31 = false → w.getLsbD 31 → w.getLsbD 30 = false → ∃ vs, t.out = [.dac n vs] ∧ 1 ≤ vs.length ∧ vs.length ≤ 11))

/-- A restart of a slave port. RESTART of a slave port that is SYNCING, RUNNING, LOST or FAULT returns it to SYNCING, clears both
slip buffers, leaves slot tables (a copy that SWAP asked for is made) and configuration, and counts once; only the slips of a
running port up to then count beside it; its next frame makes it RUNNING with the counter realigned and both buffers filled
anew, and in the first frame that follows every enabled transmit position sends zeros. On a master port, or one that is
STOPPED or ARMED, it has no effect. -/
def Obligations.TdmRestartClearsASlavePort : Prop :=
  ∀ (s : State) (src : WrSrc) (n : Fin 16) (w : Word), s.reaches src (rTdm n + 0x008) → wbits w 0 3 = 4 →
    ((cfgSlave (s.tdmCfg n) = false ∨ (s.port n).st < 2) → exec (.tdmRestart src n false w) s = .next { s with out := [] }) ∧
    (cfgSlave (s.tdmCfg n) → 2 ≤ (s.port n).st → ∃ t, exec (.tdmRestart src n false w) s = .next t ∧
      (t.port n).st = 2 ∧ (t.port n).rxBuf = [] ∧ (t.port n).txBuf = [] ∧ (t.port n).swp = false ∧
      (t.port n).rxLive = (if (s.port n).swp then s.shadow n 0x040 else (s.port n).rxLive) ∧
      (t.port n).txLive = (if (s.port n).swp then s.shadow n 0x060 else (s.port n).txLive) ∧ (∀ o, t.rw o = s.rw o) ∧
      t.ctr (rTdm n + 0x01C) = (s.ctr (rTdm n + 0x01C)).inc ∧
      (∀ o, o ≠ rTdm n + 0x01C → (o = rTdm n + 0x014 → (s.port n).st ≠ 3) → t.ctr o = s.ctr o) ∧
      (∀ k, k ≠ n → t.port k = s.port k) ∧ t = { s with
        out := [], regs := t.regs, tdm := t.tdm, byp := t.byp, freeCtr := t.freeCtr, sub := t.sub } ∧
      (∀ f : SlaveFrame, ∃ u, exec (.tdmSlaveFrame n f) t = .next u ∧ (u.port n).st = 3 ∧ (u.port n).rxBuf.length = 4 ∧
        (u.port n).txBuf.length = 4 ∧ (n.val ≠ 15 ∨ s.acDrives = false → u.out = []) ∧
        ∀ i v, (i, v) ∈ (u.port n).txFrame 32 (List.replicate 32 7) → v = 0))

/-- Starts of serial audio ports. A start by GO or by the pin arms every port named in TDM_STARTMASK that is STOPPED with a valid
configuration, for the second boundary with NEXT 1, else for the target rounded up to a multiple of 12, or for the next
boundary, with LATEEVT, where that lies before it. A named port that is not fit, and every named port where the target is
more than 2^31 A-samples ahead of every A-sample of the block, is not armed and has CFGERR set; other ports stay as they are.
At its start a master port is RUNNING and a slave port SYNCING. -/
def Obligations.TdmStarts : Prop :=
  ∀ (s : State) (c : Instr) (nx : Bool) (src : WrSrc) (w : Word),
    ((c = .tdmStartGo src w ∧ s.reaches src rTdmStart ∧ w.getLsbD 0 ∧ nx = w.getLsbD 2) ∨
     (c = .tdmStartPin ∧ s.up secStr ∧ s.rwBit rTdmStart 1 ∧ nx = s.rwBit rTdmStart 2)) →
    let x := s.tim.nsc
    let g := (s.rw (wStr + 0x3008)).toNat * 2 ^ 32 + (s.rw (wStr + 0x3004)).toNat
    let r := cdiv g 12 * 12
    let b := (x / 12 + 1) * 12
    (∃ t, exec c s = .next t ∧ ∀ n : Fin 16,
      (s.rwBit (wStr + 0x3000) n = false → t.port n = s.port n) ∧
      (s.rwBit (wStr + 0x3000) n →
        ((s.port n).st ≠ 0 ∨ cfgOk (s.tdmCfg n) (s.rw (rTdm n + 4)) = false ∨ (nx = false ∧ b + 2147483647 < g) →
          t.port n = s.port n ∧ t.scBit (rTdmStat n) 19) ∧
        ((s.port n).st = 0 → cfgOk (s.tdmCfg n) (s.rw (rTdm n + 4)) → (nx ∨ g ≤ x + 2147483648) →
          t.port n = { s.port n with st := 1, start := if nx then b + 12 else max r b, stopping := false } ∧
          (nx = false → r < b → t.scBit (rTdmStat n) 20)))) ∧
    (s.up secStr → ∃ t, exec .tdmStartReached s = .next t ∧ ∀ n : Fin 16,
      (((s.port n).st ≠ 1 ∨ x < (s.port n).start) → t.port n = s.port n) ∧
      ((s.port n).st = 1 → (s.port n).start ≤ x → (t.port n).rxBlk = (s.port n).rxLive ∧
        (t.port n).st = if cfgSlave (s.tdmCfg n) then 2 else 3))

/-- DRY_CTL and JAMNOW. A write of DRY_CTL takes its fields; clearing EN marks every lane of the Dray to stop at the next
boundary. A write of CLK_CTL takes its configuration, which the audit log must be able to record where it changes, and with
JAMNOW makes a pending jam due at the next boundary; where the log cannot take the record, nothing of it happens and LOGFULL
is set. -/
def Obligations.LaneAndClockControls : Prop :=
  ∀ (s : State) (src : WrSrc) (w : Word),
    (∀ d : Fin 4, s.reaches src (rDry d + 0x0100) →
      ((s.rwBit (rDry d + 0x0100) 0 = false ∨ w.getLsbD 0) →
        exec (.dryCtlWrite src d w) s = .next { s.rwSet (rDry d + 0x0100) (w &&& 3#32) with out := [] }) ∧
      (s.rwBit (rDry d + 0x0100) 0 → w.getLsbD 0 = false → ∃ t, exec (.dryCtlWrite src d w) s = .next t ∧
        t.rw (rDry d + 0x0100) = w &&& 3#32 ∧ t = { s with out := [], regs := t.regs, lanes := t.lanes } ∧
        ∀ l : Fin 64, t.lane l = if l.val / 16 = d then { s.lane l with stop := some ((s.lane l).stop.getD none) } else s.lane l)) ∧
    (s.reaches src rClkCtl → wbits w 24 4 ≤ 8 →
      (s.auditOk ∨ w &&& 0x8FD00000#32 = s.rw rClkCtl → ∃ t, exec (.jamnow src w) s = .next t ∧ t.rw rClkCtl = w &&& 0x8FD00000#32 ∧
        t.tim = { s.tim with jamNow := s.tim.jamNow || (w.getLsbD 21 && s.tim.jamPend) } ∧
        t = { s with out := [], regs := t.regs, tim := t.tim, pea := t.pea, sec := t.sec }) ∧
      (s.auditOk = false → w &&& 0x8FD00000#32 ≠ s.rw rClkCtl → ∃ t, exec (.jamnow src w) s = .next t ∧
        t.rw rClkCtl = s.rw rClkCtl ∧ t.scBit rSecurity 21 ∧ t = { s with out := [], regs := t.regs }))

/-- Zeroisation, the anti-rollback counter and the TRNG. SEC_ZEROISE clears every MACsec and Hitch slot with VOLATILE and revokes
slots 0xC0 to 0xC4 with SIGNERS, whether or not the audit log can take the record, and touches no other slot. SEC_RBADV
starts a programming of a higher value that the running firmware's RBIDX allows and refuses any other with RBERR; when it is
programmed the counter reads it. SEC_RNGDATA gives a new word with VALID while the TRNG is healthy and 0 without VALID after
a failed test, until RNGRST. -/
def Obligations.KeysRollbackAndEntropy : Prop :=
  ∀ (s : State) (src : WrSrc) (w : Word),
    (∀ c, (c = .zeroiseVolatile src w ∧ w.getLsbD 0 ∨ c = .zeroiseSigners src w ∧ w.getLsbD 1) → s.reaches src rZeroise → ∃ t,
      exec c s = .next t ∧ t.scBit rSecurity 19 ∧ t = { s with out := [], regs := t.regs, sec := t.sec, pea := t.pea } ∧
      (w.getLsbD 0 → ∀ k ≤ 0x83, (t.key k).key = none) ∧
      (w.getLsbD 1 → ∀ k, 0xC0 ≤ k → k ≤ 0xC4 → (t.key k).key = none ∧ (t.key k).revoked) ∧
      (∀ k, (w.getLsbD 0 → 0x83 < k) → (w.getLsbD 1 → k < 0xC0 ∨ 0xC4 < k) → t.key k = s.key k)) ∧
    (s.reaches src (wCtl + 0x0610) →
      (s.sec.rbTo.getD s.sec.rb < wbits w 0 7 → s.sec.fw.src ≠ 3 → wbits w 0 7 ≤ s.sec.fw.rbidx → s.auditOk →
        exec (.antiRollbackAdvance src w) s = .next { s with out := [], sec := { s.sec with rbTo := some (wbits w 0 7), rbBy := originOf src } }) ∧
      ((wbits w 0 7 ≤ s.sec.rbTo.getD s.sec.rb ∨ s.sec.fw.src = 3 ∨ s.sec.fw.rbidx < wbits w 0 7) →
        exec (.antiRollbackAdvance src w) s = .next { s.scSet rSecurity 23 with out := [] })) ∧
    (∀ v, s.awake → s.sec.rbTo = some v → ∃ t, exec .antiRollbackProgrammed s = .next t ∧ t.sec.rb = v ∧ t.sec.rbTo = none ∧
      t = { s with out := [], sec := t.sec, pea := t.pea }) ∧
    (s.awake →
      (s.sec.rngOk → exec .rngRead s = .next { s with
        freeCtr := s.freeCtr + 1, sec := { s.sec with rngValid := true }, out := [.data .okay (wordBytes (Config.trng s.freeCtr))] }) ∧
      (s.sec.rngOk = false → exec .rngRead s = .next { s with
        sec := { s.sec with rngValid := false }, out := [.data .okay [0, 0, 0, 0]] }) ∧
      (w.getLsbD 0 → exec (.rngrst w) s = .next { s with out := [], sec := { s.sec with rngOk := true } }) ∧
      (∀ test, ∃ t, exec (.trngHealthFail test) s = .next t ∧ t.sec.rngOk = false ∧ t.scBit rSecurity 22 ∧
        t = { s with out := [], regs := t.regs, sec := t.sec, pea := t.pea }))

/-- The debug port. While DBGEN is 1, DBGPERM is not programmed, the TRNG is healthy and fewer than three attempts have failed, a
challenge is answered with a nonce of 32 bytes; otherwise it is refused. An answer within 60 s that verifies with the
firmware's key or that of slot 0xC0 unlocks the scope; any other counts as a failed attempt; either way the challenge is used
up. LOCK locks every scope. No step of the port touches a key slot. -/
def Obligations.DebugPortChallenges : Prop :=
  ∀ s : State, s.awake → s.auditOk →
    (∀ scope : BitVec 3, ∃ t, exec (.debugChallenge scope) s = .next t ∧ t.sec.scope = s.sec.scope ∧ t.sec.keys = s.sec.keys ∧
      (s.rwBit rSecCfg 30 → s.sec.perm = false → s.sec.rngOk → s.sec.fails < 3 →
        ∃ n, n.length = 32 ∧ t.sec.chal = some (scope.toNat, n) ∧ t.out = [.debug n]) ∧
      ((s.rwBit rSecCfg 30 = false ∨ s.sec.perm ∨ s.sec.rngOk = false ∨ 3 ≤ s.sec.fails) →
        t.sec.chal = none ∧ t.out = [] ∧ t.scBit rSecurity 20)) ∧
    (∀ sig secs scope n, s.sec.chal = some (scope, n) → ∃ t, exec (.debugResponse sig secs) s = .next t ∧
      t.sec.chal = none ∧ t.sec.keys = s.sec.keys ∧
      (let dg := Config.sha256 (n ++ fit 8 0 Config.deviceId ++ natLe 4 scope)
       (secs ≤ 60 → (s.debugKey dg sig).isSome → t.sec.scope = s.sec.scope ||| scope ∧ t.sec.fails = s.sec.fails) ∧
       ((60 < secs ∨ s.debugKey dg sig = none) → t.sec.scope = s.sec.scope ∧ t.sec.fails = s.sec.fails + 1))) ∧
    (∃ t, exec .debugLock s = .next t ∧ t.sec.scope = 0 ∧ t.sec.chal = none ∧ t.sec.keys = s.sec.keys ∧
      t = { s with out := [], sec := t.sec, pea := t.pea })

/-- The Peatstore through the PEA registers. A write of PEA_IXDATA to an open sector places its word in the sector buffer and
advances the offset; while BUSY, or at a sector that is not open, it is ignored with OVERRUN or WPERR and the offset still
advances. A read gives the word at the offset and advances it. COMMIT starts the write of the buffered sector, whose bytes
not written keep their old content; when it is done the logical sector reads the new content in whole, from the next free
physical sector of its region, and the former one returns to the pool; with more than 3 retries the new physical sector is
retired. A wear swap changes places and no content. -/
def Obligations.PeatstoreWritesWholeSectors : Prop :=
  ∀ (s : State) (src : WrSrc) (w : Word),
    let a := (s.rw aPea).toNat
    let adv := s.rwSet aPea (BitVec.ofNat 32 ((a + 4) % 2 ^ 25))
    (s.reaches src (aPea + 4) →
      (∀ ws, s.pea.busy = none → s.peaOpen (a / 4096) → a % 4096 ≠ 0xFFC →
        ((s.pea.buf = none ∨ ∃ j l, s.pea.buf = some (j, l) ∧ j ≠ a / 4096) ∧ ws = [] ∨ s.pea.buf = some (a / 4096, ws)) →
        exec (.peaIxdataWrite src w) s = .next { adv with
          out := [], pea := { s.pea with buf := some (a / 4096, put (a % 4096) w ws) } }) ∧
      (s.pea.busy.isSome → ∃ t, exec (.peaIxdataWrite src w) s = .next t ∧ t.pea = s.pea ∧ t.scBit rPeaStat 22 ∧
        t.rw aPea = adv.rw aPea) ∧
      (s.pea.busy = none → s.peaOpen (a / 4096) = false → ∃ t, exec (.peaIxdataWrite src w) s = .next t ∧ t.pea = s.pea ∧
        t.scBit rPeaStat 23 ∧ t.rw aPea = adv.rw aPea)) ∧
    (s.awake → exec .peaIxdataRead s = .next { adv with out := [.data .okay (s.peaRead a 4)] }) ∧
    (∀ k ws, s.reaches src (wCtl + 0x0708) → w.getLsbD 0 → s.pea.busy = none → s.pea.buf = some (k, ws) →
      (s.hasFree (regionOf k) → ∃ t bs, exec (.peaCommit src w) s = .next t ∧ bs.length = 4096 ∧
        t = { s with out := [], pea := { s.pea with buf := none, busy := some (k, bs) } } ∧
        ∀ o < 4096, (∀ q ∈ ws, o < q.1 ∨ q.1 + 4 ≤ o) → bs.getD o 0 = s.pea.mem.get (4096 * k + o)) ∧
      (s.hasFree (regionOf k) = false → exec (.peaCommit src w) s = .next { s.scSet rPeaStat 21 with
        out := [], pea := { s.pea with buf := none } })) ∧
    (∀ k bs p rest retries, s.awake → s.pea.busy = some (k, bs) → bs.length = 4096 → k < 8192 → regionOf k ≠ 2 →
      s.pea.retired.length = 6 → s.poolOf (regionOf k) = p :: rest → ∃ t, exec (.peaSectorWriteDone retries) s = .next t ∧
      t.pea.busy = none ∧ t.pea.mem.getN (4096 * k) 4096 = bs ∧ t = { s with out := [], regs := t.regs, pea := t.pea, sec := t.sec } ∧
      (retries ≤ 3 → t.physOf k = p ∧ t.poolOf (regionOf k) = rest ++ [s.physOf k] ∧ t.pea.retired = s.pea.retired) ∧
      (3 < retries → p ∈ t.pea.retired.getD (regionOf k) [] ∧ p ∉ t.poolOf (regionOf k))) ∧
    (∀ (k : Fin 8192) (q : Fin 8704), s.awake → s.wearOf (s.physOf k) + 1000000 < s.wearOf q → q.val ∈ s.poolOf (regionOf k) →
      ∃ t, exec (.wearLevelSwap k q) s = .next t ∧ t.physOf k = q ∧ t.pea.mem = s.pea.mem ∧
        t = { s with out := [], pea := t.pea } ∧ ∀ j, j ≠ k.val → t.physOf j = s.physOf j)

/-- IXDATA accesses. A read of a pair's IXDATA gives the word at its address and advances the address by the pair's step,
wrapping at the field's width. A write advances it too, and a listed word of the Smoulder data, of a secure-channel table or
of the DAC calibration then reads what was written; a channel in direct mode follows its new calibration at once. -/
def Obligations.IndirectPairsStepAndReadBack : Prop :=
  ∀ (s : State) (src : WrSrc) (w : Word),
    (∀ p, s.reaches src (ixData p) → exec (.ixdataAccess src p none) s =
      .next { s.ixStep p with out := [.data .okay (wordBytes (s.ixWord p))] }) ∧
    (s.reaches src (ixData .tim) → ∃ t, exec (.ixdataAccess src .tim (some w)) s = .next t ∧
      t.rw aTim = BitVec.ofNat 32 (((s.rw aTim).toNat + 1) % 2 ^ 16) ∧ ((s.rw aTim).toNat ≤ 0xA5 → t.timIx (s.rw aTim).toNat = w)) ∧
    (s.reaches src (ixData .str) → ∃ t, exec (.ixdataAccess src .str (some w)) s = .next t ∧
      t.rw aStr = BitVec.ofNat 32 (((s.rw aStr).toNat + 4) % 2 ^ 18) ∧
      (let a := (s.rw aStr).toNat
       s.net.ports.length = 4 → 0x10000 ≤ a → a < 0x12000 → a % 4 = 0 → (a - 0x10000) % 0x800 < 1536 → t.strIx a = w)) ∧
    (s.reaches src (ixData .dac) → ∃ t, exec (.ixdataAccess src .dac (some w)) s = .next t ∧
      t.rw aDac = (s.ixStep .dac).rw aDac ∧ t.dac.cal = s.dac.cal.set (s.rw aDac).toNat w ∧ t = { s with
        out := t.out, regs := t.regs, dac := { s.dac with cal := t.dac.cal, held := t.dac.held }, freeCtr := t.freeCtr, sub := t.sub } ∧
      ∀ n : Fin 8, (s.rw aDac).toNat / 2 = n.val → s.rwBit (rDacCfg n) 31 → s.rwBit (rDacCfg n) 30 → s.muzzled (16 + n) = false →
        (s.acDrives = false ∨ s.acDac n = false) → t.out = [.dac n [t.dacOut n (t.dacCode n)]])

/-- Voted registers. With the three copies of every voted field equal, a scrub without upsets changes nothing, and one after an
upset of one copy of one register leaves every register reading as before and counts the corrected fields in CTL_VOTEERR with
the register's address. Where upsets leave three different copies of a reference's PRIO, the field takes its reset value and
CTL_VOTEUNC counts. -/
def Obligations.VotedFieldsSurviveAnUpset : Prop :=
  ∀ s : State,
    (∀ o ∈ votedOffs, copyAt s.regs.voteB o &&& votedMask o = copyAt s.regs.rw o &&& votedMask o ∧
      copyAt s.regs.voteC o &&& votedMask o = copyAt s.regs.rw o &&& votedMask o) →
    exec (.voteScrub []) s = .next { s with out := [] } ∧
    (∀ u : VoteUpset, u.off ∈ votedOffs → s.windowUp u.off → u.flip &&& votedMask u.off ≠ 0 → ∃ t, exec (.voteScrub [u]) s = .next t ∧
      (∀ o, t.rw o = s.rw o) ∧ t = { s with out := [], regs := t.regs } ∧ t.cap (wCtl + 0x0068) = fld 0 20 u.off ∧
      1 ≤ since (t.ctr (wCtl + 0x0060)).seq (s.ctr (wCtl + 0x0060)).seq) ∧
    (∀ (r : Fin 9) (x y : Nat), x % 16 ≠ 0 → y % 16 ≠ 0 → x % 16 ≠ y % 16 → s.windowUp (rRefCfg r) → ∃ t,
      exec (.voteScrub [⟨rRefCfg r, 0, fld 24 4 x⟩, ⟨rRefCfg r, 1, fld 24 4 y⟩]) s = .next t ∧
      t.rwBits (rRefCfg r) 24 4 = wbits (resetWord (rRefCfg r)) 24 4 ∧
      t.ctr (wCtl + 0x0064) = (s.ctr (wCtl + 0x0064)).inc)

/-- How a target becomes an effective target. A target of w bits is extended to the one index congruent to it within half the
range of the NSC at acceptance; v1 hosts give 32 bits, v2 and v3 hosts 48. The table of R67 then applies: a lead of 36
A-samples is met as given, a shorter one is LATE, an index before x + 24 becomes x + 24, and one more than 2^31 - 1 ahead is
BADARG; NEXTPOSSIBLE targets x + 24. A v1 target reaches at most 2^31 - 1 A-samples ahead. -/
def Obligations.TargetsExtendToTheIndexNearTheNsc : Prop :=
  (∀ w x v : Nat, 0 < w → extend w x v % ((2 ^ w : Nat) : Int) = ((v % 2 ^ w : Nat) : Int) ∧
    (x : Int) - ((2 ^ (w - 1) : Nat) : Int) ≤ extend w x v ∧ extend w x v < (x : Int) + ((2 ^ (w - 1) : Nat) : Int)) ∧
  (∀ x v : Nat, extend 32 x v ≤ (x : Int) + 2147483647) ∧
  (∀ (o : Op) (d : Desc), (o.timed d 1).width = 32 ∧ (o.timed d 2).width = 48 ∧ (o.timed d 3).width = 48) ∧
  (∀ (s : State) (h : Nat) (p : Bool) (x : Nat) (o : Op), (o.writes ∨ o.kind = .clipPlay ∨ o.kind = .clipStop) →
    let r := s.acceptStatus h p x o
    let g := extend o.width x o.t
    (o.next → r.2.t = x + 24 ∧ r.2.late = false) ∧
    (o.next = false →
      ((x : Int) + 2147483647 < g → r.1 = stBadArg) ∧
      ((x : Int) + 36 ≤ g → g ≤ (x : Int) + 2147483647 → (r.2.t : Int) = g ∧ r.2.late = false) ∧
      ((x : Int) + 24 ≤ g → g < (x : Int) + 36 → (r.2.t : Int) = g ∧ r.2.late) ∧
      (g < (x : Int) + 24 → r.2.t = x + 24 ∧ r.2.late)))

/-- Acceptance of a sequenced operation. With no request waiting on the ring nothing happens. An own host's request outside a
staged batch that passes the checks of its kind, in an active Mix section of a unit that does not forward, receives the next
CSN, modulo 2^48; a claim or release completes with it, any other operation is then pending with it. A request that fails a
check, and any request while ACT is 0, is not accepted: no CSN is used, nothing becomes pending, and its descriptor
completes. A part of a staged batch that fits joins the batch of its ring without a CSN, and completes. Among those that
pass, whatever else the state holds while fewer than 256 operations are pending: a COMMIT for the next possible index whose
records change templates only, where no other host holds a claim, waits with the index 24 A-samples after its acceptance, and
a RELEASE of all claims ends the host's claims. -/
def Obligations.AcceptanceAssignsTheNextCsn : Prop :=
  ∀ (s : State) (h : Fin 4) (q : Fin 8) (pos : Fin 12) (m : MemHits), s.up secHost →
    ((s.hst h).firstReq q = none → exec (.sequencedAcceptance h q pos m) s = .next { s with out := [] }) ∧
    (∀ d o, (s.hst h).firstReq q = some (d, o) →
      (o.stage → s.mix.act → s.batch o.host o.ring = none → 1 ≤ o.recs.length → o.recs.length ≤ 4096 → o.recs.all CRec.formOk →
        s.staged + o.recs.length ≤ 16384 → (∀ e ∈ (s.hst h).descs, e.ring = q.val → e = d) → ∃ t,
        exec (.sequencedAcceptance h q pos m) s = .next t ∧ t.batch o.host o.ring = some ⟨o.host, o.ring, o.recs, false⟩ ∧
        t.mix.csn = s.mix.csn ∧ t.mix.ops.map Op.csn = s.mix.ops.map Op.csn ∧ ∀ e ∈ (t.hst h).descs, e.ring ≠ q.val) ∧
      (o.stage = false → (o.kind = .commit → s.batch o.host o.ring = none) →
        (s.mix.act = false → ∃ t, exec (.sequencedAcceptance h q pos m) s = .next t ∧
          t.mix.csn = s.mix.csn ∧ t.mix.ops.map Op.csn = s.mix.ops.map Op.csn ∧
          ∀ e ∈ (t.hst h).descs, e.is (d.ticket h) = false) ∧
        (s.mix.act → (s.twin.st ≠ 4 ∨ s.twin.paired = false) → ((m.bad = [] ∧ m.adr = false) ∨ o.kind ≠ .clipPlay) →
          let c := (s.mix.csn + 1) % 2 ^ 48
          let r := s.acceptStatus h false (s.tim.nsc + pos) o
          (s.mix.ops.length < 256 → o.kind = .commit → o.next → 1 ≤ o.recs.length → o.recs.length ≤ 4096 →
            (∀ x ∈ o.recs, x.op = 0 ∧ 3072 ≤ x.idx ∧ x.idx ≤ 4095 ∧ x.off % 4 = 0 ∧ x.off ≤ 0x1BC) →
            (∀ k ∈ s.mix.claims, k.host = h.val ∧ k.partner = false) → ∃ t p, exec (.sequencedAcceptance h q pos m) s = .next t ∧
              t.mix.csn = c ∧ t.mix.ops = s.mix.ops ++ [p] ∧ p.csn = c ∧ p.t = s.tim.nsc + pos + 24 ∧ p.late = false ∧
              p.host = h.val ∧ p.recs = o.recs ∧ p.kind = .commit ∧ (s.journals = false → t.mem = s.mem)) ∧
          (s.mix.ops.length < 256 → o.kind = .release → o.args.headD 0 = 0 → ∃ t, exec (.sequencedAcceptance h q pos m) s = .next t ∧
            t.mix.csn = c ∧ t.mix.claims = s.mix.claims.filter (fun k => !(k.host = h.val && !k.partner)) ∧
            t.mix.ops.map Op.csn = s.mix.ops.map Op.csn ∧ ∀ e ∈ (t.hst h).descs, e.is (d.ticket h) = false) ∧
          (r.1 = stOk → r.2.csn = c ∧ ∃ t, exec (.sequencedAcceptance h q pos m) s = .next t ∧ t.mix.csn = c ∧
            (o.kind ≠ .claim → o.kind ≠ .release → t.mix.ops = s.mix.ops ++ [r.2]) ∧
            (o.kind = .claim → t.mix.ops.map Op.csn = s.mix.ops.map Op.csn ∧ ∃ k ∈ t.mix.claims, k.csn = c ∧ k.host = h.val ∧
              k.partner = false ∧ k.ranges = o.recs.map (fun x => (x.idx, x.off)))) ∧
          (r.1 ≠ stOk → ∃ t, exec (.sequencedAcceptance h q pos m) s = .next t ∧
            t.mix.csn = s.mix.csn ∧ t.mix.ops.map Op.csn = s.mix.ops.map Op.csn ∧
            (∀ e ∈ (t.hst h).descs, e.is (d.ticket h) = false) ∧
            t.ctr cClaimRej = if r.1 = stClaimed then (s.ctr cClaimRej).inc else s.ctr cClaimRej))))

/-- Completions, dual-path slots and second terms. COMMIT_COMPLETION_POST of a commit whose write-backs and ramps are done takes
it out of the pending ones, completes its descriptor, counts LATE, and with an uncorrectable error counts it and sets the
health bit; an operation that is not ready stays. DUAL_PATH_SLOT_GRANT starts the crossfade of the one waiting entry when a
slot is free, SECOND_TERM_GRANT the move of the one waiting record when a second term is free, each at the first sample of
the block its stage begins, with its full length, and counts it; where none is free nothing happens. -/
def Obligations.CompletionAndWaitingChanges : Prop :=
  ∀ s : State,
    (∀ (csn : BitVec 48) (m : MemHits) o, s.opOf csn.toNat = some o → o.writes → o.fwd = none →
      (s.opReady o = false → exec (.commitCompletionPost csn m) s = .next { s with out := [] }) ∧
      (s.opReady o → ∃ t, exec (.commitCompletionPost csn m) s = .next t ∧
        t.mix.ops.map Op.csn = (s.mix.ops.map Op.csn).filter (fun a => a ≠ csn.toNat) ∧
        (∀ e ∈ (t.hst o.host).descs, e.is ⟨o.host, o.ring, o.cookie⟩ = false) ∧
        (hitsFail m → o.failed = false → t.scBit rHealth 22 ∧ t.ctr (wMem + 0x0810) = (s.ctr (wMem + 0x0810)).inc) ∧
        (o.ring ≠ 8 → hitsFail m = false → o.failed = false → o.lost = false → o.late → t.ctr cLate = (s.ctr cLate).inc))) ∧
    (∀ n w, s.mix.ents.filter (fun e => (e.waitAt (stageIndex s.tim.nsc e.idx)).isSome) = [s.ent n] → (s.ent n).wait = some w → 0 < w.n →
      let t0 := stageIndex s.tim.nsc n
      (s.holders n t0 < slotsOf n → (s.ent n).dualAt (domCeil (s.ent n).dom t0) = false → ∃ t, exec .dualPathSlotGrant s = .next t ∧
        (t.ent n).wait = none ∧ (t.ent n).run.filt.act = (s.ent n).act ∧
        (∃ r ∈ (t.ent n).ramps, r.t = t0 ∧ r.n = w.n ∧ r.csn = w.csn) ∧ t.ctr cDpDelay = (s.ctr cDpDelay).inc ∧
        (∀ k, k ≠ n → t.ent k = s.ent k) ∧ t = { s with
          out := [], regs := t.regs, mem := { s.mem with bulk := t.mem.bulk }, mix := { s.mix with ents := t.mix.ents, ops := t.mix.ops } } ∧
        (∀ a, (a < s.entAddr n + 0x1C0 ∨ s.entAddr n + 0x1D0 ≤ a) → t.mem.bulk.get a = s.mem.bulk.get a)) ∧
      ((slotsOf n ≤ s.holders n t0 ∨ (s.ent n).dualAt (domCeil (s.ent n).dom t0)) →
        exec .dualPathSlotGrant s = .next { s with out := [] })) ∧
    (∀ n w, s.mix.xps.filter (fun x => (x.waitAt (s.busDom (XpR.dst x.img)) (s.tim.nsc - 24)).isSome) = [s.xp n] → (s.xp n).wait = some w → 0 < w.n →
      let t0 := s.tim.nsc - 24
      (s.secondTerms t0 < 16384 → ∃ t, exec .secondTermGrant s = .next t ∧
        (t.xp n).wait = none ∧ XpR.src (t.xp n).img = XpR.src (s.xp n).target ∧ XpR.dst (t.xp n).img = XpR.dst (s.xp n).target ∧
        (∃ r ∈ (t.xp n).ramps, r.t = t0 ∧ r.n = w.n ∧ r.csn = w.csn) ∧ t.ctr cXtDelay = (s.ctr cXtDelay).inc ∧
        (∀ k, k ≠ n → t.xp k = s.xp k) ∧ t = { s with out := [], regs := t.regs, mix := { s.mix with xps := t.mix.xps, ops := t.mix.ops } }) ∧
      (16384 ≤ s.secondTerms t0 → exec .secondTermGrant s = .next { s with out := [] }))

/-- Doorbells, descriptor fetch and the index page. A doorbell read, on a hit in pool SRAM or at a sweep elsewhere, takes over
each enabled ring's index that lies within the ring and refuses another with RINGERR, but for the value refused last, which
changes nothing; where the page cannot be read no index changes. A fetch turn copies the descriptor at SQCI of the ring whose
turn it is, where that may fetch, and moves SQCI, or halts the ring with FETCHERR where the read fails. A changed index page
is written whole with UPDSEQ one higher. MODTIME signals records that wait. -/
def Obligations.DoorbellAndIndexPages : Prop :=
  ∀ (s : State) (h : Fin 4) (hm : HostMem), s.up secHost → s.hstEn h →
    let read (a n : Nat) (bs : List Byte) : Prop :=
      (s.targetRange a n = .bulk ∧ hm.hits.adr = false ∧ badIn hm.hits.bad a n = false ∧ s.mem.bulk.getN a n = bs) ∨
      (s.targetRange a n = .pool ∧ badIn hm.hits.bad a n = false ∧ s.poolRead a n = bs) ∨
      (∃ g, s.targetRange a n = .host g ∧ s.linkOf g ∧ hostRead hm a n = some bs)
    let lost (a n : Nat) : Prop := s.targetRange a n = .none ∨
      ((s.targetRange a n = .bulk ∨ s.targetRange a n = .pool) ∧ badIn hm.hits.bad a n) ∨
      (∃ g, s.targetRange a n = .host g ∧ (s.linkOf g = false ∨ hostRead hm a n = none))
    (∀ c bs, ((c = .doorbellHit h hm.hits ∧ s.targetRange (s.dbBase h) 64 = .pool ∧ badIn hm.hits.bad (s.dbBase h) 64 = false ∧
          s.poolRead (s.dbBase h) 64 = bs) ∨
        (c = .doorbellSweep h hm ∧ s.targetRange (s.dbBase h) 64 ≠ .pool ∧ read (s.dbBase h) 64 bs)) →
      ∃ t, exec c s = .next t ∧ (∀ o, t.rw o = s.rw o) ∧ ∀ k : Fin 8,
        (let v := leNat ((bs.drop (2 * k)).take 2)
         let q := (s.hst h).sqAt k
         (s.sqEn h k = false ∨ q.bad = some v → (t.hst h).sqAt k = q) ∧
         (s.sqEn h k → q.bad ≠ some v → (v + 65536 - q.ci) % 65536 ≤ s.sqSize h k → (t.hst h).sqAt k = { q with pi := v, bad := none }) ∧
         (s.sqEn h k → q.bad ≠ some v → s.sqSize h k < (v + 65536 - q.ci) % 65536 →
           (t.hst h).sqAt k = { q with bad := some v } ∧ t.scBit (rHstStat h) 19)) ∧
        (let v := leNat ((bs.drop (16 + 2 * k)).take 2)
         let q := (s.hst h).cqAt k
         (s.cqEn h k = false ∨ q.bad = some v → (t.hst h).cqAt k = q) ∧
         (s.cqEn h k → q.bad ≠ some v → (q.pi + 65536 - v) % 65536 ≤ s.cqSize h k → ((t.hst h).cqAt k).ci = v ∧
           ((t.hst h).cqAt k).bad = none ∧ ((s.hst h).held.all (fun r => r.ring ≠ k.val) → ((t.hst h).cqAt k).pi = q.pi)) ∧
         (s.cqEn h k → q.bad ≠ some v → s.cqSize h k < (q.pi + 65536 - v) % 65536 →
           (t.hst h).cqAt k = { q with bad := some v } ∧ t.scBit (rHstStat h) 19))) ∧
    (∀ c, ((c = .doorbellHit h hm.hits ∧ s.targetRange (s.dbBase h) 64 = .pool ∧ badIn hm.hits.bad (s.dbBase h) 64) ∨ (c = .doorbellSweep h hm ∧
        s.targetRange (s.dbBase h) 64 ≠ .pool ∧ lost (s.dbBase h) 64)) → s.dbBase h % 64 = 0 → ∃ t, exec c s = .next t ∧ t.hosts = s.hosts ∧ t.mem = s.mem ∧
        (t.ctr (wMem + 0x014C) = (s.ctr (wMem + 0x014C)).inc ∨ t.ctr (wMem + 0x0810) = (s.ctr (wMem + 0x0810)).inc)) ∧
    (∀ r : Fin 8, (s.hst h).next = r.val → (s.hst h).inflight < 64 → s.sqEn h r →
      let x := s.hst h
      let q := x.sqAt r
      let c := s.cqOf h r
      let a := s.sqBase h r + 64 * (q.ci % s.sqSize h r)
      q.pi ≠ q.ci → q.halted = false → q.bad = none → x.fenced r = false → s.cqEn h c → (x.cqAt c).bad = none →
      s.cqUsed h c < s.cqSize h c →
      (∀ bs, read a 64 bs → ∃ u, u = { s with out := [], hosts := u.hosts, regs := u.regs } ∧ (∀ o, u.rw o = s.rw o) ∧
        u.hst h = { x.sqPut r { q with ci := (q.ci + 1) % 65536 } with
          descs := x.descs ++ [⟨r, q.ci % 65536 + 65536 * x.fetchNo, bs, false, false, none⟩]
          next := (r.val + 1) % 8, dirty := true, fetchNo := x.fetchNo + 1 } ∧
        exec (.descriptorFetch h hm) s = .next (u.settle h r) ∧
        ((∀ e ∈ x.descs, e.ring ≠ r.val) → (∀ e ∈ (u.hst h).descs, e.ring = r.val → s.descStatus h e = 0) →
          exec (.descriptorFetch h hm) s = .next u)) ∧
      (lost a 64 → ∃ t, exec (.descriptorFetch h hm) s = .next t ∧ (t.hst h).sqAt r = { q with halted := true } ∧
        (t.hst h).descs = x.descs ∧ t.scBit (rHstStat h) 23)) ∧
    ((64 ≤ (s.hst h).inflight ∨ ∀ r < 8, s.mayFetch h r = false) → exec (.descriptorFetch h hm) s = .next { s with out := [] }) ∧
    ((s.hst h).dirty →
      let page := ((upTo 8).flatMap fun k => natLe 2 ((s.hst h).sqAt k).ci) ++
        ((upTo 8).flatMap fun k => natLe 2 ((s.hst h).cqAt k).pi) ++ natLe 4 (((s.hst h).updseq + 1) % 2 ^ 32) ++ List.replicate 28 0
      let done (t : State) : Prop := (t.hst h).dirty = false ∧ (t.hst h).updseq = ((s.hst h).updseq + 1) % 2 ^ 32 ∧
        (∀ k : Fin 8, (t.hst h).sqAt k = (s.hst h).sqAt k ∧ ((t.hst h).cqAt k).pi = ((s.hst h).cqAt k).pi)
      (s.targetRange (s.ixBase h) 64 = .pool → ∃ t, exec (.indexPageWrite h) s = .next t ∧ done t ∧
        t.poolRead (s.ixBase h) 64 = page) ∧
      (s.targetRange (s.ixBase h) 64 = .bulk → (s.journals = false ∨ s.ckErr) → ∃ t, exec (.indexPageWrite h) s = .next t ∧ done t ∧
        t.mem.bulk.getN (s.ixBase h) 64 = page) ∧
      (∀ g, s.targetRange (s.ixBase h) 64 = .host g → s.linkOf g → s.ixBase h % 64 = 0 → ∃ t l,
        exec (.indexPageWrite h) s = .next t ∧ done t ∧ t.out = .hostWrite g (s.hostAddr g (s.ixBase h)) page :: l)) ∧
    ((s.hst h).dirty = false → exec (.indexPageWrite h) s = .next { s with out := [] }) ∧
    (∀ k : Fin 8, s.cqEn h k → s.rwBit (rCqCfg h k) 30 → s.rwBits (rCqCfg h k) 0 10 ≠ 0 → ((s.hst h).cqAt k).unsig ≠ 0 →
      ((s.hst h).dirty → exec (.completionIrqTimeout h k) s = .next { s.hstPut h ((s.hst h).cqPut k
        { (s.hst h).cqAt k with sig := true }) with out := [] }) ∧
      ((s.hst h).dirty = false → ∃ t, exec (.completionIrqTimeout h k) s = .next t ∧ ((t.hst h).cqAt k).unsig = 0 ∧
        ((t.hst h).cqAt k).sig = false ∧ (h.val < 2 → (s.hst h).link → ((s.hst h).msix.get (16 * s.rwBits (rCqCfg h k) 24 4 + 12)).getLsbD 0 = false →
          t.out = [.msix h (s.rwBits (rCqCfg h k) 24 4)]) ∧ (2 ≤ h.val → t.out = [.irqPin h true])))

/-- What completing a descriptor does. A completion takes its descriptor out of the port; that of a staging COMMIT with another
status than OK fails its batch. With the ring's completion ring enabled in pool SRAM, the 16-byte record with the cookie, the
status and the CSN stands in the slot that CQPI named, CQPI is one higher and the index page is due; with it disabled nothing
is written, and while the doorbell value of the ring is invalid the record is held back. No other byte of pool SRAM and
nothing in bulk memory changes. A command that leaves its descriptor begun changes that descriptor and nothing else. -/
def Obligations.CompletionRecordsArePosted : Prop :=
  ∀ (s : State) (h : Fin 4) (d : Desc), (s.hst h).descs = [d] →
    (∀ f : Desc → Desc, s.beganDesc h d f = s.hstPut h { s.hst h with descs := [{ f d with begun := true }] }) ∧
    (∀ st csn,
      let t := s.finish h d st csn
      let c := s.cqOf h d.ring
      let q := (s.hst h).cqAt c
      let a := s.cqBase h c + 16 * (q.pi % s.cqSize h c)
      (t.hst h).descs = [] ∧
      (s.cqEn h c = false → t = (s.stageFailed h d st).hstPut h { s.hst h with descs := [] }) ∧
      (s.cqEn h c → q.bad.isSome → t = (s.stageFailed h d st).hstPut h { s.hst h with
        descs := [], held := (s.hst h).held ++ [⟨c, natLe 8 (d.f 8 8) ++ natLe 1 st ++ natLe 1 0 ++ natLe 6 csn, bit (d.f 1 1) 0, !d.accepted⟩] }) ∧
      (s.cqEn h c → q.bad = none → s.targetRange a 16 = .pool →
        t.poolRead a 16 = natLe 8 (d.f 8 8) ++ natLe 1 st ++ natLe 1 0 ++ natLe 6 csn ∧ ((t.hst h).cqAt c).pi = (q.pi + 1) % 65536 ∧
        (t.hst h).dirty ∧ t.mem.bulk = s.mem.bulk ∧
        ∀ b, (b < a - poolBase ∨ a - poolBase + 16 ≤ b) → t.mem.pool.get b = s.mem.pool.get b))

/-- NOP, HELLO, FENCE and RENEW. As the next descriptor to begin of their ring: NOP completes OK. The first HELLO agrees the
highest version in VMASK, or BADVER without one; a later HELLO is OK with the agreed version where VMASK includes it and
BADVER otherwise, and the version stays. FENCE completes OK once every descriptor it names is done, BADARG for an INDEX
beyond a ring, and waits otherwise. RENEW restarts the lease of the claim it names, or of all the host's claims, and is
BADARG for a claim the host does not hold. -/
def Obligations.SessionDescriptors : Prop :=
  ∀ (s : State) (h : Fin 4) (q : Fin 8) (d : Desc),
    (s.next h q 0x01 = some d → exec (.nop h q) s = .next (s.begin.finish h d stOk 0)) ∧
    (s.next h q 0x02 = some d →
      ((s.hst h).ver = 0 → d.f 0x10 1 = 0 → exec (.hello h q) s = .next (s.begin.finish h d stBadVer 0)) ∧
      (∀ v, (s.hst h).ver = 0 → d.f 0x10 1 < 8 → 2 ^ v ≤ d.f 0x10 1 → d.f 0x10 1 < 2 ^ (v + 1) →
        exec (.hello h q) s = .next ((s.begin.hstPut h { s.hst h with ver := v + 1 }).finish h d stOk (v + 1))) ∧
      ((s.hst h).ver ≠ 0 → exec (.hello h q) s =
        .next (s.begin.finish h d (if bit (d.f 0x10 1) ((s.hst h).ver - 1) then stOk else stBadVer) (s.hst h).ver))) ∧
    (s.next h q 0x03 = some d →
      (s.fenceBad h d → exec (.fence h q) s = .next (s.begin.finish h d stBadArg 0)) ∧
      (s.fenceBad h d = false → s.fenceDone h d → exec (.fence h q) s = .next (s.begin.finish h d stOk 0)) ∧
      (s.fenceBad h d = false → s.fenceDone h d = false → exec (.fence h q) s = .next (s.begin.beganDesc h d id))) ∧
    ((s.hst h).descs.find? (fun e => e.ring = q.val && e.opc = 3 && e.begun) = some d → s.up secHost →
      (s.fenceDone h d → exec (.fenceSatisfied h q) s = .next (s.begin.finish h d stOk 0)) ∧
      (s.fenceDone h d = false → exec (.fenceSatisfied h q) s = .next { s with out := [] })) ∧
    (s.next h q 0x13 = some d →
      ((d.f 0x10 6 = 0 ∨ ∃ c ∈ s.mix.claims, c.host = h.val ∧ c.partner = false ∧ c.csn = d.f 0x10 6) → ∃ u : State,
        exec (.renew h q) s = .next (u.finish h d stOk 0) ∧ u = { s with out := [], mix := { s.mix with claims := u.mix.claims } } ∧
        (∀ e ∈ u.mix.claims, e.host = h.val → e.partner = false → (d.f 0x10 6 = 0 ∨ e.csn = d.f 0x10 6) → e.expired = false) ∧
        u.mix.claims.map Claim.csn = s.mix.claims.map Claim.csn) ∧
      (d.f 0x10 6 ≠ 0 → (∀ c ∈ s.mix.claims, c.host = h.val → c.partner = false → c.csn ≠ d.f 0x10 6) →
        exec (.renew h q) s = .next (s.begin.finish h d stBadArg 0)))

/-- Descriptors of sequenced operations. COMMIT, CLAIM and READ_STATE read the list they point to, SCENE_RECALL the image of a
slot, RELEASE, CLIP_PLAY and CLIP_STOP only their bodies; the descriptor is then begun and its operation waits for
acceptance. A list that cannot be read, a slot without an image and an image that fails its check complete FAULT, or ABORTED
while ACT is 0. A COMMIT of a v2 or v3 host takes its records, flags, target and ramp from the list and the body. -/
def Obligations.SequencedDescriptorsWait : Prop :=
  ∀ (s : State) (h : Fin 4) (q : Fin 8) (hm : HostMem) (d : Desc),
    (∀ c o a n, ((c = .commit h q hm ∧ o = 0x10 ∧ a = d.f 0x10 8 ∧ n = 16 * d.f 0x18 2) ∨
        (c = .claim h q hm ∧ o = 0x11 ∧ a = d.f 0x10 8 ∧ n = 8 * d.f 0x18 1) ∨
        (c = .readState h q hm ∧ o = 0x14 ∧ a = d.f 0x10 8 ∧ n = 8 * d.f 0x18 1)) → s.next h q o = some d →
      let r := s.begin.devRead h hm a n
      r.2 = { s with out := [], regs := r.2.regs, pea := r.2.pea, sec := r.2.sec, twin := r.2.twin } ∧
      (s.targetRange a n = .pool → badIn hm.hits.bad a n = false → r.1 = some (s.poolRead a n)) ∧
      (s.targetRange a n = .bulk → hm.hits.adr = false → badIn hm.hits.bad a n = false → r.1 = some (s.mem.bulk.getN a n)) ∧
      (∀ bs x, r.1 = some bs → mkOp (s.hst h).ver h d bs = .ok x →
        exec c s = .next (r.2.beganDesc h d fun e => { e with req := some x })) ∧
      (∀ bs st, r.1 = some bs → mkOp (s.hst h).ver h d bs = .error st → exec c s = .next (r.2.finish h d st 0)) ∧
      (r.1 = none → exec c s = .next (r.2.finish h d (if s.mix.act then stFault else stAborted) 0))) ∧
    (∀ c o, ((c = .release h q ∧ o = 0x12) ∨ (c = .clipPlay h q ∧ o = 0x31) ∨ (c = .clipStop h q ∧ o = 0x32)) →
      s.next h q o = some d → ∃ x, mkOp (s.hst h).ver h d [] = .ok x ∧
        exec c s = .next (s.begin.beganDesc h d fun e => { e with req := some x })) ∧
    (s.next h q 0x29 = some d → d.f 0x18 2 ≠ 0xFFFF → s.sceneLost (d.f 0x18 2) hm.hits.bad = false →
      (∀ img x, s.sceneImg (d.f 0x18 2) = some img → mkOp (s.hst h).ver h d img = .ok x →
        exec (.sceneRecall h q hm) s = .next (s.begin.beganDesc h d fun e => { e with req := some x })) ∧
      ((s.sceneImg (d.f 0x18 2) = none ∨ ∃ img, s.sceneImg (d.f 0x18 2) = some img ∧ sceneOk img = false) →
        exec (.sceneRecall h q hm) s = .next (s.begin.finish h d (if s.mix.act then stFault else stAborted) 0))) ∧
    (∀ bs ver, d.opc = 0x10 → 2 ≤ ver → ∃ x, mkOp ver h d bs = .ok x ∧ x.kind = .commit ∧ x.recs.length = d.f 0x18 2 ∧
      (x.next ↔ bit (d.f 0x1A 1) 0) ∧ (x.stage ↔ bit (d.f 0x1A 1) 2) ∧ x.n = d.f 0x1C 2 ∧ x.t = d.f 0x20 8)

/-- WRITE_BULK and READ_BULK. From pool SRAM to pool SRAM, the ranges not meeting and no word of them lost, either copy leaves
the destination with the source's bytes, every other byte of pool SRAM and everything outside it as it was, and completes OK.
A destination of WRITE_BULK, or a source of READ_BULK, that does not lie in one memory it may name is BADARG, and nothing
moves. -/
def Obligations.BulkCopiesMoveTheirBytes : Prop :=
  ∀ (s : State) (h : Fin 4) (q : Fin 8) (hm : HostMem) (d : Desc) (c : Instr) (o : Nat),
    ((c = .writeBulk h q hm ∧ o = 0x20) ∨ (c = .readBulk h q hm ∧ o = 0x21)) → s.next h q o = some d →
    let a := d.f 0x10 8
    let b := d.f 0x18 8
    let n := d.f 0x20 4
    (hm.hits.bad = [] → hm.hits.adr = false → s.targetRange a n = .pool → s.targetRange b n = .pool → (a + n ≤ b ∨ b + n ≤ a) → ∃ u : State,
      exec c s = .next (u.finish h d stOk 0) ∧ u = { s with out := [], regs := u.regs, mem := { s.mem with pool := u.mem.pool } } ∧
      (∀ o, u.rw o = s.rw o) ∧ u.poolRead b n = s.poolRead a n ∧
      ∀ x, (x < b - poolBase ∨ b - poolBase + n ≤ x) → u.mem.pool.get x = s.mem.pool.get x) ∧
    (s.targetRange (if o = 0x20 then b else a) n = .none → exec c s = .next (s.begin.finish h d stBadArg 0))

/-- SCENE_STORE and meter subscriptions. SCENE_STORE of entries to a slot, with room in the scene region, leaves the captured
image in the slot and completes OK with the last CSN; without room it is NOSPACE and the Peatstore stays. METER_SUBSCRIBE
closes with NRANGE 0, is BADARG for a ring without METER, NOSPACE above the device's rate, and otherwise holds the entries,
period and ring named. At the end of a period its records go to the ring whole, or, where they do not fit, none goes and the
drop is counted; the period starts anew. -/
def Obligations.ScenesAndMeters : Prop :=
  ∀ (s : State) (h : Fin 4),
    (∀ (q : Fin 8) (hm : HostMem) d bs, s.next h q 0x28 = some d →
      let r := s.begin.devRead h hm (d.f 0x10 8) (8 * d.f 0x18 1)
      r.1 = some bs → r.2 = { s with out := [], regs := r.2.regs, pea := r.2.pea, sec := r.2.sec } ∧
      ((rangesOf (s.hst h).ver (d.f 0x18 1) bs = none ∨
          ∃ rs, rangesOf (s.hst h).ver (d.f 0x18 1) bs = some rs ∧ ∃ r ∈ rs, 4095 < r.2) →
        exec (.sceneStore h q hm) s = .next (r.2.finish h d stBadArg s.mix.csn)) ∧
      (∀ rs, rangesOf (s.hst h).ver (d.f 0x18 1) bs = some rs → (∀ r ∈ rs, r.2 ≤ 4095) → d.f 0x1A 2 ≠ 0xFFFF →
        let img := r.2.sceneCapture rs s.now.1
        (((img.length + 4095) / 4096 ≤ r.2.freeScene.length ∧ r.2.hasFree 1) → ∃ u : State,
          exec (.sceneStore h q hm) s = .next (u.finish h d stOk s.mix.csn) ∧ u.sceneImg (d.f 0x1A 2) = some img ∧
          u = { r.2 with freeCtr := u.freeCtr, pea := u.pea }) ∧
        ((r.2.freeScene.length < (img.length + 4095) / 4096 ∨ r.2.hasFree 1 = false) → ∃ u : State,
          exec (.sceneStore h q hm) s = .next (u.finish h d stNoSpace s.mix.csn) ∧ u = { r.2 with freeCtr := u.freeCtr }))) ∧
    (∀ (q : Fin 8) (hm : HostMem) d, s.next h q 0x30 = some d →
      let k := d.f 0x19 1
      let c := d.f 0x1A 1
      (d.f 0x18 1 = 0 → exec (.meterSubscribe h q hm) s = .next ((s.begin.subPut h k none).finish h d stOk 0)) ∧
      (d.f 0x18 1 ≠ 0 → s.rwBit (rCqCfg h c) 29 = false →
        exec (.meterSubscribe h q hm) s = .next (s.begin.finish h d stBadArg 0)) ∧
      (∀ bs rs, d.f 0x18 1 ≠ 0 → s.rwBit (rCqCfg h c) 29 → (s.begin.devRead h hm (d.f 0x10 8) (8 * d.f 0x18 1)).1 = some bs →
        rangesOf (s.hst h).ver (d.f 0x18 1) bs = some rs → (∀ r ∈ rs, r.2 ≤ 3071) →
        let es := rs.flatMap fun r => (upTo (r.2 + 1 - r.1)).map (· + r.1)
        let isOver := rateOver ((es.length, d.f 0x1C 2) :: (s.otherSubs h k).map fun x => (x.ents.length, x.n))
        let u := (s.begin.devRead h hm (d.f 0x10 8) (8 * d.f 0x18 1)).2
        u = { s with out := [], regs := u.regs, pea := u.pea, sec := u.sec } ∧
        (isOver → exec (.meterSubscribe h q hm) s = .next (u.finish h d stNoSpace 0)) ∧
        (isOver = false → exec (.meterSubscribe h q hm) s =
          .next (((u.subPut h k (some ⟨es, d.f 0x1C 2, c, []⟩)).setDesc h (d.ticket h) fun e => { e with accepted := true }).finish h d stOk 0)))) ∧
    (∀ (k : Fin 8) x, s.up secHost → (s.hst h).subs.getD k none = some x → (s.tim.nsc / 12 - 3 + 1) % x.n = 0 → x.acc ≠ [] →
      x.acc.length = x.ents.length →
      ((s.cqEn h x.cq ∧ ((s.hst h).cqAt x.cq).bad = none ∧ s.cqUsed h x.cq + x.ents.length ≤ s.cqSize h x.cq) → ∃ t, exec (.meterPeriodDelivery h k) s = .next t ∧
        ((t.hst h).cqAt x.cq).pi = (((s.hst h).cqAt x.cq).pi + x.ents.length) % 65536 ∧
        (t.hst h).subs = (s.hst h).subs.set k (some { x with acc := [] })) ∧
      ((s.cqEn h x.cq = false ∨ s.cqSize h x.cq < s.cqUsed h x.cq + x.ents.length) → exec (.meterPeriodDelivery h k) s =
        .next ((s.begin.subPut h k (some { x with acc := [] })).count (rHst h + 0x028))))

/-- LANE_LOAD and LANE_CTRL. LANE_LOAD copies an image that meets R196 for verification, is FAULT where its read meets an
uncorrectable error, and BADARG for any other image, for a source outside the memories and for a lane that is RUNNING, HALTED
or FAULTED. Verification that succeeds makes the lane LOADED with the image, one that fails leaves the lane as it was. START
takes ports and PARAM of a LOADED lane, STOP marks a RUNNING or HALTED one, MSG fills the mailbox of a RUNNING lane or is
NOSPACE while it is full, ZONES gives a RUNNING analyser its list; each is BADARG in any other state. -/
def Obligations.LaneImagesAndControl : Prop :=
  ∀ (s : State) (h : Fin 4) (q : Fin 8) (d : Desc),
    (s.next h q 0x38 = some d → s.drayUp (d.f 0x18 1) → (s.lane (d.f 0x18 1)).load = none →
      let l := d.f 0x18 1
      let n := d.f 0x1C 4
      let a := d.f 0x10 8
      (((s.lane l).busy ∨ n < 128 ∨ 180352 < n ∨ (s.targetRange a n ≠ .bulk ∧ s.targetRange a n ≠ .pool)) →
        ∀ m, exec (.laneLoad h q m) s = .next (s.begin.finish h d stBadArg 0)) ∧
      ((s.lane l).busy = false → 128 ≤ n → n ≤ 180352 → (s.targetRange a n = .bulk ∨ s.targetRange a n = .pool) →
        ∀ m : MemHits, badIn m.bad a n → ∃ u : State, exec (.laneLoad h q m) s = .next (u.finish h d stFault 0) ∧
          u.scBit rHealth 22 ∧ u = { s with out := [], regs := u.regs, twin := u.twin }) ∧
      (∀ bs (m : MemHits), m.adr = false → badIn m.bad a n = false → (s.lane l).busy = false → 128 ≤ n → n ≤ 180352 →
        (s.targetRange a n = .bulk ∧ bs = s.mem.bulk.getN a n ∨ s.targetRange a n = .pool ∧ bs = s.poolRead a n) →
        ∃ u : State, u = { s with out := [], regs := u.regs } ∧ (∀ o, u.rw o = s.rw o) ∧
        (laneImgOk bs n = false → exec (.laneLoad h q m) s = .next (u.finish h d stBadArg 0)) ∧
        (laneImgOk bs n → s.auditOk → exec (.laneLoad h q m) s =
          .next ((u.laneSet l { s.lane l with load := some (d.ticket h, bs) }).beganDesc h d id)) ∧
        (laneImgOk bs n → s.auditOk = false → exec (.laneLoad h q m) s = .next (u.logFull.finish h d stNoSpace 0)))) ∧
    (∀ (l : Fin 64) t bs, (s.lane l).load = some (t, bs) → (s.lane l).busy = false → ∃ u, exec (.laneLoadDone l) s = .next u ∧
      (u.lane l).load = none ∧ (∀ e ∈ (u.hst t.host).descs, e.is t = false) ∧
      (s.laneSigOk bs → (u.lane l).st = .loaded ∧ (u.lane l).libid = leNat ((bs.drop 8).take 4) ∧
        (u.lane l).prog = Mem.zero.setN 0 ((bs.drop 0x40).take (leNat ((bs.drop 0x10).take 4)))) ∧
      (s.laneSigOk bs = false → (u.lane l).st = (s.lane l).st ∧ (u.lane l).prog = (s.lane l).prog)) ∧
    (s.next h q 0x39 = some d → s.drayUp (d.f 0x10 1) →
      let l := d.f 0x10 1
      let x := s.lane l
      let p : LPorts := ⟨d.f 0x18 1, d.f 0x12 2, d.f 0x14 1, d.f 0x16 2, d.f 0x15 1⟩
      (d.f 0x11 1 = 0 →
        (x.st = .loaded → x.start = none → p.inBase + p.inCnt ≤ 1024 → p.outBase + p.outCnt ≤ 1024 →
          s.outTaken l p.outBase p.outCnt = false →
          exec (.laneCtrlStart h q) s =
            .next ((s.begin.laneStart l p (BitVec.ofNat 32 (d.f 0x1C 4)) (d.ticket h)).beganDesc h d id)) ∧
        ((x.st ≠ .loaded ∨ 1024 < p.inBase + p.inCnt ∨ 1024 < p.outBase + p.outCnt ∨ s.outTaken l p.outBase p.outCnt) →
          exec (.laneCtrlStart h q) s = .next (s.begin.finish h d stBadArg 0))) ∧
      (d.f 0x11 1 = 1 →
        (((x.st = .running ∨ x.st = .halted) ∧ x.stop = none) → exec (.laneCtrlStop h q) s =
          .next ((s.begin.laneSet l { x with stop := some (some (d.ticket h)) }).beganDesc h d id)) ∧
        (x.st ≠ .running → x.st ≠ .halted → exec (.laneCtrlStop h q) s = .next (s.begin.finish h d stBadArg 0))) ∧
      (d.f 0x11 1 = 2 → ∀ hm : HostMem,
        (x.st ≠ .running → exec (.laneCtrlMsg h q hm) s = .next (s.begin.finish h d stBadArg 0)) ∧
        (x.st = .running → x.full → exec (.laneCtrlMsg h q hm) s = .next (s.begin.finish h d stNoSpace 0)) ∧
        (∀ bs, x.st = .running → x.full = false → (s.begin.devRead h hm (d.f 0x20 8) 64).1 = some bs → exec (.laneCtrlMsg h q hm) s =
          .next (((s.begin.devRead h hm (d.f 0x20 8) 64).2.laneSet l { x with data := x.data.setN 0x1BFC0 bs, full := true, msgIrq := true }).finish h d stOk 0))) ∧
      (d.f 0x11 1 = 3 →
        let zs := ((d.bytes.drop 0x28).take (d.f 0x19 1)).map (·.toNat)
        (x.st = .running → x.libid = 2 → x.zonesTo = none → s.micsOf zs ≤ 32 → zs.any (s.zoneTaken l) = false →
          exec (.laneCtrlZones h q) s = .next ((s.begin.laneSet l { x with zonesTo := some (zs, d.ticket h) }).beganDesc h d id)) ∧
        (x.zonesTo = none → (x.st ≠ .running ∨ x.libid ≠ 2 ∨ 32 < s.micsOf zs ∨ zs.any (s.zoneTaken l)) →
          exec (.laneCtrlZones h q) s = .next (s.begin.finish h d stBadArg 0))))

/-- Stream, peer and frame descriptors. STREAM_OPEN with a record that passes its checks adds the stream, which runs from the
next boundary; otherwise it completes with the check's status. STREAM_CLOSE marks an open stream to close at the boundary,
and is BADARG for one that is not open. PEER_SET is BADARG without a valid table, and otherwise writes its entries and waits
for the boundary. NET_TX is BADARG for a PORT or a length that its ports do not take, and otherwise leaves its descriptor
begun. NET_RX_POST adds the buffer behind those of its queue, or is NOSPACE with 256 of them. -/
def Obligations.StreamsPeersAndFrames : Prop :=
  ∀ (s : State) (h : Fin 4) (q : Fin 8) (hm : HostMem) (d : Desc),
    (∀ bs, s.up secStr → s.next h q 0x40 = some d → (s.begin.devRead h hm (d.f 0x10 8) 64).1 = some bs → d.f 0x1A 1 ≤ 1 →
      let r := (s.begin.devRead h hm (d.f 0x10 8) 64).2
      let st := s.streamCheck (d.f 0x1A 1 = 1) (d.f 0x1B 1) bs
      (st ≠ stOk → exec (.streamOpen h q hm) s = .next (r.finish h d st 0)) ∧
      (st = stOk → ∃ u : State, exec (.streamOpen h q hm) s = .next (u.beganDesc h d id) ∧
        u = { s with out := [], regs := r.regs, pea := r.pea, sec := r.sec, net := { s.net with talkers := u.net.talkers, listeners := u.net.listeners, peers := u.net.peers } } ∧
        (d.f 0x1A 1 = 0 → u.net.listeners = s.net.listeners ∧
          u.net.talkers = s.net.talkers ++ [⟨d.f 0x1B 1, bs, false, some (d.ticket h), none, [], 0, [], 0⟩]) ∧
        (d.f 0x1A 1 = 1 → u.net.talkers = s.net.talkers ∧ ∃ np, u.net.listeners = s.net.listeners ++
          [⟨d.f 0x1B 1, bs, np, false, 1, some (d.ticket h), none, [], [], none, 0, 0, []⟩]))) ∧
    (s.up secStr → s.next h q 0x41 = some d →
      (d.f 0x1A 1 = 0 →
        (s.net.talkers.any (fun t => t.idx = d.f 0x1B 1 && t.closing.isNone) → ∃ u : State,
          exec (.streamClose h q) s = .next (u.beganDesc h d id) ∧ u = { s with out := [], net := { s.net with talkers := u.net.talkers } } ∧
          (∀ t ∈ u.net.talkers, t.idx = d.f 0x1B 1 → t.closing.isSome) ∧ u.net.talkers.map Talker.idx = s.net.talkers.map Talker.idx) ∧
        (s.net.talkers.any (fun t => t.idx = d.f 0x1B 1 && t.closing.isNone) = false →
          exec (.streamClose h q) s = .next (s.begin.finish h d stBadArg 0))) ∧
      (d.f 0x1A 1 = 1 → s.net.listeners.any (fun t => t.idx = d.f 0x1B 1 && t.closing.isNone) = false →
        exec (.streamClose h q) s = .next (s.begin.finish h d stBadArg 0))) ∧
    (s.up secStr → s.next h q 0x42 = some d →
      (s.peerOn = false → exec (.peerSet h q hm) s = .next (s.begin.finish h d stBadArg 0)) ∧
      (∀ bs, s.peerOn → (s.devRead h hm (d.f 0x10 8) (64 * d.f 0x1A 2)).1 = some bs → ∃ u : State,
        exec (.peerSet h q hm) s = .next (u.beganDesc h d id) ∧
        u.net.peerSets = s.net.peerSets ++ [(d.ticket h, d.f 0x18 2, bs)] ∧ u.net.peers = s.net.peers ∧
        (s.journals = false → u.mem.bulk = s.mem.bulk.setN (s.peerBase + 64 * d.f 0x18 2) bs))) ∧
    (s.next h q 0x43 = some d →
      let n := d.f 0x18 2
      let port := d.f 0x1A 1
      ((s.portFieldOk port = false ∨ n < 60 ∨ s.txMax port true < n) → exec (.netTx h q hm) s = .next (s.begin.finish h d stBadArg 0)) ∧
      (∀ bs, s.portFieldOk port → port ≤ 3 → 60 ≤ n → n ≤ s.txMax port false → (s.devRead h hm (d.f 0x10 8) n).1 = some bs →
        vlanTag bs = false → s.portUp port → d.f 0x1D 1 ≤ 7 → s.net.ports.length = 4 →
        ∃ t f, exec (.netTx h q hm) s = .next t ∧ (t.nport port).txq = (s.nport port).txq ++ [f] ∧ f.bytes = bs ∧
          f.q = 11 - d.f 0x1D 1 ∧ ∀ p, p ≠ port → t.nport p = s.nport p)) ∧
    (s.next h q 0x44 = some d → d.f 0x1A 1 ≤ 3 → (s.hst h).rxq.length = 4 →
      let k := d.f 0x1A 1
      let l := (s.hst h).rxq.getD k []
      (256 ≤ l.length → exec (.netRxPost h q) s = .next (s.begin.finish h d stNoSpace 0)) ∧
      (l.length < 256 → ∃ u : State, exec (.netRxPost h q) s = .next (u.beganDesc h d fun e => { e with accepted := true }) ∧
        u = s.begin.hstPut h { s.hst h with rxq := (s.hst h).rxq.set k (l ++ [⟨d.ticket h, d.f 0x10 8, d.f 0x18 2⟩]) } ∧
        (u.hst h).rxq.getD k [] = l ++ [⟨d.ticket h, d.f 0x10 8, d.f 0x18 2⟩]))

/-- KEY_LOAD, LOG_READ and TIME_QUERY. KEY_LOAD is BADARG for a length its slot does not take and for a persistent slot that is
occupied, revoked or locked; otherwise the slot holds the key and its KEYID, or with KLEN 0 is empty, revoked if it is
persistent; every other slot stays, and where the log cannot take the record nothing changes and LOGFULL is set, but for a
volatile slot emptied, which is a zeroisation; without a free sector in the security area a persistent slot takes nothing
(R417; NOSPACE is the model's choice, notes/assumptions/28.md). LOG_READ into pool SRAM leaves the count, the next sequence
number and the records; TIME_QUERY leaves the 64-byte record of the time. -/
def Obligations.KeysLogAndTime : Prop :=
  ∀ (s : State) (h : Fin 4) (q : Fin 8) (d : Desc),
    (s.next h q 0x50 = some d →
      let k := d.f 0x10 1
      let n := d.f 0x11 1
      let key := (d.bytes.drop 0x20).take n
      ((keyLenOk k n = false ∨ (n ≠ 0 ∧ s.keyRefused k key)) → exec (.keyLoad h q) s = .next (s.begin.finish h d stBadArg 0)) ∧
      (keyLenOk k n → (n = 0 ∨ s.keyRefused k key = false) →
        (s.auditOk = false → (n ≠ 0 ∨ keyVolatile k = false) → exec (.keyLoad h q) s = .next ((s.begin.scSet rSecurity 21).finish h d stNoSpace 0)) ∧
        (s.auditOk → keyVolatile k = false → s.hasFree 4 = false → exec (.keyLoad h q) s = .next (s.begin.finish h d stNoSpace 0)) ∧
        ((s.auditOk ∨ (n = 0 ∧ keyVolatile k)) → (keyVolatile k ∨ s.hasFree 4) → ∃ u : State, exec (.keyLoad h q) s = .next (u.finish h d stOk 0) ∧
          u = { s with out := [], sec := u.sec, pea := u.pea } ∧
          (n ≠ 0 → u.key k = ⟨some key, d.f 0x14 4, false⟩) ∧ (n = 0 → (u.key k).key = none ∧ (keyPersistent k → (u.key k).revoked)) ∧
          ∀ j, j ≠ k → u.key j = s.key j))) ∧
    (s.next h q 0x51 = some d →
      (d.f 0x1C 4 < 16 → exec (.logRead h q) s = .next (s.begin.finish h d stNoSpace 0)) ∧
      (16 ≤ d.f 0x1C 4 → s.targetRange (d.f 0x20 8) (d.f 0x1C 4) = .pool → ∃ (u : State) (n : Nat),
        exec (.logRead h q) s = .next (u.finish h d stOk 0) ∧ (∀ o, u.rw o = s.rw o) ∧ u = { s with out := [], regs := u.regs, mem := { s.mem with pool := u.mem.pool } } ∧
        16 + 64 * n ≤ d.f 0x1C 4 ∧ n ≤ d.f 0x18 4 ∧
        u.poolRead (d.f 0x20 8) 16 = natLe 4 n ++ natLe 4 0 ++ natLe 8 (max (d.f 0x10 8) (s.sec.logSeq - 65536) + n) ∧
        ∀ i < n, u.poolRead (d.f 0x20 8 + 16 + 64 * i) 64 =
          s.pea.mem.getN (logAddr (max (d.f 0x10 8) (s.sec.logSeq - 65536) + i)) 64)) ∧
    (s.next h q 0x52 = some d → s.targetRange (d.f 0x10 8) 64 = .pool → ∃ (u : State) (x : Nat),
      exec (.timeQuery h q) s = .next (u.finish h d stOk 0) ∧
      u = { s with out := [], freeCtr := u.freeCtr, regs := (s.foreign h (d.f 0x10 8) 64).regs, mem := { s.mem with pool := u.mem.pool } } ∧
      s.tim.nsc ≤ x ∧ x < s.tim.nsc + 12 ∧ u.poolRead (d.f 0x10 8) 8 = natLe 8 (x % timeMod (s.hst h).ver) ∧
      u.poolRead (d.f 0x10 8 + 12) 2 = [BitVec.ofNat 8 s.tim.sel, BitVec.ofNat 8 s.tim.tst])

/-- Links, requests of hosts, and host faults. A link that goes down, a function-level reset and the end of a watchdog period of
an enabled port are host faults of causes 0, 1 and 4: the version, the claims, the staged batches and the receive queues of
the host end, HFAULT is set with the cause; the first two also disable the port and every ring and lose the descriptors.
Without a link, or without a running watchdog, none is. A link that comes up marks the port's link with its width and speed,
H1's only where the strap gives it. A configuration read gives the device ID. An inbound request in BAR1 reads or writes pool
SRAM; where the link is down nothing happens. A read of a host window that times out is counted and captured as DECERR. -/
def Obligations.HostPortsComeAndGo : Prop :=
  ∀ (s : State) (h : Fin 2),
    let p : Fin 4 := ⟨h.val, by omega⟩
    (∀ c (g : Fin 4) lost cause, s.up secHost →
        ((c = .pcieLinkDown h ∧ g = p ∧ s.linkOf p ∧ lost = true ∧ cause = 0) ∨
          (c = .functionLevelReset h ∧ g = p ∧ s.linkOf p ∧ lost = true ∧ cause = 1) ∨
          (c = .barrowWatchdogExpiry g ∧ s.hstEn g ∧ s.rwBits (rHst g) 16 10 ≠ 0 ∧ lost = false ∧ cause = 4)) →
      ∃ t, exec c s = .next t ∧ (t.hst g).ver = 0 ∧ (t.hst g).rxq = [[], [], [], []] ∧ (∀ k ∈ t.mix.claims, k.host = g.val → k.partner) ∧
        (∀ b ∈ t.mix.batches, b.host ≠ g.val) ∧ t.scBit (rHstStat g) 14 ∧ wbits (t.cap (rHstStat g)) 11 3 = cause ∧
        (lost → t.hstEn g = false ∧ (t.hst g).descs = [] ∧ ∀ k : Fin 8, t.sqEn g k = false ∧ t.cqEn g k = false)) ∧
    (∃ t, exec (.pcieLinkDown h) s = .next t ∧ t.linkOf p = false) ∧
    (s.linkOf p = false → exec (.pcieLinkDown h) s = .next { s with out := [] }) ∧
    ((s.linkOf p = false ∨ s.up secHost = false) → exec (.functionLevelReset h) s = .next { s with out := [] }) ∧
    (∀ g : Fin 4, (s.up secHost = false ∨ s.hstEn g = false ∨ s.rwBits (rHst g) 16 10 = 0) →
      exec (.barrowWatchdogExpiry g) s = .next { s with out := [] }) ∧
    (∀ x2 (gen : Fin 3), (s.up secHost → (h = 0 ∨ s.ctl.pcie2) → exec (.pcieLinkUp h x2 gen) s = .next { s.hstPut p { s.hst p with
        link := true, width := if x2 then 2 else 1, speed := gen } with out := [] }) ∧
      (s.ctl.pcie2 = false → exec (.pcieLinkUp 1 x2 gen) s = .next { s with out := [] })) ∧
    ((s.host p).link → exec (.inboundHostRequest h ⟨3, 0, 4, none, ⟨[], [], false, []⟩⟩) s = .next { s with
      out := [.pcie p true (wordBytes (fld 16 16 0x1536 ||| fld 0 16 Config.vendor))] }) ∧
    (s.linkOf p = false → ∀ r, exec (.inboundHostRequest h r) s = .next { s with out := [] }) ∧
    (∀ r : InbReq, (s.host p).link → s.masterOn p → r.bar = 1 → r.hits = ⟨[], [], false, []⟩ → 1 ≤ r.len → r.off % 512 + r.len ≤ 512 →
      r.off + r.len ≤ 0x800000 →
      let g := (s.foreign h (poolBase + r.off) r.len).regs
      (r.wr = none → exec (.inboundHostRequest h r) s = .next { s with
        out := [.pcie p true (s.mem.pool.getN r.off r.len)], regs := g }) ∧
      (∀ bs, r.wr = some bs → bs.length = r.len →
        exec (.inboundHostRequest h r) s = .next { s with out := [], regs := g, mem := { s.mem with pool := s.mem.pool.setN r.off bs } })) ∧
    (s.linkOf p → ∃ t, exec (.outboundReadTimeout h) s = .next t ∧ t.out = [.data .decerr []] ∧
      t.ctr (wMem + 0x014C) = (s.ctr (wMem + 0x014C)).inc ∧ (∀ o, t.rw o = s.rw o) ∧ t = { s with
        out := t.out, freeCtr := t.freeCtr, regs := t.regs })

/-- What an SPI port answers. READ_ID answers 0xA5 and the identification word, READ_STATUS 0xA5 and the status byte,
RECOVERY_READ the register of the recovery window; in reset the port answers 0xE1. READ of pool SRAM on path A answers 0xA5,
the bytes, and 0xFF after 64 of them; of an address that nothing answers 0xE0, and the DECERR is counted; late, or with the
matrix in reset, 0xE1; with an uncorrectable word 0xE2 and a health fault; a collision on path B is counted and raises BUSY. -/
def Obligations.SpiReadTransactions : Prop :=
  ∀ (s : State) (i : Fin 2),
    let g := s.spiBegin i
    let h : Fin 4 := spiHost i
    (s.awake → exec (.readId i) s = .next { g with out := [.spi i (0xA5#8 :: wordBytes (s.regWord 0))] }) ∧
    (s.cap 0 = 0 → s.regWord 0 = 0x153600B1#32) ∧
    (s.awake = false → exec (.readId i) s = .next { g with out := [.spi i [0xE1#8, 0xFF#8]] } ∧
      exec (.readStatus i) s = .next { g with out := [.spi i [0xE1#8, 0xFF#8]] }) ∧
    (s.awake → ∃ b : Byte, exec (.readStatus i) s = .next { g with out := [.spi i [0xA5#8, b]] } ∧
      (b.getLsbD 0 ↔ s.up secHost ∧ (s.host h).wbuf.length < 4) ∧ (b.getLsbD 1 ↔ s.irqLevel h) ∧ (b.getLsbD 2 ↔ s.scBit (rHstStat h) 10) ∧
      (b.getLsbD 3 ↔ (s.host h).ver ≠ 0) ∧ (b.getLsbD 4 ↔ s.scBit (rHstStat h) 14)) ∧
    (∀ off : BitVec 12, s.windowOn h → exec (.recoveryRead h off) s =
      .next { g with out := [.spi i (0xA5#8 :: wordBytes (s.recRead off.toNat))] }) ∧
    (∀ (k : Fin 4) (off : BitVec 12), k.val < 2 → s.windowOn k → exec (.recoveryRead k off) s =
      .next { s with out := [.pcie k true (wordBytes (s.recRead off.toNat))] }) ∧
    (∀ (a : BitVec 40) (n : Nat) (late : Bool) (m : MemHits), (s.host h).wbuf = [] → 1 ≤ n → a.toNat % 512 + min n 64 ≤ 512 →
      let k := min n 64
      ((s.masterOn h = false ∨ late) → exec (.read i a n late m) s = .next { g with out := [.spi i [0xE1#8, 0xFF#8]] }) ∧
      (s.masterOn h → late = false → m = ⟨[], [], false, []⟩ → s.targetRange a.toNat k = .pool → s.pathA h a.toNat k →
        exec (.read i a n late m) s = .next { g with
          out := [.spi i (0xA5#8 :: s.poolRead a.toNat k ++ List.replicate (n - 64) 0xFF#8)] }) ∧
      (s.masterOn h → late = false → s.targetRange a.toNat k = .none → ∃ t, exec (.read i a n late m) s = .next t ∧
        t.out = [.spi i [0xE0#8, 0xFF#8]] ∧ t.ctr (wMem + 0x014C) = (s.ctr (wMem + 0x014C)).inc ∧ t.mem = g.mem) ∧
      (s.masterOn h → late = false → badIn m.bad a.toNat k → s.targetRange a.toNat k = .pool →
        ∃ t, exec (.read i a n late m) s = .next t ∧ t.out = [.spi i [0xE2#8, 0xFF#8]] ∧ t.scBit rHealth 22 ∧
        t.ctr (wMem + 0x0810) = (s.ctr (wMem + 0x0810)).inc) ∧
      (s.masterOn h → late = false → m.bad = [] → ∀ w am, m.coll = [(w, am, true)] → a.toNat / 8 ≤ w / 8 → w < a.toNat + k →
        s.targetRange a.toNat k = .pool → s.pathA h a.toNat k = false → s.mem.busy.length = 2 →
        ∃ t, exec (.read i a n late m) s = .next t ∧ t.mem.busy.getD i false ∧ t.mem.pool = s.mem.pool ∧
          t.ctr (wMem + 0x0488) = (s.ctr (wMem + 0x0488)).inc))

/-- Writes, MODE and PORT RESET of an SPI port. A WRITE of whole aligned words joins the buffer of four; a fifth one is
discarded, an incomplete word is dropped, and both set WRERR and count a protocol error. MODE 0 or 1 takes effect as CS_N
rises. PORT RESET in the transaction after RESET ENABLE is a host fault and returns the port to STR with an empty buffer; any
other counts a protocol error. An unknown opcode, or in DTR a wrong complement, counts one. BUSY falls as CS_N rises on a
transaction that began after it rose. A write of the recovery window is a register write by that window. -/
def Obligations.SpiWritesModesAndResets : Prop :=
  ∀ (s : State) (i : Fin 2),
    let g := { s.spiBegin i with out := [] }
    let h : Fin 4 := spiHost i
    let x := s.host h
    let err (t : State) := t.ctr (rHst h + 0x02C) = (s.ctr (rHst h + 0x02C)).inc
    (∀ (a : BitVec 40) (d : List Byte) (m : MemHits), s.up secHost → d.length ≤ 64 → 4 ≤ d.length → a.toNat % 4 = 0 →
      (x.wbuf.length < 4 → d.length % 4 = 0 → exec (.write i a d m) s =
        .next (g.hostSet h { x with wbuf := x.wbuf ++ [(a.toNat, d, m)] })) ∧
      (x.wbuf.length < 4 → d.length % 4 ≠ 0 → ∃ t, exec (.write i a d m) s = .next t ∧
        (t.host h).wbuf = x.wbuf ++ [(a.toNat, d.take (d.length / 4 * 4), m)] ∧ t.scBit (rHstStat h) 10 ∧ err t) ∧
      (4 ≤ x.wbuf.length → d.length % 4 = 0 → ∃ t, exec (.write i a d m) s = .next t ∧ t.hosts = s.hosts ∧ t.scBit (rHstStat h) 10 ∧
        err t)) ∧
    (∀ b : Byte, (b = 0 ∨ b = 1 → exec (.mode i b) s = .next (g.hostSet h { x with modeTo := some (b = 1) })) ∧
      (b ≠ 0 → b ≠ 1 → exec (.mode i b) s = .next g)) ∧
    exec (.resetEnable i) s = .next (g.hostSet h { x with armed := 1 }) ∧
    ((x.wbuf = [] ∨ s.masterOn h = false) → ∃ t, exec (.spiCsRise i) s = .next t ∧
      t.host h = { x with dtr := x.modeTo.getD x.dtr, modeTo := none, armed := if x.armed = 1 then 2 else 0 } ∧
      t.mem.busy = (if s.mem.busy.getD i false && s.mem.begun.getD i false then s.mem.busy.set i false else s.mem.busy) ∧
      t = { s with out := [], hosts := t.hosts, mem := { s.mem with busy := t.mem.busy, begun := t.mem.begun } }) ∧
    (x.armed ≠ 2 → s.up secHost → ∃ t, exec (.portReset i) s = .next t ∧ err t ∧ t.host h = { x with armed := 0 } ∧
      t = { g with regs := t.regs, hosts := t.hosts }) ∧
    (x.armed = 2 → s.up secHost → ∃ t, exec (.portReset i) s = .next t ∧ (t.host h).dtr = false ∧ (t.host h).wbuf = [] ∧
      (t.host h).ver = 0 ∧ (t.host h).descs = [] ∧ t.hstEn h = false ∧ t.scBit (rHstStat h) 14) ∧
    (∀ op : Byte, s.up secHost → (op.toNat ∉ spiOpcodes ∨ x.dtr) → ∃ t, exec (.spiUnknownOpcode i op) s = .next t ∧ err t ∧
      t = { g with regs := t.regs }) ∧
    (∀ op : Byte, op.toNat ∈ spiOpcodes → x.dtr = false → exec (.spiUnknownOpcode i op) s = .next g) ∧
    (∀ (k : Fin 4) (off : BitVec 12) (w : Word), exec (.recoveryWrite k off w) s =
      exec (.registerWrite (.recovery k) (off.setWidth 20) w) (if hk : 2 ≤ k.val then s.spiBegin ⟨k.val - 2, by omega⟩ else s))

/-- Arbitration, grants and the patrol scrub. Of the heads at a point the one picked is of the high class where that has
precedence, among those the oldest with ages above 1,023 counting as 1,023, and among equals the next master from the pointer
on. Where no head waits nothing happens. A lone head that reads bulk memory is answered with its bytes; one that writes pool
SRAM leaves its bytes there and no other byte changed; an atomic exchange of an aligned word answers the old bytes and leaves
the new ones; each moves the pointer past its master, waits no more and is in flight. A head whose address leads nowhere is
answered DECERR. The patrol scrub counts a corrected word, reports an uncorrectable one, and changes no memory. -/
def Obligations.MatrixServesTheHeadItPicks : Prop :=
  (∀ pt ptr now prec hs x, pick pt ptr now prec hs = some x → x ∈ hs ∧ ∀ y ∈ hs,
    (prec → headHigh pt y → headHigh pt x) ∧
    ((prec = false ∨ headHigh pt y = headHigh pt x) → headAge now y ≤ headAge now x ∧
      (headAge now y = headAge now x → ptrDist ptr x.master ≤ ptrDist ptr y.master))) ∧
  (∀ now h, headAge now h ≤ 1023) ∧
  (∀ (s : State) (pt : Fin 8) (r : MtxReq) (x : MtxHead), s.mem.heads = List.replicate 8 [] →
    (r.heads = [] → r.done = [] → exec (.matrixGrant pt r) s = .next { s with out := [] }) ∧
    (r.heads = [x] → s.masterOn x.master → mayReach x.master (s.targetOf x.addr.toNat) → r.hits = ⟨[], [], false, []⟩ → r.meets = none → r.cut = none →
      r.done = [] → s.mayIssueTx x.master → s.withheld x.master = false →
    let a := x.addr.toNat
    let moved (t : State) := t.mem.ptr = s.mem.ptr.set pt ((x.master + 1) % 14) ∧ t.mem.heads.getD pt [] = [] ∧
      t.mem.flight = s.mem.flight.set x.master (s.mem.flight.getD x.master 0 + 1)
    (s.pointOf x.master a (opLen x.op) = some pt.val →
      (∀ n, x.op = .read n → s.targetRange a n = .bulk → ∃ t, exec (.matrixGrant pt r) s = .next t ∧
        t.out = [.data .okay (s.mem.bulk.getN a n)] ∧ t.mem.bulk = s.mem.bulk ∧ t.mem.pool = s.mem.pool ∧ moved t) ∧
      (∀ d, x.op = .write d → d ≠ [] → s.targetRange a d.length = .pool → ∃ t, exec (.matrixGrant pt r) s = .next t ∧
        t.out = [.data .okay []] ∧ t.poolRead a d.length = d ∧ t.mem.bulk = s.mem.bulk ∧ moved t ∧
        ∀ b, (b < a - poolBase ∨ a - poolBase + d.length ≤ b) → t.mem.pool.get b = s.mem.pool.get b) ∧
      (∀ n v, x.op = .swap n v → (n = 4 ∨ n = 8) → a % n = 0 → (x.master = 4 ∨ x.master = 10 ∨ x.master = 13) →
        s.targetRange a n = .pool → ∃ t, exec (.matrixGrant pt r) s = .next t ∧
        t.out = [.data .okay (s.poolRead a n)] ∧ t.poolRead a n = natLe n v ∧ moved t)) ∧
    (s.targetOf a = .none → ∃ t, exec (.matrixGrant pt r) s = .next t ∧ t.out = [.data .decerr (List.replicate (opLen x.op) 0)] ∧
      t.ctr (wMem + 0x014C) = (s.ctr (wMem + 0x014C)).inc ∧ t.mem = s.mem))) ∧
  (∀ (s : State) (y : ScrubHit), (s.up secMem = false ∨ s.mem.trained = false ∨ s.rwBit (wMem + 0x0800) 8 = false →
      exec (.patrolScrub [y]) s = .next { s with out := [] }) ∧
    (s.up secMem → s.mem.trained → s.rwBit (wMem + 0x0800) 8 → s.targetRange y.addr.toNat 8 = .bulk →
      (y.unc = false → y.addrChk = false → exec (.patrolScrub [y]) s = .next { s.count (wMem + 0x080C) with out := [] }) ∧
      ((y.unc ∨ y.addrChk) → ∃ t, exec (.patrolScrub [y]) s = .next t ∧ t.scBit rHealth 22 ∧
        t.ctr (wMem + 0x0810) = (s.ctr (wMem + 0x0810)).inc ∧ t.mem = s.mem ∧ t = { s with out := [], regs := t.regs, twin := t.twin })))

/-- Links, departures, arrivals and PRP. A link that comes up or goes down is shown with its event, and going down empties the
transmit queue. A port that is not up neither sends nor receives. A plain host frame that leaves appears on the wire as it
is, its check sequence behind it (notes/assumptions/40.md), and completes its descriptor. A frame with a bad check sequence
is counted, a second copy of a PRP frame is dropped and counted, a plain frame without listener, rule or protocol is counted,
and one that a rule steers to a buffer of pool SRAM stands there behind its header. A supervision frame goes to both ports of
a pair with one sequence number; an aged source is forgotten. -/
def Obligations.LinksAndFrames : Prop :=
  ∀ (s : State) (p : Fin 4), s.net.ports.length = 4 →
    let x := s.nport p
    (∀ up sp an, s.up secStr → ∃ t, exec (.linkChange p up sp an) s = .next t ∧
      (up → s.portEn p → (t.nport p).link ∧ (t.nport p).speed = (s.linkRate p sp.toNat an).1 ∧ (t.nport p).txq = x.txq) ∧
      ((up = false ∨ s.portEn p = false) → (t.nport p).link = false ∧ (t.nport p).txq = []) ∧
      ((up && s.portEn p) ≠ x.link → t.scBit (rPort p + 4) 23) ∧ ∀ k, k ≠ p.val → t.nport k = s.nport k) ∧
    (s.portUp p = false → ∀ f n, exec (.frameReceive p f) s = .next { s with out := [] } ∧
      exec (.frameDeparture p n) s = .next { s with out := [] }) ∧
    (∀ f k n, s.portUp p → x.txq = [f] → f.q < 12 → f.kind = .host k none → f.sc = none → f.prp = none → s.twin.q1 = [] →
      (∀ r, r ≠ p.val → (s.nport r).txq = []) →
      ∃ t l, exec (.frameDeparture p n) s = .next t ∧ t.out = .frame p (withFcs f.bytes) :: l ∧ (t.nport p).txq = [] ∧
        ∀ e ∈ (t.hst k.host).descs, e.is k = false) ∧
    (∀ f : RxFrame, s.portUp p →
      (f.fcsOk = false → exec (.frameReceive p f) s = .next { s.count (rPort p + 0x024) with out := [] }) ∧
      (f.fcsOk → (etherOf f.bytes).2.1 ≠ 0x88F7 → s.prpOn (p / 2) → s.net.dups.length = 2 →
        ∀ n e, rctOf f.bytes = some n → (s.net.dups.getD (p / 2) []).find? (fun e => e.src = beNat ((f.bytes.drop 6).take 6)) = some e →
          n ∈ e.seen → ∃ t, exec (.frameReceive p f) s = .next t ∧ t.ctr (wStr + 0x0110 + 4 * (p / 2)) =
            (s.ctr (wStr + 0x0110 + 4 * (p / 2))).inc ∧ t = { s with out := [], regs := t.regs, net := { s.net with dups := t.net.dups } }) ∧
      (f.fcsOk → s.prpOn (p / 2) = false → s.rwBit (rPort p) 24 = false → s.rwBit rHitCfg 31 = false →
        (etherOf f.bytes).1 = none → (etherOf f.bytes).2.1 ∉ [0x0800, 0x22F0, 0x8808, 0x88E5, 0x88F7, 0x88FB] →
        f.bytes.length ≤ 14 + s.clientMax p →
        (s.steerRule (etherOf f.bytes) = none → exec (.frameReceive p f) s = .next { s.count (wStr + 0x012C) with out := [] }) ∧
        (∀ w b l, s.steerRule (etherOf f.bytes) = some w → s.hstEn (wbits w 28 2) → (s.hst (wbits w 28 2)).rxq.length = 4 →
          (s.hst (wbits w 28 2)).rxq.getD (wbits w 26 2) [] = b :: l → f.bytes.length + 32 ≤ b.len → (s.hst (wbits w 28 2)).descs = [] →
          s.targetRange b.addr (f.bytes.length + 32) = .pool → ∃ t, exec (.frameReceive p f) s = .next t ∧
            t.poolRead b.addr 2 = natLe 2 f.bytes.length ∧ t.poolRead (b.addr + 32) f.bytes.length = f.bytes ∧
            (t.hst (wbits w 28 2)).rxq.getD (wbits w 26 2) [] = l))) ∧
    (∀ q : Fin 2, s.up secStr → s.net.prpSeq.length = 2 →
      (s.prpOn q = false → exec (.prpSupervisionSend q) s = .next { s with out := [] }) ∧
      (s.prpOn q → ∃ t f, exec (.prpSupervisionSend q) s = .next t ∧ f.kind = .own 12 [q.val] ∧ f.prp = some (s.net.prpSeq.getD q 0) ∧
        t.net.prpSeq.getD q 0 = (s.net.prpSeq.getD q 0 + 1) % 65536 ∧
        ∀ k : Fin 4, (t.nport k).txq = if k.val / 2 = q ∧ s.portUp k then (s.nport k).txq ++ [f] else (s.nport k).txq)) ∧
    (∀ (q : Fin 2) (src : BitVec 48), s.up secStr → s.net.dups.length = 2 → ∃ t, exec (.prpEntryAgeout q src) s = .next t ∧
      t.net.dups.getD q [] = (s.net.dups.getD q []).filter (fun e => e.src ≠ src.toNat) ∧
      (∀ k, k ≠ q.val → t.net.dups.getD k [] = s.net.dups.getD k []) ∧
      t = { s with out := [], net := { s.net with dups := t.net.dups } })

/-- gPTP messages and the ends of listeners. PDELAY_REQ_SEND of a port with gPTP and peer delay queues a request with the next
sequence number and forgets the exchange before it; SYNC_SEND and ANNOUNCE_SEND queue their messages while the device is
grandmaster of the domain, and do nothing otherwise. GPTP_SYNC_TIMEOUT makes the domain invalid and its reference lost where
that is enabled. A running listener that has placed no packet for four packet times is LOST; a CRF listener reports the mean
offset of the second and starts the next. -/
def Obligations.GptpAndListenerEvents : Prop :=
  ∀ (s : State) (p : Fin 4) (d : Fin 2), s.net.ports.length = 4 → s.net.doms.length = 2 →
    let x := s.nport p
    (s.ptpUp p → s.rwBit (rPort p) 25 → ∃ t, exec (.pdelayReqSend p) s = .next t ∧ t.nport p = { x with
        pdSeq := (x.pdSeq + 1) % 65536, t1 := none, t24 := none
        txq := x.txq ++ [⟨0, [], none, none, .own 2 [(x.pdSeq + 1) % 65536]⟩] } ∧ ∀ k, k ≠ p.val → t.nport k = s.nport k) ∧
    ((s.ptpUp p = false ∨ s.rwBit (rPort p) 25 = false) → exec (.pdelayReqSend p) s = .next { s with out := [] }) ∧
    (s.ptpUp p → s.isGm d →
      (∃ t, exec (.syncSend p d) s = .next t ∧ (t.gptp d).syncSeq = ((s.gptp d).syncSeq + 1) % 65536 ∧
        (t.nport p).txq = x.txq ++ [⟨0, [], none, none, .own 0 [s.domNum d, (s.gptp d).syncSeq]⟩]) ∧
      (∃ t, exec (.announceSend p d) s = .next t ∧ (t.gptp d).annSeq = ((s.gptp d).annSeq + 1) % 65536 ∧
        (t.nport p).txq = x.txq ++ [⟨0, [], none, none, .own 11 [s.domNum d, (s.gptp d).annSeq]⟩])) ∧
    ((s.ptpUp p = false ∨ s.isGm d = false) →
      exec (.syncSend p d) s = .next { s with out := [] } ∧ exec (.announceSend p d) s = .next { s with out := [] }) ∧
    (s.up secStr → s.tim.refs.length = 9 → ∃ t, exec (.gptpSyncTimeout d) s = .next t ∧ (t.gptp d).valid = false ∧
      (t.gptp d).best = none ∧ (t.gptp d).sync = none ∧ (t.ref d).qual = 0 ∧ (s.measured d → (t.ref d).seen = false ∧ (t.ref d).st ≤ 2) ∧
      (∀ r, r ≠ d.val → s.refGone r = false → t.ref r = s.ref r) ∧ t = { s with out := [], net := t.net, tim := t.tim }) ∧
    (∀ (n : Fin 256) l, s.up secStr → s.net.listeners = [l] → l.idx = n →
      (exec (.listenerLost n) s = .next { s with
        out := [], net := { s.net with listeners := [if l.st = 2 ∧ l.placed + 48 * Rec.blocks l.recd ≤ (s.tim.nsc / 12 + 1) * 12 then { l with st := 3 } else l] } }) ∧
      (Rec.fmt l.recd = 2 → l.crfs ≠ [] → exec (.crfOffsetReport n) s = .next { s with
        out := [], net := { s.net with listeners := [{ l with crf := rdiv (l.crfs.foldl (· + ·) 0) l.crfs.length, crfs := [] }] } }) ∧
      ((Rec.fmt l.recd ≠ 2 ∨ l.crfs = []) → exec (.crfOffsetReport n) s = .next { s with out := [] }))

/-- Measurement, loss and qualification of references. A measurement of T0 to T7 moves a reference among its states by its
frequency against the threshold F and half of F, a reference of quality 0 being disqualified; one that did not come leaves it
as it is; a phase jump of the one followed, or after a hold a phase error beyond PHLIM (notes/assumptions/22.md), becomes its
build-out. Its offset is that from raw XIN less the XIN model. A measurement without its input is a loss. A loss, for T0, T1
and T4 to T7 only where the input is gone, leaves a reference FAILED where it was, else LOST. The ends of the waits
disqualify one that is beyond its threshold, and qualify one that is RESTORING within it, its input present. No other
reference changes, and a reference that is not enabled, or T8, is not measured. -/
def Obligations.ReferencesQualifyAndRecover : Prop :=
  ∀ (s : State) (r : Fin 9), s.tim.refs.length = 9 →
    let x := s.ref r
    (s.measured r = false → (∀ m, exec (.refMeasurement r m) s = .next { s with out := [] }) ∧
      exec (.refLost r) s = .next { s with out := [] } ∧ exec (.refDisqualify r) s = .next { s with out := [] } ∧
      exec (.refQualify r) s = .next { s with out := [] }) ∧
    (s.measured r →
      (s.refGone r → ∀ m, exec (.refMeasurement r m) s = exec (.refLost r) s) ∧
      (∀ m : RefMeas, m.present → s.refGone r = false → ∃ t, exec (.refMeasurement r m) s = .next t ∧ (∀ k, k ≠ r.val → t.ref k = s.ref k) ∧
        (let fo := m.fofs - s.xinModel
        let within : Prop := (fo.natAbs : Int) ≤ s.refThr r
        (t.ref r).fofs = fo ∧ (t.ref r).seen ∧ (t.ref r).last = (if within then s.tim.nsc else x.last) ∧
        t = { s with out := [], regs := t.regs, tim := t.tim } ∧
        (s.refQual r = 0 → (t.ref r).st = 2) ∧
        (s.refQual r ≠ 0 → (t.ref r).st = if x.st = 4 ∨ x.st = 5 then (if (fo.natAbs : Int) ≤ s.refThr r / 2 ∧ within then 4 else 5)
          else if x.st = 2 ∧ ¬ within then 2 else 3) ∧
        (s.tim.sel = r → (x.st = 4 ∨ x.st = 5) → s.refQual r ≠ 0 → within →
          ((x.seen ∧ x.beyond = false ∧ s.phLim < (((t.ref r).ofs - x.ofs).natAbs : Int)) ∨
            (x.beyond ∧ s.phLim < (((t.ref r).ofs - s.tim.boNs).natAbs : Int))) →
          t.tim.bo = 1000000000 * (t.ref r).ofs ∧ t.tim.switching = s.tim.switching ∧ t.scBit rClkStat 20 ∧ t.tim.steer = s.tim.steer))) ∧
      (∀ m : RefMeas, m.present = false → s.refGone r = false → ∃ t, exec (.refMeasurement r m) s = .next t ∧
        t.tim.refs = s.tim.refs ∧ t = { s with out := [], tim := t.tim }) ∧
      (s.refGone r = false → r.val ≠ 2 → r.val ≠ 3 → exec (.refLost r) s = .next { s with out := [] }) ∧
      ((s.refGone r ∨ r.val = 2 ∨ r.val = 3) → ∃ t, exec (.refLost r) s = .next t ∧ (t.ref r).st = (if x.st = 2 then 2 else 1) ∧ (t.ref r).seen = false ∧
        (∀ k, k ≠ r.val → t.ref k = s.ref k) ∧ t = { s with out := [], tim := t.tim }) ∧
      ((x.beyond ∨ s.refQual r = 0) → x.st ≠ 2 → ∃ t, exec (.refDisqualify r) s = .next t ∧ (t.ref r).st = 2 ∧ t.scBit rClkStat 22 ∧
        (∀ k, k ≠ r.val → t.ref k = s.ref k) ∧ t = { s with out := [], regs := t.regs, tim := t.tim }) ∧
      (x.beyond = false → s.refQual r ≠ 0 → exec (.refDisqualify r) s = .next { s with out := [] }) ∧
      (x.st = 3 → x.beyond = false → s.refQual r ≠ 0 → s.refGone r = false → ∃ t, exec (.refQualify r) s = .next t ∧
        (t.ref r).st = (if s.refThr r / 2 < (x.fofs.natAbs : Int) then 5 else 4) ∧ (∀ k, k ≠ r.val → t.ref k = s.ref k)) ∧
      ((x.st ≠ 3 ∨ x.beyond ∨ s.refQual r = 0 ∨ s.refGone r) → exec (.refQualify r) s = .next { s with out := [] }))

/-- Selection, lock, build-out, steering and Smoulder. The best reference is an eligible one that no other beats by quality, then
PRIO, then number. An evaluation outside a multiple of 480 A-samples does nothing. At one, a forced eligible reference of T0
to T7 that is not followed yet becomes followed with its event; a followed eligible one without REVERT stays; from FREERUN
the best of T0 to T7 is acquired; with none, SMOULDER is entered where Smoulder is valid; a reference T2 to T7 of quality 0
is first disqualified. ACQUIRING becomes LOCKED with the phase error within PHLIM / 4, a switch is over once nothing is being
removed and the steering is what is asked for, the steering of a block moves by no more than SLEW, Smoulder becomes valid
once one of T0 to T7 has been followed in LOCKED for the 60 s before its last measurement, a learning minute counts only
while it may, and a save leaves the Smoulder words in the Peatstore. -/
def Obligations.SelectionFollowsTheBestReference : Prop :=
  ∀ s : State,
    (∀ b, s.best = some b → s.eligible b ∧ ∀ r < 9, s.eligible r → s.refQual r < s.refQual b ∨ (s.refQual r = s.refQual b ∧
      (s.rwBits (rRefCfg b) 24 4 < s.rwBits (rRefCfg r) 24 4 ∨ (s.rwBits (rRefCfg b) 24 4 = s.rwBits (rRefCfg r) 24 4 ∧ b ≤ r)))) ∧
    ((s.up secTime = false ∨ s.tim.nsc % 480 ≠ 0) → exec .referenceEvaluation s = .next { s with out := [] }) ∧
    (s.up secTime → s.tim.nsc % 480 = 0 → s.tim.refs.length = 9 → ∃ t, exec .referenceEvaluation s = .next t ∧
      ∀ r, 2 ≤ r → r ≤ 7 → s.refEn r → s.refQual r = 0 → (s.ref r).st ≠ 2 → (t.ref r).st = 2 ∧ t.scBit rClkStat 22) ∧
    (s.up secTime → s.tim.nsc % 480 = 0 → (∀ r, 2 ≤ r → r ≤ 7 → s.refEn r → s.refQual r = 0 → (s.ref r).st = 2) →
      ∃ t, exec .referenceEvaluation s = .next t ∧
      (s.rwBit rClkCtl 31 → s.eligible (s.rwBits rClkCtl 24 4) → s.rwBits rClkCtl 24 4 ≤ 7 → s.tim.sel ≠ s.rwBits rClkCtl 24 4 →
        t.tim.sel = s.rwBits rClkCtl 24 4 ∧ t.scBit rClkStat 23 ∧ t.tim.switching) ∧
      (s.rwBit rClkCtl 31 = false → s.tim.sel ≤ 7 → s.eligible s.tim.sel → s.rwBit rClkCtl 23 = false →
        t.tim.sel = s.tim.sel ∧ t.tim.tst = s.tim.tst ∧ t.regs = s.regs) ∧
      (∀ b, s.rwBit rClkCtl 31 = false → s.tim.tst = 0 → s.tim.sel = 15 → s.tim.switching = false → s.best = some b → b ≤ 7 →
        t.tim.sel = b ∧ t.tim.tst = 1 ∧ t.tim.switching ∧ t.scBit rClkStat 23) ∧
      (s.rwBit rClkCtl 31 = false → s.tim.switching = false → s.best = none → s.tim.hoValid → s.tim.tst ≠ 3 →
        t.tim.tst = 3 ∧ t.tim.sel = 15 ∧ t.scBit rClkStat 19)) ∧
    exec .timeLocked s = .next { s with
      out := [], tim := (if s.up secTime ∧ s.tim.tst = 1 ∧ s.inPhase then { s.tim with tst := 2, since := s.tim.nsc } else s.tim) } ∧
    exec .buildoutRemoved s = .next { s with
      out := [], tim := { s.tim with switching := s.tim.switching && !(s.up secTime && !s.removing && s.tim.steady) } } ∧
    (s.tim.steer.natAbs ≤ 200000000 → ((s.steerBlock.tim.steer - s.tim.steer).natAbs : Int) ≤ slewOf s.slew (s.tim.nsc / 12)) ∧
    exec .smoulderValid s = .next { s with
      out := [], tim := { s.tim with hoValid := s.tim.hoValid || decide (s.up secTime ∧ s.tim.tst = 2 ∧ s.tim.sel ≤ 7 ∧ s.tim.held = false ∧
        s.tim.win ≠ [] ∧ s.tim.since + 2880000 ≤ (s.ref s.tim.sel).last) } } ∧
    (s.learnDue = false → exec .smoulderLearn s = .next { s with out := [] }) ∧
    (s.learnDue → s.tim.mins < 65535 * 60 → ∃ t, exec .smoulderLearn s = .next t ∧ t.tim.mins = s.tim.mins + 1 ∧
      t = { s with out := [], tim := { s.tim with mins := t.tim.mins, bins := t.tim.bins, age := t.tim.age, fit := t.tim.fit, lrn := (0, 0, 0) } } ∧
      let b := rdiv s.tim.lrn.2.2 s.tim.lrn.1
      (-4050 ≤ b → b < 12550 → binWeight (t.bin ((b + 4050) / 100).toNat) = min (binWeight (s.bin ((b + 4050) / 100).toNat) + 1) 255) ∧
      ∀ k, k ≠ ((b + 4050) / 100).toNat → t.bin k = s.bin k) ∧
    ((s.stokerRuns = false ∨ s.up secTime = false ∨ s.hasFree 3 = false) → exec .smoulderSave s = .next { s with out := [] }) ∧
    (s.stokerRuns → s.up secTime → s.hasFree 3 → ∃ t, exec .smoulderSave s = .next t ∧ t = { s with out := [], pea := t.pea } ∧
      ∀ a < 0x102, t.pea.mem.word (smoAddr + 4 * a) = s.timIx a)

/-- Frames, clock loss and rate of slave ports. A frame of a RUNNING slave port with buffers in range, one internal tick after
the one before, takes the oldest words for both directions and adds the new ones, so that both keep their length and no slip
is counted; a glitch in it is an event and is counted. A pending copy applies at the frame start, for a master port at a
frame of the block that has not begun, or else stays pending for the boundary. Clocks that stop make a RUNNING slave port
LOST; a rate window beyond 1,000 ppm makes it FAULT and stores the offset. None of these touches a port that is not in the
state it is for, or any other port. -/
def Obligations.SlavePortsFollowTheirClock : Prop :=
  ∀ (s : State) (n : Fin 16), s.up secStr →
    let p := s.port n
    let sl := cfgSlave (s.tdmCfg n)
    (∀ f : SlaveFrame, sl → p.st = 3 → 2 ≤ p.rxBuf.length → p.rxBuf.length ≤ 7 → 1 ≤ p.txBuf.length → p.txBuf.length ≤ 6 →
      p.tick < domSpb (cfgFrate (s.tdmCfg n)) → s.framePos f (domDiv (cfgFrate (s.tdmCfg n))) = p.tick + 1 → ∃ t w, exec (.tdmSlaveFrame n f) s = .next t ∧ (t.port n).st = 3 ∧
        (t.port n).rxBuf = p.rxBuf.drop 1 ++ [mapFrame p.rxLive (cfgSlots (s.tdmCfg n)) (f.words.map fun x =>
          rxSample (cfgWidth (s.tdmCfg n)) (satN (cfgWidth (s.tdmCfg n)) x))] ∧
        (t.port n).txBuf = p.txBuf.drop 1 ++ [w] ∧ t.ctr (rTdm n + 0x014) = s.ctr (rTdm n + 0x014) ∧
        (f.bclkOk → f.fsyncOk → (t.port n).glitch = p.glitch ∧ t.regs = s.regs) ∧
        ((f.bclkOk = false ∨ f.fsyncOk = false) → (t.port n).glitch ∧ t.scBit (rTdmStat n) 23 ∧
          t.ctr (rTdm n + 0x018) = (s.ctr (rTdm n + 0x018)).inc) ∧ ∀ k, k ≠ n → t.port k = s.port k) ∧
    ((p.st ≠ 3 ∨ p.swp = false) → exec (.tdmSwapApply n) s = .next { s with out := [] }) ∧
    (sl = false → p.st = 3 → p.swp → ∃ t, exec (.tdmSwapApply n) s = .next t ∧ (∀ k, k ≠ n → t.port k = s.port k) ∧
      (t.port n = p ∨ (t.port n).swp = false ∧ (t.port n).rxLive = s.shadow n 0x040 ∧ (t.port n).txLive = s.shadow n 0x060)) ∧
    (sl → p.st = 3 → p.swp → ∃ t, exec (.tdmSwapApply n) s = .next t ∧ (t.port n).swp = false ∧ (t.port n).rxLive = s.shadow n 0x040 ∧
      (t.port n).txLive = s.shadow n 0x060 ∧ (∀ k, k ≠ n → t.port k = s.port k) ∧
      ∀ i < 32, enabledAt (s.shadow n 0x060) i → enabledAt p.txLive i = false → i ∈ (t.port n).fresh) ∧
    ((sl = false ∨ p.st ≠ 3) → exec (.tdmClockLost n) s = .next { s with out := [] }) ∧
    (sl → p.st = 3 → ∃ t, exec (.tdmClockLost n) s = .next t ∧ (t.port n).st = 4 ∧ t.scBit (rTdmStat n) 22 ∧ (t.port n).swp = false ∧
      ∀ k, k ≠ n → t.port k = s.port k) ∧
    (∀ o : Int, (sl = false ∨ p.st < 2) → exec (.tdmRateWindow n o) s = .next { s with out := [] }) ∧
    (∀ o : Int, sl → 2 ≤ p.st → ∃ t, exec (.tdmRateWindow n o) s = .next t ∧ (t.port n).ofs = o ∧
      (t.port n).st = (if p.st = 3 ∧ 10000 < o.natAbs then 5 else p.st) ∧ (p.st = 3 → 10000 < o.natAbs → t.scBit (rTdmStat n) 21) ∧
      ∀ k, k ≠ n → t.port k = s.port k)

/-- Enabling, pairing, the lease and HELD. HIT_CFG.EN is taken only where R378 allows it and the audit log can take the record:
the unit is then SEEKING and stops its drive at the next boundary; clearing it makes the device no twin, which drives.
SEEKING and HELD units that hear nothing become SOLE and drive from the next boundary. A received PAIR from a unit of the
same role or without a common version only sets its flag; otherwise the home unit of two that do not drive becomes ACTIVE and
the other STANDBY, and a SOLE unit stays the driving one. RENEW is sent at multiples of 48 and answered by a standby, an ACK
in time extends the lease to 192 A-samples after its RENEW, any other only tells READY and SYNC, a RENEW left without one is
counted, and a lease that ends stops the drive. PAIR goes to queue Q1 of the ports of the pair, for the partner. A frame of
the partner ends HELD by pairing. Outside its state each event has no effect. -/
def Obligations.TwinRolesAndDrive : Prop :=
  ∀ s : State,
    (∀ (src : WrSrc) (w : Word), s.reaches src rHitCfg →
      (s.hitEn = false → w.getLsbD 31 → s.hitMayEnable (w &&& 0xF800FFFF#32) → s.auditOk → ∃ t, exec (.hitEnable src w) s = .next t ∧
        t.twin.st = 1 ∧ t.twin.driveAt = some (s.tim.nsc + 12, false) ∧ t.twin.drive = s.twin.drive ∧ t.rw rHitCfg = w &&& 0xF800FFFF#32) ∧
      (s.hitEn = false → w.getLsbD 31 → s.hitMayEnable (w &&& 0xF800FFFF#32) = false → ∃ t, exec (.hitEnable src w) s = .next t ∧
        t.twin = s.twin ∧ (∀ o, t.rw o = s.rw o) ∧ t.scBit (wCtl + 0x0050) 23) ∧
      (s.hitEn → w.getLsbD 31 = false → s.auditOk → ∃ t, exec (.hitEnable src w) s = .next t ∧ t.hitEn = false ∧
        t.twin.st = 0 ∧ t.twin.driveAt = some (s.tim.nsc + 12, true))) ∧
    exec .seekTimeout s = .next { s with out := [], twin := if s.twin.st = 1 then
      { s.twin with st := 2, driveAt := some (s.tim.nsc + 12, true) } else s.twin } ∧
    exec .heldTimeout s = .next { s with out := [], twin := if s.twin.st = 5 ∧ s.rwBit rHitCfg 28 then
      { s.twin with st := 2, driveAt := some (s.tim.nsc + 12, true) } else s.twin } ∧
    (∃ t, exec .newActiveAckTimeout s = .next t ∧ t = { s with out := [], regs := t.regs, twin := t.twin } ∧
      (s.twin.st = 3 → s.twin.free → t.twin = { s.twin with st := 2, paired := false, free := false, acked := true } ∧
        t.ctr (cHit 1) = if s.twin.acked then s.ctr (cHit 1) else (s.ctr (cHit 1)).inc) ∧
      ((s.twin.st ≠ 3 ∨ s.twin.free = false) → t.twin = s.twin ∧ t.regs = s.regs)) ∧
    (s.hitEn → s.twin.paired = false → ∃ t, exec .hitchPairSend s = .next t ∧
      t = { s with out := [.hitch 1 [3, b2n s.hitHome + 2 * s.twin.st, s.digest, s.twin.fseq, s.tim.nsc] []]
                   twin := { s.twin with fseq := (s.twin.fseq + 1) % 2 ^ 32, q1 := t.twin.q1 } } ∧
      ∀ e : List Byte, s.peer (s.rwBits (wStr + 0x4008) 0 14) = some e → 6 ≤ e.length → ∃ f : TxFrame, f.q = 1 ∧ f.bytes.take 6 = e.take 6 ∧
        t.twin.q1 = s.twin.q1 ++ ((if s.rwBit rHitCfg 27 then [2, 3] else [0, 1]).filter s.portUp).map fun n => (n, f)) ∧
    ((s.hitEn = false ∨ s.twin.paired) → exec .hitchPairSend s = .next { s with out := [] }) ∧
    (∀ (vm : BitVec 8) (home : Bool) (st : BitVec 3) (dg : BitVec 32),
      (s.hitEn = false → exec (.hitchPair vm home st dg) s = .next { s with out := [] }) ∧
      (s.hitEn → home = s.hitHome → exec (.hitchPair vm home st dg) s =
        .next { s with out := [], twin := { s.twin with roleErr := true } }) ∧
      (s.hitEn → home ≠ s.hitHome → vm.toNat % 4 = 0 → exec (.hitchPair vm home st dg) s =
        .next { s with out := [], twin := { s.twin with roleErr := false, verFail := true } }) ∧
      (s.hitEn → home ≠ s.hitHome → vm.toNat % 4 ≠ 0 → ∃ t, exec (.hitchPair vm home st dg) s = .next t ∧ t.twin.paired ∧
        (t.twin.cfgmm ↔ dg.toNat ≠ s.digest) ∧ t.twin.ver = (if vm.getLsbD 1 then 2 else 1) ∧
        (s.twin.st = 1 → st.toNat ≠ 2 → st.toNat ≠ 3 → t.twin.st = (if s.hitHome then 3 else 4) ∧ t.twin.driveAt = s.twin.driveAt) ∧
        (s.twin.st = 1 → (st.toNat = 2 ∨ st.toNat = 3) → t.twin.st = 4 ∧ t.twin.driveAt = s.twin.driveAt) ∧
        (s.twin.st = 2 → st.toNat ≠ 2 → st.toNat ≠ 3 → t.twin.st = 3 ∧ t.twin.free ∧ t.twin.driveAt = s.twin.driveAt) ∧
        (s.twin.st = 2 → (st.toNat = 2 ∨ st.toNat = 3) → s.hitHome → t.twin.st = 3 ∧ t.twin.free) ∧
        (s.twin.st = 2 → (st.toNat = 2 ∨ st.toNat = 3) → s.hitHome = false → t.twin.st = 4 ∧
          ∃ b, t.twin.driveAt = some (b, false) ∧ b % 48 = 0 ∧ s.tim.nsc + 96 ≤ b))) ∧
    ((s.twin.st = 3 ∧ s.twin.paired ∧ s.tim.nsc % 48 = 0) → ∃ t, exec .hitchRenewSend s = .next t ∧
      t.out = [.hitch 2 [(s.twin.rseq + 1) % 2 ^ 32, s.twin.fseq, s.tim.nsc] []] ∧ t.twin.rseq = (s.twin.rseq + 1) % 2 ^ 32 ∧
      t.twin.acked = false ∧ t.twin.sentAt = s.tim.nsc ∧ t.twin.lease = s.twin.lease ∧
      t.ctr (cHit 1) = if s.twin.acked then s.ctr (cHit 1) else (s.ctr (cHit 1)).inc) ∧
    ((s.twin.st ≠ 3 ∨ s.twin.paired = false ∨ s.tim.nsc % 48 ≠ 0) → exec .hitchRenewSend s = .next { s with out := [] }) ∧
    (∀ q : BitVec 32,
      (s.twin.st = 4 → s.twin.paired → ∃ t a, exec (.hitchRenew q) s = .next t ∧ t.twin.ackAt = some a ∧ s.tim.nsc ≤ a ∧
        a < s.tim.nsc + 12 ∧ t.out = [.hitch 3 [q.toNat, b2n s.ready, s.twin.sync, s.twin.fseq, s.tim.nsc] []]) ∧
      (s.twin.st = 5 → s.hitEn → ∃ t, exec (.hitchRenew q) s = .next t ∧ t.twin.st = 4 ∧ t.twin.paired) ∧
      ((s.twin.st ≠ 4 ∨ s.twin.paired = false) → (s.twin.st ≠ 5 ∨ s.hitEn = false) → exec (.hitchRenew q) s = .next { s with out := [] }) ∧
      (∀ rd (sy : BitVec 2) rtt,
        (s.twin.st = 3 → s.twin.paired → s.twin.rseq = q.toNat → s.twin.acked = false → rtt ≤ 500 → ∃ t,
          exec (.hitchAck q rd sy rtt) s = .next t ∧ t.twin.lease = s.twin.sentAt + 192 ∧ t.twin.acked ∧ t.twin.free = false ∧
          t.twin.pready = rd ∧ t.twin.cready = rd ∧ t.twin.sync = sy.toNat ∧ t.twin.rtt = rtt ∧
          t.twin.driveAt = if s.twin.drive ∨ s.twin.driveAt.isSome then s.twin.driveAt else some (s.tim.nsc + 12, true)) ∧
        (s.twin.st = 3 → s.twin.paired → (s.twin.rseq ≠ q.toNat ∨ s.twin.acked ∨ 500 < rtt) → exec (.hitchAck q rd sy rtt) s =
          .next { s with out := [], twin := { s.twin with pready := rd, sync := sy.toNat } }) ∧
        (s.twin.st = 5 → s.hitEn → ∃ t, exec (.hitchAck q rd sy rtt) s = .next t ∧ t.twin.st = (if s.hitHome then 3 else 4) ∧ t.twin.paired) ∧
        ((s.twin.st ≠ 3 ∨ s.twin.paired = false) → (s.twin.st ≠ 5 ∨ s.hitEn = false) →
          exec (.hitchAck q rd sy rtt) s = .next { s with out := [] }))) ∧
    (let due := s.twin.st = 3 ∧ s.twin.drive = true ∧ s.twin.free = false ∧ s.twin.lease ≤ s.tim.nsc + 12
     (due → ∃ t, exec .driveLeaseEnd s = .next t ∧ t.twin.st = 5 ∧ t.twin.paired = false ∧
        t.twin.driveAt = some (s.tim.nsc + 12, false) ∧ t.scBit rHitStat 21 ∧ ∀ c ∈ t.mix.claims, c.partner = false) ∧
     (¬due → exec .driveLeaseEnd s = .next { s with out := [] }))

/-- Giving up, taking over, handing over. A cause is recorded in a unit with twin operation enabled, by trigger or by HIT_CTL. An
active unit with a cause and a partner whose last counted ACK said READY stops driving at the next boundary, says so, and
becomes STANDBY; its partner becomes ACTIVE and drives from its next boundary, with GAPLONG where that comes late. A standby
whose last ACK is 240 A-samples old at the boundary to come becomes SOLE and drives; one that has sent no ACK does not. A
home standby may ask for a handover at a block number that is a multiple of 4, at least 96 A-samples ahead; the active unit
accepts one that is 48 or more ahead, and the standby that is accepted drives from there. RESYNC asks for a whole checkpoint,
but with different digests. Outside its state each has no effect. -/
def Obligations.GiveUpTakeoverAndHandover : Prop :=
  ∀ s : State,
    (∀ c : Fin 8, ((c = 0 ∨ s.hitEn = false) → exec (.giveupTrigger c) s = .next { s with out := [] }) ∧
      (c ≠ 0 → s.hitEn → ∃ t, exec (.giveupTrigger c) s = .next t ∧ t.scBit rHitStat 22 ∧ t.twin.cause = c ∧
        (s.twin.st = 3 → s.twin.cready → t.twin.due) ∧ ((s.twin.st = 2 ∨ (s.twin.st = 3 ∧ s.twin.cready = false)) → t.twin.guPend) ∧
        t = { s with out := [], regs := t.regs, twin := { s.twin with cause := c, due := t.twin.due, guPend := t.twin.guPend } })) ∧
    (∀ w : Word, s.up secStr → (wbits w 0 3 = 1 → exec (.hitCtlGiveup w) s = exec (.giveupTrigger 7) s) ∧
      (wbits w 0 3 ≠ 1 → wbits w 0 3 ≠ 2 → wbits w 0 3 ≠ 4 → exec (.hitCtlGiveup w) s = .next { s with out := [] } ∧
        exec (.hitCtlHandover w) s = .next { s with out := [] } ∧ exec (.resync w) s = .next { s with out := [] }) ∧
      (wbits w 0 3 = 4 → s.twin.st = 4 → s.twin.paired → s.twin.cfgmm = false → ∃ t, exec (.resync w) s = .next t ∧ t.twin.sync = 1 ∧
        t.out = [.hitch 0x32 [s.twin.ckno, 0xFFFFFFFF, s.twin.fseq, s.tim.nsc] []]) ∧
      (wbits w 0 3 = 4 → (s.twin.st ≠ 4 ∨ s.twin.paired = false ∨ s.twin.cfgmm) → exec (.resync w) s = .next { s with out := [] }) ∧
      (wbits w 0 3 = 2 → s.twin.st = 4 → s.twin.paired → s.hitHome → s.twin.hand = none → ∃ t b,
        exec (.hitCtlHandover w) s = .next t ∧ t.twin.hand = some (b, false) ∧ b % 48 = 0 ∧ s.tim.nsc + 96 ≤ b ∧
        t.out = [.hitch 5 [b, s.twin.fseq, s.tim.nsc] []]) ∧
      (wbits w 0 3 = 2 → s.rwBit rHitCfg 29 → s.ready → exec .handoverStart s = exec (.hitCtlHandover w) s)) ∧
    ((s.rwBit rHitCfg 29 = false ∨ s.ready = false) → exec .handoverStart s = .next { s with out := [] }) ∧
    ((s.twin.st = 3 ∧ s.twin.cready = true ∧ (s.twin.due = true ∨ s.twin.guPend = true)) → ∃ t, exec .giveUp s = .next t ∧
      t.twin.st = 4 ∧ t.twin.driveAt = some (s.tim.nsc + 12, false) ∧ t.twin.due = false ∧ t.twin.guPend = false ∧
      t.twin.guReps.map Prod.snd = [s.tim.nsc + 24, s.tim.nsc + 36, s.tim.nsc + 48] ∧
      ∃ l, t.out = .hitch 4 [s.tim.nsc + 12, s.twin.cause, s.twin.fseq, s.tim.nsc] [] :: l) ∧
    ((s.twin.st ≠ 3 ∨ s.twin.cready = false ∨ (s.twin.due = false ∧ s.twin.guPend = false)) →
      exec .giveUp s = .next { s with out := [] }) ∧
    (∀ (g : BitVec 64) (c : BitVec 8),
      (s.twin.st = 4 → s.twin.paired → ∃ t, exec (.hitchGiveup g c) s = .next t ∧ t.twin.st = 3 ∧ t.twin.paired ∧ t.twin.free ∧
        t.twin.driveAt = some (s.tim.nsc + 12, true) ∧ t.scBit rHitStat 23 ∧ t.mix.csn = max s.mix.csn s.twin.maxCsn ∧
        (g.toNat + 36 < s.tim.nsc + 12 → t.scBit rHitStat 20)) ∧
      ((s.twin.st ≠ 4 ∨ s.twin.paired = false) → s.twin.st ≠ 5 → exec (.hitchGiveup g c) s = .next { s with out := [] })) ∧
    (∀ a, s.twin.ackAt = some a → s.twin.st = 4 → s.twin.paired → a + 240 ≤ s.tim.nsc + 12 → ∃ t,
      exec .leaseExpiryTakeover s = .next t ∧ t.twin.st = 2 ∧ t.twin.driveAt = some (s.tim.nsc + 12, true) ∧ t.scBit rHitStat 23 ∧
      ∀ c ∈ t.mix.claims, c.partner = false) ∧
    ((s.twin.st ≠ 4 ∨ s.twin.paired = false ∨ ∀ a, s.twin.ackAt = some a → s.tim.nsc + 12 < a + 240) →
      exec .leaseExpiryTakeover s = .next { s with out := [] }) ∧
    (∀ b : BitVec 64,
      (s.twin.paired = false → s.twin.st ≠ 5 → exec (.hitchHandover b) s = .next { s with out := [] }) ∧
      (s.twin.paired → s.twin.st = 3 → ∃ t ok, exec (.hitchHandover b) s = .next t ∧ t.twin.hand = some (b.toNat, ok) ∧
        (s.tim.nsc + 60 ≤ b.toNat → ok = true) ∧ (b.toNat < s.tim.nsc + 48 → ok = false) ∧
        t.out = [.hitch 6 [b.toNat, b2n ok, s.twin.fseq, s.tim.nsc] []]) ∧
      (∀ a, s.twin.hand = some (b.toNat, a) → s.twin.st = 4 →
        exec (.hitchHandack b true) s = .next { s with
          out := [], twin := { s.twin with hand := some (b.toNat, true), driveAt := some (b.toNat, true) } } ∧
        exec (.hitchHandack b false) s = .next { s with
          out := [], twin := { s.twin with hand := if a then s.twin.hand else none } }) ∧
      (∀ ok, s.twin.st ≠ 5 → (s.twin.st ≠ 4 ∨ s.twin.hand = none ∨ ∃ g a, s.twin.hand = some (g, a) ∧ g ≠ b.toNat) →
        exec (.hitchHandack b ok) s = .next { s with out := [] }))

/-- Forwarded operations, journal records, checkpoints. The active unit answers a forwarded operation with the CSN it assigned,
or with the status that refuses it; the standby keeps the CSN, and completes the descriptor when the operation is refused, or
when its record has been applied and its completion has come. A host fault of the partner ends that host's claims. A standby
with equal digests applies the journal record that is next, keeps it in its journal store, asks again for a gap, takes chunks
whose check agrees and refuses the others; the active unit resends records and chunks, and makes a whole checkpoint of its
tables and pending operations with a new number, on request and every CKPER minutes, with CKPER 0 none. Outside its state
each has no effect. -/
def Obligations.ForwardingJournalAndCheckpoints : Prop :=
  ∀ s : State,
    (∀ (id : BitVec 32) (h : Fin 4) (ds da : List Byte) o, s.twin.st = 3 → s.twin.paired → mkOp 3 h ⟨8, 0, ds, true, false, none⟩ da = .ok o →
      let u : State := { s with out := [], freeCtr := s.freeCtr + 1 }
      let r := u.acceptStatus h true s.now.1 { o with ring := 8, fwd := some id.toNat, width := 48 }
      (s.mix.act = false → exec (.hitchFwd id h ds da) s = .next (u.hitch 0x11 [id.toNat, 0, stAborted] [])) ∧
      (s.mix.act → r.1 = stOk → ∃ t q, exec (.hitchFwd id h ds da) s = .next t ∧ t.mix.csn = (s.mix.csn + 1) % 2 ^ 48 ∧
        .hitch 0x11 [id.toNat, r.2.csn, stOk, q, s.tim.nsc] [] ∈ t.out ∧
        (o.kind ≠ .claim → o.kind ≠ .release → o.kind ≠ .readState → t.mix.ops = s.mix.ops ++ [r.2])) ∧
      (s.mix.act → r.1 ≠ stOk → ∃ t, exec (.hitchFwd id h ds da) s = .next t ∧ t.mix = s.mix ∧
        t.out = [.hitch 0x11 [id.toNat, 0, r.1, s.twin.fseq, s.tim.nsc] []])) ∧
    (∀ (id : BitVec 32) f, s.twin.st ≠ 5 → s.twin.fwds.find? (fun f => f.id = id.toNat) = some f →
      (∀ (csn : BitVec 48) (st : BitVec 16),
        (st ≠ 0 → ∃ t, exec (.hitchFwdreply id csn st) s = .next t ∧ (∀ g ∈ t.twin.fwds, g.id ≠ id.toNat) ∧
          ∀ e ∈ (t.hst f.ticket.host).descs, e.is f.ticket = false) ∧
        (st = 0 → f.status = none → (f.op.kind ≠ .readState ∨ s.jTarget csn.toNat = none) → exec (.hitchFwdreply id csn st) s = .next { s with out := [], twin := { s.twin with
          maxCsn := max s.twin.maxCsn csn.toNat
          fwds := s.twin.fwds.map fun g => if g.id = id.toNat then { g with csn := some csn.toNat } else g } }) ∧
        (∀ x, st = 0 → f.op.kind = .readState → s.jTarget csn.toNat = some x → ∃ t o, exec (.hitchFwdreply id csn st) s = .next t ∧
          t.mix.ops = s.mix.ops ++ [o] ∧ o.kind = .readState ∧ o.csn = csn.toNat ∧ o.t = x ∧ o.fwd = some f.id)) ∧
      (∀ st : BitVec 16,
        (f.csn = none → exec (.hitchFwdcpl id st) s = .next { s with out := [], twin := { s.twin with
          fwds := s.twin.fwds.map fun g => if g.id = id.toNat then { g with status := some st.toNat } else g } }) ∧
        (∀ c, f.csn = some c → c ≤ s.twin.lastCsn → f.op.kind ≠ .readState → ∃ t, exec (.hitchFwdcpl id st) s = .next t ∧
          (∀ g ∈ t.twin.fwds, g.id ≠ id.toNat) ∧ ∀ e ∈ (t.hst f.ticket.host).descs, e.is f.ticket = false))) ∧
    (∀ (id : BitVec 32) csn st, s.twin.st ≠ 5 → s.twin.fwds = [] → exec (.hitchFwdreply id csn st) s = .next { s with out := [] } ∧
      exec (.hitchFwdcpl id st) s = .next { s with out := [] }) ∧
    (∀ h : Fin 4,
      (s.twin.st = 3 → s.claimsOf h true ≠ [] → ∃ t, exec (.hitchHfault h) s = .next t ∧ t.mix.csn = (s.mix.csn + 1) % 2 ^ 48 ∧
        (∀ c ∈ t.mix.claims, c.host = h.val → c.partner = false) ∧
        ∀ c ∈ s.mix.claims, (c.host ≠ h.val ∨ c.partner = false) → c ∈ t.mix.claims) ∧
      ((s.twin.st ≠ 3 ∨ s.claimsOf h true = []) → s.twin.st ≠ 5 → exec (.hitchHfault h) s = .next { s with out := [] })) ∧
    (s.replicates → s.twin.sealed → s.twin.sealMsg = none → s.twin.ahead = [] → ∀ (j : BitVec 48) (a : BitVec 40) (d : List Byte),
      (j.toNat = s.twin.jnext → ∃ t, exec (.hitchJrnl [.write j a d]) s = .next t ∧ (∀ x, (s.ckErr ∨ x < s.ckBase + 0x400000 ∨ s.ckBase + 0x800000 ≤ x) →
          t.mem.bulk.get x = (s.mem.bulk.setN a.toNat d).get x) ∧ t.twin.jnext = (s.twin.jnext + 1) % 2 ^ 48 ∧ t.out = []) ∧
      (jBefore s.twin.jnext j.toNat → (j.toNat + 2 ^ 48 - s.twin.jnext) % 2 ^ 48 < 65536 → ∃ t,
        exec (.hitchJrnl [.write j a d]) s = .next t ∧ t.mem = s.mem ∧ t.twin.jnext = s.twin.jnext ∧ t.twin.ahead = [.write j a d] ∧
        t.out = [.hitch 0x21 [s.twin.jnext, s.twin.fseq, s.tim.nsc] []])) ∧
    (∀ j : BitVec 48, (s.journals → ∃ t, exec (.hitchJnack j) s = .next t ∧
        t.out.length = (s.twin.store.filter fun r => !jBefore (jsnOf r) j.toNat).length ∧
        (∀ o ∈ t.out, ∃ r ∈ s.twin.store, jBefore (jsnOf r) j.toNat = false ∧ ∃ f d, o = .hitch 0x20 (jsnOf r :: f) d) ∧ t = { s with out := t.out, twin := { s.twin with fseq := t.twin.fseq, q1 := t.twin.q1 } }) ∧
      (s.journals = false → s.twin.st ≠ 5 → exec (.hitchJnack j) s = .next { s with out := [] })) ∧
    (s.replicates → ∀ (ck n crc : BitVec 32) (d : List Byte),
      ((crc32 d ≠ crc.toNat ∨ 4096 ≤ n.toNat) → ∃ t, exec (.hitchCkpt ck n d crc) s = .next t ∧ t.mem = s.mem ∧
        t.ctr (cHit 4) = (s.ctr (cHit 4)).inc ∧ t.out = [.hitch 0x32 [ck.toNat, n.toNat, s.twin.fseq, s.tim.nsc] []]) ∧
      (crc32 d = crc.toNat → n.toNat < 4096 → s.twin.sealMsg = none → ∃ t, exec (.hitchCkpt ck n d crc) s = .next t ∧
        t.mem.bulk = s.mem.bulk.setN (s.ckBase + 1024 * n.toNat) d ∧ n.toNat ∈ t.twin.chunks ∧ t.twin.ckno = ck.toNat ∧ t.out = [])) ∧
    (s.replicates → ∀ (ck crc : BitVec 32) (j e : BitVec 48) k, k < 3616 → (k ∉ s.twin.chunks ∨ ck.toNat ≠ s.twin.ckno) →
      s.twin.ahead = [] → ∃ t, exec (.hitchSeal ck j e crc) s = .next t ∧
        t.twin.sealMsg = some (ck.toNat, j.toNat, e.toNat, crc.toNat) ∧ t.twin.ckno = ck.toNat ∧ t.mem = s.mem ∧
        (s.twin.sealed = false → s.twin.sealMsg = none → t.twin.jnext = j.toNat) ∧ ∃ f, .hitch 0x32 ([ck.toNat, k] ++ f) [] ∈ t.out) ∧
    (s.replicates = false → s.twin.st ≠ 5 → ∀ (ck n crc : BitVec 32) (j e : BitVec 48) (d : List Byte) rs,
      exec (.hitchCkpt ck n d crc) s = .next { s with out := [] } ∧ exec (.hitchSeal ck j e crc) s = .next { s with out := [] } ∧
      exec (.hitchJrnl rs) s = .next { s with out := [] }) ∧
    (∀ ck n : BitVec 32, s.journals →
      (n = 0xFFFFFFFF#32 → ∃ t, exec (.hitchCkreq ck n) s = .next t ∧ t.twin.ckno = (s.twin.ckno + 1) % 2 ^ 32 ∧
        t.out.length = 3617 + s.mix.ops.length ∧
        t = { s with out := t.out, twin := { s.twin with ckno := t.twin.ckno, fseq := t.twin.fseq, q1 := t.twin.q1 } } ∧
        (s.rwBits (wStr + 0x4004) 0 8 ≠ 0 → exec .checkpointPeriod s = .next t)) ∧
      (n.toNat < 3616 + s.mix.ops.length → n ≠ 0xFFFFFFFF#32 → ∃ t, exec (.hitchCkreq ck n) s = .next t ∧ t = { s with
        out := [.hitch 0x30 [s.twin.ckno, n.toNat, crc32 (s.chunk n.toNat), s.twin.fseq, s.tim.nsc] (s.chunk n.toNat)]
        twin := { s.twin with fseq := (s.twin.fseq + 1) % 2 ^ 32, q1 := t.twin.q1 } })) ∧
    ((s.journals = false ∨ s.rwBits (wStr + 0x4004) 0 8 = 0) → exec .checkpointPeriod s = .next { s with out := [] })

/-- The noise servo. While zones are processed, a CONVERGING zone whose last 200 updates had converged becomes TRACKING, one that
has been without a usable microphone for 1 s or has missed 40 updates FROZEN, which is counted, a FROZEN one RELAXING after
FREEZEMAX, and a microphone that fails shows as unusable, and in SERR; where the condition does not hold no zone changes. At
a block number that is a multiple of 40 the one update of the boundary moves each applied gain by at most RATE, a TRACKING
one towards its target, and holds the noise level of a band whose reference is above -60 dBFS with ERLE below 10 dB; one
without a measurement moves nothing outside RELAXING; at any other block, and a second time, an update does nothing. Without
zones none of these has an effect. -/
def Obligations.ZoneServoStates : Prop :=
  ∀ s : State,
    (s.zonesRun = false → ∀ (z : Fin 256) (m : Fin 4), exec (.servoConverged z) s = .next { s with out := [] } ∧
      exec (.servoFreeze z) s = .next { s with out := [] } ∧ exec (.servoRelax z) s = .next { s with out := [] } ∧
      exec (.micUnusable z m) s = .next { s with out := [] }) ∧
    (∀ (z : Fin 256) y, s.zonesRun → s.zone z = some y → y.idx = z →
      let becomes (c : Instr) (w : Zone) : Prop := ∃ t, exec c s = .next t ∧ t.zone z = some w ∧ ∀ k, k ≠ z.val → t.zone k = s.zone k
      (y.st = .converging → 200 ≤ y.conv → becomes (.servoConverged z) { y with st := .tracking }) ∧
      ((y.st ≠ .converging ∨ y.conv < 200) → becomes (.servoConverged z) y) ∧
      (y.mayFreeze → ∃ t, exec (.servoFreeze z) s = .next t ∧ t.zone z = some { y with st := .frozen, frozen := 0 } ∧
        t.ctr cZnFreeze = (s.ctr cZnFreeze).inc ∧ ∀ k, k ≠ z.val → t.zone k = s.zone k) ∧
      (y.mayFreeze = false → exec (.servoFreeze z) s = .next { s with out := [] }) ∧
      (y.st = .frozen → Zn.freezeMax y.img ≤ 250 * y.frozen → becomes (.servoRelax z) { y with st := .relaxing, missed := 0 }) ∧
      ((y.st ≠ .frozen ∨ 250 * y.frozen < Zn.freezeMax y.img) → becomes (.servoRelax z) y) ∧
      (∀ m : Fin 4, m.val < Zn.nmic y.img → y.fails.getD m false →
        becomes (.micUnusable z m) { y with usable := y.usable.set m false, serr := y.serr ||| 2#8 }) ∧
      (∀ m : Fin 4, (Zn.nmic y.img ≤ m.val ∨ y.fails.getD m false = false) → becomes (.micUnusable z m) y)) ∧
    (∀ ms, s.tim.nsc % 480 ≠ 0 → exec (.servoUpdate ms) s = .next { s with out := [] }) ∧
    (∀ ms z, s.tim.nsc % 480 = 0 → s.zonesRun → s.mix.zones = [z] → (∀ l : Fin 64, (s.lane l).zonesTo = none) →
      (z.done → exec (.servoUpdate ms) s = .next { s with out := [] }) ∧
      (z.done = false → ∃ t y, exec (.servoUpdate ms) s = .next t ∧ t.mix.zones = [y] ∧ y.done ∧ y.idx = z.idx ∧ y.img = z.img ∧
        y.gOld = z.gapp ∧ y.tOld = z.tapp ∧
        ((y.gapp - z.gapp).natAbs : Int) ≤ Zn.rate z.img ∧ ((y.tapp - z.tapp).natAbs : Int) ≤ Zn.rate z.img ∧
        (Zn.en z.img → Zn.servo z.img → (s.serverOf z.idx).isSome → (z.st = .converging ∨ z.st = .tracking) →
          (ms = [] → y.st = z.st ∧ y.missed = z.missed + 1 ∧ y.gapp = z.gapp ∧ y.tapp = z.tapp) ∧
          (∀ m, ms = [m] → m.zone = z.idx → m.missed = false → y.st = z.st ∧ y.missed = 0 ∧ y.coup = m.coup ∧ y.erle = m.erle ∧
            y.updNsc = s.tim.nsc ∧
            (∀ b < 7, -6000 < m.refLev.getD b (-14400) → m.erle.getD b 0 < 20 → y.noise.getD b (-14400) = z.noise.getD b (-14400)) ∧
            (z.st = .tracking → y.gapp = stepTo (Zn.rate z.img) z.gapp y.gtgt ∧ y.tapp = stepTo (Zn.rate z.img) z.tapp y.ttgt) ∧
            (z.st = .converging → y.gapp = z.gapp ∧ y.tapp = z.tapp)))))

/-- START and STOP of the all-call bypass. A write of CTL_ACCTL sets the latch with START and clears it with STOP; with both bits
set it is ignored; it reaches the register through any recovery window and by the register space. A change of latch or pin
that changes ACTIVE turns the crossfade within the block under way, at a sample that is free (notes/assumptions/20.md); the
activation sets STARTEVT, and a new activation starts from its own source. A lost source is shown, and with FALLBACK a lost
network source is replaced by P0; its return ends both. The end of a crossfade within 12 A-samples sets the weight to its
limit, and a DAC channel that the bypass then leaves follows its own words. -/
def Obligations.AllCallStartsAndStops : Prop :=
  ∀ (s : State) (w : Word), s.awake →
    let turned (t : State) (b : Bypass) : Prop :=
      let a := (b.pin && s.rwBit rAcCfg 0) || b.latch
      t.acActive = a ∧ (a = s.acActive → t = { s with out := [], byp := b }) ∧
      (a ≠ s.acActive → (a → t.scBit rAcStat 17) ∧ ∃ p ≤ 12,
        t.byp = { b with turns := s.byp.turns ++ [(p, a)], lost := s.byp.lost && !a, fallback := s.byp.fallback && !a }) ∧
      t = { s with out := t.out, freeCtr := t.freeCtr, sub := t.sub, regs := t.regs, byp := t.byp }
    (∀ c, (c = .allcallStart w ∧ w.getLsbD 0 ∨ c = .allcallStop w ∧ w.getLsbD 1) →
      (w.getLsbD 0 → w.getLsbD 1 → exec c s = .next { s with out := [] }) ∧
      ((w.getLsbD 0 = false ∨ w.getLsbD 1 = false) → ∃ t, exec c s = .next t ∧ turned t { s.byp with latch := w.getLsbD 0 })) ∧
    (∀ h : Fin 4, s.windowOn h → s.reaches (.recovery h) (wCtl + 0x0404)) ∧
    (∀ m : Fin 14, s.reaches (.matrix m) (wCtl + 0x0404) ↔ s.masterOn m ∧ (m.val < 5 ∨ m.val = 13)) ∧
    (∀ src, s.reaches src (wCtl + 0x0404) →
      (w.getLsbD 0 → exec (.registerWrite src 0x00404#20 w) s = exec (.allcallStart w) s) ∧
      (w.getLsbD 1 → exec (.registerWrite src 0x00404#20 w) s = exec (.allcallStop w) s)) ∧
    (∀ h : Fin 4, s.recRead (wCtl + 0x0404) = 0#32 ∧ (h.val < 2 → s.windowOn h →
      w.getLsbD 0 → exec (.recoveryWrite h 0x404#12 w) s = exec (.allcallStart w) s)) ∧
    (∀ b, ∃ t, exec (.allcallPinAccept b) s = .next t ∧ turned t { s.byp with pin := b }) ∧
    (∃ t, exec .allcallSourceLost s = .next t ∧ t.byp.lost ∧ t.scBit rAcStat 18 ∧
      (t.byp.fallback ↔ (s.byp.fallback ∨ (s.rwBit rAcCfg 1 ∧ s.rwBit rAcCfg 3)))) ∧
    exec .allcallSourceReturn s = .next { s with out := [], byp := { s.byp with lost := false, fallback := false } } ∧
    (s.byp.turns = [] → s.byp.up → 228 ≤ s.byp.weight →
      exec .allcallCrossfadeEnd s = .next { s with out := [], byp := { s.byp with weight := 240 } }) ∧
    (s.byp.turns = [] → s.byp.up = false → s.byp.weight ≤ 12 → ∃ t, exec .allcallCrossfadeEnd s = .next t ∧
      t.byp = { s.byp with weight := 0 } ∧
      t = { s with out := t.out, regs := t.regs, byp := t.byp, dac := { s.dac with held := t.dac.held }, sub := t.sub } ∧
      ((∀ n < 8, s.acDac n = false) → t.out = [] ∧ t.regs = s.regs ∧ t.dac = s.dac)) ∧
    ((s.byp.turns ≠ [] ∨ (if s.byp.up then s.byp.weight < 228 else 12 < s.byp.weight)) →
      exec .allcallCrossfadeEnd s = .next { s with out := [] })

/-- Input copies, deadlines, bundles, interrupts and DMA of lanes. The input copy of a Dray that runs makes each RUNNING lane
that is not late ready with blkn of the input block, and defers one that is late; the deadline marks each lane that has not
executed bsync late and counts it. Single-bit errors in what a bundle or a transfer reads are corrected and counted. A bundle
without operations only moves pc on; an add writes the sum and its flags; a bundle with an exception has no effect but the
pending exception, or halts the lane inside a handler. Entry saves pc and sr and clears IE, LPEN and BW, exceptions before
DMA before message. A DMA descriptor from pool SRAM into data memory moves its bytes with STATUS 1; one that names no lane
space moves nothing with STATUS 4. A lane that may not do so does none of these. -/
def Obligations.LanesRunBlockByBlock : Prop :=
  ∀ (s : State) (l : Fin 64),
    let x := s.lane l
    let set (cor : Nat) (y : Lane) : State := { (s.laneCorrected l cor).laneSet l y with out := [] }
    (∀ d : Fin 4, s.dryOn d = false → exec (.drayInputCopyDone d) s = .next { s with out := [] } ∧
      exec (.laneDeadline d) s = .next { s with out := [] }) ∧
    (∀ d : Fin 4, s.dryOn d →
      (∃ t, exec (.drayInputCopyDone d) s = .next t ∧ ∀ k : Fin 64,
        (k.val / 16 = d → (s.lane k).st = .running → ((s.lane k).late = false ∨ (s.lane k).r.srBit 2) → (t.lane k).ready ∧
          (t.lane k).late = false ∧ (t.lane k).r.srBit 2 = false ∧ (t.lane k).r.blkn = BitVec.ofInt 32 ((s.tim.nsc / 12 : Nat) - 3 : Int) ∧
          (t.lane k).st = .running ∧ (t.lane k).r.pc = (s.lane k).r.pc) ∧
        (k.val / 16 = d → (s.lane k).st = .running → (s.lane k).late → (s.lane k).r.srBit 2 = false →
          t.lane k = { s.lane k with waitIn := true }) ∧
        ((k.val / 16 ≠ d ∨ (s.lane k).st ≠ .running) → t.lane k = s.lane k)) ∧
      (let isOver (k : Nat) : Bool := decide ((s.lane k).st = .running) && (s.lane k).ready && !(s.lane k).synced
       ∃ t, exec (.laneDeadline d) s = .next t ∧ t.ctr (cDry d 0) =
          ((drayLanes d).filter isOver).foldl (fun (c : Ctr) _ => c.inc) (s.ctr (cDry d 0)) ∧
        ∀ k : Fin 64, t.lane k = if k.val / 16 = d ∧ isOver k then { s.lane k with late := true, out := none, waitIn := false } else s.lane k)) ∧
    (s.mayIssue l = false → ∀ cor, exec (.bundleIssue l cor) s = .next { s with out := [] }) ∧
    (s.mayIssue l → ∀ cor,
      (∀ e, bundleExc x = some e → x.r.srBit 3 = false →
        exec (.bundleIssue l cor) s = .next (set cor { x with exc := some (e, x.r.pc % 4096) })) ∧
      (x.r.pc < 4096 → x.r.srBit 1 = false → x.r.br = none → x.r.pend = [] →
        (bundle x x.r.pc = 0 → exec (.bundleIssue l cor) s = .next (set cor { x with r := { x.r with pc := x.r.pc + 1 } })) ∧
        (let b := bundle x x.r.pc
         let v := x.r.dAt (bits b 18 4) + x.r.dAt (bits b 14 4)
         b < 2 ^ 32 → bits b 26 6 = 1 → bit b 13 = false → ∃ t, exec (.bundleIssue l cor) s = .next t ∧
          (t.lane l).r.pc = x.r.pc + 1 ∧ (t.lane l).r.dAt (bits b 22 4) = v ∧ ((t.lane l).r.srBit 7 ↔ v = 0) ∧
          (∀ k < 16, k ≠ bits b 22 4 → (t.lane l).r.dAt k = x.r.dAt k) ∧ (t.lane l).data = x.data ∧ t.drays = s.drays ∧
          t.ctr (cDry (l / 16) 1) = (s.countN (cDry (l / 16) 1) cor).ctr (cDry (l / 16) 1)))) ∧
    (s.dryOn (l / 16) → x.st = .running → x.faulted = false →
      let entered (t : State) (next vec : Nat) := (t.lane l).r.pc = vec ∧ (t.lane l).r.ipc = next % 4096 ∧ (t.lane l).r.isr = x.r.sr ∧
        (t.lane l).r.srBit 0 = false ∧ (t.lane l).r.srBit 1 = false ∧ (t.lane l).r.srBit 2 = false ∧ (t.lane l).r.pend = []
      (∀ code ipc, x.exc = some (code, ipc) → ∃ t, exec (.laneInterruptEntry l) s = .next t ∧ entered t ipc 4 ∧ (t.lane l).exc = none ∧
        (t.lane l).r.ecause = code ∧ (t.lane l).r.srBit 3) ∧
      (x.exc = none → x.r.br = none → x.r.srBit 0 →
        (x.dmaIrq → x.r.srBit 17 → ∃ t, exec (.laneInterruptEntry l) s = .next t ∧ entered t x.r.pc 8 ∧ (t.lane l).dmaIrq = false) ∧
        ((x.dmaIrq = false ∨ x.r.srBit 17 = false) → x.msgIrq → x.r.srBit 16 → ∃ t, exec (.laneInterruptEntry l) s = .next t ∧
          entered t x.r.pc 12 ∧ (t.lane l).msgIrq = false)) ∧
      (x.exc = none → (x.r.br.isSome ∨ x.r.srBit 0 = false) → exec (.laneInterruptEntry l) s = .next { s with out := [] })) ∧
    (∀ m cor, (s.dryOn (l / 16) = false ∨ x.dq = []) → exec (.laneDmaComplete l m cor) s = .next { s with out := [] }) ∧
    (∀ (m : MemHits) cor a rest, s.dryOn (l / 16) → x.dq = a :: rest →
      let src := x.data.le a 8
      let dst := x.data.le (a + 8) 8
      let n := x.data.le (a + 0x10) 4
      let da := dst % 2 ^ 32
      (bit src 63 = false → bit dst 63 → n % 8 = 0 → 8 ≤ n → n ≤ 65536 → inData da n → s.targetRange (src % 2 ^ 40) n = .pool →
        (a + 0x15 < da ∨ da + n ≤ a + 0x15) → badIn m.bad (src % 2 ^ 40) n = false → ∃ t, exec (.laneDmaComplete l m cor) s = .next t ∧ (t.lane l).dq = rest ∧
        (t.lane l).data.getN da n = s.poolRead (src % 2 ^ 40) n ∧ (t.lane l).data.get (a + 0x15) = 1 ∧
        (bit (x.data.get (a + 0x14)).toNat 1 → (t.lane l).dmaIrq) ∧ t.mem = s.mem) ∧
      (bit src 63 = false → bit dst 63 = false → ∃ t, exec (.laneDmaComplete l m cor) s = .next t ∧ (t.lane l).dq = rest ∧
        (t.lane l).data = x.data.set (a + 0x15) 4 ∧ t.mem = s.mem))

/-- Faults of units, the self-test rotation and migration. A fault of a unit that carries a load marks the load to move at the
boundary, one of a unit without a load retires it, one of a retired unit does nothing. The rotation puts the next unit under
test, or marks a lane with a load for migration, while nothing is under test; a migration that may happen copies the lane to
the spare, which carries it from the block boundary on, and tests the lane left; one that could not in 4,000 blocks is
skipped and counted. A unit that passes is a spare again; one that fails is retired with SELFTEST's health bit. -/
def Obligations.SparesTakeOverAndAreTested : Prop :=
  ∀ s : State, s.ctl.units.length = 7 →
    (∀ (d : Fin 4) (p : Fin 17) bw, let k := 3 + d.val
      ((s.up (6 + d) = false ∨ bit (s.unitsOf k).retired p) → exec (.laneHwFault d p bw) s = .next { s with out := [] }) ∧
      (s.up (6 + d) → bit (s.unitsOf k).retired p = false → ∃ t, exec (.laneHwFault d p bw) s = .next t ∧
        t.ctr (cDry d 2) = (s.ctr (cDry d 2)).inc ∧ (s.loadOf k p = none → bit (t.unitsOf k).retired p) ∧
        ∀ i, s.loadOf k p = some i → i < 16 → (t.lane (16 * d + i)).faulted ∧ (t.lane (16 * d + i)).dq = [] ∧
          (t.unitsOf k) = s.unitsOf k)) ∧
    (∀ (k : UnitKind) (p : Fin 34), s.awake →
      ((bit (s.unitsOf (unitKind k)).retired p ∨ unitCount (unitKind k) ≤ p) → exec (.unitFault k p) s = .next { s with out := [] }) ∧
      (bit (s.unitsOf (unitKind k)).retired p = false → p < unitCount (unitKind k) →
        (∀ i, s.loadOf (unitKind k) p = some i → (unitKind k, i) ∉ s.ctl.faulted → exec (.unitFault k p) s =
          .next { s with out := [], ctl := { s.ctl with faulted := s.ctl.faulted ++ [(unitKind k, i)] } }) ∧
        (s.loadOf (unitKind k) p = none → ∃ t, exec (.unitFault k p) s = .next t ∧
          bit (t.unitsOf (unitKind k)).retired p ∧ (t.unitsOf (unitKind k)).map = (s.unitsOf (unitKind k)).map))) ∧
    ((s.stokerRuns = false ∨ s.rwBit (wCtl + 0x002C) 31 = false ∨ s.ctl.test.isSome ∨ s.migrating ∨ s.rotNext = none) →
      exec .selftestVisit s = .next { s with out := [] }) ∧
    (∀ pos k p, s.stokerRuns → s.rwBit (wCtl + 0x002C) 31 → s.ctl.test = none → s.migrating = false → s.rotNext = some (pos, k, p) →
      ∃ t, exec .selftestVisit s = .next t ∧ t.ctl.lastKind = k + 1 ∧ t.ctl.lastPhys = p ∧ t.ctl.pos = (pos + 1) % 128 ∧
        (3 ≤ k → (s.loadOf k p).isSome → t.ctl.test = none ∧ (t.dray (k - 3)).mig = some p) ∧
        ((k < 3 ∨ s.loadOf k p = none) → t.ctl.test = some (k, p) ∧ t.drays = s.drays) ∧ t.ctl.units = s.ctl.units) ∧
    (∀ d : Fin 4, let k := 3 + d.val
      ((s.dray d).mig = none → exec (.laneMigration d) s = .next { s with out := [] } ∧
        exec (.laneMigrationSkip d) s = .next { s with out := [] }) ∧
      (∀ p, (s.dray d).mig = some p →
        ((s.dray d).migN < 4000 → exec (.laneMigrationSkip d) s = .next { s with out := [] }) ∧
        (4000 ≤ (s.dray d).migN → ∃ t, exec (.laneMigrationSkip d) s = .next t ∧ (t.dray d).mig = none ∧ t.ctr (cDry d 3) = (s.ctr (cDry d 3)).inc ∧ t.ctl = s.ctl) ∧
        (∀ i q l, s.loadOf k p = some i → s.spares k = q :: l →
          (s.mayMigrate (16 * d + i) → ∃ t, exec (.laneMigration d) s = .next t ∧ (t.dray d).mig = none ∧
            t.ctl = { s.ctl with test := some (k, p) } ∧ t.lanes = s.lanes ∧ ((s.lane (16 * d + i)).faulted = false → (t.migrated d i).ctl.units = s.ctl.units.set k
              { s.unitsOf k with map := (s.unitsOf k).map.set i (some q) })) ∧
          (s.mayMigrate (16 * d + i) = false → exec (.laneMigration d) s = .next { s with out := [] })))) ∧
    (∀ pass, (s.ctl.test = none → exec (.selftestComplete pass) s = .next { s with out := [] }) ∧
      (∀ k p, s.ctl.test = some (k, p) → k < 7 → s.loadOf k p = none → ∃ t, exec (.selftestComplete pass) s = .next t ∧
        t.ctl.test = none ∧ t.ctl.lastPass = pass ∧ (pass → t.ctl.units = s.ctl.units) ∧
        (pass = false → bit (t.unitsOf k).retired p ∧ t.scBit rHealth 19)))
end

