-- ==== Sys2Proof/Laws/Mem.lean ====
section
/-! SUPPORT. Laws of sparse tables and memories: reading after writing, the canonical form kept. -/

namespace Sys2Proof.Machine

set_option Elab.async false
set_option linter.all false

/-! ### Tables -/

theorem look_put {α : Type} (k j : Nat) (v : α) (l : List (Nat × α)) :
    look j (put k v l) = if j = k then some v else look j l := by
  induction l with
  | nil => by_cases h : j = k <;> simp [put, look, h]; omega
  | cons p r ih =>
    obtain ⟨a, u⟩ := p
    simp only [put]
    split
    · simp only [look]
      split
      · rename_i h1 h2
        have : j ≠ k := by omega
        simp [this]
      · exact ih
    · split
      · rename_i h1 h2
        subst h2
        simp only [look]
        by_cases h : a = j
        · simp [h]
        · have : j ≠ a := fun e => h e.symm
          simp [h, this]
      · simp only [look]
        by_cases h : k = j
        · simp [h]
        · have : j ≠ k := fun e => h e.symm
          simp [h, this]

/-- Keys strictly rise. -/
abbrev Rising {α : Type} (l : List (Nat × α)) : Prop := l.Pairwise fun p q => p.1 < q.1

theorem mem_put {α : Type} {k : Nat} {v : α} {l : List (Nat × α)} {p : Nat × α} (h : p ∈ put k v l) : p = (k, v) ∨ p ∈ l := by
  induction l with
  | nil => simpa [put] using h
  | cons q r ih =>
    obtain ⟨a, u⟩ := q
    simp only [put] at h
    split at h
    · rcases List.mem_cons.1 h with h | h
      · exact .inr (h ▸ List.mem_cons_self)
      · exact (ih h).imp_right (List.mem_cons_of_mem _)
    · split at h
      · exact (List.mem_cons.1 h).imp_right (List.mem_cons_of_mem _)
      · exact List.mem_cons.1 h

theorem mem_drop {α : Type} {k : Nat} {l : List (Nat × α)} {p : Nat × α} (h : p ∈ drop k l) : p ∈ l := (List.mem_filter.1 h).1

theorem put_rising {α : Type} (k : Nat) (v : α) {l : List (Nat × α)} (h : Rising l) : Rising (put k v l) := by
  induction l with
  | nil => simp [put]
  | cons q r ih =>
    obtain ⟨a, u⟩ := q
    obtain ⟨h1, h2⟩ := List.pairwise_cons.1 h
    simp only [put]
    split
    · refine List.pairwise_cons.2 ⟨fun p hp => ?_, ih h2⟩
      rcases mem_put hp with e | e
      · subst e; assumption
      · exact h1 p e
    · split
      · rename_i h3 h4
        subst h4
        exact List.pairwise_cons.2 ⟨h1, h2⟩
      · refine List.pairwise_cons.2 ⟨fun p hp => ?_, h⟩
        rcases List.mem_cons.1 hp with e | e
        · subst e; simp only; omega
        · have := h1 p e; simp only at this ⊢; omega

theorem drop_rising {α : Type} (k : Nat) {l : List (Nat × α)} (h : Rising l) : Rising (drop k l) := h.filter _

theorem look_drop {α : Type} (k j : Nat) (l : List (Nat × α)) : look j (drop k l) = if j = k then none else look j l := by
  induction l with
  | nil => simp [drop, look]
  | cons q r ih =>
    obtain ⟨a, u⟩ := q
    unfold drop at ih ⊢
    by_cases e : a = k
    · subst e
      rw [List.filter_cons_of_neg (by simp), ih]
      by_cases hj : j = a
      · simp [hj]
      · have : a ≠ j := fun e => hj e.symm
        simp [look, hj, this]
    · rw [List.filter_cons_of_pos (by simp [e])]
      simp only [look, ih]
      by_cases hj : a = j
      · have : j ≠ k := by omega
        simp [hj, this]
      · simp [hj]

/-! ### Bytes -/

theorem Mem.get_set (m : Mem) (a c : Nat) (b : Byte) : (m.set a b).get c = if c = a then b else m.get c := by
  unfold Mem.get Mem.set
  by_cases h : b = m.dflt a
  · simp only [h, if_true, look_drop a c]
    by_cases hc : c = a
    · subst hc; simp [Mem.dflt]
    · simp [hc, Mem.dflt]
  · simp only [h, if_false, look_put]
    by_cases hc : c = a
    · simp [hc]
    · simp [hc, Mem.dflt]

theorem Mem.set_wf {m : Mem} (hm : m.wf) (a : Nat) (b : Byte) : (m.set a b).wf := by
  unfold Mem.set
  split
  · exact ⟨drop_rising _ hm.1, fun p hp => hm.2 p (mem_drop hp)⟩
  · rename_i h
    refine ⟨put_rising _ _ hm.1, fun p hp => ?_⟩
    rcases mem_put hp with e | e
    · subst e; exact h
    · exact hm.2 p e

theorem Mem.setN_wf {m : Mem} (hm : m.wf) (a : Nat) (bs : List Byte) : (m.setN a bs).wf := by
  induction bs generalizing m a with
  | nil => exact hm
  | cons b r ih => exact ih (Mem.set_wf hm a b) (a + 1)

theorem Mem.putLe_wf {m : Mem} (hm : m.wf) (a n v : Nat) : (m.putLe a n v).wf := Mem.setN_wf hm _ _

theorem Mem.maskSet_wf {m : Mem} (hm : m.wf) (a : Nat) (k v : Word) : (m.maskSet a k v).wf := Mem.setN_wf hm _ _

theorem Mem.maskN_wf {m : Mem} (hm : m.wf) (a : Nat) (ds ks : List Byte) : (m.maskN a ds ks).wf := by
  induction ds generalizing m a ks with
  | nil => exact hm
  | cons d r ih =>
    cases ks with
    | nil => exact hm
    | cons k q => exact ih (Mem.set_wf hm a _) (a + 1) q

/-- A write of bytes leaves every other byte alone, and each byte it writes reads back. -/
theorem Mem.get_setN (m : Mem) (a c : Nat) (bs : List Byte) :
    (m.setN a bs).get c = if a ≤ c ∧ c < a + bs.length then bs.getD (c - a) 0 else m.get c := by
  induction bs generalizing m a with
  | nil =>
    rw [if_neg (by simp only [List.length_nil]; omega)]
    rfl
  | cons b r ih =>
    rw [Mem.setN, ih, Mem.get_set]
    by_cases h1 : c = a
    · subst h1
      have : ¬(c + 1 ≤ c ∧ c < c + 1 + r.length) := by omega
      simp [this]
    · by_cases h2 : a + 1 ≤ c ∧ c < a + 1 + r.length
      · have h3 : a ≤ c ∧ c < a + (b :: r).length := by simp only [List.length_cons]; omega
        have h4 : c - a = (c - (a + 1)) + 1 := by omega
        rw [if_pos h2, if_pos h3, h4, List.getD_cons_succ]
      · have h3 : ¬(a ≤ c ∧ c < a + (b :: r).length) := by simp only [List.length_cons]; omega
        rw [if_neg h2, if_neg h3, if_neg h1]

theorem Mem.empty_wf (fill : Option Nat) : Mem.wf ⟨[], fill⟩ := by simp [Mem.wf]

end Sys2Proof.Machine
end

