-- ==== Sys2Proof/Laws/Chain.lean ====
section
/-! SUPPORT. What an entry's chain does to bulk memory: only its delay line is written, so the canonical form is kept. -/

namespace Sys2Proof.Laws

set_option Elab.async false
set_option linter.all false

open Sys2Proof.Machine

theorem bulk_sec (f : Feed) (u k i : Nat) (wx : Wk × Int) : (Wk.sec f u k i wx).1.bulk = wx.1.bulk := by
  unfold Wk.sec; dsimp only; split <;> rfl

theorem bulk_secs (f : Feed) (u k : Nat) (l : List Nat) (wx : Wk × Int) :
    (l.foldl (fun r i => Wk.sec f u k i r) wx).1.bulk = wx.1.bulk := by
  induction l generalizing wx with
  | nil => rfl
  | cons i l ih => exact (ih _).trans (bulk_sec ..)

theorem bulk_trim (u : Nat) (w : Wk) (x : Int) : (w.trim u x).1.bulk = w.bulk := by
  unfold Wk.trim; dsimp only; split <;> rfl

theorem bulk_gate (f : Feed) (u k : Nat) (w : Wk) (x : Int) : (w.gate f u k x).1.bulk = w.bulk := by
  unfold Wk.gate; dsimp only; split <;> rfl

theorem bulk_comp (f : Feed) (u k : Nat) (w : Wk) (x : Int) : (w.comp f u k x).1.bulk = w.bulk := by
  unfold Wk.comp; dsimp only; split <;> rfl

theorem bulk_safety (w : Wk) (x : Int) : (w.safety x).1.bulk = w.bulk := by
  unfold Wk.safety; dsimp only; split <;> rfl

theorem bulk_tilt (f : Feed) (k : Nat) (w : Wk) (x : Int) : (w.tilt f k x).1.bulk = w.bulk := by
  unfold Wk.tilt; dsimp only; split <;> rfl

theorem bulk_duck (f : Feed) (k : Nat) (w : Wk) : (w.duckStep f k).bulk = w.bulk := rfl

/-- The delay writes one sample of the entry's own delay line (R110). -/
theorem delay_wf (u : Nat) (w : Wk) (x : Int) (h : w.bulk.wf) : (w.delay u x).1.bulk.wf := by
  unfold Wk.delay; dsimp only; split
  · exact h
  · exact Mem.putLe_wf h _ _ _

theorem strip_wf (f : Feed) (u k : Nat) (w : Wk) (h : w.bulk.wf) : (w.strip f u k).bulk.wf := by
  unfold Wk.strip; split
  · exact h
  · refine delay_wf u _ _ ?_
    rw [bulk_comp, bulk_secs, bulk_gate, bulk_sec, bulk_trim]; exact h

theorem bus_wf (f : Feed) (u k : Nat) (w : Wk) (h : w.bulk.wf) : (w.bus f u k).bulk.wf := by
  unfold Wk.bus; split
  · exact h
  · dsimp only
    rw [bulk_safety]; dsimp only
    rw [bulk_duck, bulk_tilt]
    refine delay_wf u _ _ ?_
    rw [bulk_comp, bulk_secs, bulk_trim]; exact h

theorem output_wf (f : Feed) (u k : Nat) (w : Wk) (h : w.bulk.wf) : (w.output f u k).bulk.wf := by
  unfold Wk.output; split
  · exact h
  · refine delay_wf u _ _ ?_
    rw [bulk_comp, bulk_secs]; exact h

theorem sample_wf (s : State) (f : Feed) (u k : Nat) (w : Wk) (h : w.bulk.wf) : (w.sample s f u k).bulk.wf := by
  unfold Wk.sample; dsimp only; split
  · exact strip_wf f _ k _ h
  · split
    · exact bus_wf f _ k _ h
    · exact output_wf f _ k _ h

theorem runBlock_wf (s : State) (f : Feed) (b done : Nat) (e : Ent) (m : Mem) (h : m.wf) : (s.runBlock f b done e m).bulk.wf := by
  have key (l : List Nat) (w : Wk) (hw : w.bulk.wf) :
      (l.foldl (fun w k => w.sample s f (b * domSpb e.dom) k) w).bulk.wf := by
    induction l generalizing w with
    | nil => exact hw
    | cons k l ih => exact ih _ (sample_wf s f _ k w hw)
  exact key _ _ h

/-- A table record executed on bulk memory keeps the canonical form. -/
theorem execRec_wf (s : State) (m : Mem) (r : CRec) (h : m.wf) : (s.execRec m r).wf := by
  unfold State.execRec
  split
  · exact Mem.maskSet_wf h _ _ _
  · split
    · exact Mem.maskSet_wf h _ _ _
    · have key (l : List Nat) (m : Mem) (hm : m.wf) :
          (l.foldl (fun m w => m.maskSet (s.entAddr r.idx + w) (copyMask r.idx w) (m.word (s.entAddr r.off + w))) m).wf := by
        induction l generalizing m with
        | nil => exact hm
        | cons k l ih => exact ih _ (Mem.maskSet_wf hm _ _ _)
      exact key _ _ h

theorem foldl_wf {α : Type} (g : Mem → α → Mem) (hg : ∀ m x, m.wf → (g m x).wf) (l : List α) (m : Mem) (h : m.wf) : (l.foldl g m).wf := by
  induction l generalizing m with
  | nil => exact h
  | cons x l ih => exact ih _ (hg m x h)

end Sys2Proof.Laws
end

