-- ==== Sys2Proof/Laws/Does.lean ====
section
/-! SUPPORT. What an operation can do, said once: the fields of State it may change, and that it keeps the invariant. Each
operation of Machine has one lemma of this form (State.count_does and so on), by which the others are proved. -/

namespace Sys2Proof.Laws

set_option Elab.async false
set_option linter.all false

open Sys2Proof.Machine Sys2Proof.Safety

/-- The fields of State. -/
inductive Fd where
  | pending | freeCtr | sub | out | regs | ctl | mem | pea | sec | mix | tdm | dac | byp | tim | lanes | drays | hosts | net | twin | csnLatch
  deriving DecidableEq, Repr

/-- Two states agree in a field. -/
def Same (s t : State) : Fd → Prop
  | .pending => t.pending = s.pending
  | .freeCtr => t.freeCtr = s.freeCtr
  | .sub => t.sub = s.sub
  | .out => t.out = s.out
  | .regs => t.regs = s.regs
  | .ctl => t.ctl = s.ctl
  | .mem => t.mem = s.mem
  | .pea => t.pea = s.pea
  | .sec => t.sec = s.sec
  | .mix => t.mix = s.mix
  | .tdm => t.tdm = s.tdm
  | .dac => t.dac = s.dac
  | .byp => t.byp = s.byp
  | .tim => t.tim = s.tim
  | .lanes => t.lanes = s.lanes
  | .drays => t.drays = s.drays
  | .hosts => t.hosts = s.hosts
  | .net => t.net = s.net
  | .twin => t.twin = s.twin
  | .csnLatch => t.csnLatch = s.csnLatch

/-- From s to t at most the fields of M change, and the invariant is kept. -/
structure Does (M : List Fd) (s t : State) : Prop where
  frame : ∀ f, f ∉ M → Same s t f
  inv : Inv s → Inv t

theorem Same.refl (s : State) (f : Fd) : Same s s f := by cases f <;> rfl

theorem Same.trans {a b c : State} {f : Fd} (h : Same a b f) (k : Same b c f) : Same a c f := by
  cases f <;> exact Eq.trans k h

theorem Does.refl (M : List Fd) (s : State) : Does M s s := ⟨fun f _ => Same.refl s f, id⟩

theorem Does.trans {M N : List Fd} {a b c : State} (h : Does M a b) (k : Does N b c) (hm : N ⊆ M) : Does M a c :=
  ⟨fun f hf => (h.frame f hf).trans (k.frame f fun hn => hf (hm hn)), fun i => k.inv (h.inv i)⟩

theorem Does.mono {M N : List Fd} {a b : State} (h : Does N a b) (hm : N ⊆ M) : Does M a b := (Does.refl M a).trans h hm

theorem mem_of {M N : List Fd} {f : Fd} (h : N ⊆ M) (k : f ∈ N) : f ∈ M := h k

theorem bring {P Q : Prop} (h : P) (k : P → Q) : Q := k h

theorem does_start {M : List Fd} {s t : State} (h : Does M s s → M ⊆ M → Does M s t) : Does M s t :=
  h (Does.refl M s) (List.Subset.refl M)

/-- A fold of an operation. -/
theorem Does.foldl {M : List Fd} {a s : State} {α : Type} {f : State → α → State} {l : List α} (h : Does M a s)
    (hf : ∀ t x, Does M a t → Does M a (f t x)) : Does M a (l.foldl f s) := by
  induction l generalizing s with
  | nil => exact h
  | cons x r ih => exact ih (hf s x h)

theorem Does.ite {M : List Fd} {a s t : State} {c : Prop} [Decidable c] (h : Does M a s) (k : Does M a t) :
    Does M a (if c then s else t) := by
  split
  · exact h
  · exact k

variable {M : List Fd} {a s : State}

/-! ### Updates of one field -/

theorem Does.pending (h : Does M a s) (hm : Fd.pending ∈ M) (x) : Does M a { s with pending := x } :=
  ⟨fun f hf => by cases f <;> first | exact absurd hm hf | exact h.frame _ hf,
   fun i => let j := h.inv i; ⟨j.bulk, j.pool, j.pea, j.ctrs, j.nsc, j.rb, j.rbTo⟩⟩

theorem Does.freeCtr (h : Does M a s) (hm : Fd.freeCtr ∈ M) (x) : Does M a { s with freeCtr := x } :=
  ⟨fun f hf => by cases f <;> first | exact absurd hm hf | exact h.frame _ hf,
   fun i => let j := h.inv i; ⟨j.bulk, j.pool, j.pea, j.ctrs, j.nsc, j.rb, j.rbTo⟩⟩

theorem Does.sub (h : Does M a s) (hm : Fd.sub ∈ M) (x) : Does M a { s with sub := x } :=
  ⟨fun f hf => by cases f <;> first | exact absurd hm hf | exact h.frame _ hf,
   fun i => let j := h.inv i; ⟨j.bulk, j.pool, j.pea, j.ctrs, j.nsc, j.rb, j.rbTo⟩⟩

theorem Does.out (h : Does M a s) (hm : Fd.out ∈ M) (x) : Does M a { s with out := x } :=
  ⟨fun f hf => by cases f <;> first | exact absurd hm hf | exact h.frame _ hf,
   fun i => let j := h.inv i; ⟨j.bulk, j.pool, j.pea, j.ctrs, j.nsc, j.rb, j.rbTo⟩⟩

theorem Does.ctl (h : Does M a s) (hm : Fd.ctl ∈ M) (x) : Does M a { s with ctl := x } :=
  ⟨fun f hf => by cases f <;> first | exact absurd hm hf | exact h.frame _ hf,
   fun i => let j := h.inv i; ⟨j.bulk, j.pool, j.pea, j.ctrs, j.nsc, j.rb, j.rbTo⟩⟩

theorem Does.mix (h : Does M a s) (hm : Fd.mix ∈ M) (x) : Does M a { s with mix := x } :=
  ⟨fun f hf => by cases f <;> first | exact absurd hm hf | exact h.frame _ hf,
   fun i => let j := h.inv i; ⟨j.bulk, j.pool, j.pea, j.ctrs, j.nsc, j.rb, j.rbTo⟩⟩

theorem Does.tdm (h : Does M a s) (hm : Fd.tdm ∈ M) (x) : Does M a { s with tdm := x } :=
  ⟨fun f hf => by cases f <;> first | exact absurd hm hf | exact h.frame _ hf,
   fun i => let j := h.inv i; ⟨j.bulk, j.pool, j.pea, j.ctrs, j.nsc, j.rb, j.rbTo⟩⟩

theorem Does.dac (h : Does M a s) (hm : Fd.dac ∈ M) (x) : Does M a { s with dac := x } :=
  ⟨fun f hf => by cases f <;> first | exact absurd hm hf | exact h.frame _ hf,
   fun i => let j := h.inv i; ⟨j.bulk, j.pool, j.pea, j.ctrs, j.nsc, j.rb, j.rbTo⟩⟩

theorem Does.byp (h : Does M a s) (hm : Fd.byp ∈ M) (x) : Does M a { s with byp := x } :=
  ⟨fun f hf => by cases f <;> first | exact absurd hm hf | exact h.frame _ hf,
   fun i => let j := h.inv i; ⟨j.bulk, j.pool, j.pea, j.ctrs, j.nsc, j.rb, j.rbTo⟩⟩

theorem Does.lanes (h : Does M a s) (hm : Fd.lanes ∈ M) (x) : Does M a { s with lanes := x } :=
  ⟨fun f hf => by cases f <;> first | exact absurd hm hf | exact h.frame _ hf,
   fun i => let j := h.inv i; ⟨j.bulk, j.pool, j.pea, j.ctrs, j.nsc, j.rb, j.rbTo⟩⟩

theorem Does.drays (h : Does M a s) (hm : Fd.drays ∈ M) (x) : Does M a { s with drays := x } :=
  ⟨fun f hf => by cases f <;> first | exact absurd hm hf | exact h.frame _ hf,
   fun i => let j := h.inv i; ⟨j.bulk, j.pool, j.pea, j.ctrs, j.nsc, j.rb, j.rbTo⟩⟩

theorem Does.hosts (h : Does M a s) (hm : Fd.hosts ∈ M) (x) : Does M a { s with hosts := x } :=
  ⟨fun f hf => by cases f <;> first | exact absurd hm hf | exact h.frame _ hf,
   fun i => let j := h.inv i; ⟨j.bulk, j.pool, j.pea, j.ctrs, j.nsc, j.rb, j.rbTo⟩⟩

theorem Does.net (h : Does M a s) (hm : Fd.net ∈ M) (x) : Does M a { s with net := x } :=
  ⟨fun f hf => by cases f <;> first | exact absurd hm hf | exact h.frame _ hf,
   fun i => let j := h.inv i; ⟨j.bulk, j.pool, j.pea, j.ctrs, j.nsc, j.rb, j.rbTo⟩⟩

theorem Does.twin (h : Does M a s) (hm : Fd.twin ∈ M) (x) : Does M a { s with twin := x } :=
  ⟨fun f hf => by cases f <;> first | exact absurd hm hf | exact h.frame _ hf,
   fun i => let j := h.inv i; ⟨j.bulk, j.pool, j.pea, j.ctrs, j.nsc, j.rb, j.rbTo⟩⟩

theorem Does.csnLatch (h : Does M a s) (hm : Fd.csnLatch ∈ M) (x) : Does M a { s with csnLatch := x } :=
  ⟨fun f hf => by cases f <;> first | exact absurd hm hf | exact h.frame _ hf,
   fun i => let j := h.inv i; ⟨j.bulk, j.pool, j.pea, j.ctrs, j.nsc, j.rb, j.rbTo⟩⟩

theorem Does.regs (h : Does M a s) (hm : Fd.regs ∈ M) (x : Regs)
    (hx : (∀ p ∈ s.regs.ctrs, p.2.count ≤ 0xFFFFFF) → ∀ p ∈ x.ctrs, p.2.count ≤ 0xFFFFFF) : Does M a { s with regs := x } :=
  ⟨fun f hf => by cases f <;> first | exact absurd hm hf | exact h.frame _ hf,
   fun i => let j := h.inv i; ⟨j.bulk, j.pool, j.pea, hx j.ctrs, j.nsc, j.rb, j.rbTo⟩⟩

theorem Does.mem (h : Does M a s) (hm : Fd.mem ∈ M) (x : MemSt) (hb : s.mem.bulk.wf → x.bulk.wf) (hp : s.mem.pool.wf → x.pool.wf) :
    Does M a { s with mem := x } :=
  ⟨fun f hf => by cases f <;> first | exact absurd hm hf | exact h.frame _ hf,
   fun i => let j := h.inv i; ⟨hb j.bulk, hp j.pool, j.pea, j.ctrs, j.nsc, j.rb, j.rbTo⟩⟩

theorem Does.pea (h : Does M a s) (hm : Fd.pea ∈ M) (x : Pea) (hx : s.pea.mem.wf → x.mem.wf) : Does M a { s with pea := x } :=
  ⟨fun f hf => by cases f <;> first | exact absurd hm hf | exact h.frame _ hf,
   fun i => let j := h.inv i; ⟨j.bulk, j.pool, hx j.pea, j.ctrs, j.nsc, j.rb, j.rbTo⟩⟩

theorem Does.sec (h : Does M a s) (hm : Fd.sec ∈ M) (x : Sec) (hr : s.sec.rb < 128 → (∀ v, s.sec.rbTo = some v → v < 128) → x.rb < 128)
    (ht : s.sec.rb < 128 → (∀ v, s.sec.rbTo = some v → v < 128) → ∀ v, x.rbTo = some v → v < 128) : Does M a { s with sec := x } :=
  ⟨fun f hf => by cases f <;> first | exact absurd hm hf | exact h.frame _ hf,
   fun i => let j := h.inv i; ⟨j.bulk, j.pool, j.pea, j.ctrs, j.nsc, hr j.rb j.rbTo, ht j.rb j.rbTo⟩⟩

theorem Does.tim (h : Does M a s) (hm : Fd.tim ∈ M) (x : Tim) (hx : s.tim.nsc < 2 ^ 64 → x.nsc < 2 ^ 64) : Does M a { s with tim := x } :=
  ⟨fun f hf => by cases f <;> first | exact absurd hm hf | exact h.frame _ hf,
   fun i => let j := h.inv i; ⟨j.bulk, j.pool, j.pea, j.ctrs, hx j.nsc, j.rb, j.rbTo⟩⟩

theorem mem_look {α : Type} {k : Nat} {l : List (Nat × α)} {v : α} (h : look k l = some v) : (k, v) ∈ l := by
  induction l with
  | nil => cases h
  | cons p l ih =>
    simp only [look] at h
    split at h
    · next e => injection h with h; subst h; subst e; exact List.mem_cons_self
    · exact List.mem_cons_of_mem _ (ih h)

/-- A stored counter is at most 0xFFFFFF (R458). -/
theorem ctr_le (s : State) (off : Nat) (h : ∀ p ∈ s.regs.ctrs, p.2.count ≤ 0xFFFFFF) : (s.ctr off).count ≤ 0xFFFFFF := by
  unfold State.ctr
  cases e : look off s.regs.ctrs with
  | none => exact Nat.zero_le _
  | some c => exact h _ (mem_look e)

end Sys2Proof.Laws
end

