-- ==== Sys2Proof/Laws/DoesOps.lean ====
section
/-! SUPPORT. What the shared operations on registers, event records, memories, the Peatstore and units can do: the fields of State each may change, and that each keeps the invariant
(Laws.Does). The lemma of an operation of an instruction is cited in place of its definition. -/

namespace Sys2Proof.Laws

set_option Elab.async false
set_option linter.all false

open Sys2Proof.Machine Sys2Proof.Safety

variable {M0 : List Fd} {a0 : State}

theorem emit_does (s : State) (o : Out) (Hs : Does M0 a0 s) (HM : [.out] ⊆ M0) :
    Does M0 a0 (State.emit s o) := by
  unfold State.emit
  repeat' first
    | with_reducible assumption | with_reducible exact mem_of HM (by decide) | with_reducible exact List.Subset.trans (by decide) HM
    | with_reducible apply Does.out

theorem emits_does (s : State) (os : List Out) (Hs : Does M0 a0 s) (HM : [.out] ⊆ M0) :
    Does M0 a0 (State.emits s os) := by
  unfold State.emits
  repeat' first
    | with_reducible assumption | with_reducible exact mem_of HM (by decide) | with_reducible exact List.Subset.trans (by decide) HM
    | with_reducible apply Does.out

theorem begin_does (s : State) (Hs : Does M0 a0 s) (HM : [.out] ⊆ M0) :
    Does M0 a0 (State.begin s) := by
  unfold State.begin
  repeat' first
    | with_reducible assumption | with_reducible exact mem_of HM (by decide) | with_reducible exact List.Subset.trans (by decide) HM
    | with_reducible apply Does.out

theorem fresh_does (s : State) (Hs : Does M0 a0 s) (HM : [.freeCtr] ⊆ M0) :
    Does M0 a0 (State.fresh s).2 := by
  unfold State.fresh
  repeat' first
    | with_reducible assumption | with_reducible exact mem_of HM (by decide) | with_reducible exact List.Subset.trans (by decide) HM
    | with_reducible apply Does.freeCtr

theorem later_does (s : State) (Hs : Does M0 a0 s) (HM : [.freeCtr, .sub] ⊆ M0) :
    Does M0 a0 (State.later s).2 := by
  unfold State.later
  repeat' first
    | with_reducible assumption | with_reducible exact mem_of HM (by decide) | with_reducible exact List.Subset.trans (by decide) HM
    | with_reducible apply fresh_does | with_reducible apply Does.freeCtr | with_reducible apply Does.sub

theorem freeBytes_does (s : State) (n : Nat) (Hs : Does M0 a0 s) (HM : [.freeCtr] ⊆ M0) :
    Does M0 a0 (State.freeBytes s n).2 := by
  unfold State.freeBytes
  repeat' first
    | with_reducible assumption | with_reducible exact mem_of HM (by decide) | with_reducible exact List.Subset.trans (by decide) HM
    | with_reducible apply Does.freeCtr

theorem uncBytes_does (s : State) (w : Nat) (a : Nat) (bad : List Nat) (bs : List Byte) (Hs : Does M0 a0 s) (HM : [.freeCtr] ⊆ M0) :
    Does M0 a0 (State.uncBytes s w a bad bs).2 := by
  unfold State.uncBytes
  repeat' first
    | with_reducible assumption | with_reducible exact mem_of HM (by decide) | with_reducible exact List.Subset.trans (by decide) HM
    | with_reducible apply freeBytes_does | with_reducible apply Does.freeCtr

theorem rwSet_does (s : State) (off : Nat) (w : Word) (Hs : Does M0 a0 s) (HM : [.regs] ⊆ M0) :
    Does M0 a0 (s.rwSet off w) := Hs.regs (HM (by decide)) _ id

theorem rwPutBit_does (s : State) (off : Nat) (i : Nat) (v : Bool) (Hs : Does M0 a0 s) (HM : [.regs] ⊆ M0) :
    Does M0 a0 (State.rwPutBit s off i v) := by
  unfold State.rwPutBit
  repeat' first
    | with_reducible assumption | with_reducible exact mem_of HM (by decide) | with_reducible exact List.Subset.trans (by decide) HM
    | with_reducible apply rwSet_does | with_reducible apply Does.regs

theorem ctrSet_does (s : State) (off : Nat) (c : Ctr) (Hs : Does M0 a0 s) (HM : [.regs] ⊆ M0)
    (hc : (∀ p ∈ s.regs.ctrs, p.2.count ≤ 0xFFFFFF) → c.count ≤ 0xFFFFFF) : Does M0 a0 (s.ctrSet off c) := by
  refine Hs.regs (HM (by decide)) _ fun h p hp => ?_
  by_cases e : c = ⟨0, 0⟩
  · simp only [e, if_true] at hp; exact h p (mem_drop hp)
  · simp only [e, if_false] at hp
    rcases mem_put hp with q | q
    · subst q; exact hc h
    · exact h p q

theorem count_does (s : State) (off : Nat) (Hs : Does M0 a0 s) (HM : [.regs] ⊆ M0) : Does M0 a0 (s.count off) :=
  ctrSet_does s off _ Hs HM fun _ => Nat.min_le_right _ _

theorem countN_does (s : State) (off n : Nat) (Hs : Does M0 a0 s) (HM : [.regs] ⊆ M0) : Does M0 a0 (s.countN off n) := by
  induction n generalizing s with
  | zero => exact Hs
  | succ n ih => exact ih _ (count_does s off Hs HM)

theorem scPut_does (s : State) (off : Nat) (c : Sc) (Hs : Does M0 a0 s) (HM : [.regs] ⊆ M0) :
    Does M0 a0 (s.scPut off c) := Hs.regs (HM (by decide)) _ id

theorem scSet_does (s : State) (off : Nat) (b : Nat) (Hs : Does M0 a0 s) (HM : [.regs] ⊆ M0) :
    Does M0 a0 (State.scSet s off b) := by
  unfold State.scSet
  repeat' first
    | with_reducible assumption | with_reducible exact mem_of HM (by decide) | with_reducible exact List.Subset.trans (by decide) HM
    | with_reducible apply scPut_does | with_reducible apply Does.regs

theorem capSet_does (s : State) (off : Nat) (w : Word) (Hs : Does M0 a0 s) (HM : [.regs] ⊆ M0) :
    Does M0 a0 (s.capSet off w) := Hs.regs (HM (by decide)) _ id

theorem reject_does (s : State) (src : WrSrc) (off : Nat) (w : Word) (reason : Nat) (Hs : Does M0 a0 s) (HM : [.regs] ⊆ M0) :
    Does M0 a0 (State.reject s src off w reason) := by
  unfold State.reject
  repeat' first
    | with_reducible assumption | with_reducible exact mem_of HM (by decide) | with_reducible exact List.Subset.trans (by decide) HM
    | with_reducible apply capSet_does | with_reducible apply scSet_does | with_reducible apply Does.regs

theorem giveCause_does (s : State) (c : Nat) (Hs : Does M0 a0 s) (HM : [.regs, .twin] ⊆ M0) :
    Does M0 a0 (State.giveCause s c) := by
  unfold State.giveCause
  repeat' first
    | with_reducible assumption | with_reducible exact mem_of HM (by decide) | with_reducible exact List.Subset.trans (by decide) HM
    | with_reducible apply scSet_does | split | with_reducible apply Does.regs | with_reducible apply Does.twin

theorem health_does (s : State) (b : Nat) (Hs : Does M0 a0 s) (HM : [.regs, .twin] ⊆ M0) :
    Does M0 a0 (State.health s b) := by
  unfold State.health
  repeat' first
    | with_reducible assumption | with_reducible exact mem_of HM (by decide) | with_reducible exact List.Subset.trans (by decide) HM
    | with_reducible apply giveCause_does | with_reducible apply scSet_does | split | with_reducible apply Does.regs | with_reducible apply Does.twin

theorem peaSet_does (s : State) (p : Pea) (Hs : Does M0 a0 s) (HM : [.pea] ⊆ M0) (hp : s.pea.mem.wf → p.mem.wf) :
    Does M0 a0 (s.peaSet p) := Hs.pea (HM (by decide)) p hp

theorem secSet_does (s : State) (x : Sec) (Hs : Does M0 a0 s) (HM : [.sec] ⊆ M0)
    (hr : s.sec.rb < 128 → (∀ v, s.sec.rbTo = some v → v < 128) → x.rb < 128)
    (ht : s.sec.rb < 128 → (∀ v, s.sec.rbTo = some v → v < 128) → ∀ v, x.rbTo = some v → v < 128) :
    Does M0 a0 (s.secSet x) := Hs.sec (HM (by decide)) x hr ht

theorem moveSector_does (s : State) (k : Nat) (Hs : Does M0 a0 s) (HM : [.pea] ⊆ M0) :
    Does M0 a0 (State.moveSector s k) := by
  unfold State.moveSector
  repeat' first
    | with_reducible assumption | with_reducible exact mem_of HM (by decide) | with_reducible exact List.Subset.trans (by decide) HM
    | with_reducible apply peaSet_does | split
    | (lift_lets; intro x; refine bring (P := Does M0 a0 x) ?side fun hx => ?main; case' main => clear_value x; case' side => unfold x)
    | (lift_lets; intro x) | with_reducible apply Does.pea

theorem peaWrite_does (s : State) (a : Nat) (bs : List Byte) (Hs : Does M0 a0 s) (HM : [.pea] ⊆ M0) :
    Does M0 a0 (State.peaWrite s a bs) :=
  peaSet_does _ _ (Hs.foldl fun _ _ Ht => moveSector_does _ _ Ht HM) HM fun j => Mem.setN_wf j _ _

theorem auditPut_does (s : State) (r : Audit) (Hs : Does M0 a0 s) (HM : [.pea, .sec] ⊆ M0) :
    Does M0 a0 (State.auditPut s r) := by
  have hp : ∀ a bs, (s.peaWrite a bs).sec = s.sec := fun a bs =>
    (peaWrite_does (M0 := [.pea]) s a bs (.refl _ _) (List.Subset.refl _)).frame .sec (by decide)
  unfold State.auditPut
  generalize logAddr _ = a
  lift_lets
  intro n head prev
  generalize head ++ _ = bs
  refine secSet_does _ _ (peaWrite_does _ _ _ Hs (List.Subset.trans (by decide) HM)) (List.Subset.trans (by decide) HM) ?_ ?_
  · rw [hp]; exact fun h _ => h
  · rw [hp]; exact fun _ h => h

theorem audit_does (s : State) (type : Nat) (origin : Nat) (result : Nat) (data : List Byte) (Hs : Does M0 a0 s) (HM : [.pea, .sec] ⊆ M0) :
    Does M0 a0 (State.audit s type origin result data) := by
  unfold State.audit
  repeat' first
    | with_reducible assumption | with_reducible exact mem_of HM (by decide) | with_reducible exact List.Subset.trans (by decide) HM
    | with_reducible apply Does.foldl | with_reducible apply auditPut_does | with_reducible apply secSet_does | split
    | (lift_lets; intro x; refine bring (P := Does M0 a0 x) ?side fun hx => ?main; case' main => clear_value x; case' side => unfold x)
    | (lift_lets; intro x) | exact fun j => j | intro x hx | intro x | with_reducible apply Does.pea | with_reducible apply Does.sec

theorem logFull_does (s : State) (Hs : Does M0 a0 s) (HM : [.regs] ⊆ M0) :
    Does M0 a0 (State.logFull s) := by
  unfold State.logFull
  repeat' first
    | with_reducible assumption | with_reducible exact mem_of HM (by decide) | with_reducible exact List.Subset.trans (by decide) HM
    | with_reducible apply scSet_does | with_reducible apply Does.regs

theorem retireSector_does (s : State) (k : Nat) (Hs : Does M0 a0 s) (HM : [.regs, .pea, .sec] ⊆ M0) :
    Does M0 a0 (State.retireSector s k) := by
  unfold State.retireSector
  repeat' first
    | with_reducible assumption | with_reducible exact mem_of HM (by decide) | with_reducible exact List.Subset.trans (by decide) HM
    | with_reducible apply audit_does | with_reducible apply count_does | with_reducible apply moveSector_does | with_reducible apply peaSet_does
    | split | (lift_lets; intro x; refine bring (P := Does M0 a0 x) ?side fun hx => ?main; case' main => clear_value x; case' side => unfold x)
    | (lift_lets; intro x) | exact fun j => j | intro x hx | intro x | with_reducible apply Does.regs | with_reducible apply Does.pea
    | with_reducible apply Does.sec

theorem sceneStore_does (s : State) (slot : Nat) (img : List Byte) (Hs : Does M0 a0 s) (HM : [.pea] ⊆ M0) :
    ∀ t, State.sceneStore s slot img = some t → Does M0 a0 t := by
  intro t h
  simp only [State.sceneStore] at h
  split at h
  · cases h
  · injection h with h
    subst h
    exact peaSet_does _ _ (Hs.foldl fun t q Ht => peaWrite_does _ _ _ Ht HM) HM id

theorem keySet_does (s : State) (k : Nat) (x : Key) (Hs : Does M0 a0 s) (HM : [.sec] ⊆ M0) :
    Does M0 a0 (State.keySet s k x) := by
  unfold State.keySet
  repeat' first
    | with_reducible assumption | with_reducible exact mem_of HM (by decide) | with_reducible exact List.Subset.trans (by decide) HM
    | with_reducible apply secSet_does | split
    | (lift_lets; intro x; refine bring (P := Does M0 a0 x) ?side fun hx => ?main; case' main => clear_value x; case' side => unfold x)
    | (lift_lets; intro x) | exact fun j => j | intro x hx | intro x | with_reducible apply Does.sec

theorem clearVolatile_does (s : State) (Hs : Does M0 a0 s) (HM : [.sec] ⊆ M0) :
    Does M0 a0 (State.clearVolatile s) := by
  unfold State.clearVolatile
  repeat' first
    | with_reducible assumption | with_reducible exact mem_of HM (by decide) | with_reducible exact List.Subset.trans (by decide) HM
    | with_reducible apply secSet_does | split
    | (lift_lets; intro x; refine bring (P := Does M0 a0 x) ?side fun hx => ?main; case' main => clear_value x; case' side => unfold x)
    | (lift_lets; intro x) | exact fun j => j | intro x hx | intro x | with_reducible apply Does.sec

theorem revokeSigners_does (s : State) (Hs : Does M0 a0 s) (HM : [.sec] ⊆ M0) :
    Does M0 a0 (State.revokeSigners s) := by
  unfold State.revokeSigners
  repeat' first
    | with_reducible assumption | with_reducible exact mem_of HM (by decide) | with_reducible exact List.Subset.trans (by decide) HM
    | with_reducible apply Does.foldl | with_reducible apply keySet_does | split
    | (lift_lets; intro x; refine bring (P := Does M0 a0 x) ?side fun hx => ?main; case' main => clear_value x; case' side => unfold x)
    | (lift_lets; intro x) | exact fun j => j | intro x hx | intro x | with_reducible apply Does.sec

theorem zeroise_does (s : State) (origin : Nat) (w : Word) (Hs : Does M0 a0 s) (HM : [.regs, .pea, .sec] ⊆ M0) :
    Does M0 a0 (State.zeroise s origin w) := by
  unfold State.zeroise
  repeat' first
    | with_reducible assumption | with_reducible exact mem_of HM (by decide) | with_reducible exact List.Subset.trans (by decide) HM
    | with_reducible apply audit_does | with_reducible apply clearVolatile_does | with_reducible apply revokeSigners_does
    | with_reducible apply scSet_does | split
    | (lift_lets; intro x; refine bring (P := Does M0 a0 x) ?side fun hx => ?main; case' main => clear_value x; case' side => unfold x)
    | (lift_lets; intro x) | with_reducible apply Does.regs | with_reducible apply Does.pea | with_reducible apply Does.sec

theorem trng_does (s : State) (Hs : Does M0 a0 s) (HM : [.freeCtr] ⊆ M0) :
    Does M0 a0 (State.trng s).2 := by
  unfold State.trng
  repeat' first
    | with_reducible assumption | with_reducible exact mem_of HM (by decide) | with_reducible exact List.Subset.trans (by decide) HM
    | with_reducible apply Does.freeCtr

theorem nonce_does (s : State) (Hs : Does M0 a0 s) (HM : [.freeCtr] ⊆ M0) :
    Does M0 a0 (State.nonce s).2 := by
  unfold State.nonce
  repeat' first
    | with_reducible assumption | with_reducible exact mem_of HM (by decide) | with_reducible exact List.Subset.trans (by decide) HM
    | with_reducible apply trng_does | with_reducible apply Does.freeCtr

theorem ctlSet_does (s : State) (c : Ctl) (Hs : Does M0 a0 s) (HM : [.ctl] ⊆ M0) :
    Does M0 a0 (State.ctlSet s c) := by
  unfold State.ctlSet
  repeat' first
    | with_reducible assumption | with_reducible exact mem_of HM (by decide) | with_reducible exact List.Subset.trans (by decide) HM
    | with_reducible apply Does.ctl

theorem unitsSet_does (s : State) (k : Nat) (u : Units) (Hs : Does M0 a0 s) (HM : [.ctl] ⊆ M0) :
    Does M0 a0 (State.unitsSet s k u) := by
  unfold State.unitsSet
  repeat' first
    | with_reducible assumption | with_reducible exact mem_of HM (by decide) | with_reducible exact List.Subset.trans (by decide) HM
    | with_reducible apply ctlSet_does | with_reducible apply Does.ctl

theorem place_does (s : State) (k : Nat) (l : Nat) (p : Option Nat) (Hs : Does M0 a0 s) (HM : [.ctl] ⊆ M0) :
    Does M0 a0 (State.place s k l p) := by
  unfold State.place
  repeat' first
    | with_reducible assumption | with_reducible exact mem_of HM (by decide) | with_reducible exact List.Subset.trans (by decide) HM
    | with_reducible apply unitsSet_does | with_reducible apply Does.ctl

theorem retireUnit_does (s : State) (k : Nat) (l : Option Nat) (p : Nat) (Hs : Does M0 a0 s) (HM : [.ctl, .pea, .sec] ⊆ M0) :
    Does M0 a0 (State.retireUnit s k l p) := by
  unfold State.retireUnit
  repeat' first
    | with_reducible assumption | with_reducible exact mem_of HM (by decide) | with_reducible exact List.Subset.trans (by decide) HM
    | with_reducible apply audit_does | with_reducible apply unitsSet_does | with_reducible apply Does.ctl | with_reducible apply Does.pea
    | with_reducible apply Does.sec

theorem endTest_does (s : State) (k : Nat) (Hs : Does M0 a0 s) (HM : [.ctl] ⊆ M0) :
    Does M0 a0 (State.endTest s k) := by
  unfold State.endTest
  repeat' first
    | with_reducible assumption | with_reducible exact mem_of HM (by decide) | with_reducible exact List.Subset.trans (by decide) HM
    | with_reducible apply ctlSet_does | split | with_reducible apply Does.ctl

theorem takeOver_does (s : State) (k : Nat) (l : Nat) (p : Nat) (Hs : Does M0 a0 s) (HM : [.ctl, .pea, .sec] ⊆ M0) :
    Does M0 a0 (State.takeOver s k l p).2 := by
  unfold State.takeOver
  repeat' first
    | with_reducible assumption | with_reducible exact mem_of HM (by decide) | with_reducible exact List.Subset.trans (by decide) HM
    | with_reducible apply endTest_does | with_reducible apply place_does | with_reducible apply retireUnit_does | with_reducible apply Does.ctl
    | with_reducible apply Does.pea | with_reducible apply Does.sec

theorem unitFaulted_does (s : State) (k : Nat) (l : Nat) (Hs : Does M0 a0 s) (HM : [.regs, .ctl, .pea, .sec, .twin] ⊆ M0) :
    Does M0 a0 (State.unitFaulted s k l) := by
  unfold State.unitFaulted
  repeat' first
    | with_reducible assumption | with_reducible exact mem_of HM (by decide) | with_reducible exact List.Subset.trans (by decide) HM
    | with_reducible apply giveCause_does | with_reducible apply health_does | with_reducible apply takeOver_does | split
    | (lift_lets; intro x; refine bring (P := Does M0 a0 x) ?side fun hx => ?main; case' main => clear_value x; case' side => unfold x)
    | (lift_lets; intro x) | with_reducible apply Does.regs | with_reducible apply Does.ctl | with_reducible apply Does.pea
    | with_reducible apply Does.sec | with_reducible apply Does.twin

theorem visit_does (s : State) (pos : Nat) (k : Nat) (p : Nat) (Hs : Does M0 a0 s) (HM : [.ctl] ⊆ M0) :
    Does M0 a0 (State.visit s pos k p) := by
  unfold State.visit
  repeat' first
    | with_reducible assumption | with_reducible exact mem_of HM (by decide) | with_reducible exact List.Subset.trans (by decide) HM
    | with_reducible apply ctlSet_does | with_reducible apply Does.ctl

end Sys2Proof.Laws
end

