-- ==== Sys2Proof/Laws/DoesTable.lean ====
section
/-! SUPPORT. What the operations of the channel table, commits, players and zones can do: the fields of State each may change, and that each keeps the invariant
(Laws.Does). The lemma of an operation of an instruction is cited in place of its definition. -/

namespace Sys2Proof.Laws

set_option Elab.async false
set_option linter.all false

open Sys2Proof.Machine Sys2Proof.Safety

variable {M0 : List Fd} {a0 : State}

theorem entSet_does (s : State) (e : Ent) (Hs : Does M0 a0 s) (HM : [.mix] ⊆ M0) :
    Does M0 a0 (State.entSet s e) := by
  unfold State.entSet
  repeat' first
    | with_reducible assumption | with_reducible exact mem_of HM (by decide) | with_reducible exact List.Subset.trans (by decide) HM
    | with_reducible apply Does.mix

theorem xpSet_does (s : State) (x : Xp) (Hs : Does M0 a0 s) (HM : [.mix] ⊆ M0) :
    Does M0 a0 (State.xpSet s x) := by
  unfold State.xpSet
  repeat' first
    | with_reducible assumption | with_reducible exact mem_of HM (by decide) | with_reducible exact List.Subset.trans (by decide) HM
    | with_reducible apply Does.mix

theorem twinSet_does (s : State) (t : Twin) (Hs : Does M0 a0 s) (HM : [.twin] ⊆ M0) :
    Does M0 a0 (State.twinSet s t) := by
  unfold State.twinSet
  repeat' first
    | with_reducible assumption | with_reducible exact mem_of HM (by decide) | with_reducible exact List.Subset.trans (by decide) HM
    | with_reducible apply Does.twin

theorem netSet_does (s : State) (n : Net) (Hs : Does M0 a0 s) (HM : [.net] ⊆ M0) :
    Does M0 a0 (State.netSet s n) := by
  unfold State.netSet
  repeat' first
    | with_reducible assumption | with_reducible exact mem_of HM (by decide) | with_reducible exact List.Subset.trans (by decide) HM
    | with_reducible apply Does.net

theorem nportSet_does (s : State) (p : Nat) (x : Port) (Hs : Does M0 a0 s) (HM : [.net] ⊆ M0) :
    Does M0 a0 (State.nportSet s p x) := by
  unfold State.nportSet
  repeat' first
    | with_reducible assumption | with_reducible exact mem_of HM (by decide) | with_reducible exact List.Subset.trans (by decide) HM
    | with_reducible apply netSet_does | with_reducible apply Does.net

theorem engWrite_does (s : State) (a : Nat) (bs : List Byte) (Hs : Does M0 a0 s) (HM : [.mem] ⊆ M0) :
    Does M0 a0 (State.engWrite s a bs) :=
  Hs.mem (HM (by decide)) _ (fun j => Mem.setN_wf j _ _) id

theorem hitchFrame_does (kind : Nat) (s : State) (payload : List Byte) (Hs : Does M0 a0 s) (HM : [.twin] ⊆ M0) :
    Does M0 a0 (State.hitchFrame kind s payload) := by
  unfold State.hitchFrame
  repeat' first
    | with_reducible assumption | with_reducible exact mem_of HM (by decide) | with_reducible exact List.Subset.trans (by decide) HM
    | with_reducible apply hitch_does | with_reducible apply twinSet_does | with_reducible apply Does.twin

theorem hitch_does (s : State) (kind : Nat) (fields : List Nat) (data : List Byte) (Hs : Does M0 a0 s) (HM : [.out, .twin] ⊆ M0) :
    Does M0 a0 (State.hitch s kind fields data) :=
  emit_does _ _ (Hs.foldl fun _ _ ht => hitchFrame_does _ _ _ ht (List.Subset.trans (by decide) HM)) (List.Subset.trans (by decide) HM)

theorem sendJ_does (s : State) (r : JRec) (Hs : Does M0 a0 s) (HM : [.out, .twin] ⊆ M0) :
    Does M0 a0 (State.sendJ s r) := by
  unfold State.sendJ
  repeat' first
    | with_reducible assumption | with_reducible exact mem_of HM (by decide) | with_reducible exact List.Subset.trans (by decide) HM
    | with_reducible apply hitch_does | split | with_reducible apply Does.out | with_reducible apply Does.twin

theorem jkeep_does (s : State) (r : JRec) (Hs : Does M0 a0 s) (HM : [.mem] ⊆ M0) :
    Does M0 a0 (State.jkeep s r) := by
  unfold State.jkeep
  repeat' first
    | with_reducible assumption | with_reducible exact mem_of HM (by decide) | with_reducible exact List.Subset.trans (by decide) HM
    | with_reducible apply engWrite_does | split | with_reducible apply Does.mem

theorem jput_does (s : State) (mk : BitVec 48 → JRec) (Hs : Does M0 a0 s) (HM : [.out, .mem, .twin] ⊆ M0) :
    Does M0 a0 (State.jput s mk) := by
  unfold State.jput
  repeat' first
    | with_reducible assumption | with_reducible exact mem_of HM (by decide) | with_reducible exact List.Subset.trans (by decide) HM
    | with_reducible apply jkeep_does | with_reducible apply sendJ_does | with_reducible apply twinSet_does | with_reducible apply Does.out
    | with_reducible apply Does.mem | with_reducible apply Does.twin

theorem jRelease_does (s : State) (h : Nat) (p : Bool) (Hs : Does M0 a0 s) (HM : [.out, .mem, .twin] ⊆ M0) :
    Does M0 a0 (State.jRelease s h p) := by
  unfold State.jRelease
  repeat' first
    | with_reducible assumption | with_reducible exact mem_of HM (by decide) | with_reducible exact List.Subset.trans (by decide) HM
    | with_reducible apply jput_does | split | with_reducible apply Does.out | with_reducible apply Does.mem | with_reducible apply Does.twin

theorem askAll_does (s : State) (Hs : Does M0 a0 s) (HM : [.out, .twin] ⊆ M0) :
    Does M0 a0 (State.askAll s) := by
  unfold State.askAll
  repeat' first
    | with_reducible assumption | with_reducible exact mem_of HM (by decide) | with_reducible exact List.Subset.trans (by decide) HM
    | with_reducible apply hitch_does | with_reducible apply twinSet_does | split | with_reducible apply Does.out | with_reducible apply Does.twin

theorem twinDirect_does (s : State) (a : Nat) (bs : List Byte) (Hs : Does M0 a0 s) (HM : [.out, .regs, .mem, .twin] ⊆ M0) :
    Does M0 a0 (State.twinDirect s a bs) := by
  unfold State.twinDirect
  repeat' first
    | with_reducible assumption | with_reducible exact mem_of HM (by decide) | with_reducible exact List.Subset.trans (by decide) HM
    | with_reducible apply askAll_does | with_reducible apply count_does | with_reducible apply jput_does | split | with_reducible apply Does.out
    | with_reducible apply Does.regs | with_reducible apply Does.mem | with_reducible apply Does.twin

theorem observe_does (s : State) (m : Nat) (a : Nat) (n : Nat) (hold : Bool) (Hs : Does M0 a0 s) (HM : [.regs, .mix] ⊆ M0) :
    Does M0 a0 (State.observe s m a n hold) := by
  unfold State.observe
  repeat' first
    | with_reducible assumption | with_reducible exact mem_of HM (by decide) | with_reducible exact List.Subset.trans (by decide) HM
    | with_reducible apply count_does | split
    | (lift_lets; intro x; refine bring (P := Does M0 a0 x) ?side fun hx => ?main; case' main => clear_value x; case' side => unfold x)
    | (lift_lets; intro x) | exact fun j => j | intro x hx | intro x | with_reducible apply Does.regs | with_reducible apply Does.mix

theorem bulkWrite_does (s : State) (m : Nat) (a : Nat) (bs : List Byte) (hold : Bool) (Hs : Does M0 a0 s) (HM : [.out, .regs, .mem, .mix, .twin] ⊆ M0) :
    Does M0 a0 (State.bulkWrite s m a bs hold) := by
  have h := engWrite_does s a bs Hs (List.Subset.trans (by decide) HM)
  unfold State.bulkWrite
  exact .ite h (twinDirect_does _ _ _ (observe_does _ _ _ _ _ h (List.Subset.trans (by decide) HM)) (List.Subset.trans (by decide) HM))

theorem putStatus_does (s : State) (e : Ent) (u : Nat) (Hs : Does M0 a0 s) (HM : [.mem] ⊆ M0) :
    Does M0 a0 (State.putStatus s e u) := by
  unfold State.putStatus
  repeat' first
    | with_reducible assumption | with_reducible exact mem_of HM (by decide) | with_reducible exact List.Subset.trans (by decide) HM
    | with_reducible apply engWrite_does | split | with_reducible apply Does.mem

theorem setErr_does (s : State) (n : Nat) (b : BitVec 8) (Hs : Does M0 a0 s) (HM : [.mem, .mix] ⊆ M0) :
    Does M0 a0 (State.setErr s n b) := by
  unfold State.setErr
  repeat' first
    | with_reducible assumption | with_reducible exact mem_of HM (by decide) | with_reducible exact List.Subset.trans (by decide) HM
    | with_reducible apply entSet_does | with_reducible apply putStatus_does | with_reducible apply Does.mem | with_reducible apply Does.mix

theorem badAddr_does (s : State) (xp : Bool) (i : Nat) (Hs : Does M0 a0 s) (HM : [.regs] ⊆ M0) :
    Does M0 a0 (State.badAddr s xp i) := by
  unfold State.badAddr
  repeat' first
    | with_reducible assumption | with_reducible exact mem_of HM (by decide) | with_reducible exact List.Subset.trans (by decide) HM
    | with_reducible apply capSet_does | with_reducible apply Does.regs

theorem setOn_does (s : State) (Hs : Does M0 a0 s) (HM : [.mix] ⊆ M0) :
    Does M0 a0 (State.setOn s) := by
  unfold State.setOn
  repeat' first
    | with_reducible assumption | with_reducible exact mem_of HM (by decide) | with_reducible exact List.Subset.trans (by decide) HM
    | with_reducible apply Does.mix

theorem relist_does (s : State) (n : Nat) (Hs : Does M0 a0 s) (HM : [.regs, .mix] ⊆ M0) :
    Does M0 a0 (State.relist s n) := by
  unfold State.relist
  repeat' first
    | with_reducible assumption | with_reducible exact mem_of HM (by decide) | with_reducible exact List.Subset.trans (by decide) HM
    | with_reducible apply badAddr_does | with_reducible apply count_does | with_reducible apply entSet_does | split
    | (lift_lets; intro x; refine bring (P := Does M0 a0 x) ?side fun hx => ?main; case' main => clear_value x; case' side => unfold x)
    | (lift_lets; intro x) | exact fun j => j | intro x hx | intro x | with_reducible apply Does.regs | with_reducible apply Does.mix

theorem checkSides_does (s : State) (n : Nat) (Hs : Does M0 a0 s) (HM : [.regs, .mix] ⊆ M0) :
    Does M0 a0 (State.checkSides s n) := by
  unfold State.checkSides
  repeat' first
    | with_reducible assumption | with_reducible exact mem_of HM (by decide) | with_reducible exact List.Subset.trans (by decide) HM
    | with_reducible apply badAddr_does | with_reducible apply countN_does | with_reducible apply entSet_does | split
    | (lift_lets; intro x; refine bring (P := Does M0 a0 x) ?side fun hx => ?main; case' main => clear_value x; case' side => unfold x)
    | (lift_lets; intro x) | exact fun j => j | intro x hx | intro x | with_reducible apply Does.regs | with_reducible apply Does.mix

theorem checkReaders_does (s : State) (n : Nat) (Hs : Does M0 a0 s) (HM : [.regs, .mem, .mix] ⊆ M0) :
    Does M0 a0 (State.checkReaders s n) := by
  unfold State.checkReaders
  generalize s.ent n = e0
  refine Hs.foldl fun t e Ht => ?_
  exact .ite (badAddr_does _ _ _ (countN_does _ _ _ (setErr_does _ _ _ Ht (List.Subset.trans (by decide) HM))
    (List.Subset.trans (by decide) HM)) (List.Subset.trans (by decide) HM)) Ht

theorem delayOp_does (s : State) (csn : Nat) (d : Nat) (Hs : Does M0 a0 s) (HM : [.mix] ⊆ M0) :
    Does M0 a0 (State.delayOp s csn d) := by
  unfold State.delayOp
  repeat' first
    | with_reducible assumption | with_reducible exact mem_of HM (by decide) | with_reducible exact List.Subset.trans (by decide) HM
    | with_reducible apply Does.mix

theorem dropWait_does (s : State) (w : Option Wait) (c : Nat) (blk : Nat) (Hs : Does M0 a0 s) (HM : [.regs, .mix] ⊆ M0) :
    Does M0 a0 (State.dropWait s w c blk) := by
  unfold State.dropWait
  repeat' first
    | with_reducible assumption | with_reducible exact mem_of HM (by decide) | with_reducible exact List.Subset.trans (by decide) HM
    | with_reducible apply count_does | with_reducible apply delayOp_does | split | with_reducible apply Does.regs | with_reducible apply Does.mix

theorem installEntry_does (s : State) (n : Nat) (m : Mem) (blk : Nat) (Hs : Does M0 a0 s) (HM : [.regs, .mem, .mix] ⊆ M0) :
    Does M0 a0 (State.installEntry s n m blk) := by
  unfold State.installEntry
  repeat' first
    | with_reducible assumption | with_reducible exact mem_of HM (by decide) | with_reducible exact List.Subset.trans (by decide) HM
    | with_reducible apply Does.foldl | with_reducible apply badAddr_does | with_reducible apply checkReaders_does
    | with_reducible apply checkSides_does | with_reducible apply countN_does | with_reducible apply dropWait_does | with_reducible apply entSet_does
    | with_reducible apply putStatus_does | with_reducible apply relist_does | split
    | (lift_lets; intro x; refine bring (P := Does M0 a0 x) ?side fun hx => ?main; case' main => clear_value x; case' side => unfold x)
    | (lift_lets; intro x; refine bring (P := Does M0 a0 x.2) ?side fun hx => ?main; case' main => clear_value x; case' side => unfold x)
    | (lift_lets; intro x; refine bring (P := Does M0 a0 x.1) ?side fun hx => ?main; case' main => clear_value x; case' side => unfold x)
    | (lift_lets; intro x; refine bring (P := Does M0 a0 x.2.2) ?side fun hx => ?main; case' main => clear_value x; case' side => unfold x)
    | (lift_lets; intro x) | exact fun j _ => j | exact fun _ j => j | exact fun j => j | intro x hx | intro x | with_reducible apply Does.regs
    | with_reducible apply Does.mem | with_reducible apply Does.mix

theorem installXp_does (s : State) (n : Nat) (m : Mem) (blk : Nat) (Hs : Does M0 a0 s) (HM : [.regs, .mix] ⊆ M0) :
    Does M0 a0 (State.installXp s n m blk) := by
  unfold State.installXp
  repeat' first
    | with_reducible assumption | with_reducible exact mem_of HM (by decide) | with_reducible exact List.Subset.trans (by decide) HM
    | with_reducible apply badAddr_does | with_reducible apply countN_does | with_reducible apply dropWait_does | with_reducible apply xpSet_does
    | split | (lift_lets; intro x; refine bring (P := Does M0 a0 x) ?side fun hx => ?main; case' main => clear_value x; case' side => unfold x)
    | (lift_lets; intro x) | exact fun j => j | intro x hx | intro x | with_reducible apply Does.regs | with_reducible apply Does.mix

theorem renewAll_does (s : State) (h : Nat) (p : Bool) (Hs : Does M0 a0 s) (HM : [.mix] ⊆ M0) :
    Does M0 a0 (State.renewAll s h p) := by
  unfold State.renewAll
  repeat' first
    | with_reducible assumption | with_reducible exact mem_of HM (by decide) | with_reducible exact List.Subset.trans (by decide) HM
    | with_reducible apply Does.mix

theorem dropClaims_does (s : State) (f : Claim → Bool) (Hs : Does M0 a0 s) (HM : [.mix] ⊆ M0) :
    Does M0 a0 (State.dropClaims s f) := by
  unfold State.dropClaims
  repeat' first
    | with_reducible assumption | with_reducible exact mem_of HM (by decide) | with_reducible exact List.Subset.trans (by decide) HM
    | with_reducible apply Does.mix

theorem takeCsn_does (s : State) (Hs : Does M0 a0 s) (HM : [.mix] ⊆ M0) :
    Does M0 a0 (State.takeCsn s) := by
  unfold State.takeCsn
  repeat' first
    | with_reducible assumption | with_reducible exact mem_of HM (by decide) | with_reducible exact List.Subset.trans (by decide) HM
    | with_reducible apply Does.mix

theorem opPut_does (s : State) (o : Op) (Hs : Does M0 a0 s) (HM : [.mix] ⊆ M0) :
    Does M0 a0 (State.opPut s o) := by
  unfold State.opPut
  repeat' first
    | with_reducible assumption | with_reducible exact mem_of HM (by decide) | with_reducible exact List.Subset.trans (by decide) HM
    | with_reducible apply Does.mix

theorem mergeReady_does (s : State) (it : Item) (cs : List WordChg) (Hs : Does M0 a0 s) (HM : [.mix] ⊆ M0) :
    Does M0 a0 (State.mergeReady s it cs) := by
  unfold State.mergeReady
  repeat' first
    | with_reducible assumption | with_reducible exact mem_of HM (by decide) | with_reducible exact List.Subset.trans (by decide) HM
    | with_reducible apply Does.mix

theorem changeErr_does (s : State) (n : Nat) (e : Ent) (e' : Ent) (c : Chg) (Hs : Does M0 a0 s) (HM : [.regs, .mix] ⊆ M0) :
    Does M0 a0 (State.changeErr s n e e' c) := by
  unfold State.changeErr
  repeat' first
    | with_reducible assumption | with_reducible exact mem_of HM (by decide) | with_reducible exact List.Subset.trans (by decide) HM
    | with_reducible apply badAddr_does | with_reducible apply countN_does | with_reducible apply entSet_does | split
    | (lift_lets; intro x; refine bring (P := Does M0 a0 x) ?side fun hx => ?main; case' main => clear_value x; case' side => unfold x)
    | (lift_lets; intro x) | exact fun j => j | intro x hx | intro x | with_reducible apply Does.regs | with_reducible apply Does.mix

theorem statusAfter_does (s : State) (e' : Ent) (u : Nat) (Hs : Does M0 a0 s) (HM : [.mem] ⊆ M0) :
    Does M0 a0 (State.statusAfter s e' u) := by
  unfold State.statusAfter
  repeat' first
    | with_reducible assumption | with_reducible exact mem_of HM (by decide) | with_reducible exact List.Subset.trans (by decide) HM
    | with_reducible apply putStatus_does | with_reducible apply Does.mem

theorem applyEnt_does (s : State) (o : Op) (after : Mem) (n : Nat) (Hs : Does M0 a0 s) (HM : [.regs, .mem, .mix] ⊆ M0) :
    Does M0 a0 (State.applyEnt s o after n) := by
  have hb (cs : List WordChg) (j : s.mem.bulk.wf) : (cs.foldl (fun (m : Mem) r => m.maskSet (s.entAddr n + r.off) r.mask r.val) s.mem.bulk).wf :=
    foldl_wf _ (fun _ _ k => Mem.maskSet_wf k _ _ _) _ _ j
  unfold State.applyEnt
  extract_lets cs x0 s1 s2 e u e0 c0 c e1 e'
  have h1 : Does M0 a0 s1 := Hs.mem (HM (by decide)) _ (hb cs) id
  have h2 : Does M0 a0 s2 := mergeReady_does _ _ _ h1 (List.Subset.trans (by decide) HM)
  exact .ite h1 (statusAfter_does _ _ _ (changeErr_does _ _ _ _ _ (entSet_does _ _ h2 (List.Subset.trans (by decide) HM))
    (List.Subset.trans (by decide) HM)) (List.Subset.trans (by decide) HM))

theorem applyXp_does (s : State) (o : Op) (after : Mem) (n : Nat) (Hs : Does M0 a0 s) (HM : [.mem, .mix] ⊆ M0) :
    Does M0 a0 (State.applyXp s o after n) := by
  have hb (cs : List WordChg) (j : s.mem.bulk.wf) : (cs.foldl (fun (m : Mem) r => m.maskSet (s.xpAddr n + r.off) r.mask r.val) s.mem.bulk).wf :=
    foldl_wf _ (fun _ _ k => Mem.maskSet_wf k _ _ _) _ _ j
  unfold State.applyXp
  extract_lets cs x0 s1 s2 x d c
  have h1 : Does M0 a0 s1 := Hs.mem (HM (by decide)) _ (hb cs) id
  exact xpSet_does _ _ (mergeReady_does _ _ _ h1 (List.Subset.trans (by decide) HM)) (List.Subset.trans (by decide) HM)

theorem member_does (s : State) (o : Op) (i : Nat) (v : Bool) (Hs : Does M0 a0 s) (HM : [.mix] ⊆ M0) :
    Does M0 a0 (State.member s o i v) := by
  unfold State.member
  repeat' first
    | with_reducible assumption | with_reducible exact mem_of HM (by decide) | with_reducible exact List.Subset.trans (by decide) HM
    | with_reducible apply xpSet_does | with_reducible apply Does.mix

theorem listsAfter_does (s : State) (o : Op) (Hs : Does M0 a0 s) (HM : [.regs, .mem, .mix] ⊆ M0) :
    Does M0 a0 (State.listsAfter s o) := by
  unfold State.listsAfter
  repeat' first
    | with_reducible assumption | with_reducible exact mem_of HM (by decide) | with_reducible exact List.Subset.trans (by decide) HM
    | with_reducible apply Does.foldl | with_reducible apply badAddr_does | with_reducible apply count_does | with_reducible apply entSet_does
    | with_reducible apply member_does | with_reducible apply setErr_does | split
    | (lift_lets; intro x; refine bring (P := Does M0 a0 x) ?side fun hx => ?main; case' main => clear_value x; case' side => unfold x)
    | (lift_lets; intro x) | exact fun j => j | intro x hx | intro x | with_reducible apply Does.regs | with_reducible apply Does.mem
    | with_reducible apply Does.mix

theorem applyPart1_does (s : State) (o : Op) (Hs : Does M0 a0 s) (HM : [.regs, .mem, .mix] ⊆ M0) :
    Does M0 a0 (State.applyPart1 s o) := by
  unfold State.applyPart1
  repeat' first
    | with_reducible assumption | with_reducible exact mem_of HM (by decide) | with_reducible exact List.Subset.trans (by decide) HM
    | with_reducible apply Does.foldl | with_reducible apply applyEnt_does | with_reducible apply opPut_does | split
    | (lift_lets; intro x; refine bring (P := Does M0 a0 x) ?side fun hx => ?main; case' main => clear_value x; case' side => unfold x)
    | (lift_lets; intro x) | exact fun j => j | intro x hx | intro x | with_reducible apply Does.mem | with_reducible apply Does.mix

theorem applyPart2_does (s : State) (o : Op) (Hs : Does M0 a0 s) (HM : [.regs, .mem, .mix] ⊆ M0) :
    Does M0 a0 (State.applyPart2 s o) := by
  unfold State.applyPart2
  repeat' first
    | with_reducible assumption | with_reducible exact mem_of HM (by decide) | with_reducible exact List.Subset.trans (by decide) HM
    | with_reducible apply Does.foldl | with_reducible apply applyEnt_does | with_reducible apply applyXp_does | with_reducible apply listsAfter_does
    | with_reducible apply opPut_does | split
    | (lift_lets; intro x; refine bring (P := Does M0 a0 x) ?side fun hx => ?main; case' main => clear_value x; case' side => unfold x)
    | (lift_lets; intro x) | exact fun j => j | intro x hx | intro x | with_reducible apply Does.regs | with_reducible apply Does.mem
    | with_reducible apply Does.mix

theorem copiesDue_does (s : State) (o : Op) (Hs : Does M0 a0 s) (HM : [.mix] ⊆ M0) :
    Does M0 a0 (State.copiesDue s o) := by
  unfold State.copiesDue
  repeat' first
    | with_reducible assumption | with_reducible exact mem_of HM (by decide) | with_reducible exact List.Subset.trans (by decide) HM
    | with_reducible apply opPut_does | split | with_reducible apply Does.mix

theorem checkDue_does (s : State) (blk : Nat) (o : Op) (Hs : Does M0 a0 s) (HM : [.mix] ⊆ M0) :
    Does M0 a0 (State.checkDue s blk o) := by
  unfold State.checkDue
  repeat' first
    | with_reducible assumption | with_reducible exact mem_of HM (by decide) | with_reducible exact List.Subset.trans (by decide) HM
    | with_reducible apply opPut_does | split | with_reducible apply Does.mix

theorem foresee_does (s : State) (o : Op) (Hs : Does M0 a0 s) (HM : [.mix] ⊆ M0) :
    Does M0 a0 (State.foresee s o) := by
  unfold State.foresee
  repeat' first
    | with_reducible assumption | with_reducible exact mem_of HM (by decide) | with_reducible exact List.Subset.trans (by decide) HM
    | with_reducible apply copiesDue_does | with_reducible apply opPut_does | split | with_reducible apply Does.mix

theorem applyDue_does (s : State) (blk : Nat) (csn : Nat) (Hs : Does M0 a0 s) (HM : [.regs, .mem, .mix] ⊆ M0) :
    Does M0 a0 (State.applyDue s blk csn) := by
  unfold State.applyDue
  repeat' first
    | with_reducible assumption | with_reducible exact mem_of HM (by decide) | with_reducible exact List.Subset.trans (by decide) HM
    | with_reducible apply applyPart1_does | with_reducible apply applyPart2_does | split
    | (lift_lets; intro x; refine bring (P := Does M0 a0 x) ?side fun hx => ?main; case' main => clear_value x; case' side => unfold x)
    | (lift_lets; intro x) | with_reducible apply Does.regs | with_reducible apply Does.mem | with_reducible apply Does.mix

theorem checkCommits_does (s : State) (blk : Nat) (Hs : Does M0 a0 s) (HM : [.mix] ⊆ M0) :
    Does M0 a0 (State.checkCommits s blk) := by
  unfold State.checkCommits
  repeat' first
    | with_reducible assumption | with_reducible exact mem_of HM (by decide) | with_reducible exact List.Subset.trans (by decide) HM
    | with_reducible apply Does.foldl | with_reducible apply checkDue_does | with_reducible apply copiesDue_does | split
    | (lift_lets; intro x; refine bring (P := Does M0 a0 x) ?side fun hx => ?main; case' main => clear_value x; case' side => unfold x)
    | (lift_lets; intro x) | exact fun j => j | intro x hx | intro x | with_reducible apply Does.mix

theorem applyCommits_does (s : State) (blk : Nat) (Hs : Does M0 a0 s) (HM : [.regs, .mem, .mix] ⊆ M0) :
    Does M0 a0 (State.applyCommits s blk) := by
  unfold State.applyCommits
  repeat' first
    | with_reducible assumption | with_reducible exact mem_of HM (by decide) | with_reducible exact List.Subset.trans (by decide) HM
    | with_reducible apply Does.foldl | with_reducible apply applyDue_does | split
    | (lift_lets; intro x; refine bring (P := Does M0 a0 x) ?side fun hx => ?main; case' main => clear_value x; case' side => unfold x)
    | (lift_lets; intro x) | exact fun j => j | intro x hx | intro x | with_reducible apply Does.regs | with_reducible apply Does.mem
    | with_reducible apply Does.mix

theorem grantSlot_does (s : State) (nsc : Nat) (p : Wait × Nat) (Hs : Does M0 a0 s) (HM : [.regs, .mem, .mix] ⊆ M0) :
    Does M0 a0 (State.grantSlot s nsc p) := by
  unfold State.grantSlot
  repeat' first
    | with_reducible assumption | with_reducible exact mem_of HM (by decide) | with_reducible exact List.Subset.trans (by decide) HM
    | with_reducible apply count_does | with_reducible apply delayOp_does | with_reducible apply entSet_does | with_reducible apply putStatus_does
    | split | (lift_lets; intro x; refine bring (P := Does M0 a0 x) ?side fun hx => ?main; case' main => clear_value x; case' side => unfold x)
    | (lift_lets; intro x) | exact fun j => j | intro x hx | intro x | with_reducible apply Does.regs | with_reducible apply Does.mem
    | with_reducible apply Does.mix

theorem grantSlots_does (s : State) (nsc : Nat) (Hs : Does M0 a0 s) (HM : [.regs, .mem, .mix] ⊆ M0) :
    Does M0 a0 (State.grantSlots s nsc) := by
  unfold State.grantSlots
  repeat' first
    | with_reducible assumption | with_reducible exact mem_of HM (by decide) | with_reducible exact List.Subset.trans (by decide) HM
    | with_reducible apply Does.foldl | with_reducible apply grantSlot_does | split
    | (lift_lets; intro x; refine bring (P := Does M0 a0 x) ?side fun hx => ?main; case' main => clear_value x; case' side => unfold x)
    | (lift_lets; intro x) | exact fun j => j | intro x hx | intro x | with_reducible apply Does.regs | with_reducible apply Does.mix

theorem grantTerm_does (s : State) (nsc : Nat) (p : Wait × Nat) (Hs : Does M0 a0 s) (HM : [.regs, .mix] ⊆ M0) :
    Does M0 a0 (State.grantTerm s nsc p) := by
  unfold State.grantTerm
  repeat' first
    | with_reducible assumption | with_reducible exact mem_of HM (by decide) | with_reducible exact List.Subset.trans (by decide) HM
    | with_reducible apply count_does | with_reducible apply delayOp_does | with_reducible apply xpSet_does | split
    | (lift_lets; intro x; refine bring (P := Does M0 a0 x) ?side fun hx => ?main; case' main => clear_value x; case' side => unfold x)
    | (lift_lets; intro x) | exact fun j => j | intro x hx | intro x | with_reducible apply Does.regs | with_reducible apply Does.mix

theorem grantTerms_does (s : State) (nsc : Nat) (Hs : Does M0 a0 s) (HM : [.regs, .mix] ⊆ M0) :
    Does M0 a0 (State.grantTerms s nsc) := by
  unfold State.grantTerms
  repeat' first
    | with_reducible assumption | with_reducible exact mem_of HM (by decide) | with_reducible exact List.Subset.trans (by decide) HM
    | with_reducible apply Does.foldl | with_reducible apply grantTerm_does | split
    | (lift_lets; intro x; refine bring (P := Does M0 a0 x) ?side fun hx => ?main; case' main => clear_value x; case' side => unfold x)
    | (lift_lets; intro x) | exact fun j => j | intro x hx | intro x | with_reducible apply Does.regs | with_reducible apply Does.mix

theorem playerSet_does (s : State) (p : Nat) (x : Player) (Hs : Does M0 a0 s) (HM : [.mix] ⊆ M0) :
    Does M0 a0 (State.playerSet s p x) := by
  unfold State.playerSet
  repeat' first
    | with_reducible assumption | with_reducible exact mem_of HM (by decide) | with_reducible exact List.Subset.trans (by decide) HM
    | with_reducible apply Does.mix

theorem addOp_does (s : State) (o : Op) (Hs : Does M0 a0 s) (HM : [.mix] ⊆ M0) :
    Does M0 a0 (State.addOp s o) := by
  unfold State.addOp
  repeat' first
    | with_reducible assumption | with_reducible exact mem_of HM (by decide) | with_reducible exact List.Subset.trans (by decide) HM
    | with_reducible apply playerSet_does | split | with_reducible apply Does.mix

theorem zoneSet_does (s : State) (z : Zone) (Hs : Does M0 a0 s) (HM : [.mix] ⊆ M0) :
    Does M0 a0 (State.zoneSet s z) := by
  unfold State.zoneSet
  repeat' first
    | with_reducible assumption | with_reducible exact mem_of HM (by decide) | with_reducible exact List.Subset.trans (by decide) HM
    | with_reducible apply Does.mix

theorem putZone_does (s : State) (z : Zone) (Hs : Does M0 a0 s) (HM : [.mem, .mix] ⊆ M0) :
    Does M0 a0 (State.putZone s z) := by
  unfold State.putZone
  repeat' first
    | with_reducible assumption | with_reducible exact mem_of HM (by decide) | with_reducible exact List.Subset.trans (by decide) HM
    | with_reducible apply engWrite_does | with_reducible apply zoneSet_does | with_reducible apply Does.mem | with_reducible apply Does.mix

theorem putServo_does (s : State) (z : Zone) (Hs : Does M0 a0 s) (HM : [.mem, .mix] ⊆ M0) :
    Does M0 a0 (State.putServo s z) := by
  unfold State.putServo
  repeat' first
    | with_reducible assumption | with_reducible exact mem_of HM (by decide) | with_reducible exact List.Subset.trans (by decide) HM
    | with_reducible apply engWrite_does | with_reducible apply zoneSet_does | with_reducible apply Does.mem | with_reducible apply Does.mix

theorem realign_does (s : State) (n : Nat) (blk : Nat) (ramp : Nat) (Hs : Does M0 a0 s) (HM : [.regs, .mem, .mix] ⊆ M0) :
    Does M0 a0 (State.realign s n blk ramp) := by
  unfold State.realign
  repeat' first
    | with_reducible assumption | with_reducible exact mem_of HM (by decide) | with_reducible exact List.Subset.trans (by decide) HM
    | with_reducible apply badAddr_does | with_reducible apply count_does | with_reducible apply entSet_does | with_reducible apply setErr_does
    | split | (lift_lets; intro x; refine bring (P := Does M0 a0 x) ?side fun hx => ?main; case' main => clear_value x; case' side => unfold x)
    | (lift_lets; intro x) | exact fun j => j | intro x hx | intro x | with_reducible apply Does.regs | with_reducible apply Does.mem
    | with_reducible apply Does.mix

theorem zoneShares_does (s : State) (z : Nat) (Hs : Does M0 a0 s) (HM : [.mem, .mix] ⊆ M0) :
    Does M0 a0 (State.zoneShares s z) := by
  unfold State.zoneShares
  repeat' first
    | with_reducible assumption | with_reducible exact mem_of HM (by decide) | with_reducible exact List.Subset.trans (by decide) HM
    | with_reducible apply Does.foldl | with_reducible apply putZone_does | split
    | (lift_lets; intro x; refine bring (P := Does M0 a0 x) ?side fun hx => ?main; case' main => clear_value x; case' side => unfold x)
    | (lift_lets; intro x) | exact fun j => j | intro x hx | intro x | with_reducible apply Does.mem | with_reducible apply Does.mix

theorem installZone_does (s : State) (z : Nat) (m : Mem) (blk : Nat) (Hs : Does M0 a0 s) (HM : [.regs, .mem, .mix] ⊆ M0) :
    Does M0 a0 (State.installZone s z m blk) := by
  unfold State.installZone
  repeat' first
    | with_reducible assumption | with_reducible exact mem_of HM (by decide) | with_reducible exact List.Subset.trans (by decide) HM
    | with_reducible apply Does.foldl | with_reducible apply countN_does | with_reducible apply putZone_does | with_reducible apply realign_does
    | with_reducible apply zoneSet_does | with_reducible apply zoneShares_does | split
    | (lift_lets; intro x; refine bring (P := Does M0 a0 x) ?side fun hx => ?main; case' main => clear_value x; case' side => unfold x)
    | (lift_lets; intro x) | exact fun j => j | intro x hx | intro x | with_reducible apply Does.regs | with_reducible apply Does.mem
    | with_reducible apply Does.mix

end Sys2Proof.Laws
end

