-- ==== Sys2Proof/Laws/DoesPort.lean ====
section
/-! SUPPORT. What the operations of the matrix, the bus, the TDM ports and the time section can do: the fields of State each may change, and that each keeps the invariant
(Laws.Does). The lemma of an operation of an instruction is cited in place of its definition. -/

namespace Sys2Proof.Laws

set_option Elab.async false
set_option linter.all false

open Sys2Proof.Machine Sys2Proof.Safety

variable {M0 : List Fd} {a0 : State}

theorem decerr_does (s : State) (m : Nat) (a : Nat) (write : Bool) (Hs : Does M0 a0 s) (HM : [.regs] ⊆ M0) :
    Does M0 a0 (State.decerr s m a write) := by
  unfold State.decerr
  repeat' first
    | with_reducible assumption | with_reducible exact mem_of HM (by decide) | with_reducible exact List.Subset.trans (by decide) HM
    | with_reducible apply capSet_does | with_reducible apply count_does | with_reducible apply Does.regs

theorem uncErr_does (s : State) (m : Nat) (a : Nat) (scrub : Bool) (adr : Bool) (Hs : Does M0 a0 s) (HM : [.regs, .twin] ⊆ M0) :
    Does M0 a0 (State.uncErr s m a scrub adr) := by
  unfold State.uncErr
  repeat' first
    | with_reducible assumption | with_reducible exact mem_of HM (by decide) | with_reducible exact List.Subset.trans (by decide) HM
    | with_reducible apply capSet_does | with_reducible apply count_does | with_reducible apply health_does | with_reducible apply Does.regs
    | with_reducible apply Does.twin

theorem poolWrite_does (s : State) (a : Nat) (bs : List Byte) (Hs : Does M0 a0 s) (HM : [.mem] ⊆ M0) :
    Does M0 a0 (State.poolWrite s a bs) :=
  Hs.mem (HM (by decide)) _ id fun j => Mem.setN_wf j _ _

theorem hostSet_does (s : State) (h : Fin 4) (x : HostPort) (Hs : Does M0 a0 s) (HM : [.hosts] ⊆ M0) :
    Does M0 a0 (State.hostSet s h x) := by
  unfold State.hostSet
  repeat' first
    | with_reducible assumption | with_reducible exact mem_of HM (by decide) | with_reducible exact List.Subset.trans (by decide) HM
    | with_reducible apply Does.hosts

theorem foreign_does (s : State) (m : Nat) (a : Nat) (n : Nat) (Hs : Does M0 a0 s) (HM : [.regs] ⊆ M0) :
    Does M0 a0 (State.foreign s m a n) := by
  unfold State.foreign
  repeat' first
    | with_reducible assumption | with_reducible exact mem_of HM (by decide) | with_reducible exact List.Subset.trans (by decide) HM
    | with_reducible apply capSet_does | with_reducible apply count_does | split | with_reducible apply Does.regs

theorem foreigns_does (s : State) (m : Nat) (a : Nat) (n : Nat) (Hs : Does M0 a0 s) (HM : [.regs] ⊆ M0) :
    Does M0 a0 (State.foreigns s m a n) := by
  unfold State.foreigns
  repeat' first
    | with_reducible assumption | with_reducible exact mem_of HM (by decide) | with_reducible exact List.Subset.trans (by decide) HM
    | with_reducible apply Does.foldl | with_reducible apply foreign_does | split
    | (lift_lets; intro x; refine bring (P := Does M0 a0 x) ?side fun hx => ?main; case' main => clear_value x; case' side => unfold x)
    | (lift_lets; intro x) | exact fun j => j | intro x hx | intro x | with_reducible apply Does.regs

theorem collide_does (s : State) (bm : Nat) (am : Nat) (kind : Nat) (a : Nat) (Hs : Does M0 a0 s) (HM : [.regs] ⊆ M0) :
    Does M0 a0 (State.collide s bm am kind a) := by
  unfold State.collide
  repeat' first
    | with_reducible assumption | with_reducible exact mem_of HM (by decide) | with_reducible exact List.Subset.trans (by decide) HM
    | with_reducible apply capSet_does | with_reducible apply count_does | with_reducible apply Does.regs

theorem collided_does (s : State) (m : Nat) (a : Nat) (n : Nat) (w : Bool) (h : MemHits) (Hs : Does M0 a0 s) (HM : [.regs] ⊆ M0) :
    Does M0 a0 (State.collided s m a n w h) := by
  unfold State.collided
  repeat' first
    | with_reducible assumption | with_reducible exact mem_of HM (by decide) | with_reducible exact List.Subset.trans (by decide) HM
    | with_reducible apply Does.foldl | with_reducible apply collide_does | split
    | (lift_lets; intro x; refine bring (P := Does M0 a0 x) ?side fun hx => ?main; case' main => clear_value x; case' side => unfold x)
    | (lift_lets; intro x) | exact fun j => j | intro x hx | intro x | with_reducible apply Does.regs

theorem eccLost_does (s : State) (t : Target) (m : Nat) (a : Nat) (adr : Bool) (Hs : Does M0 a0 s) (HM : [.regs, .twin] ⊆ M0) :
    Does M0 a0 (State.eccLost s t m a adr) := by
  unfold State.eccLost
  repeat' first
    | with_reducible assumption | with_reducible exact mem_of HM (by decide) | with_reducible exact List.Subset.trans (by decide) HM
    | with_reducible apply count_does | with_reducible apply uncErr_does | split | with_reducible apply Does.regs | with_reducible apply Does.twin

theorem eccFixed_does (s : State) (t : Target) (a : Nat) (n : Nat) (h : MemHits) (Hs : Does M0 a0 s) (HM : [.regs, .pea, .sec] ⊆ M0) :
    Does M0 a0 (State.eccFixed s t a n h) := by
  unfold State.eccFixed
  repeat' first
    | with_reducible assumption | with_reducible exact mem_of HM (by decide) | with_reducible exact List.Subset.trans (by decide) HM
    | with_reducible apply countN_does | with_reducible apply count_does | with_reducible apply retireSector_does | split
    | (lift_lets; intro x; refine bring (P := Does M0 a0 x) ?side fun hx => ?main; case' main => clear_value x; case' side => unfold x)
    | (lift_lets; intro x) | exact fun j => j | intro x hx | intro x | with_reducible apply Does.regs | with_reducible apply Does.pea
    | with_reducible apply Does.sec

theorem found_does (s : State) (m : Nat) (a : Nat) (h : MemHits) (Hs : Does M0 a0 s) (HM : [.regs, .twin] ⊆ M0) :
    Does M0 a0 (State.found s m a h) := by
  unfold State.found
  repeat' first
    | with_reducible assumption | with_reducible exact mem_of HM (by decide) | with_reducible exact List.Subset.trans (by decide) HM
    | with_reducible apply countN_does | with_reducible apply uncErr_does | split | with_reducible apply Does.regs | with_reducible apply Does.twin

theorem readPiece_does (m : Nat) (hm : HostMem) (x : Option (List Byte) × State) (p : Nat × Nat) (Hx : Does M0 a0 x.2) (HM : [.regs, .pea, .sec, .twin] ⊆ M0) :
    Does M0 a0 (State.readPiece m hm x p).2 := by
  obtain ⟨a, n⟩ := p
  have hd := decerr_does x.2 m a false Hx (List.Subset.trans (by decide) HM)
  have hc : Does M0 a0 ((x.2.foreign m a n).collided m a n false hm.hits) :=
    collided_does _ _ _ _ _ _ (foreign_does _ _ _ _ Hx (List.Subset.trans (by decide) HM)) (List.Subset.trans (by decide) HM)
  unfold State.readPiece
  dsimp only
  split
  · split
    · exact eccLost_does _ _ _ _ _ Hx (List.Subset.trans (by decide) HM)
    · exact eccFixed_does _ _ _ _ _ Hx (List.Subset.trans (by decide) HM)
  · split
    · exact eccLost_does _ _ _ _ _ hc (List.Subset.trans (by decide) HM)
    · exact eccFixed_does _ _ _ _ _ hc (List.Subset.trans (by decide) HM)
  · split
    · exact eccLost_does _ _ _ _ _ Hx (List.Subset.trans (by decide) HM)
    · exact eccFixed_does _ _ _ _ _ Hx (List.Subset.trans (by decide) HM)
  · split
    · exact Hx
    · exact hd
  · exact hd
  · exact hd

theorem devRead_does (s : State) (m : Nat) (hm : HostMem) (a : Nat) (n : Nat) (Hs : Does M0 a0 s) (HM : [.regs, .pea, .sec, .twin] ⊆ M0) :
    Does M0 a0 (State.devRead s m hm a n).2 := by
  have go (l : List (Nat × Nat)) : ∀ x : Option (List Byte) × State, Does M0 a0 x.2 → Does M0 a0 (l.foldl (State.readPiece m hm) x).2 := by
    induction l with
    | nil => exact fun x h => h
    | cons p r ih => exact fun x h => ih _ (readPiece_does m hm x p h HM)
  exact go _ _ Hs

theorem hostWrites_does (s : State) (h : Nat) (a : Nat) (bs : List Byte) (Hs : Does M0 a0 s) (HM : [.out] ⊆ M0) :
    Does M0 a0 (State.hostWrites s h a bs) := by
  unfold State.hostWrites
  repeat' first
    | with_reducible assumption | with_reducible exact mem_of HM (by decide) | with_reducible exact List.Subset.trans (by decide) HM
    | with_reducible apply Does.foldl | with_reducible apply emit_does | split
    | (lift_lets; intro x; refine bring (P := Does M0 a0 x) ?side fun hx => ?main; case' main => clear_value x; case' side => unfold x)
    | (lift_lets; intro x) | exact fun j => j | intro x hx | intro x | with_reducible apply Does.out

theorem decerrs_does (s : State) (m : Nat) (a : Nat) (n : Nat) (size : Nat) (write : Bool) (Hs : Does M0 a0 s) (HM : [.regs] ⊆ M0) :
    Does M0 a0 (State.decerrs s m a n size write) := by
  unfold State.decerrs
  repeat' first
    | with_reducible assumption | with_reducible exact mem_of HM (by decide) | with_reducible exact List.Subset.trans (by decide) HM
    | with_reducible apply Does.foldl | with_reducible apply decerr_does | split
    | (lift_lets; intro x; refine bring (P := Does M0 a0 x) ?side fun hx => ?main; case' main => clear_value x; case' side => unfold x)
    | (lift_lets; intro x) | exact fun j => j | intro x hx | intro x | with_reducible apply Does.regs

theorem devWrite_does (s : State) (m : Nat) (a : Nat) (bs : List Byte) (hold : Bool) (Hs : Does M0 a0 s) (HM : [.out, .regs, .mem, .mix, .twin] ⊆ M0) :
    Does M0 a0 (State.devWrite s m a bs hold).2 := by
  unfold State.devWrite
  repeat' first
    | with_reducible assumption | with_reducible exact mem_of HM (by decide) | with_reducible exact List.Subset.trans (by decide) HM
    | with_reducible apply bulkWrite_does | with_reducible apply decerrs_does | with_reducible apply foreigns_does
    | with_reducible apply hostWrites_does | with_reducible apply poolWrite_does | split | with_reducible apply Does.out
    | with_reducible apply Does.regs | with_reducible apply Does.mem | with_reducible apply Does.mix | with_reducible apply Does.twin

theorem eccWrite_does (s : State) (m : Nat) (a : Nat) (bs : List Byte) (h : MemHits) (Hs : Does M0 a0 s) (HM : [.out, .regs, .mem, .pea, .sec, .mix, .twin] ⊆ M0) :
    Does M0 a0 (State.eccWrite s m a bs h).2 := by
  unfold State.eccWrite
  repeat' first
    | with_reducible assumption | with_reducible exact mem_of HM (by decide) | with_reducible exact List.Subset.trans (by decide) HM
    | with_reducible apply Does.foldl | with_reducible apply bulkWrite_does | with_reducible apply devWrite_does | with_reducible apply eccFixed_does
    | with_reducible apply foreign_does | with_reducible apply poolWrite_does | with_reducible apply uncErr_does | split
    | (lift_lets; intro x; refine bring (P := Does M0 a0 x) ?side fun hx => ?main; case' main => clear_value x; case' side => unfold x)
    | (lift_lets; intro x) | exact fun j => j | intro x hx | intro x | with_reducible apply Does.out | with_reducible apply Does.regs
    | with_reducible apply Does.mem | with_reducible apply Does.pea | with_reducible apply Does.sec | with_reducible apply Does.mix
    | with_reducible apply Does.twin

theorem fly_does (s : State) (m : Nat) (f : Nat → Nat) (Hs : Does M0 a0 s) (HM : [.mem] ⊆ M0) :
    Does M0 a0 (State.fly s m f) := by
  unfold State.fly
  repeat' first
    | with_reducible assumption | with_reducible exact mem_of HM (by decide) | with_reducible exact List.Subset.trans (by decide) HM | split
    | (lift_lets; intro x; refine bring (P := Does M0 a0 x) ?side fun hx => ?main; case' main => clear_value x; case' side => unfold x)
    | (lift_lets; intro x) | with_reducible apply Does.mem

theorem dropHeads_does (s : State) (ms : List Nat) (Hs : Does M0 a0 s) (HM : [.mem] ⊆ M0) :
    Does M0 a0 (State.dropHeads s ms) := by
  unfold State.dropHeads
  repeat' first
    | with_reducible assumption | with_reducible exact mem_of HM (by decide) | with_reducible exact List.Subset.trans (by decide) HM | split
    | (lift_lets; intro x; refine bring (P := Does M0 a0 x) ?side fun hx => ?main; case' main => clear_value x; case' side => unfold x)
    | (lift_lets; intro x) | with_reducible apply Does.mem

theorem waited_does (s : State) (pt : Nat) (m : Nat) (wait : Nat) (Hs : Does M0 a0 s) (HM : [.regs, .mem] ⊆ M0) :
    Does M0 a0 (State.waited s pt m wait) := by
  unfold State.waited
  repeat' first
    | with_reducible assumption | with_reducible exact mem_of HM (by decide) | with_reducible exact List.Subset.trans (by decide) HM
    | with_reducible apply scPut_does | split
    | (lift_lets; intro x; refine bring (P := Does M0 a0 x) ?side fun hx => ?main; case' main => clear_value x; case' side => unfold x)
    | (lift_lets; intro x) | exact fun j => j | intro x hx | intro x | with_reducible apply Does.regs | with_reducible apply Does.mem

theorem raiseBusy_does (s : State) (m : Nat) (Hs : Does M0 a0 s) (HM : [.mem] ⊆ M0) :
    Does M0 a0 (State.raiseBusy s m) := by
  unfold State.raiseBusy
  repeat' first
    | with_reducible assumption | with_reducible exact mem_of HM (by decide) | with_reducible exact List.Subset.trans (by decide) HM | split
    | (lift_lets; intro x; refine bring (P := Does M0 a0 x) ?side fun hx => ?main; case' main => clear_value x; case' side => unfold x)
    | (lift_lets; intro x) | with_reducible apply Does.mem

theorem bankOwn_does (s : State) (n : Nat) (w : Word) (Hs : Does M0 a0 s) (HM : [.mem] ⊆ M0) :
    Does M0 a0 (State.bankOwn s n w) := by
  unfold State.bankOwn
  repeat' first
    | with_reducible assumption | with_reducible exact mem_of HM (by decide) | with_reducible exact List.Subset.trans (by decide) HM | split
    | (lift_lets; intro x; refine bring (P := Does M0 a0 x) ?side fun hx => ?main; case' main => clear_value x; case' side => unfold x)
    | (lift_lets; intro x) | with_reducible apply Does.mem

theorem reroute_does (s : State) (Hs : Does M0 a0 s) (HM : [.mem] ⊆ M0) :
    Does M0 a0 (State.reroute s) := by
  unfold State.reroute
  repeat' first
    | with_reducible assumption | with_reducible exact mem_of HM (by decide) | with_reducible exact List.Subset.trans (by decide) HM | split
    | (lift_lets; intro x; refine bring (P := Does M0 a0 x) ?side fun hx => ?main; case' main => clear_value x; case' side => unfold x)
    | (lift_lets; intro x) | with_reducible apply Does.mem

theorem bankDone_does (s : State) (n : Nat) (Hs : Does M0 a0 s) (HM : [.mem] ⊆ M0) :
    Does M0 a0 (State.bankDone s n) := by
  unfold State.bankDone
  repeat' first
    | with_reducible assumption | with_reducible exact mem_of HM (by decide) | with_reducible exact List.Subset.trans (by decide) HM
    | with_reducible apply reroute_does | split
    | (lift_lets; intro x; refine bring (P := Does M0 a0 x) ?side fun hx => ?main; case' main => clear_value x; case' side => unfold x)
    | (lift_lets; intro x) | with_reducible apply Does.mem

theorem timSet_does (s : State) (t : Tim) (Hs : Does M0 a0 s) (HM : [.tim] ⊆ M0) (ht : s.tim.nsc < 2 ^ 64 → t.nsc < 2 ^ 64) :
    Does M0 a0 (State.timSet s t) := Hs.tim (HM (by decide)) t ht

theorem refSet_does (s : State) (r : Nat) (x : Ref) (Hs : Does M0 a0 s) (HM : [.tim] ⊆ M0) :
    Does M0 a0 (State.refSet s r x) := by
  unfold State.refSet
  repeat' first
    | with_reducible assumption | with_reducible exact mem_of HM (by decide) | with_reducible exact List.Subset.trans (by decide) HM
    | with_reducible apply timSet_does | split
    | (lift_lets; intro x; refine bring (P := Does M0 a0 x) ?side fun hx => ?main; case' main => clear_value x; case' side => unfold x)
    | (lift_lets; intro x) | exact fun j => j | intro x hx | intro x | with_reducible apply Does.tim

theorem disqualify_does (s : State) (r : Nat) (Hs : Does M0 a0 s) (HM : [.regs, .tim] ⊆ M0) :
    Does M0 a0 (State.disqualify s r) := by
  unfold State.disqualify
  repeat' first
    | with_reducible assumption | with_reducible exact mem_of HM (by decide) | with_reducible exact List.Subset.trans (by decide) HM
    | with_reducible apply refSet_does | with_reducible apply scSet_does | with_reducible apply Does.regs | with_reducible apply Does.tim

theorem loopStep_does (s : State) (ofs : Int) (dt : Nat) (Hs : Does M0 a0 s) (HM : [.tim] ⊆ M0) :
    Does M0 a0 (State.loopStep s ofs dt) :=
  timSet_does _ _ Hs HM id

theorem steerBlock_does (s : State) (Hs : Does M0 a0 s) (HM : [.tim] ⊆ M0) :
    Does M0 a0 (State.steerBlock s) := by
  unfold State.steerBlock
  repeat' first
    | with_reducible assumption | with_reducible exact mem_of HM (by decide) | with_reducible exact List.Subset.trans (by decide) HM
    | with_reducible apply timSet_does | split
    | (lift_lets; intro x; refine bring (P := Does M0 a0 x) ?side fun hx => ?main; case' main => clear_value x; case' side => unfold x)
    | (lift_lets; intro x) | exact fun j => j | intro x hx | intro x | with_reducible apply Does.tim

theorem binSet_does (s : State) (k : Nat) (w : Word) (Hs : Does M0 a0 s) (HM : [.tim] ⊆ M0) :
    Does M0 a0 (State.binSet s k w) := by
  unfold State.binSet
  repeat' first
    | with_reducible assumption | with_reducible exact mem_of HM (by decide) | with_reducible exact List.Subset.trans (by decide) HM
    | with_reducible apply timSet_does | split
    | (lift_lets; intro x; refine bring (P := Does M0 a0 x) ?side fun hx => ?main; case' main => clear_value x; case' side => unfold x)
    | (lift_lets; intro x) | exact fun j => j | intro x hx | intro x | with_reducible apply Does.tim

theorem holdSteer_does (s : State) (Hs : Does M0 a0 s) (HM : [.tim] ⊆ M0) :
    Does M0 a0 (State.holdSteer s) := by
  unfold State.holdSteer
  repeat' first
    | with_reducible assumption | with_reducible exact mem_of HM (by decide) | with_reducible exact List.Subset.trans (by decide) HM
    | with_reducible apply timSet_does | split
    | (lift_lets; intro x; refine bring (P := Does M0 a0 x) ?side fun hx => ?main; case' main => clear_value x; case' side => unfold x)
    | (lift_lets; intro x) | exact fun j => j | intro x hx | intro x | with_reducible apply Does.tim

theorem measure_does (s : State) (r : Nat) (m : RefMeas) (Hs : Does M0 a0 s) (HM : [.regs, .tim] ⊆ M0) :
    Does M0 a0 (State.measure s r m) := by
  unfold State.measure
  extract_lets x ofs fofs f beyond half hit st y s1 s2 s3
  have h1 : Does M0 a0 s1 := refSet_does _ _ _ Hs (List.Subset.trans (by decide) HM)
  have h2 : Does M0 a0 s2 := .ite (scSet_does _ _ _ h1 (List.Subset.trans (by decide) HM)) h1
  have h3 : Does M0 a0 s3 := .ite (disqualify_does _ _ h2 (List.Subset.trans (by decide) HM)) h2
  clear_value s3
  exact .ite h3 (.ite (holdSteer_does _ h3 (List.Subset.trans (by decide) HM))
    (.ite (scSet_does _ _ _ (timSet_does _ _ h3 (List.Subset.trans (by decide) HM) id) (List.Subset.trans (by decide) HM)) (loopStep_does _ _ _ h3 (List.Subset.trans (by decide) HM))))

theorem missed_does (s : State) (r : Nat) (Hs : Does M0 a0 s) (HM : [.tim] ⊆ M0) :
    Does M0 a0 (State.missed s r) := by
  unfold State.missed
  repeat' first
    | with_reducible assumption | with_reducible exact mem_of HM (by decide) | with_reducible exact List.Subset.trans (by decide) HM
    | with_reducible apply holdSteer_does | split | with_reducible apply Does.tim

theorem lose_does (s : State) (r : Nat) (Hs : Does M0 a0 s) (HM : [.tim] ⊆ M0) :
    Does M0 a0 (State.lose s r) := by
  unfold State.lose
  repeat' first
    | with_reducible assumption | with_reducible exact mem_of HM (by decide) | with_reducible exact List.Subset.trans (by decide) HM
    | with_reducible apply holdSteer_does | with_reducible apply refSet_does | split
    | (lift_lets; intro x; refine bring (P := Does M0 a0 x) ?side fun hx => ?main; case' main => clear_value x; case' side => unfold x)
    | (lift_lets; intro x) | exact fun j => j | intro x hx | intro x | with_reducible apply Does.tim

theorem failZero_does (s : State) (r : Nat) (Hs : Does M0 a0 s) (HM : [.regs, .tim] ⊆ M0) :
    Does M0 a0 (State.failZero s r) := by
  unfold State.failZero
  repeat' first
    | with_reducible assumption | with_reducible exact mem_of HM (by decide) | with_reducible exact List.Subset.trans (by decide) HM
    | with_reducible apply disqualify_does | split | with_reducible apply Does.regs | with_reducible apply Does.tim

theorem jam_does (s : State) (Hs : Does M0 a0 s) (HM : [.tim, .net, .twin] ⊆ M0) :
    Does M0 a0 (State.jam s) := by
  unfold State.jam
  extract_lets x t d refs t'
  exact ((Hs.tim (HM (by decide)) t' fun _ => Nat.mod_lt _ (Nat.two_pow_pos 64)).net (HM (by decide)) (s.net.moved d x.ofs)).twin
    (HM (by decide)) (s.twin.moved d)

theorem enterSmoulder_does (s : State) (Hs : Does M0 a0 s) (HM : [.regs, .tim] ⊆ M0) :
    Does M0 a0 (State.enterSmoulder s) := by
  unfold State.enterSmoulder
  exact .ite Hs (scSet_does _ _ _ (timSet_does _ _ Hs (List.Subset.trans (by decide) HM) id) (List.Subset.trans (by decide) HM))

theorem enterFreerun_does (s : State) (sel : Nat) (report : State → State) (Hs : Does M0 a0 s) (Hreport : ∀ t0, Does M0 a0 t0 → Does M0 a0 (report t0)) (HM : [.regs, .tim] ⊆ M0) :
    Does M0 a0 (State.enterFreerun s sel report) := by
  unfold State.enterFreerun
  extract_lets from' fell t0 s1
  have h1 : Does M0 a0 s1 := timSet_does _ _ Hs (List.Subset.trans (by decide) HM) id
  clear_value s1
  exact .ite (Hreport _ (scSet_does _ _ _ h1 (List.Subset.trans (by decide) HM))) h1

theorem follow_does (s : State) (r : Nat) (mixOn : Bool) (Hs : Does M0 a0 s) (HM : [.tim, .net, .twin] ⊆ M0) :
    Does M0 a0 (State.follow s r mixOn) := by
  unfold State.follow
  repeat' first
    | with_reducible assumption | with_reducible exact mem_of HM (by decide) | with_reducible exact List.Subset.trans (by decide) HM
    | with_reducible apply jam_does | with_reducible apply timSet_does | split
    | (lift_lets; intro x; refine bring (P := Does M0 a0 x) ?side fun hx => ?main; case' main => clear_value x; case' side => unfold x)
    | (lift_lets; intro x) | exact fun j => j | intro x hx | intro x | with_reducible apply Does.tim

theorem switchTo_does (s : State) (r : Nat) (mixOn : Bool) (report : State → State) (Hs : Does M0 a0 s) (Hreport : ∀ t0, Does M0 a0 t0 → Does M0 a0 (report t0)) (HM : [.regs, .tim, .net, .twin] ⊆ M0) :
    Does M0 a0 (State.switchTo s r mixOn report) := by
  unfold State.switchTo
  repeat' first
    | with_reducible assumption | with_reducible exact mem_of HM (by decide) | with_reducible exact List.Subset.trans (by decide) HM
    | with_reducible apply enterFreerun_does | with_reducible apply follow_does | with_reducible apply scSet_does | with_reducible apply Hreport
    | split | with_reducible apply Does.regs | with_reducible apply Does.tim

theorem fallBack_does (s : State) (report : State → State) (Hs : Does M0 a0 s) (Hreport : ∀ t0, Does M0 a0 t0 → Does M0 a0 (report t0)) (HM : [.regs, .tim] ⊆ M0) :
    Does M0 a0 (State.fallBack s report) := by
  unfold State.fallBack
  repeat' first
    | with_reducible assumption | with_reducible exact mem_of HM (by decide) | with_reducible exact List.Subset.trans (by decide) HM
    | with_reducible apply enterFreerun_does | with_reducible apply enterSmoulder_does | with_reducible apply Hreport | split
    | with_reducible apply Does.regs | with_reducible apply Does.tim

theorem select_does (s : State) (mixOn : Bool) (report : State → State) (Hs : Does M0 a0 s) (Hreport : ∀ t0, Does M0 a0 t0 → Does M0 a0 (report t0)) (HM : [.regs, .tim, .net, .twin] ⊆ M0) :
    Does M0 a0 (State.select s mixOn report) := by
  have hf := fallBack_does s report Hs Hreport (List.Subset.trans (by decide) HM)
  have hw (r : Nat) := switchTo_does s r mixOn report Hs Hreport HM
  unfold State.select
  dsimp only
  repeat' split
  all_goals first | exact Hs | exact hf | exact hw _

theorem sense_does (s : State) (Hs : Does M0 a0 s) (HM : [.freeCtr, .tim] ⊆ M0) :
    Does M0 a0 (State.sense s) := by
  unfold State.sense
  extract_lets d e s1 x0 s2 t1 t2
  have hd : Does M0 a0 d.2 := fresh_does s Hs (List.Subset.trans (by decide) HM)
  have h1 : Does M0 a0 e.2 := fresh_does _ hd (List.Subset.trans (by decide) HM)
  have h2 : Does M0 a0 s2 := timSet_does _ _ h1 (List.Subset.trans (by decide) HM) id
  refine timSet_does _ _ h2 (List.Subset.trans (by decide) HM) ?_
  split <;> exact id

theorem bandwidth_does (s : State) (Hs : Does M0 a0 s) (HM : [.tim] ⊆ M0) :
    Does M0 a0 (State.bandwidth s) := by
  unfold State.bandwidth
  repeat' first
    | with_reducible assumption | with_reducible exact mem_of HM (by decide) | with_reducible exact List.Subset.trans (by decide) HM
    | with_reducible apply timSet_does | split
    | (lift_lets; intro x; refine bring (P := Does M0 a0 x) ?side fun hx => ?main; case' main => clear_value x; case' side => unfold x)
    | (lift_lets; intro x) | exact fun j => j | intro x hx | intro x | with_reducible apply Does.tim

theorem learn_does (s : State) (Hs : Does M0 a0 s) (HM : [.tim] ⊆ M0) :
    Does M0 a0 (State.learn s) := by
  unfold State.learn
  extract_lets l m mins x fit k w n v s1
  have h1 : Does M0 a0 s1 := .ite Hs (binSet_does _ _ _ Hs HM)
  clear_value s1
  exact timSet_does _ _ h1 HM id

theorem timIxSet_does (s : State) (a : Nat) (w : Word) (Hs : Does M0 a0 s) (HM : [.tim] ⊆ M0) :
    Does M0 a0 (State.timIxSet s a w) := by
  unfold State.timIxSet
  repeat' first
    | with_reducible assumption | with_reducible exact mem_of HM (by decide) | with_reducible exact List.Subset.trans (by decide) HM
    | with_reducible apply binSet_does | with_reducible apply timSet_does | split
    | (lift_lets; intro x; refine bring (P := Does M0 a0 x) ?side fun hx => ?main; case' main => clear_value x; case' side => unfold x)
    | (lift_lets; intro x) | exact fun j => j | intro x hx | intro x | with_reducible apply Does.tim

theorem now_does (s : State) (Hs : Does M0 a0 s) (HM : [.freeCtr] ⊆ M0) :
    Does M0 a0 (State.now s).2.2 := by
  unfold State.now
  repeat' first
    | with_reducible assumption | with_reducible exact mem_of HM (by decide) | with_reducible exact List.Subset.trans (by decide) HM
    | with_reducible apply fresh_does | with_reducible apply Does.freeCtr

theorem portSet_does (s : State) (n : Fin 16) (p : Tdm) (Hs : Does M0 a0 s) (HM : [.tdm] ⊆ M0) :
    Does M0 a0 (State.portSet s n p) := by
  unfold State.portSet
  repeat' first
    | with_reducible assumption | with_reducible exact mem_of HM (by decide) | with_reducible exact List.Subset.trans (by decide) HM
    | with_reducible apply Does.tdm

theorem swapTables_does (s : State) (n : Fin 16) (Hs : Does M0 a0 s) (HM : [.freeCtr, .tdm, .byp] ⊆ M0) :
    Does M0 a0 (State.swapTables s n) := by
  unfold State.swapTables
  repeat' first
    | with_reducible assumption | with_reducible exact mem_of HM (by decide) | with_reducible exact List.Subset.trans (by decide) HM
    | with_reducible apply fresh_does | with_reducible apply portSet_does | split | with_reducible apply Does.freeCtr | with_reducible apply Does.tdm
    | with_reducible apply Does.byp

theorem emitPins_does (s : State) (n : Fin 16) (Hs : Does M0 a0 s) (HM : [.out] ⊆ M0) :
    Does M0 a0 (State.emitPins s n) := by
  unfold State.emitPins
  repeat' first
    | with_reducible assumption | with_reducible exact mem_of HM (by decide) | with_reducible exact List.Subset.trans (by decide) HM
    | with_reducible apply emit_does | with_reducible apply Does.out

theorem emitPinsAll_does (s : State) (Hs : Does M0 a0 s) (HM : [.out] ⊆ M0) :
    Does M0 a0 (State.emitPinsAll s) := by
  unfold State.emitPinsAll
  repeat' first
    | with_reducible assumption | with_reducible exact mem_of HM (by decide) | with_reducible exact List.Subset.trans (by decide) HM
    | with_reducible apply Does.foldl | with_reducible apply emitPins_does | split
    | (lift_lets; intro x; refine bring (P := Does M0 a0 x) ?side fun hx => ?main; case' main => clear_value x; case' side => unfold x)
    | (lift_lets; intro x) | exact fun j => j | intro x hx | intro x | with_reducible apply Does.out

theorem acStarted_does (s : State) (Hs : Does M0 a0 s) (HM : [.regs, .byp] ⊆ M0) :
    Does M0 a0 (State.acStarted s) := by
  unfold State.acStarted
  repeat' first
    | with_reducible assumption | with_reducible exact mem_of HM (by decide) | with_reducible exact List.Subset.trans (by decide) HM
    | with_reducible apply scSet_does | split
    | (lift_lets; intro x; refine bring (P := Does M0 a0 x) ?side fun hx => ?main; case' main => clear_value x; case' side => unfold x)
    | (lift_lets; intro x) | exact fun j => j | intro x hx | intro x | with_reducible apply Does.regs | with_reducible apply Does.byp

theorem acCopy_does (s : State) (n : Fin 16) (c : Word) (tx : List Byte) (Hs : Does M0 a0 s) (HM : [.regs, .byp] ⊆ M0) :
    Does M0 a0 (State.acCopy s n c tx) := by
  unfold State.acCopy
  repeat' first
    | with_reducible assumption | with_reducible exact mem_of HM (by decide) | with_reducible exact List.Subset.trans (by decide) HM
    | with_reducible apply scSet_does | split | with_reducible apply Does.regs | with_reducible apply Does.byp

theorem loseGone_does (s : State) (Hs : Does M0 a0 s) (HM : [.tim] ⊆ M0) :
    Does M0 a0 (State.loseGone s) := by
  unfold State.loseGone
  repeat' first
    | with_reducible assumption | with_reducible exact mem_of HM (by decide) | with_reducible exact List.Subset.trans (by decide) HM
    | with_reducible apply Does.foldl | with_reducible apply lose_does | split
    | (lift_lets; intro x; refine bring (P := Does M0 a0 x) ?side fun hx => ?main; case' main => clear_value x; case' side => unfold x)
    | (lift_lets; intro x) | exact fun j => j | intro x hx | intro x | with_reducible apply Does.tim

theorem refEnable_does (s : State) (r : Nat) (was : Bool) (Hs : Does M0 a0 s) (HM : [.regs, .tim] ⊆ M0) :
    Does M0 a0 (State.refEnable s r was) := by
  unfold State.refEnable
  repeat' first
    | with_reducible assumption | with_reducible exact mem_of HM (by decide) | with_reducible exact List.Subset.trans (by decide) HM
    | with_reducible apply failZero_does | with_reducible apply loseGone_does | with_reducible apply refSet_does | split
    | with_reducible apply Does.regs | with_reducible apply Does.tim

theorem tdmStopAt_does (s : State) (n : Fin 16) (Hs : Does M0 a0 s) (HM : [.freeCtr, .out, .tdm, .byp, .tim] ⊆ M0) :
    Does M0 a0 (State.tdmStopAt s n) := by
  unfold State.tdmStopAt
  repeat' first
    | with_reducible assumption | with_reducible exact mem_of HM (by decide) | with_reducible exact List.Subset.trans (by decide) HM
    | with_reducible apply emitPins_does | with_reducible apply loseGone_does | with_reducible apply portSet_does
    | with_reducible apply swapTables_does | split | with_reducible apply Does.freeCtr | with_reducible apply Does.out | with_reducible apply Does.tdm
    | with_reducible apply Does.byp | with_reducible apply Does.tim

theorem tdmArm_does (s : State) (start : Nat) (late : Bool) (n : Fin 16) (Hs : Does M0 a0 s) (HM : [.out, .regs, .tdm, .byp] ⊆ M0) :
    Does M0 a0 (State.tdmArm s start late n) := by
  unfold State.tdmArm
  repeat' first
    | with_reducible assumption | with_reducible exact mem_of HM (by decide) | with_reducible exact List.Subset.trans (by decide) HM
    | with_reducible apply acCopy_does | with_reducible apply emitPins_does | with_reducible apply portSet_does | with_reducible apply scSet_does
    | split | with_reducible apply Does.out | with_reducible apply Does.regs | with_reducible apply Does.tdm | with_reducible apply Does.byp

theorem tdmStart_does (s : State) (Hs : Does M0 a0 s) (HM : [.freeCtr, .sub, .out, .regs, .tdm, .byp] ⊆ M0) :
    Does M0 a0 (State.tdmStart s) := by
  unfold State.tdmStart
  repeat' first
    | with_reducible assumption | with_reducible exact mem_of HM (by decide) | with_reducible exact List.Subset.trans (by decide) HM
    | with_reducible apply Does.foldl | with_reducible apply later_does | with_reducible apply scSet_does | with_reducible apply tdmArm_does | split
    | (lift_lets; intro x; refine bring (P := Does M0 a0 x) ?side fun hx => ?main; case' main => clear_value x; case' side => unfold x)
    | (lift_lets; intro x) | exact fun j => j | intro x hx | intro x | with_reducible apply Does.freeCtr | with_reducible apply Does.sub
    | with_reducible apply Does.out | with_reducible apply Does.regs | with_reducible apply Does.tdm | with_reducible apply Does.byp

theorem emitPos_does (s : State) (n : Fin 16) (width : Nat) (spb : Nat) (first : Nat) (i : Nat) (Hs : Does M0 a0 s) (HM : [.out] ⊆ M0) :
    Does M0 a0 (State.emitPos s n width spb first i) := by
  unfold State.emitPos
  repeat' first
    | with_reducible assumption | with_reducible exact mem_of HM (by decide) | with_reducible exact List.Subset.trans (by decide) HM
    | with_reducible apply emit_does | split | with_reducible apply Does.out

theorem emitFrom_does (s : State) (n : Fin 16) (first : Nat) (Hs : Does M0 a0 s) (HM : [.out] ⊆ M0) :
    Does M0 a0 (State.emitFrom s n first) := by
  unfold State.emitFrom
  repeat' first
    | with_reducible assumption | with_reducible exact mem_of HM (by decide) | with_reducible exact List.Subset.trans (by decide) HM
    | with_reducible apply Does.foldl | with_reducible apply emitPos_does | split
    | (lift_lets; intro x; refine bring (P := Does M0 a0 x) ?side fun hx => ?main; case' main => clear_value x; case' side => unfold x)
    | (lift_lets; intro x) | exact fun j => j | intro x hx | intro x | with_reducible apply Does.out

theorem tablesFrom_does (s : State) (n : Fin 16) (k : Nat) (Hs : Does M0 a0 s) (HM : [.freeCtr, .out, .tdm] ⊆ M0) :
    Does M0 a0 (State.tablesFrom s n k) := by
  unfold State.tablesFrom
  repeat' first
    | with_reducible assumption | with_reducible exact mem_of HM (by decide) | with_reducible exact List.Subset.trans (by decide) HM
    | with_reducible apply emitFrom_does | with_reducible apply fresh_does | with_reducible apply portSet_does | with_reducible apply Does.freeCtr
    | with_reducible apply Does.out | with_reducible apply Does.tdm

theorem emitMaster_does (s : State) (n : Fin 16) (Hs : Does M0 a0 s) (HM : [.freeCtr, .out, .tdm, .byp] ⊆ M0) :
    Does M0 a0 (State.emitMaster s n) := by
  unfold State.emitMaster
  repeat' first
    | with_reducible assumption | with_reducible exact mem_of HM (by decide) | with_reducible exact List.Subset.trans (by decide) HM
    | with_reducible apply swapTables_does | with_reducible apply tablesFrom_does | split | with_reducible apply Does.freeCtr
    | with_reducible apply Does.out | with_reducible apply Does.tdm | with_reducible apply Does.byp

theorem emitAc15_does (s : State) (first : Nat) (Hs : Does M0 a0 s) (HM : [.out] ⊆ M0) :
    Does M0 a0 (State.emitAc15 s first) := by
  unfold State.emitAc15
  repeat' first
    | with_reducible assumption | with_reducible exact mem_of HM (by decide) | with_reducible exact List.Subset.trans (by decide) HM
    | with_reducible apply Does.foldl | with_reducible apply emit_does | split
    | (lift_lets; intro x; refine bring (P := Does M0 a0 x) ?side fun hx => ?main; case' main => clear_value x; case' side => unfold x)
    | (lift_lets; intro x) | exact fun j => j | intro x hx | intro x | with_reducible apply Does.out

theorem tail15_does (s : State) (first : Nat) (Hs : Does M0 a0 s) (HM : [.out] ⊆ M0) :
    Does M0 a0 (State.tail15 s first) := by
  unfold State.tail15
  repeat' first
    | with_reducible assumption | with_reducible exact mem_of HM (by decide) | with_reducible exact List.Subset.trans (by decide) HM
    | with_reducible apply emitAc15_does | with_reducible apply emitFrom_does | split | with_reducible apply Does.out

theorem emitTdm_does (s : State) (Hs : Does M0 a0 s) (HM : [.freeCtr, .out, .tdm, .byp] ⊆ M0) :
    Does M0 a0 (State.emitTdm s) := by
  unfold State.emitTdm
  repeat' first
    | with_reducible assumption | with_reducible exact mem_of HM (by decide) | with_reducible exact List.Subset.trans (by decide) HM
    | with_reducible apply Does.foldl | with_reducible apply emitAc15_does | with_reducible apply emitMaster_does
    | with_reducible apply emitPinsAll_does | split
    | (lift_lets; intro x; refine bring (P := Does M0 a0 x) ?side fun hx => ?main; case' main => clear_value x; case' side => unfold x)
    | (lift_lets; intro x) | exact fun j => j | intro x hx | intro x | with_reducible apply Does.freeCtr | with_reducible apply Does.out
    | with_reducible apply Does.tdm | with_reducible apply Does.byp

theorem tdmBegin_does (s : State) (n : Fin 16) (Hs : Does M0 a0 s) (HM : [.freeCtr, .out, .tdm, .byp] ⊆ M0) :
    Does M0 a0 (State.tdmBegin s n) := by
  unfold State.tdmBegin
  repeat' first
    | with_reducible assumption | with_reducible exact mem_of HM (by decide) | with_reducible exact List.Subset.trans (by decide) HM
    | with_reducible apply emitMaster_does | with_reducible apply portSet_does | split | with_reducible apply Does.freeCtr
    | with_reducible apply Does.out | with_reducible apply Does.tdm

theorem slaveTick_does (s : State) (n : Fin 16) (Hs : Does M0 a0 s) (HM : [.regs, .tdm] ⊆ M0) :
    Does M0 a0 (State.slaveTick s n) := by
  unfold State.slaveTick
  repeat' first
    | with_reducible assumption | with_reducible exact mem_of HM (by decide) | with_reducible exact List.Subset.trans (by decide) HM
    | with_reducible apply countN_does | with_reducible apply portSet_does | split
    | (lift_lets; intro x; refine bring (P := Does M0 a0 x) ?side fun hx => ?main; case' main => clear_value x; case' side => unfold x)
    | (lift_lets; intro x) | exact fun j => j | intro x hx | intro x | with_reducible apply Does.regs | with_reducible apply Does.tdm

theorem slaveTicks_does (s : State) (n : Fin 16) (k : Nat) (Hs : Does M0 a0 s) (HM : [.regs, .tdm] ⊆ M0) :
    Does M0 a0 (State.slaveTicks s n k) := by
  induction k generalizing s with
  | zero => exact Hs
  | succ k ih => exact ih _ (slaveTick_does _ _ Hs (List.Subset.trans (by decide) HM))

theorem slaveUpTo_does (s : State) (n : Fin 16) (p : Nat) (Hs : Does M0 a0 s) (HM : [.regs, .tdm] ⊆ M0) :
    Does M0 a0 (State.slaveUpTo s n p) := by
  unfold State.slaveUpTo
  repeat' first
    | with_reducible assumption | with_reducible exact mem_of HM (by decide) | with_reducible exact List.Subset.trans (by decide) HM
    | with_reducible apply slaveTicks_does | split | with_reducible apply Does.regs | with_reducible apply Does.tdm

theorem slaveLeave_does (s : State) (n : Fin 16) (Hs : Does M0 a0 s) (HM : [.freeCtr, .sub, .regs, .tdm] ⊆ M0) :
    Does M0 a0 (State.slaveLeave s n) := by
  unfold State.slaveLeave
  repeat' first
    | with_reducible assumption | with_reducible exact mem_of HM (by decide) | with_reducible exact List.Subset.trans (by decide) HM
    | with_reducible apply later_does | with_reducible apply slaveUpTo_does | with_reducible apply Does.freeCtr | with_reducible apply Does.sub
    | with_reducible apply Does.regs | with_reducible apply Does.tdm

theorem slavesEnd_does (s : State) (Hs : Does M0 a0 s) (HM : [.regs, .tdm] ⊆ M0) :
    Does M0 a0 (State.slavesEnd s) := by
  unfold State.slavesEnd
  repeat' first
    | with_reducible assumption | with_reducible exact mem_of HM (by decide) | with_reducible exact List.Subset.trans (by decide) HM
    | with_reducible apply Does.foldl | with_reducible apply slaveUpTo_does | split
    | (lift_lets; intro x; refine bring (P := Does M0 a0 x) ?side fun hx => ?main; case' main => clear_value x; case' side => unfold x)
    | (lift_lets; intro x) | exact fun j => j | intro x hx | intro x | with_reducible apply Does.regs | with_reducible apply Does.tdm

theorem tdmCapture_does (s : State) (sdi : List SdiWord) (n : Fin 16) (Hs : Does M0 a0 s) (HM : [.tdm] ⊆ M0) :
    Does M0 a0 (State.tdmCapture s sdi n) := by
  unfold State.tdmCapture
  repeat' first
    | with_reducible assumption | with_reducible exact mem_of HM (by decide) | with_reducible exact List.Subset.trans (by decide) HM
    | with_reducible apply portSet_does | with_reducible apply slaveTicks_does | split
    | (lift_lets; intro x; refine bring (P := Does M0 a0 x) ?side fun hx => ?main; case' main => clear_value x; case' side => unfold x)
    | (lift_lets; intro x) | with_reducible apply Does.regs | with_reducible apply Does.tdm

theorem tdmRestart_does (s : State) (n : Fin 16) (Hs : Does M0 a0 s) (HM : [.freeCtr, .sub, .regs, .tdm, .byp] ⊆ M0) :
    Does M0 a0 (State.tdmRestart s n) := by
  unfold State.tdmRestart
  repeat' first
    | with_reducible assumption | with_reducible exact mem_of HM (by decide) | with_reducible exact List.Subset.trans (by decide) HM
    | with_reducible apply count_does | with_reducible apply portSet_does | with_reducible apply slaveLeave_does
    | with_reducible apply swapTables_does | split | with_reducible apply Does.freeCtr | with_reducible apply Does.sub
    | with_reducible apply Does.regs | with_reducible apply Does.tdm | with_reducible apply Does.byp

theorem tdmRestartAsked_does (s : State) (n : Fin 16) (Hs : Does M0 a0 s) (HM : [.freeCtr, .sub, .regs, .tdm, .byp] ⊆ M0) :
    Does M0 a0 (State.tdmRestartAsked s n) := by
  unfold State.tdmRestartAsked
  repeat' first
    | with_reducible assumption | with_reducible exact mem_of HM (by decide) | with_reducible exact List.Subset.trans (by decide) HM
    | with_reducible apply tdmRestart_does | split | with_reducible apply Does.regs | with_reducible apply Does.tdm

theorem tdmSwapAsked_does (s : State) (n : Fin 16) (Hs : Does M0 a0 s) (HM : [.freeCtr, .tdm, .byp] ⊆ M0) :
    Does M0 a0 (State.tdmSwapAsked s n) := by
  unfold State.tdmSwapAsked
  repeat' first
    | with_reducible assumption | with_reducible exact mem_of HM (by decide) | with_reducible exact List.Subset.trans (by decide) HM
    | with_reducible apply portSet_does | with_reducible apply swapTables_does | split | with_reducible apply Does.freeCtr
    | with_reducible apply Does.tdm | with_reducible apply Does.byp

theorem tdmCtl_does (s : State) (n : Fin 16) (w : Word) (Hs : Does M0 a0 s) (HM : [.freeCtr, .sub, .regs, .tdm, .byp] ⊆ M0) :
    Does M0 a0 (State.tdmCtl s n w) := by
  unfold State.tdmCtl
  repeat' first
    | with_reducible assumption | with_reducible exact mem_of HM (by decide) | with_reducible exact List.Subset.trans (by decide) HM
    | with_reducible apply portSet_does | with_reducible apply tdmRestartAsked_does | with_reducible apply tdmSwapAsked_does | split
    | with_reducible apply Does.freeCtr | with_reducible apply Does.regs | with_reducible apply Does.tdm | with_reducible apply Does.byp

theorem emitSlave_does (s : State) (n : Fin 16) (k : Nat) (fr : List (Nat × Int)) (Hs : Does M0 a0 s) (HM : [.out] ⊆ M0) :
    Does M0 a0 (State.emitSlave s n k fr) := by
  unfold State.emitSlave
  repeat' first
    | with_reducible assumption | with_reducible exact mem_of HM (by decide) | with_reducible exact List.Subset.trans (by decide) HM
    | with_reducible apply Does.foldl | with_reducible apply emit_does | split
    | (lift_lets; intro x; refine bring (P := Does M0 a0 x) ?side fun hx => ?main; case' main => clear_value x; case' side => unfold x)
    | (lift_lets; intro x) | exact fun j => j | intro x hx | intro x | with_reducible apply Does.out

theorem acFrame_does (s : State) (n : Fin 16) (f : SlaveFrame) (Hs : Does M0 a0 s) (HM : [.out, .byp] ⊆ M0) :
    Does M0 a0 (State.acFrame s n f) := by
  unfold State.acFrame
  repeat' first
    | with_reducible assumption | with_reducible exact mem_of HM (by decide) | with_reducible exact List.Subset.trans (by decide) HM
    | with_reducible apply Does.foldl | with_reducible apply emit_does | split
    | (lift_lets; intro x; refine bring (P := Does M0 a0 x) ?side fun hx => ?main; case' main => clear_value x; case' side => unfold x)
    | (lift_lets; intro x) | exact fun j => j | intro x hx | intro x | with_reducible apply Does.out | with_reducible apply Does.byp

theorem slaveFrame_does (s : State) (n : Fin 16) (f : SlaveFrame) (Hs : Does M0 a0 s) (HM : [.sub, .out, .regs, .tdm] ⊆ M0) :
    Does M0 a0 (State.slaveFrame s n f) := by
  unfold State.slaveFrame
  repeat' first
    | with_reducible assumption | with_reducible exact mem_of HM (by decide) | with_reducible exact List.Subset.trans (by decide) HM
    | with_reducible apply countN_does | with_reducible apply count_does | with_reducible apply emitSlave_does | with_reducible apply portSet_does
    | with_reducible apply scSet_does | with_reducible apply slaveTicks_does | split | with_reducible apply Does.sub | with_reducible apply Does.out
    | with_reducible apply Does.regs | with_reducible apply Does.tdm

theorem dacClamp_does (s : State) (n : Nat) (vs : List Int) (Hs : Does M0 a0 s) (HM : [.regs] ⊆ M0) :
    Does M0 a0 (State.dacClamp s n vs) := by
  unfold State.dacClamp
  repeat' first
    | with_reducible assumption | with_reducible exact mem_of HM (by decide) | with_reducible exact List.Subset.trans (by decide) HM
    | with_reducible apply scSet_does | split | with_reducible apply Does.regs

theorem dacHold_does (s : State) (n : Nat) (Hs : Does M0 a0 s) (HM : [.dac] ⊆ M0) :
    Does M0 a0 (State.dacHold s n) := by
  unfold State.dacHold
  repeat' first
    | with_reducible assumption | with_reducible exact mem_of HM (by decide) | with_reducible exact List.Subset.trans (by decide) HM | split
    | with_reducible apply Does.dac

theorem dacTake_does (s : State) (n : Nat) (Hs : Does M0 a0 s) (HM : [.dac] ⊆ M0) :
    Does M0 a0 (State.dacTake s n) := by
  unfold State.dacTake
  repeat' first
    | with_reducible assumption | with_reducible exact mem_of HM (by decide) | with_reducible exact List.Subset.trans (by decide) HM
    | with_reducible apply Does.dac

theorem dacGive_does (s : State) (n : Nat) (first : Nat) (Hs : Does M0 a0 s) (HM : [.out, .regs] ⊆ M0) :
    Does M0 a0 (State.dacGive s n first) := by
  unfold State.dacGive
  repeat' first
    | with_reducible assumption | with_reducible exact mem_of HM (by decide) | with_reducible exact List.Subset.trans (by decide) HM
    | with_reducible apply dacClamp_does | with_reducible apply emit_does | split | with_reducible apply Does.out | with_reducible apply Does.regs

theorem dacRest_does (s : State) (n : Nat) (Hs : Does M0 a0 s) (HM : [.freeCtr, .sub, .out, .regs] ⊆ M0) :
    Does M0 a0 (State.dacRest s n) := by
  unfold State.dacRest
  repeat' first
    | with_reducible assumption | with_reducible exact mem_of HM (by decide) | with_reducible exact List.Subset.trans (by decide) HM
    | with_reducible apply dacGive_does | with_reducible apply later_does | with_reducible apply Does.freeCtr | with_reducible apply Does.sub
    | with_reducible apply Does.out | with_reducible apply Does.regs

theorem emitDac_does (s : State) (Hs : Does M0 a0 s) (HM : [.out, .regs, .dac] ⊆ M0) :
    Does M0 a0 (State.emitDac s) := by
  unfold State.emitDac
  repeat' first
    | with_reducible assumption | with_reducible exact mem_of HM (by decide) | with_reducible exact List.Subset.trans (by decide) HM
    | with_reducible apply Does.foldl | with_reducible apply dacGive_does | with_reducible apply dacHold_does | with_reducible apply dacTake_does
    | split | (lift_lets; intro x; refine bring (P := Does M0 a0 x) ?side fun hx => ?main; case' main => clear_value x; case' side => unfold x)
    | (lift_lets; intro x) | exact fun j => j | intro x hx | intro x | with_reducible apply Does.out | with_reducible apply Does.regs
    | with_reducible apply Does.dac

theorem tailDac_does (s : State) (first : Nat) (Hs : Does M0 a0 s) (HM : [.out, .regs] ⊆ M0) :
    Does M0 a0 (State.tailDac s first) := by
  unfold State.tailDac
  repeat' first
    | with_reducible assumption | with_reducible exact mem_of HM (by decide) | with_reducible exact List.Subset.trans (by decide) HM
    | with_reducible apply Does.foldl | with_reducible apply dacGive_does | split
    | (lift_lets; intro x; refine bring (P := Does M0 a0 x) ?side fun hx => ?main; case' main => clear_value x; case' side => unfold x)
    | (lift_lets; intro x) | exact fun j => j | intro x hx | intro x | with_reducible apply Does.out | with_reducible apply Does.regs

theorem dacDirect_does (s : State) (n : Nat) (Hs : Does M0 a0 s) (HM : [.out, .regs, .dac] ⊆ M0) :
    Does M0 a0 (State.dacDirect s n) := by
  unfold State.dacDirect
  repeat' first
    | with_reducible assumption | with_reducible exact mem_of HM (by decide) | with_reducible exact List.Subset.trans (by decide) HM
    | with_reducible apply dacClamp_does | with_reducible apply dacHold_does | with_reducible apply emit_does | split | with_reducible apply Does.out
    | with_reducible apply Does.regs | with_reducible apply Does.dac

theorem dacAgain_does (s : State) (n : Nat) (Hs : Does M0 a0 s) (HM : [.freeCtr, .sub, .out, .regs, .dac] ⊆ M0) :
    Does M0 a0 (State.dacAgain s n) := by
  unfold State.dacAgain
  repeat' first
    | with_reducible assumption | with_reducible exact mem_of HM (by decide) | with_reducible exact List.Subset.trans (by decide) HM
    | with_reducible apply dacDirect_does | with_reducible apply dacRest_does | split | with_reducible apply Does.freeCtr
    | with_reducible apply Does.sub | with_reducible apply Does.out | with_reducible apply Does.regs | with_reducible apply Does.dac

theorem acTurn_does (s : State) (Hs : Does M0 a0 s) (HM : [.freeCtr, .sub, .out, .regs, .byp] ⊆ M0) :
    Does M0 a0 (State.acTurn s) := by
  unfold State.acTurn
  repeat' first
    | with_reducible assumption | with_reducible exact mem_of HM (by decide) | with_reducible exact List.Subset.trans (by decide) HM
    | with_reducible apply later_does | with_reducible apply tail15_does | with_reducible apply tailDac_does | with_reducible apply Does.freeCtr
    | with_reducible apply Does.sub | with_reducible apply Does.out | with_reducible apply Does.regs | with_reducible apply Does.byp

theorem acFollow_does (was : Bool) (s : State) (Hs : Does M0 a0 s) (HM : [.freeCtr, .sub, .out, .regs, .byp] ⊆ M0) :
    Does M0 a0 (State.acFollow was s) := by
  unfold State.acFollow
  repeat' first
    | with_reducible assumption | with_reducible exact mem_of HM (by decide) | with_reducible exact List.Subset.trans (by decide) HM
    | with_reducible apply acStarted_does | with_reducible apply acTurn_does | split | with_reducible apply Does.freeCtr
    | with_reducible apply Does.out | with_reducible apply Does.regs | with_reducible apply Does.byp

theorem acChange_does (s : State) (b : Bypass) (Hs : Does M0 a0 s) (HM : [.freeCtr, .sub, .out, .regs, .byp] ⊆ M0) :
    Does M0 a0 (State.acChange s b) := by
  unfold State.acChange
  repeat' first
    | with_reducible assumption | with_reducible exact mem_of HM (by decide) | with_reducible exact List.Subset.trans (by decide) HM
    | with_reducible apply acFollow_does | with_reducible apply Does.freeCtr | with_reducible apply Does.out | with_reducible apply Does.regs
    | with_reducible apply Does.byp

theorem acCtl_does (s : State) (w : Word) (Hs : Does M0 a0 s) (HM : [.freeCtr, .sub, .out, .regs, .byp] ⊆ M0) :
    Does M0 a0 (State.acCtl s w) := by
  unfold State.acCtl
  repeat' first
    | with_reducible assumption | with_reducible exact mem_of HM (by decide) | with_reducible exact List.Subset.trans (by decide) HM
    | with_reducible apply acChange_does | split | with_reducible apply Does.regs | with_reducible apply Does.byp

theorem bypBoundary_does (s : State) (Hs : Does M0 a0 s) (HM : [.sub, .byp] ⊆ M0) :
    Does M0 a0 (State.bypBoundary s) :=
  (Hs.sub (HM (by decide)) 0).byp (HM (by decide)) { s.byp with weight := s.acWeight 12, up := s.acActive, turns := [], cap := [] }

end Sys2Proof.Laws
end

