-- ==== Sys2Proof/Laws/DoesHost.lean ====
section
/-! SUPPORT. What the operations of the host ports and the lanes can do: the fields of State each may change, and that each keeps the invariant
(Laws.Does). The lemma of an operation of an instruction is cited in place of its definition. -/

namespace Sys2Proof.Laws

set_option Elab.async false
set_option linter.all false

open Sys2Proof.Machine Sys2Proof.Safety

variable {M0 : List Fd} {a0 : State}

theorem hstPut_does (s : State) (h : Nat) (x : HostPort) (Hs : Does M0 a0 s) (HM : [.hosts] ⊆ M0) :
    Does M0 a0 (State.hstPut s h x) := by
  unfold State.hstPut
  repeat' first
    | with_reducible assumption | with_reducible exact mem_of HM (by decide) | with_reducible exact List.Subset.trans (by decide) HM
    | with_reducible apply hostSet_does | with_reducible apply Does.hosts

theorem capFld_does (s : State) (off : Nat) (lo : Nat) (n : Nat) (v : Nat) (Hs : Does M0 a0 s) (HM : [.regs] ⊆ M0) :
    Does M0 a0 (State.capFld s off lo n v) := by
  unfold State.capFld
  repeat' first
    | with_reducible assumption | with_reducible exact mem_of HM (by decide) | with_reducible exact List.Subset.trans (by decide) HM
    | with_reducible apply capSet_does | with_reducible apply Does.regs

theorem msix_does (s : State) (h : Nat) (v : Nat) (Hs : Does M0 a0 s) (HM : [.out, .hosts] ⊆ M0) :
    Does M0 a0 (State.msix s h v) := by
  unfold State.msix
  repeat' first
    | with_reducible assumption | with_reducible exact mem_of HM (by decide) | with_reducible exact List.Subset.trans (by decide) HM
    | with_reducible apply emit_does | with_reducible apply hstPut_does | split | with_reducible apply Does.out | with_reducible apply Does.hosts

theorem irqOut_does (s : State) (h : Nat) (Hs : Does M0 a0 s) (HM : [.out] ⊆ M0) :
    Does M0 a0 (State.irqOut s h) := by
  unfold State.irqOut
  repeat' first
    | with_reducible assumption | with_reducible exact mem_of HM (by decide) | with_reducible exact List.Subset.trans (by decide) HM
    | with_reducible apply emit_does | split | with_reducible apply Does.out

theorem hstEvent_does (s : State) (h : Nat) (b : Nat) (Hs : Does M0 a0 s) (HM : [.out, .regs, .hosts] ⊆ M0) :
    Does M0 a0 (State.hstEvent s h b) := by
  unfold State.hstEvent
  repeat' first
    | with_reducible assumption | with_reducible exact mem_of HM (by decide) | with_reducible exact List.Subset.trans (by decide) HM
    | with_reducible apply hstPut_does | with_reducible apply irqOut_does | with_reducible apply msix_does | with_reducible apply scSet_does | split
    | with_reducible apply Does.out | with_reducible apply Does.regs | with_reducible apply Does.hosts

theorem ringErr_does (s : State) (h : Nat) (r : Nat) (Hs : Does M0 a0 s) (HM : [.out, .regs, .hosts] ⊆ M0) :
    Does M0 a0 (State.ringErr s h r) := by
  unfold State.ringErr
  repeat' first
    | with_reducible assumption | with_reducible exact mem_of HM (by decide) | with_reducible exact List.Subset.trans (by decide) HM
    | with_reducible apply capFld_does | with_reducible apply hstEvent_does | with_reducible apply Does.out | with_reducible apply Does.regs
    | with_reducible apply Does.hosts

theorem signal_does (s : State) (h : Nat) (c : Nat) (Hs : Does M0 a0 s) (HM : [.out, .hosts] ⊆ M0) :
    Does M0 a0 (State.signal s h c) := by
  unfold State.signal
  repeat' first
    | with_reducible assumption | with_reducible exact mem_of HM (by decide) | with_reducible exact List.Subset.trans (by decide) HM
    | with_reducible apply hstPut_does | with_reducible apply irqOut_does | with_reducible apply msix_does | split | with_reducible apply Does.out
    | with_reducible apply Does.hosts

theorem cqStore_does (s : State) (h : Nat) (c : Nat) (bs : List Byte) (irq : Bool) (Hs : Does M0 a0 s) (HM : [.out, .regs, .mem, .mix, .hosts, .twin] ⊆ M0) :
    Does M0 a0 (State.cqStore s h c bs irq) := by
  unfold State.cqStore
  repeat' first
    | with_reducible assumption | with_reducible exact mem_of HM (by decide) | with_reducible exact List.Subset.trans (by decide) HM
    | with_reducible apply devWrite_does | with_reducible apply hstPut_does | with_reducible apply Does.out | with_reducible apply Does.regs
    | with_reducible apply Does.mem | with_reducible apply Does.mix | with_reducible apply Does.hosts | with_reducible apply Does.twin

theorem cqRecord_does (s : State) (h : Nat) (c : Nat) (bs : List Byte) (irq : Bool) (counts : Bool) (Hs : Does M0 a0 s) (HM : [.out, .regs, .mem, .mix, .hosts, .twin] ⊆ M0) :
    Does M0 a0 (State.cqRecord s h c bs irq counts) := by
  unfold State.cqRecord
  repeat' first
    | with_reducible assumption | with_reducible exact mem_of HM (by decide) | with_reducible exact List.Subset.trans (by decide) HM
    | with_reducible apply cqStore_does | with_reducible apply hstPut_does | split | with_reducible apply Does.out | with_reducible apply Does.regs
    | with_reducible apply Does.mem | with_reducible apply Does.mix | with_reducible apply Does.hosts | with_reducible apply Does.twin

theorem cqRelease_does (s : State) (h : Nat) (c : Nat) (Hs : Does M0 a0 s) (HM : [.out, .regs, .mem, .mix, .hosts, .twin] ⊆ M0) :
    Does M0 a0 (State.cqRelease s h c) := by
  unfold State.cqRelease
  repeat' first
    | with_reducible assumption | with_reducible exact mem_of HM (by decide) | with_reducible exact List.Subset.trans (by decide) HM
    | with_reducible apply Does.foldl | with_reducible apply cqStore_does | with_reducible apply hstPut_does | split
    | (lift_lets; intro x; refine bring (P := Does M0 a0 x) ?side fun hx => ?main; case' main => clear_value x; case' side => unfold x)
    | (lift_lets; intro x) | exact fun j => j | intro x hx | intro x | with_reducible apply Does.out | with_reducible apply Does.regs
    | with_reducible apply Does.mem | with_reducible apply Does.mix | with_reducible apply Does.hosts | with_reducible apply Does.twin

theorem post_does (s : State) (t : Ticket) (status : Nat) (delay : Nat) (csn : Nat) (Hs : Does M0 a0 s) (HM : [.out, .regs, .mem, .mix, .hosts, .twin] ⊆ M0) :
    Does M0 a0 (State.post s t status delay csn) := by
  unfold State.post
  repeat' first
    | with_reducible assumption | with_reducible exact mem_of HM (by decide) | with_reducible exact List.Subset.trans (by decide) HM
    | with_reducible apply cqRecord_does | with_reducible apply hstPut_does | split | with_reducible apply Does.out | with_reducible apply Does.regs
    | with_reducible apply Does.mem | with_reducible apply Does.mix | with_reducible apply Does.hosts | with_reducible apply Does.twin

theorem stageFailed_does (s : State) (h : Nat) (d : Desc) (st : Nat) (Hs : Does M0 a0 s) (HM : [.mix] ⊆ M0) :
    Does M0 a0 (State.stageFailed s h d st) := by
  unfold State.stageFailed
  repeat' first
    | with_reducible assumption | with_reducible exact mem_of HM (by decide) | with_reducible exact List.Subset.trans (by decide) HM | split
    | with_reducible apply Does.mix

theorem settleN_does (s : State) (h : Nat) (k : Nat) (n : Nat) (Hs : Does M0 a0 s) (HM : [.out, .regs, .mem, .mix, .hosts, .twin] ⊆ M0) :
    Does M0 a0 (State.settleN s h k n) := by
  induction n generalizing s with
  | zero => exact Hs
  | succ n ih =>
    unfold State.settleN
    split
    · exact Hs
    · dsimp only
      split
      · exact Hs
      · exact ih _ (post_does _ _ _ _ _ (stageFailed_does _ _ _ _ Hs (List.Subset.trans (by decide) HM)) (List.Subset.trans (by decide) HM))

theorem settle_does (s : State) (h : Nat) (k : Nat) (Hs : Does M0 a0 s) (HM : [.out, .regs, .mem, .mix, .hosts, .twin] ⊆ M0) :
    Does M0 a0 (State.settle s h k) := by
  unfold State.settle
  repeat' first
    | with_reducible assumption | with_reducible exact mem_of HM (by decide) | with_reducible exact List.Subset.trans (by decide) HM
    | with_reducible apply settleN_does | with_reducible apply Does.out | with_reducible apply Does.regs | with_reducible apply Does.mem
    | with_reducible apply Does.mix | with_reducible apply Does.hosts | with_reducible apply Does.twin

theorem setDesc_does (s : State) (h : Nat) (t : Ticket) (f : Desc → Desc) (Hs : Does M0 a0 s) (HM : [.hosts] ⊆ M0) :
    Does M0 a0 (State.setDesc s h t f) := by
  unfold State.setDesc
  repeat' first
    | with_reducible assumption | with_reducible exact mem_of HM (by decide) | with_reducible exact List.Subset.trans (by decide) HM
    | with_reducible apply hstPut_does | with_reducible apply Does.hosts

theorem finish_does (s : State) (h : Nat) (d : Desc) (status : Nat) (csn : Nat) (Hs : Does M0 a0 s) (HM : [.out, .regs, .mem, .mix, .hosts, .twin] ⊆ M0) :
    Does M0 a0 (State.finish s h d status csn) := by
  unfold State.finish
  repeat' first
    | with_reducible assumption | with_reducible exact mem_of HM (by decide) | with_reducible exact List.Subset.trans (by decide) HM
    | with_reducible apply post_does | with_reducible apply settle_does | with_reducible apply stageFailed_does | with_reducible apply Does.out
    | with_reducible apply Does.regs | with_reducible apply Does.mem | with_reducible apply Does.mix | with_reducible apply Does.hosts
    | with_reducible apply Does.twin

theorem beganDesc_does (s : State) (h : Nat) (d : Desc) (f : Desc → Desc) (Hs : Does M0 a0 s) (HM : [.out, .regs, .mem, .mix, .hosts, .twin] ⊆ M0) :
    Does M0 a0 (State.beganDesc s h d f) := by
  unfold State.beganDesc
  repeat' first
    | with_reducible assumption | with_reducible exact mem_of HM (by decide) | with_reducible exact List.Subset.trans (by decide) HM
    | with_reducible apply setDesc_does | with_reducible apply settle_does | with_reducible apply Does.out | with_reducible apply Does.regs
    | with_reducible apply Does.mem | with_reducible apply Does.mix | with_reducible apply Does.hosts | with_reducible apply Does.twin

theorem readPi_does (s : State) (h : Nat) (k : Nat) (v : Nat) (Hs : Does M0 a0 s) (HM : [.out, .regs, .hosts] ⊆ M0) :
    Does M0 a0 (State.readPi s h k v) := by
  unfold State.readPi
  repeat' first
    | with_reducible assumption | with_reducible exact mem_of HM (by decide) | with_reducible exact List.Subset.trans (by decide) HM
    | with_reducible apply hstPut_does | with_reducible apply ringErr_does | split | with_reducible apply Does.out | with_reducible apply Does.regs
    | with_reducible apply Does.hosts

theorem readCi_does (s : State) (h : Nat) (k : Nat) (v : Nat) (Hs : Does M0 a0 s) (HM : [.out, .regs, .mem, .mix, .hosts, .twin] ⊆ M0) :
    Does M0 a0 (State.readCi s h k v) := by
  unfold State.readCi
  repeat' first
    | with_reducible assumption | with_reducible exact mem_of HM (by decide) | with_reducible exact List.Subset.trans (by decide) HM
    | with_reducible apply cqRelease_does | with_reducible apply hstPut_does | with_reducible apply ringErr_does | split
    | with_reducible apply Does.out | with_reducible apply Does.regs | with_reducible apply Does.mem | with_reducible apply Does.mix
    | with_reducible apply Does.hosts | with_reducible apply Does.twin

theorem pageIn_does (h : Nat) (r : Option (List Byte) × State) (Hr : Does M0 a0 r.2) (HM : [.out, .regs, .mem, .mix, .hosts, .twin] ⊆ M0) :
    Does M0 a0 (State.pageIn h r) := by
  unfold State.pageIn
  repeat' first
    | with_reducible assumption | with_reducible exact mem_of HM (by decide) | with_reducible exact List.Subset.trans (by decide) HM
    | with_reducible apply Does.foldl | with_reducible apply irqOut_does | with_reducible apply readCi_does | with_reducible apply readPi_does | split
    | (lift_lets; intro x; refine bring (P := Does M0 a0 x) ?side fun hx => ?main; case' main => clear_value x; case' side => unfold x)
    | (lift_lets; intro x) | exact fun j => j | intro x hx | intro x | with_reducible apply Does.out | with_reducible apply Does.regs
    | with_reducible apply Does.hosts

theorem doorbell_does (s : State) (h : Nat) (hm : HostMem) (Hs : Does M0 a0 s) (HM : [.out, .regs, .mem, .pea, .sec, .mix, .hosts, .twin] ⊆ M0) :
    Does M0 a0 (State.doorbell s h hm) := by
  unfold State.doorbell
  repeat' first
    | with_reducible assumption | with_reducible exact mem_of HM (by decide) | with_reducible exact List.Subset.trans (by decide) HM
    | with_reducible apply devRead_does | with_reducible apply pageIn_does | split | with_reducible apply Does.out | with_reducible apply Does.regs
    | with_reducible apply Does.hosts

theorem descIn_does (h : Nat) (k : Nat) (q : Sq) (r : Option (List Byte) × State) (Hr : Does M0 a0 r.2) (HM : [.out, .regs, .mem, .mix, .hosts, .twin] ⊆ M0) :
    Does M0 a0 (State.descIn h k q r) := by
  unfold State.descIn
  repeat' first
    | with_reducible assumption | with_reducible exact mem_of HM (by decide) | with_reducible exact List.Subset.trans (by decide) HM
    | with_reducible apply capFld_does | with_reducible apply hstEvent_does | with_reducible apply hstPut_does | with_reducible apply settle_does
    | split | with_reducible apply Does.out | with_reducible apply Does.regs | with_reducible apply Does.mem | with_reducible apply Does.mix
    | with_reducible apply Does.hosts | with_reducible apply Does.twin

theorem fetchFrom_does (s : State) (h : Nat) (k : Nat) (hm : HostMem) (Hs : Does M0 a0 s) (HM : [.out, .regs, .mem, .pea, .sec, .mix, .hosts, .twin] ⊆ M0) :
    Does M0 a0 (State.fetchFrom s h k hm) := by
  unfold State.fetchFrom
  repeat' first
    | with_reducible assumption | with_reducible exact mem_of HM (by decide) | with_reducible exact List.Subset.trans (by decide) HM
    | with_reducible apply descIn_does | with_reducible apply devRead_does | with_reducible apply Does.out | with_reducible apply Does.regs
    | with_reducible apply Does.mem | with_reducible apply Does.mix | with_reducible apply Does.hosts | with_reducible apply Does.twin

theorem fetchTurn_does (s : State) (h : Nat) (hm : HostMem) (Hs : Does M0 a0 s) (HM : [.out, .regs, .mem, .pea, .sec, .mix, .hosts, .twin] ⊆ M0) :
    Does M0 a0 (State.fetchTurn s h hm) := by
  unfold State.fetchTurn
  repeat' first
    | with_reducible assumption | with_reducible exact mem_of HM (by decide) | with_reducible exact List.Subset.trans (by decide) HM
    | with_reducible apply fetchFrom_does | split | with_reducible apply Does.out | with_reducible apply Does.regs | with_reducible apply Does.mem
    | with_reducible apply Does.mix | with_reducible apply Does.hosts | with_reducible apply Does.twin

theorem indexPage_does (s : State) (h : Nat) (Hs : Does M0 a0 s) (HM : [.out, .regs, .mem, .mix, .hosts, .twin] ⊆ M0) :
    Does M0 a0 (State.indexPage s h) := by
  unfold State.indexPage
  repeat' first
    | with_reducible assumption | with_reducible exact mem_of HM (by decide) | with_reducible exact List.Subset.trans (by decide) HM
    | with_reducible apply Does.foldl | with_reducible apply devWrite_does | with_reducible apply hstPut_does | with_reducible apply signal_does
    | split | (lift_lets; intro x; refine bring (P := Does M0 a0 x) ?side fun hx => ?main; case' main => clear_value x; case' side => unfold x)
    | (lift_lets; intro x) | exact fun j => j | intro x hx | intro x | with_reducible apply Does.out | with_reducible apply Does.regs
    | with_reducible apply Does.mem | with_reducible apply Does.mix | with_reducible apply Does.hosts | with_reducible apply Does.twin

theorem modTime_does (s : State) (h : Nat) (c : Nat) (Hs : Does M0 a0 s) (HM : [.out, .hosts] ⊆ M0) :
    Does M0 a0 (State.modTime s h c) := by
  unfold State.modTime
  repeat' first
    | with_reducible assumption | with_reducible exact mem_of HM (by decide) | with_reducible exact List.Subset.trans (by decide) HM
    | with_reducible apply hstPut_does | with_reducible apply signal_does | split | with_reducible apply Does.out | with_reducible apply Does.hosts

theorem peekAt_does (s : State) (t : Target) (a : Nat) (Hs : Does M0 a0 s) (HM : [.freeCtr] ⊆ M0) :
    Does M0 a0 (State.peekAt s t a).2 := by
  unfold State.peekAt
  split
  · exact Hs
  · exact Hs
  · split
    · exact fresh_does s Hs HM
    · exact Hs
  · exact Hs

theorem doorbellPeek_does (s : State) (h : Nat) (o : Nat) (Hs : Does M0 a0 s) (HM : [.freeCtr] ⊆ M0) :
    Does M0 a0 (State.doorbellPeek s h o).2 := peekAt_does _ _ _ Hs HM

theorem sqStart_does (h : Nat) (s : State) (k : Nat) (Hs : Does M0 a0 s) (HM : [.freeCtr, .out, .regs, .hosts] ⊆ M0) :
    Does M0 a0 (State.sqStart h s k) := by
  unfold State.sqStart
  extract_lets p x x1 s1
  have h1 : Does M0 a0 p.2 := by
    dsimp only [p]
    split
    · exact doorbellPeek_does _ _ _ Hs (List.Subset.trans (by decide) HM)
    · exact Hs
  have h2 : Does M0 a0 s1 := hstPut_does _ _ _ h1 (List.Subset.trans (by decide) HM)
  exact .ite h2 (ringErr_does _ _ _ h2 (List.Subset.trans (by decide) HM))

theorem cqStart_does (h : Nat) (s : State) (k : Nat) (Hs : Does M0 a0 s) (HM : [.freeCtr, .out, .regs, .hosts] ⊆ M0) :
    Does M0 a0 (State.cqStart h s k) := by
  unfold State.cqStart
  extract_lets p x x1 s1
  have h1 : Does M0 a0 p.2 := by
    dsimp only [p]
    split
    · exact doorbellPeek_does _ _ _ Hs (List.Subset.trans (by decide) HM)
    · exact Hs
  have h2 : Does M0 a0 s1 := hstPut_does _ _ _ h1 (List.Subset.trans (by decide) HM)
  exact .ite h2 (ringErr_does _ _ _ h2 (List.Subset.trans (by decide) HM))

theorem portStart_does (s : State) (h : Nat) (Hs : Does M0 a0 s) (HM : [.freeCtr, .out, .regs, .hosts] ⊆ M0) :
    Does M0 a0 (State.portStart s h) := by
  unfold State.portStart
  repeat' first
    | with_reducible assumption | with_reducible exact mem_of HM (by decide) | with_reducible exact List.Subset.trans (by decide) HM
    | with_reducible apply Does.foldl | with_reducible apply cqStart_does | with_reducible apply sqStart_does | split
    | (lift_lets; intro x; refine bring (P := Does M0 a0 x) ?side fun hx => ?main; case' main => clear_value x; case' side => unfold x)
    | (lift_lets; intro x) | exact fun j => j | intro x hx | intro x | with_reducible apply Does.freeCtr | with_reducible apply Does.out
    | with_reducible apply Does.regs | with_reducible apply Does.hosts

theorem abortDescs_does (s : State) (h : Nat) (Hs : Does M0 a0 s) (HM : [.out, .regs, .mem, .mix, .hosts, .twin] ⊆ M0) :
    Does M0 a0 (State.abortDescs s h) := by
  unfold State.abortDescs
  repeat' first
    | with_reducible assumption | with_reducible exact mem_of HM (by decide) | with_reducible exact List.Subset.trans (by decide) HM
    | with_reducible apply Does.foldl | with_reducible apply post_does | split
    | (lift_lets; intro x; refine bring (P := Does M0 a0 x) ?side fun hx => ?main; case' main => clear_value x; case' side => unfold x)
    | (lift_lets; intro x) | exact fun j => j | intro x hx | intro x | with_reducible apply Does.out | with_reducible apply Does.regs
    | with_reducible apply Does.mem | with_reducible apply Does.mix | with_reducible apply Does.hosts | with_reducible apply Does.twin

theorem faultClaims_does (s : State) (h : Nat) (Hs : Does M0 a0 s) (HM : [.out, .mem, .mix, .twin] ⊆ M0) :
    Does M0 a0 (State.faultClaims s h) := by
  unfold State.faultClaims
  repeat' first
    | with_reducible assumption | with_reducible exact mem_of HM (by decide) | with_reducible exact List.Subset.trans (by decide) HM
    | with_reducible apply dropClaims_does | with_reducible apply hitch_does | with_reducible apply jRelease_does | with_reducible apply takeCsn_does
    | split | with_reducible apply Does.out | with_reducible apply Does.mem | with_reducible apply Does.mix | with_reducible apply Does.twin

theorem hostFault_does (s : State) (h : Nat) (c : Nat) (lost : Bool) (Hs : Does M0 a0 s) (HM : [.out, .regs, .mem, .mix, .hosts, .net, .twin] ⊆ M0) :
    Does M0 a0 (State.hostFault s h c lost) := by
  unfold State.hostFault
  repeat' first
    | with_reducible assumption | with_reducible exact mem_of HM (by decide) | with_reducible exact List.Subset.trans (by decide) HM
    | with_reducible apply Does.foldl | with_reducible apply abortDescs_does | with_reducible apply capFld_does
    | with_reducible apply faultClaims_does | with_reducible apply hstEvent_does | with_reducible apply hstPut_does
    | with_reducible apply rwPutBit_does | split
    | (lift_lets; intro x; refine bring (P := Does M0 a0 x) ?side fun hx => ?main; case' main => clear_value x; case' side => unfold x)
    | (lift_lets; intro x) | exact fun j => j | intro x hx | intro x | with_reducible apply Does.out | with_reducible apply Does.regs
    | with_reducible apply Does.mem | with_reducible apply Does.mix | with_reducible apply Does.hosts | with_reducible apply Does.net
    | with_reducible apply Does.twin

theorem dropCq_does (s : State) (h : Nat) (c : Nat) (Hs : Does M0 a0 s) (HM : [.hosts] ⊆ M0) :
    Does M0 a0 (State.dropCq s h c) := by
  unfold State.dropCq
  repeat' first
    | with_reducible assumption | with_reducible exact mem_of HM (by decide) | with_reducible exact List.Subset.trans (by decide) HM
    | with_reducible apply hstPut_does | with_reducible apply Does.hosts

theorem teardown_does (s : State) (h : Nat) (sqs : List Nat) (cqs : List Nat) (Hs : Does M0 a0 s) (HM : [.out, .regs, .mem, .mix, .hosts, .net, .twin] ⊆ M0) :
    Does M0 a0 (State.teardown s h sqs cqs) := by
  unfold State.teardown
  repeat' first
    | with_reducible assumption | with_reducible exact mem_of HM (by decide) | with_reducible exact List.Subset.trans (by decide) HM
    | with_reducible apply Does.foldl | with_reducible apply dropCq_does | with_reducible apply hostFault_does | with_reducible apply hstPut_does
    | split | (lift_lets; intro x; refine bring (P := Does M0 a0 x) ?side fun hx => ?main; case' main => clear_value x; case' side => unfold x)
    | (lift_lets; intro x) | exact fun j => j | intro x hx | intro x | with_reducible apply Does.out | with_reducible apply Does.regs
    | with_reducible apply Does.mem | with_reducible apply Does.mix | with_reducible apply Does.hosts | with_reducible apply Does.net
    | with_reducible apply Does.twin

theorem request_does (s : State) (h : Nat) (d : Desc) (r : Except Nat Op) (Hs : Does M0 a0 s) (HM : [.out, .regs, .mem, .mix, .hosts, .twin] ⊆ M0) :
    Does M0 a0 (State.request s h d r) := by
  unfold State.request
  repeat' first
    | with_reducible assumption | with_reducible exact mem_of HM (by decide) | with_reducible exact List.Subset.trans (by decide) HM
    | with_reducible apply beganDesc_does | with_reducible apply finish_does | split | with_reducible apply Does.out | with_reducible apply Does.regs
    | with_reducible apply Does.mem | with_reducible apply Does.mix | with_reducible apply Does.hosts | with_reducible apply Does.twin

theorem requestFrom_does (s : State) (h : Nat) (d : Desc) (hm : HostMem) (a : Nat) (n : Nat) (Hs : Does M0 a0 s) (HM : [.out, .regs, .mem, .pea, .sec, .mix, .hosts, .twin] ⊆ M0) :
    Does M0 a0 (State.requestFrom s h d hm a n) := by
  unfold State.requestFrom
  repeat' first
    | with_reducible assumption | with_reducible exact mem_of HM (by decide) | with_reducible exact List.Subset.trans (by decide) HM
    | with_reducible apply devRead_does | with_reducible apply finish_does | with_reducible apply request_does | split | with_reducible apply Does.out
    | with_reducible apply Does.regs | with_reducible apply Does.mem | with_reducible apply Does.mix | with_reducible apply Does.hosts
    | with_reducible apply Does.twin

theorem sceneRead_does (s : State) (slot : Nat) (hits : MemHits) (Hs : Does M0 a0 s) (HM : [.regs, .pea, .sec] ⊆ M0) :
    Does M0 a0 (State.sceneRead s slot hits) := by
  unfold State.sceneRead
  split
  · exact Hs
  · exact Hs.foldl fun _ _ Ht => eccFixed_does _ _ _ _ _ Ht HM

theorem sceneFetch_does (s : State) (h : Nat) (d : Desc) (hm : HostMem) (Hs : Does M0 a0 s) (HM : [.regs, .pea, .sec, .twin] ⊆ M0) :
    Does M0 a0 (State.sceneFetch s h d hm).2 := by
  unfold State.sceneFetch
  split
  · split
    · exact count_does _ _ Hs (List.Subset.trans (by decide) HM)
    · exact sceneRead_does _ _ _ Hs (List.Subset.trans (by decide) HM)
  · extract_lets a r
    have hr : Does M0 a0 r.2 := devRead_does _ _ _ _ _ Hs HM
    clear_value r
    split
    · exact hr
    · extract_lets n
      split
      · exact hr
      · exact devRead_does _ _ _ _ _ hr HM

theorem batchSet_does (s : State) (b : Batch) (Hs : Does M0 a0 s) (HM : [.mix] ⊆ M0) :
    Does M0 a0 (State.batchSet s b) := by
  unfold State.batchSet
  repeat' first
    | with_reducible assumption | with_reducible exact mem_of HM (by decide) | with_reducible exact List.Subset.trans (by decide) HM
    | with_reducible apply Does.mix

theorem batchDrop_does (s : State) (h : Nat) (q : Nat) (Hs : Does M0 a0 s) (HM : [.mix] ⊆ M0) :
    Does M0 a0 (State.batchDrop s h q) := by
  unfold State.batchDrop
  repeat' first
    | with_reducible assumption | with_reducible exact mem_of HM (by decide) | with_reducible exact List.Subset.trans (by decide) HM
    | with_reducible apply Does.mix

theorem stagePart_does (s : State) (o : Op) (Hs : Does M0 a0 s) (HM : [.mix] ⊆ M0) :
    Does M0 a0 (State.stagePart s o).2 := by
  unfold State.stagePart
  repeat' first
    | with_reducible assumption | with_reducible exact mem_of HM (by decide) | with_reducible exact List.Subset.trans (by decide) HM
    | with_reducible apply batchSet_does | split
    | (lift_lets; intro x; refine bring (P := Does M0 a0 x) ?side fun hx => ?main; case' main => clear_value x; case' side => unfold x)
    | (lift_lets; intro x) | with_reducible apply Does.mix

theorem closeBatch_does (s : State) (o : Op) (Hs : Does M0 a0 s) (HM : [.mix] ⊆ M0) :
    Does M0 a0 (State.closeBatch s o).2 := by
  unfold State.closeBatch
  repeat' first
    | with_reducible assumption | with_reducible exact mem_of HM (by decide) | with_reducible exact List.Subset.trans (by decide) HM
    | with_reducible apply batchDrop_does | split | with_reducible apply Does.mix

theorem programRead_does (s : State) (o : Op) (hits : MemHits) (Hs : Does M0 a0 s) (HM : [.regs, .pea, .sec, .twin] ⊆ M0) :
    Does M0 a0 (State.programRead s o hits).2 := by
  unfold State.programRead
  repeat' first
    | with_reducible assumption | with_reducible exact mem_of HM (by decide) | with_reducible exact List.Subset.trans (by decide) HM
    | with_reducible apply devRead_does | split
    | (lift_lets; intro x; refine bring (P := Does M0 a0 x) ?side fun hx => ?main; case' main => clear_value x; case' side => unfold x)
    | (lift_lets; intro x) | exact fun j => j | intro x hx | intro x | with_reducible apply Does.regs | with_reducible apply Does.pea
    | with_reducible apply Does.sec | with_reducible apply Does.twin

theorem claimEffect_does (s : State) (h : Nat) (p : Bool) (o : Op) (Hs : Does M0 a0 s) (HM : [.regs, .ctl, .mix, .tim] ⊆ M0) :
    Does M0 a0 (State.claimEffect s h p o) := by
  unfold State.claimEffect
  repeat' first
    | with_reducible assumption | with_reducible exact mem_of HM (by decide) | with_reducible exact List.Subset.trans (by decide) HM
    | with_reducible apply dropClaims_does | with_reducible apply release_does | split | with_reducible apply Does.regs
    | with_reducible apply Does.ctl | with_reducible apply Does.mix | with_reducible apply Does.tim

theorem enter_does (s : State) (h : Nat) (p : Bool) (d : List Byte) (o : Op) (Hs : Does M0 a0 s) (HM : [.out, .regs, .ctl, .mem, .mix, .tim, .twin] ⊆ M0) :
    Does M0 a0 (State.enter s h p d o) := by
  unfold State.enter
  repeat' first
    | with_reducible assumption | with_reducible exact mem_of HM (by decide) | with_reducible exact List.Subset.trans (by decide) HM
    | with_reducible apply addOp_does | with_reducible apply claimEffect_does | with_reducible apply jput_does | with_reducible apply release_does
    | with_reducible apply renewAll_does | with_reducible apply takeCsn_does | split | with_reducible apply Does.out | with_reducible apply Does.regs
    | with_reducible apply Does.ctl | with_reducible apply Does.mem | with_reducible apply Does.mix | with_reducible apply Does.tim
    | with_reducible apply Does.twin

theorem forward_does (s : State) (h : Nat) (d : Desc) (o : Op) (x : Nat) (Hs : Does M0 a0 s) (HM : [.out, .hosts, .twin] ⊆ M0) :
    Does M0 a0 (State.forward s h d o x) := by
  unfold State.forward
  repeat' first
    | with_reducible assumption | with_reducible exact mem_of HM (by decide) | with_reducible exact List.Subset.trans (by decide) HM
    | with_reducible apply hitch_does | with_reducible apply setDesc_does | with_reducible apply twinSet_does | with_reducible apply Does.out
    | with_reducible apply Does.hosts | with_reducible apply Does.twin

theorem acceptOwn_does (s : State) (h : Nat) (d : Desc) (o : Op) (x : Nat) (Hs : Does M0 a0 s) (HM : [.out, .regs, .ctl, .mem, .mix, .tim, .hosts, .twin] ⊆ M0) :
    Does M0 a0 (State.acceptOwn s h d o x) := by
  unfold State.acceptOwn
  repeat' first
    | with_reducible assumption | with_reducible exact mem_of HM (by decide) | with_reducible exact List.Subset.trans (by decide) HM
    | with_reducible apply count_does | with_reducible apply enter_does | with_reducible apply finish_does | with_reducible apply release_does
    | with_reducible apply setDesc_does | split | with_reducible apply Does.out | with_reducible apply Does.regs | with_reducible apply Does.ctl
    | with_reducible apply Does.mem | with_reducible apply Does.mix | with_reducible apply Does.tim | with_reducible apply Does.hosts
    | with_reducible apply Does.twin

theorem accept_does (s : State) (h : Nat) (q : Nat) (x : Nat) (hits : MemHits) (Hs : Does M0 a0 s) (HM : [.out, .regs, .ctl, .mem, .pea, .sec, .mix, .tim, .hosts, .twin] ⊆ M0) :
    Does M0 a0 (State.accept s h q x hits) := by
  unfold State.accept
  repeat' first
    | with_reducible assumption | with_reducible exact mem_of HM (by decide) | with_reducible exact List.Subset.trans (by decide) HM
    | with_reducible apply acceptOwn_does | with_reducible apply closeBatch_does | with_reducible apply finish_does
    | with_reducible apply forward_does | with_reducible apply programRead_does | with_reducible apply stagePart_does
    | with_reducible apply stage_does | split | with_reducible apply Does.out | with_reducible apply Does.regs | with_reducible apply Does.ctl
    | with_reducible apply Does.mem | with_reducible apply Does.pea | with_reducible apply Does.sec | with_reducible apply Does.mix
    | with_reducible apply Does.tim | with_reducible apply Does.hosts | with_reducible apply Does.twin

theorem countDone_does (s : State) (o : Op) (st : Nat) (Hs : Does M0 a0 s) (HM : [.regs] ⊆ M0) :
    Does M0 a0 (State.countDone s o st) := by
  unfold State.countDone
  repeat' first
    | with_reducible assumption | with_reducible exact mem_of HM (by decide) | with_reducible exact List.Subset.trans (by decide) HM
    | with_reducible apply count_does | split | with_reducible apply Does.regs

theorem opPost_does (s : State) (o : Op) (st : Nat) (delay : Nat) (csn : Nat) (Hs : Does M0 a0 s) (HM : [.out, .regs, .mem, .mix, .hosts, .twin] ⊆ M0) :
    Does M0 a0 (State.opPost s o st delay csn) := by
  unfold State.opPost
  repeat' first
    | with_reducible assumption | with_reducible exact mem_of HM (by decide) | with_reducible exact List.Subset.trans (by decide) HM
    | with_reducible apply hitch_does | with_reducible apply post_does | with_reducible apply twinSet_does | split | with_reducible apply Does.out
    | with_reducible apply Does.regs | with_reducible apply Does.mem | with_reducible apply Does.mix | with_reducible apply Does.hosts
    | with_reducible apply Does.twin

theorem abortOps_does (s : State) (Hs : Does M0 a0 s) (HM : [.out, .regs, .mem, .mix, .hosts, .twin] ⊆ M0) :
    Does M0 a0 (State.abortOps s) := by
  unfold State.abortOps
  repeat' first
    | with_reducible assumption | with_reducible exact mem_of HM (by decide) | with_reducible exact List.Subset.trans (by decide) HM
    | with_reducible apply Does.foldl | with_reducible apply opPost_does | split
    | (lift_lets; intro x; refine bring (P := Does M0 a0 x) ?side fun hx => ?main; case' main => clear_value x; case' side => unfold x)
    | (lift_lets; intro x) | exact fun j => j | intro x hx | intro x | with_reducible apply Does.out | with_reducible apply Does.regs
    | with_reducible apply Does.mem | with_reducible apply Does.mix | with_reducible apply Does.hosts | with_reducible apply Does.twin

theorem opComplete_does (s : State) (o : Op) (hits : MemHits) (Hs : Does M0 a0 s) (HM : [.out, .regs, .mem, .mix, .hosts, .twin] ⊆ M0) :
    Does M0 a0 (State.opComplete s o hits) := by
  unfold State.opComplete
  repeat' first
    | with_reducible assumption | with_reducible exact mem_of HM (by decide) | with_reducible exact List.Subset.trans (by decide) HM
    | with_reducible apply countDone_does | with_reducible apply devWrite_does | with_reducible apply found_does | with_reducible apply opPost_does
    | split | with_reducible apply Does.out | with_reducible apply Does.regs | with_reducible apply Does.mem | with_reducible apply Does.mix
    | with_reducible apply Does.hosts | with_reducible apply Does.twin

theorem complete_does (s : State) (csn : Nat) (hits : MemHits) (Hs : Does M0 a0 s) (HM : [.out, .regs, .mem, .mix, .hosts, .twin] ⊆ M0) :
    Does M0 a0 (State.complete s csn hits) := by
  unfold State.complete
  repeat' first
    | with_reducible assumption | with_reducible exact mem_of HM (by decide) | with_reducible exact List.Subset.trans (by decide) HM
    | with_reducible apply opComplete_does | split | with_reducible apply Does.out | with_reducible apply Does.regs | with_reducible apply Does.mem
    | with_reducible apply Does.mix | with_reducible apply Does.hosts | with_reducible apply Does.twin

theorem laneSet_does (s : State) (l : Nat) (x : Lane) (Hs : Does M0 a0 s) (HM : [.lanes] ⊆ M0) :
    Does M0 a0 (State.laneSet s l x) := by
  unfold State.laneSet
  repeat' first
    | with_reducible assumption | with_reducible exact mem_of HM (by decide) | with_reducible exact List.Subset.trans (by decide) HM
    | with_reducible apply Does.lanes

theorem draySet_does (s : State) (d : Nat) (x : Dray) (Hs : Does M0 a0 s) (HM : [.drays] ⊆ M0) :
    Does M0 a0 (State.draySet s d x) := by
  unfold State.draySet
  repeat' first
    | with_reducible assumption | with_reducible exact mem_of HM (by decide) | with_reducible exact List.Subset.trans (by decide) HM
    | with_reducible apply Does.drays

theorem releaseSems_does (s : State) (l : Nat) (Hs : Does M0 a0 s) (HM : [.drays] ⊆ M0) :
    Does M0 a0 (State.releaseSems s l) := by
  unfold State.releaseSems
  repeat' first
    | with_reducible assumption | with_reducible exact mem_of HM (by decide) | with_reducible exact List.Subset.trans (by decide) HM
    | with_reducible apply draySet_does | with_reducible apply Does.drays

theorem takeInputs_does (s : State) (d : Nat) (Hs : Does M0 a0 s) (HM : [.drays] ⊆ M0) :
    Does M0 a0 (State.takeInputs s d) := by
  unfold State.takeInputs
  repeat' first
    | with_reducible assumption | with_reducible exact mem_of HM (by decide) | with_reducible exact List.Subset.trans (by decide) HM
    | with_reducible apply draySet_does | with_reducible apply Does.drays

theorem fillInputs_does (s : State) (l : Nat) (Hs : Does M0 a0 s) (HM : [.lanes] ⊆ M0) :
    Does M0 a0 (State.fillInputs s l) := by
  unfold State.fillInputs
  repeat' first
    | with_reducible assumption | with_reducible exact mem_of HM (by decide) | with_reducible exact List.Subset.trans (by decide) HM
    | with_reducible apply laneSet_does | with_reducible apply Does.lanes

theorem inputCopy_does (s : State) (d : Nat) (Hs : Does M0 a0 s) (HM : [.lanes, .drays] ⊆ M0) :
    Does M0 a0 (State.inputCopy s d) := by
  unfold State.inputCopy
  repeat' first
    | with_reducible assumption | with_reducible exact mem_of HM (by decide) | with_reducible exact List.Subset.trans (by decide) HM
    | with_reducible apply Does.foldl | with_reducible apply fillInputs_does | with_reducible apply laneSet_does
    | with_reducible apply takeInputs_does | split
    | (lift_lets; intro x; refine bring (P := Does M0 a0 x) ?side fun hx => ?main; case' main => clear_value x; case' side => unfold x)
    | (lift_lets; intro x) | exact fun j => j | intro x hx | intro x | with_reducible apply Does.lanes | with_reducible apply Does.drays

theorem laneDeadline_does (s : State) (d : Nat) (Hs : Does M0 a0 s) (HM : [.out, .regs, .lanes] ⊆ M0) :
    Does M0 a0 (State.laneDeadline s d) := by
  unfold State.laneDeadline
  repeat' first
    | with_reducible assumption | with_reducible exact mem_of HM (by decide) | with_reducible exact List.Subset.trans (by decide) HM
    | with_reducible apply Does.foldl | with_reducible apply count_does | with_reducible apply laneSet_does | split
    | (lift_lets; intro x; refine bring (P := Does M0 a0 x) ?side fun hx => ?main; case' main => clear_value x; case' side => unfold x)
    | (lift_lets; intro x) | exact fun j => j | intro x hx | intro x | with_reducible apply Does.out | with_reducible apply Does.regs
    | with_reducible apply Does.lanes

theorem issueBundle_does (s : State) (l : Nat) (Hs : Does M0 a0 s) (HM : [.freeCtr, .regs, .lanes, .drays] ⊆ M0) :
    Does M0 a0 (State.issueBundle s l) := by
  unfold State.issueBundle
  repeat' first
    | with_reducible assumption | with_reducible exact mem_of HM (by decide) | with_reducible exact List.Subset.trans (by decide) HM
    | with_reducible apply countN_does | with_reducible apply draySet_does | with_reducible apply fillInputs_does | with_reducible apply laneSet_does
    | with_reducible apply releaseSems_does | split | with_reducible apply Does.freeCtr | with_reducible apply Does.regs
    | with_reducible apply Does.lanes | with_reducible apply Does.drays

theorem interrupt_does (s : State) (l : Nat) (Hs : Does M0 a0 s) (HM : [.out, .regs, .ctl, .mem, .mix, .tim, .lanes, .twin] ⊆ M0) :
    Does M0 a0 (State.interrupt s l) := by
  unfold State.interrupt
  repeat' first
    | with_reducible assumption | with_reducible exact mem_of HM (by decide) | with_reducible exact List.Subset.trans (by decide) HM
    | with_reducible apply enter_does | with_reducible apply laneSet_does | split | with_reducible apply Does.out | with_reducible apply Does.regs
    | with_reducible apply Does.ctl | with_reducible apply Does.mix | with_reducible apply Does.tim | with_reducible apply Does.lanes
    | with_reducible apply Does.twin

theorem dmaRead_does (s : State) (l : Nat) (x : Dma) (hits : MemHits) (Hs : Does M0 a0 s) (HM : [.regs, .pea, .sec] ⊆ M0) :
    Does M0 a0 (State.dmaRead s l x hits).2 := by
  unfold State.dmaRead
  repeat' first
    | with_reducible assumption | with_reducible exact mem_of HM (by decide) | with_reducible exact List.Subset.trans (by decide) HM
    | with_reducible apply Does.foldl | with_reducible apply collided_does | with_reducible apply eccFixed_does | with_reducible apply foreign_does
    | split | (lift_lets; intro x; refine bring (P := Does M0 a0 x) ?side fun hx => ?main; case' main => clear_value x; case' side => unfold x)
    | (lift_lets; intro x) | exact fun j => j | intro x hx | intro x | with_reducible apply Does.regs | with_reducible apply Does.pea
    | with_reducible apply Does.sec

theorem dmaStore_does (s : State) (l : Nat) (x : Dma) (bs : List Byte) (Hs : Does M0 a0 s) (HM : [.out, .regs, .mem, .mix, .lanes, .drays, .twin] ⊆ M0) :
    Does M0 a0 (State.dmaStore s l x bs) := by
  unfold State.dmaStore
  repeat' first
    | with_reducible assumption | with_reducible exact mem_of HM (by decide) | with_reducible exact List.Subset.trans (by decide) HM
    | with_reducible apply devWrite_does | with_reducible apply draySet_does | with_reducible apply laneSet_does | split
    | with_reducible apply Does.out | with_reducible apply Does.regs | with_reducible apply Does.mem | with_reducible apply Does.mix
    | with_reducible apply Does.lanes | with_reducible apply Does.drays | with_reducible apply Does.twin

theorem dmaMove_does (s : State) (l : Nat) (x : Dma) (hits : MemHits) (Hs : Does M0 a0 s) (HM : [.out, .regs, .mem, .pea, .sec, .mix, .lanes, .drays, .twin] ⊆ M0) :
    Does M0 a0 (State.dmaMove s l x hits) := by
  unfold State.dmaMove
  repeat' first
    | with_reducible assumption | with_reducible exact mem_of HM (by decide) | with_reducible exact List.Subset.trans (by decide) HM
    | with_reducible apply Does.foldl | with_reducible apply count_does | with_reducible apply dmaRead_does | with_reducible apply dmaStore_does
    | with_reducible apply uncErr_does | split
    | (lift_lets; intro x; refine bring (P := Does M0 a0 x) ?side fun hx => ?main; case' main => clear_value x; case' side => unfold x)
    | (lift_lets; intro x) | exact fun j => j | intro x hx | intro x | with_reducible apply Does.out | with_reducible apply Does.regs
    | with_reducible apply Does.mem | with_reducible apply Does.pea | with_reducible apply Does.sec | with_reducible apply Does.mix
    | with_reducible apply Does.lanes | with_reducible apply Does.drays | with_reducible apply Does.twin

theorem dmaDone_does (s : State) (l : Nat) (hits : MemHits) (Hs : Does M0 a0 s) (HM : [.out, .regs, .mem, .pea, .sec, .mix, .lanes, .drays, .twin] ⊆ M0) :
    Does M0 a0 (State.dmaDone s l hits) := by
  unfold State.dmaDone
  extract_lets x
  split
  · exact Hs
  · exact laneSet_does _ _ _ (.ite Hs (dmaMove_does _ _ _ _ Hs HM)) (List.Subset.trans (by decide) HM)

theorem dmaDrain_does (s : State) (l : Nat) (n0 : Nat) (Hs : Does M0 a0 s) (HM : [.out, .regs, .mem, .pea, .sec, .mix, .lanes, .drays, .twin] ⊆ M0) :
    Does M0 a0 (State.dmaDrain s l n0) := by
  induction n0 generalizing s with
  | zero => exact Hs
  | succ n ih =>
    unfold State.dmaDrain
    split
    · exact Hs
    · exact ih _ (dmaDone_does _ _ _ Hs HM)

theorem dmaCut_does (s : State) (l : Nat) (Hs : Does M0 a0 s) (HM : [.freeCtr, .out, .regs, .mem, .pea, .sec, .mix, .lanes, .drays, .twin] ⊆ M0) :
    Does M0 a0 (State.dmaCut s l) := by
  unfold State.dmaCut
  dsimp only
  split
  · exact Hs
  · exact .ite Hs (dmaStore_does _ _ _ _ (fresh_does _ (dmaRead_does _ _ _ _ Hs (List.Subset.trans (by decide) HM)) (List.Subset.trans (by decide) HM)) (List.Subset.trans (by decide) HM))

theorem laneLoaded_does (s : State) (l : Nat) (Hs : Does M0 a0 s) (HM : [.out, .regs, .mem, .pea, .sec, .mix, .lanes, .hosts, .twin] ⊆ M0) :
    Does M0 a0 (State.laneLoaded s l) := by
  unfold State.laneLoaded
  repeat' first
    | with_reducible assumption | with_reducible exact mem_of HM (by decide) | with_reducible exact List.Subset.trans (by decide) HM
    | with_reducible apply audit_does | with_reducible apply laneSet_does | with_reducible apply post_does | split | with_reducible apply Does.out
    | with_reducible apply Does.regs | with_reducible apply Does.mem | with_reducible apply Does.pea | with_reducible apply Does.sec
    | with_reducible apply Does.mix | with_reducible apply Does.lanes | with_reducible apply Does.hosts | with_reducible apply Does.twin

theorem laneStart_does (s : State) (l : Nat) (p : LPorts) (param : Word) (t : Ticket) (Hs : Does M0 a0 s) (HM : [.lanes] ⊆ M0) :
    Does M0 a0 (State.laneStart s l p param t) := by
  unfold State.laneStart
  repeat' first
    | with_reducible assumption | with_reducible exact mem_of HM (by decide) | with_reducible exact List.Subset.trans (by decide) HM
    | with_reducible apply laneSet_does | with_reducible apply Does.lanes

theorem laneCease_does (s : State) (l : Nat) (Hs : Does M0 a0 s) (HM : [.out, .regs, .mem, .pea, .sec, .mix, .lanes, .drays, .twin] ⊆ M0) :
    Does M0 a0 (State.laneCease s l) := by
  unfold State.laneCease
  repeat' first
    | with_reducible assumption | with_reducible exact mem_of HM (by decide) | with_reducible exact List.Subset.trans (by decide) HM
    | with_reducible apply dmaDrain_does | with_reducible apply laneSet_does | with_reducible apply releaseSems_does | with_reducible apply Does.out
    | with_reducible apply Does.regs | with_reducible apply Does.mem | with_reducible apply Does.mix | with_reducible apply Does.lanes
    | with_reducible apply Does.drays | with_reducible apply Does.twin

theorem laneFaulted_does (s : State) (l : Nat) (Hs : Does M0 a0 s) (HM : [.out, .regs, .ctl, .pea, .sec, .lanes, .twin] ⊆ M0) :
    Does M0 a0 (State.laneFaulted s l) := by
  unfold State.laneFaulted
  repeat' first
    | with_reducible assumption | with_reducible exact mem_of HM (by decide) | with_reducible exact List.Subset.trans (by decide) HM
    | with_reducible apply giveCause_does | with_reducible apply health_does | with_reducible apply laneSet_does | with_reducible apply takeOver_does
    | split | with_reducible apply Does.out | with_reducible apply Does.regs | with_reducible apply Does.ctl | with_reducible apply Does.pea
    | with_reducible apply Does.sec | with_reducible apply Does.lanes | with_reducible apply Does.twin

theorem laneBoundary_does (s : State) (l : Nat) (Hs : Does M0 a0 s) (HM : [.out, .regs, .ctl, .mem, .pea, .sec, .mix, .lanes, .drays, .hosts, .twin] ⊆ M0) :
    Does M0 a0 (State.laneBoundary s l) := by
  unfold State.laneBoundary
  repeat' first
    | with_reducible assumption | with_reducible exact mem_of HM (by decide) | with_reducible exact List.Subset.trans (by decide) HM
    | with_reducible apply laneCease_does | with_reducible apply laneFaulted_does | with_reducible apply laneSet_does | with_reducible apply post_does
    | split | with_reducible apply Does.out | with_reducible apply Does.regs | with_reducible apply Does.ctl | with_reducible apply Does.mem
    | with_reducible apply Does.pea | with_reducible apply Does.sec | with_reducible apply Does.mix | with_reducible apply Does.lanes
    | with_reducible apply Does.drays | with_reducible apply Does.hosts | with_reducible apply Does.twin

theorem laneFault_does (s : State) (d : Nat) (p : Nat) (badWords : List Nat) (Hs : Does M0 a0 s) (HM : [.out, .regs, .ctl, .pea, .sec, .lanes, .drays] ⊆ M0) :
    Does M0 a0 (State.laneFault s d p badWords) := by
  unfold State.laneFault
  repeat' first
    | with_reducible assumption | with_reducible exact mem_of HM (by decide) | with_reducible exact List.Subset.trans (by decide) HM
    | with_reducible apply count_does | with_reducible apply endTest_does | with_reducible apply laneSet_does | with_reducible apply releaseSems_does
    | with_reducible apply retireUnit_does | split | with_reducible apply Does.out | with_reducible apply Does.regs | with_reducible apply Does.ctl
    | with_reducible apply Does.pea | with_reducible apply Does.sec | with_reducible apply Does.lanes | with_reducible apply Does.drays

theorem migrate_does (s : State) (d : Nat) (Hs : Does M0 a0 s) (HM : [.ctl, .drays] ⊆ M0) :
    Does M0 a0 (State.migrate s d) := by
  unfold State.migrate
  repeat' first
    | with_reducible assumption | with_reducible exact mem_of HM (by decide) | with_reducible exact List.Subset.trans (by decide) HM
    | with_reducible apply ctlSet_does | with_reducible apply draySet_does | with_reducible apply place_does | split | with_reducible apply Does.ctl
    | with_reducible apply Does.drays

theorem migrated_does (s : State) (d : Nat) (i : Nat) (Hs : Does M0 a0 s) (HM : [.ctl] ⊆ M0) :
    Does M0 a0 (State.migrated s d i) := by
  unfold State.migrated
  repeat' first
    | with_reducible assumption | with_reducible exact mem_of HM (by decide) | with_reducible exact List.Subset.trans (by decide) HM
    | with_reducible apply ctlSet_does | with_reducible apply place_does | split | with_reducible apply Does.ctl

end Sys2Proof.Laws
end

