-- ==== Sys2Proof/Laws/DoesNet.lean ====
section
/-! SUPPORT. What the operations of the network can do: the fields of State each may change, and that each keeps the invariant
(Laws.Does). The lemma of an operation of an instruction is cited in place of its definition. -/

namespace Sys2Proof.Laws

set_option Elab.async false
set_option linter.all false

open Sys2Proof.Machine Sys2Proof.Safety

variable {M0 : List Fd} {a0 : State}

theorem peerRead_does (s : State) (n : Nat) (Hs : Does M0 a0 s) (HM : [.net] ⊆ M0) :
    Does M0 a0 (State.peerRead s n) := by
  unfold State.peerRead
  repeat' first
    | with_reducible assumption | with_reducible exact mem_of HM (by decide) | with_reducible exact List.Subset.trans (by decide) HM
    | with_reducible apply netSet_does | split | with_reducible apply Does.net

theorem txLost_does (s : State) (p : Nat) (f : TxFrame) (Hs : Does M0 a0 s) (HM : [.out, .regs, .mem, .mix, .hosts, .twin] ⊆ M0) :
    Does M0 a0 (State.txLost s p f) := by
  unfold State.txLost
  repeat' first
    | with_reducible assumption | with_reducible exact mem_of HM (by decide) | with_reducible exact List.Subset.trans (by decide) HM
    | with_reducible apply count_does | with_reducible apply post_does | split | with_reducible apply Does.out | with_reducible apply Does.regs
    | with_reducible apply Does.mem | with_reducible apply Does.mix | with_reducible apply Does.hosts | with_reducible apply Does.twin

theorem enqueue_does (s : State) (p : Nat) (f : TxFrame) (Hs : Does M0 a0 s) (HM : [.net] ⊆ M0) :
    Does M0 a0 (State.enqueue s p f) := by
  unfold State.enqueue
  repeat' first
    | with_reducible assumption | with_reducible exact mem_of HM (by decide) | with_reducible exact List.Subset.trans (by decide) HM
    | with_reducible apply nportSet_does | split | with_reducible apply Does.net

theorem sendOn_does (s : State) (port : Nat) (f : TxFrame) (Hs : Does M0 a0 s) (HM : [.out, .regs, .mem, .mix, .hosts, .net, .twin] ⊆ M0) :
    Does M0 a0 (State.sendOn s port f) := by
  unfold State.sendOn
  repeat' first
    | with_reducible assumption | with_reducible exact mem_of HM (by decide) | with_reducible exact List.Subset.trans (by decide) HM
    | with_reducible apply Does.foldl | with_reducible apply enqueue_does | with_reducible apply netSet_does | with_reducible apply txLost_does
    | split | (lift_lets; intro x; refine bring (P := Does M0 a0 x) ?side fun hx => ?main; case' main => clear_value x; case' side => unfold x)
    | (lift_lets; intro x) | exact fun j => j | intro x hx | intro x | with_reducible apply Does.out | with_reducible apply Does.regs
    | with_reducible apply Does.mem | with_reducible apply Does.mix | with_reducible apply Does.hosts | with_reducible apply Does.net
    | with_reducible apply Does.twin

theorem dropQ1_does (p : Nat) (s : State) (Hs : Does M0 a0 s) (HM : [.twin] ⊆ M0) :
    Does M0 a0 (State.dropQ1 p s) := by
  unfold State.dropQ1
  repeat' first
    | with_reducible assumption | with_reducible exact mem_of HM (by decide) | with_reducible exact List.Subset.trans (by decide) HM
    | with_reducible apply twinSet_does | with_reducible apply Does.twin

theorem linkChange_does (s : State) (p : Nat) (up : Bool) (speed : Nat) (an : Bool) (Hs : Does M0 a0 s) (HM : [.out, .regs, .mem, .mix, .hosts, .net, .twin] ⊆ M0) :
    Does M0 a0 (State.linkChange s p up speed an) := by
  unfold State.linkChange
  repeat' first
    | with_reducible assumption | with_reducible exact mem_of HM (by decide) | with_reducible exact List.Subset.trans (by decide) HM
    | with_reducible apply Does.foldl | with_reducible apply dropQ1_does | with_reducible apply nportSet_does | with_reducible apply scSet_does
    | with_reducible apply txLost_does | split
    | (lift_lets; intro x; refine bring (P := Does M0 a0 x) ?side fun hx => ?main; case' main => clear_value x; case' side => unfold x)
    | (lift_lets; intro x) | exact fun j => j | intro x hx | intro x | with_reducible apply Does.out | with_reducible apply Does.regs
    | with_reducible apply Does.mem | with_reducible apply Does.mix | with_reducible apply Does.hosts | with_reducible apply Does.net
    | with_reducible apply Does.twin

theorem macTx_does (s : State) (p : Nat) (tp : Nat) (sc : Nat) (bs : List Byte) (Hs : Does M0 a0 s) (HM : [.regs, .net] ⊆ M0) :
    ∀ t, State.macTx s p tp sc bs = some t → Does M0 a0 t.2 := by
  intro t h
  simp only [State.macTx] at h
  split at h
  · cases h
  · obtain ⟨k, -, rfl⟩ := Option.map_eq_some_iff.1 h
    have h1 := nportSet_does s tp { s.nport tp with
      sc := (s.nport tp).sc.putLe (48 * sc + 0x10 + 8 * ((s.nport tp).scF sc 9 1 % 4)) 4
        ((s.nport tp).scF sc (0x10 + 8 * ((s.nport tp).scF sc 9 1 % 4)) 4 + 1) } Hs (List.Subset.trans (by decide) HM)
    dsimp only
    split
    · exact scSet_does _ _ _ h1 (List.Subset.trans (by decide) HM)
    · exact h1

theorem macRx_does (s : State) (p : Nat) (bs : List Byte) (Hs : Does M0 a0 s) (HM : [.net] ⊆ M0) :
    Does M0 a0 (State.macRx s p bs).2 := by
  unfold State.macRx
  dsimp only
  split
  · exact Hs
  · split
    · split
      · exact Hs
      · exact nportSet_does _ _ _ Hs HM
    · exact Hs

theorem hitchTake_does (s : State) (p : Nat) (ns : Nat) (f : TxFrame) (Hs : Does M0 a0 s) (HM : [.out, .net, .twin] ⊆ M0) :
    Does M0 a0 (State.hitchTake s p ns f).2 := by
  unfold State.hitchTake
  repeat' first
    | with_reducible assumption | with_reducible exact mem_of HM (by decide) | with_reducible exact List.Subset.trans (by decide) HM
    | with_reducible apply hitch_does | with_reducible apply netSet_does | with_reducible apply twinSet_does | split | with_reducible apply Does.out
    | with_reducible apply Does.net | with_reducible apply Does.twin

theorem takeTx_does (s : State) (p : Nat) (ns : Nat) (f : TxFrame) (Hs : Does M0 a0 s) (HM : [.out, .net, .twin] ⊆ M0) :
    Does M0 a0 (State.takeTx s p ns f).2 := by
  unfold State.takeTx
  repeat' first
    | with_reducible assumption | with_reducible exact mem_of HM (by decide) | with_reducible exact List.Subset.trans (by decide) HM
    | with_reducible apply hitchTake_does | with_reducible apply nportSet_does | split | with_reducible apply Does.out | with_reducible apply Does.net
    | with_reducible apply Does.twin

theorem pickTx_does (s : State) (p : Nat) (ns : Nat) (Hs : Does M0 a0 s) (HM : [.freeCtr] ⊆ M0) :
    Does M0 a0 (State.pickTx s p ns).2 := by
  unfold State.pickTx
  repeat' first
    | with_reducible assumption | with_reducible exact mem_of HM (by decide) | with_reducible exact List.Subset.trans (by decide) HM
    | with_reducible apply fresh_does | with_reducible apply Does.freeCtr

theorem shareSealed_does (s : State) (p : Nat) (f : TxFrame) (bs : List Byte) (Hs : Does M0 a0 s) (HM : [.net, .twin] ⊆ M0) :
    Does M0 a0 (State.shareSealed s p f bs) := by
  unfold State.shareSealed
  repeat' first
    | with_reducible assumption | with_reducible exact mem_of HM (by decide) | with_reducible exact List.Subset.trans (by decide) HM
    | with_reducible apply nportSet_does | with_reducible apply twinSet_does | split | with_reducible apply Does.net | with_reducible apply Does.twin

theorem hostLeft_does (s : State) (f : TxFrame) (ns : Nat) (Hs : Does M0 a0 s) (HM : [.out, .regs, .mem, .mix, .hosts, .twin] ⊆ M0) :
    Does M0 a0 (State.hostLeft s f ns) := by
  unfold State.hostLeft
  repeat' first
    | with_reducible assumption | with_reducible exact mem_of HM (by decide) | with_reducible exact List.Subset.trans (by decide) HM
    | with_reducible apply devWrite_does | with_reducible apply post_does | split | with_reducible apply Does.out | with_reducible apply Does.regs
    | with_reducible apply Does.mem | with_reducible apply Does.mix | with_reducible apply Does.hosts | with_reducible apply Does.twin

theorem ownLeft_does (s : State) (p : Nat) (f : TxFrame) (t : Int) (Hs : Does M0 a0 s) (HM : [.net] ⊆ M0) :
    Does M0 a0 (State.ownLeft s p f t) := by
  unfold State.ownLeft
  repeat' first
    | with_reducible assumption | with_reducible exact mem_of HM (by decide) | with_reducible exact List.Subset.trans (by decide) HM
    | with_reducible apply enqueue_does | with_reducible apply nportSet_does | split | with_reducible apply Does.net

theorem depart_does (s : State) (p : Nat) (t : Nat) (Hs : Does M0 a0 s) (HM : [.freeCtr, .out, .regs, .mem, .mix, .hosts, .net, .twin] ⊆ M0) :
    Does M0 a0 (State.depart s p t) := by
  have h1 := pickTx_does s p (t / 65536) Hs (List.Subset.trans (by decide) HM)
  unfold State.depart
  split
  · exact Hs
  · dsimp only
    split
    · exact Hs
    · next f _ =>
      have h2 := takeTx_does _ p (t / 65536) f h1 (List.Subset.trans (by decide) HM)
      generalize (s.pickTx p (t / 65536)).2.takeTx p (t / 65536) f = r at h2
      split
      · have h3 := count_does _ (rPort p + 0x028) h2 (List.Subset.trans (by decide) HM)
        split
        · exact post_does _ _ _ _ _ (netSet_does _ _ h3 (List.Subset.trans (by decide) HM)) (List.Subset.trans (by decide) HM)
        · exact h3
      · next out s2 hq =>
        have h3 : Does M0 a0 s2 := by
          split at hq
          · injection hq with hq; injection hq with _ hq; subst hq; exact h2
          · obtain ⟨m, hm, hq⟩ := Option.map_eq_some_iff.1 hq
            injection hq with _ hq; subst hq
            exact shareSealed_does _ _ _ _ (macTx_does _ _ _ _ _ h2 (List.Subset.trans (by decide) HM) _ hm) (List.Subset.trans (by decide) HM)
        exact ownLeft_does _ _ _ _ (hostLeft_does _ _ _ (emit_does _ _ h3 (List.Subset.trans (by decide) HM)) (List.Subset.trans (by decide) HM)) (List.Subset.trans (by decide) HM)

theorem streamOpen_does (s : State) (listener : Bool) (idx : Nat) (r : List Byte) (t : Ticket) (Hs : Does M0 a0 s) (HM : [.net] ⊆ M0) :
    Does M0 a0 (State.streamOpen s listener idx r t) := by
  unfold State.streamOpen
  repeat' first
    | with_reducible assumption | with_reducible exact mem_of HM (by decide) | with_reducible exact List.Subset.trans (by decide) HM
    | with_reducible apply netSet_does | with_reducible apply peerRead_does | split | with_reducible apply Does.net

theorem streamClose_does (s : State) (listener : Bool) (idx : Nat) (t : Ticket) (Hs : Does M0 a0 s) (HM : [.net] ⊆ M0) :
    Does M0 a0 (State.streamClose s listener idx t).2 := by
  unfold State.streamClose
  repeat' first
    | with_reducible assumption | with_reducible exact mem_of HM (by decide) | with_reducible exact List.Subset.trans (by decide) HM
    | with_reducible apply netSet_does | split | with_reducible apply Does.net

theorem peersIn_does (s : State) (p : Ticket × Nat × List Byte) (Hs : Does M0 a0 s) (HM : [.net] ⊆ M0) :
    Does M0 a0 (State.peersIn s p) := by
  unfold State.peersIn
  repeat' first
    | with_reducible assumption | with_reducible exact mem_of HM (by decide) | with_reducible exact List.Subset.trans (by decide) HM
    | with_reducible apply netSet_does | split | with_reducible apply Does.net

theorem streamBoundary_does (s : State) (Hs : Does M0 a0 s) (HM : [.out, .regs, .mem, .mix, .hosts, .net, .twin] ⊆ M0) :
    Does M0 a0 (State.streamBoundary s) := by
  unfold State.streamBoundary
  repeat' first
    | with_reducible assumption | with_reducible exact mem_of HM (by decide) | with_reducible exact List.Subset.trans (by decide) HM
    | with_reducible apply Does.foldl | with_reducible apply netSet_does | with_reducible apply peersIn_does | with_reducible apply post_does | split
    | (lift_lets; intro x; refine bring (P := Does M0 a0 x) ?side fun hx => ?main; case' main => clear_value x; case' side => unfold x)
    | (lift_lets; intro x) | exact fun j => j | intro x hx | intro x | with_reducible apply Does.out | with_reducible apply Does.regs
    | with_reducible apply Does.mem | with_reducible apply Does.mix | with_reducible apply Does.hosts | with_reducible apply Does.net
    | with_reducible apply Does.twin

theorem packTalkers_does (s : State) (b : Nat) (Hs : Does M0 a0 s) (HM : [.net] ⊆ M0) :
    Does M0 a0 (State.packTalkers s b) := by
  unfold State.packTalkers
  repeat' first
    | with_reducible assumption | with_reducible exact mem_of HM (by decide) | with_reducible exact List.Subset.trans (by decide) HM
    | with_reducible apply netSet_does | with_reducible apply Does.net

theorem launch_does (s : State) (took : Bool) (Hs : Does M0 a0 s) (HM : [.out, .regs, .mem, .mix, .hosts, .net, .twin] ⊆ M0) :
    Does M0 a0 (State.launch s took) := by
  unfold State.launch
  repeat' first
    | with_reducible assumption | with_reducible exact mem_of HM (by decide) | with_reducible exact List.Subset.trans (by decide) HM
    | with_reducible apply Does.foldl | with_reducible apply sendOn_does | split
    | (lift_lets; intro x; refine bring (P := Does M0 a0 x) ?side fun hx => ?main; case' main => clear_value x; case' side => unfold x)
    | (lift_lets; intro x) | exact fun j => j | intro x hx | intro x | with_reducible apply Does.out | with_reducible apply Does.regs
    | with_reducible apply Does.mem | with_reducible apply Does.mix | with_reducible apply Does.hosts | with_reducible apply Does.net
    | with_reducible apply Does.twin

theorem listenerPut_does (s : State) (l : Listener) (Hs : Does M0 a0 s) (HM : [.net] ⊆ M0) :
    Does M0 a0 (State.listenerPut s l) := by
  unfold State.listenerPut
  repeat' first
    | with_reducible assumption | with_reducible exact mem_of HM (by decide) | with_reducible exact List.Subset.trans (by decide) HM
    | with_reducible apply netSet_does | with_reducible apply Does.net

theorem placeQ_does (s : State) (l : Listener) (now : Nat) (u : Int) (d : List Byte) (Hs : Does M0 a0 s) (HM : [.regs, .net] ⊆ M0) :
    Does M0 a0 (State.place' s l now u d) := by
  unfold State.place'
  repeat' first
    | with_reducible assumption | with_reducible exact mem_of HM (by decide) | with_reducible exact List.Subset.trans (by decide) HM
    | with_reducible apply count_does | with_reducible apply listenerPut_does | split
    | (lift_lets; intro x; refine bring (P := Does M0 a0 x) ?side fun hx => ?main; case' main => clear_value x; case' side => unfold x)
    | (lift_lets; intro x) | exact fun j => j | intro x hx | intro x | with_reducible apply Does.regs | with_reducible apply Does.net

theorem listen_does (s : State) (l : Listener) (k : Pkt) (Hs : Does M0 a0 s) (HM : [.freeCtr, .regs, .net] ⊆ M0) :
    Does M0 a0 (State.listen s l k) := by
  unfold State.listen
  repeat' first
    | with_reducible assumption | with_reducible exact mem_of HM (by decide) | with_reducible exact List.Subset.trans (by decide) HM
    | with_reducible apply count_does | with_reducible apply listenerPut_does | with_reducible apply now_does | with_reducible apply placeQ_does
    | split | (lift_lets; intro x; refine bring (P := Does M0 a0 x) ?side fun hx => ?main; case' main => clear_value x; case' side => unfold x)
    | (lift_lets; intro x) | exact fun j => j | intro x hx | intro x | with_reducible apply Does.freeCtr | with_reducible apply Does.regs
    | with_reducible apply Does.net

theorem listenerLost_does (s : State) (n : Nat) (Hs : Does M0 a0 s) (HM : [.net] ⊆ M0) :
    Does M0 a0 (State.listenerLost s n) := by
  unfold State.listenerLost
  repeat' first
    | with_reducible assumption | with_reducible exact mem_of HM (by decide) | with_reducible exact List.Subset.trans (by decide) HM
    | with_reducible apply netSet_does | with_reducible apply Does.net

theorem dropCaptured_does (s : State) (b : Nat) (Hs : Does M0 a0 s) (HM : [.net] ⊆ M0) :
    Does M0 a0 (State.dropCaptured s b) := by
  unfold State.dropCaptured
  repeat' first
    | with_reducible assumption | with_reducible exact mem_of HM (by decide) | with_reducible exact List.Subset.trans (by decide) HM
    | with_reducible apply netSet_does | with_reducible apply Does.net

theorem crfReport_does (s : State) (n : Nat) (Hs : Does M0 a0 s) (HM : [.net] ⊆ M0) :
    Does M0 a0 (State.crfReport s n) := by
  unfold State.crfReport
  repeat' first
    | with_reducible assumption | with_reducible exact mem_of HM (by decide) | with_reducible exact List.Subset.trans (by decide) HM
    | with_reducible apply netSet_does | with_reducible apply Does.net

theorem gptpSet_does (s : State) (d : Nat) (g : Gptp) (Hs : Does M0 a0 s) (HM : [.net] ⊆ M0) :
    Does M0 a0 (State.gptpSet s d g) := by
  unfold State.gptpSet
  repeat' first
    | with_reducible assumption | with_reducible exact mem_of HM (by decide) | with_reducible exact List.Subset.trans (by decide) HM
    | with_reducible apply netSet_does | with_reducible apply Does.net

theorem requalify_does (s : State) (d : Nat) (Hs : Does M0 a0 s) (HM : [.regs, .tim] ⊆ M0) :
    Does M0 a0 (State.requalify s d) := by
  unfold State.requalify
  repeat' first
    | with_reducible assumption | with_reducible exact mem_of HM (by decide) | with_reducible exact List.Subset.trans (by decide) HM
    | with_reducible apply failZero_does | with_reducible apply refSet_does | with_reducible apply Does.regs | with_reducible apply Does.tim

theorem announce_does (s : State) (d : Nat) (p : Nat) (body : List Byte) (Hs : Does M0 a0 s) (HM : [.regs, .tim, .net] ⊆ M0) :
    Does M0 a0 (State.announce s d p body) := by
  unfold State.announce
  repeat' first
    | with_reducible assumption | with_reducible exact mem_of HM (by decide) | with_reducible exact List.Subset.trans (by decide) HM
    | with_reducible apply gptpSet_does | with_reducible apply requalify_does | with_reducible apply Does.regs | with_reducible apply Does.tim
    | with_reducible apply Does.net

theorem syncDone_does (s : State) (d : Nat) (p : Nat) (origin : Nat) (corr : Int) (trx : Int) (Hs : Does M0 a0 s) (HM : [.regs, .tim, .net] ⊆ M0) :
    Does M0 a0 (State.syncDone s d p origin corr trx) := by
  unfold State.syncDone
  repeat' first
    | with_reducible assumption | with_reducible exact mem_of HM (by decide) | with_reducible exact List.Subset.trans (by decide) HM
    | with_reducible apply gptpSet_does | with_reducible apply requalify_does | split | with_reducible apply Does.regs | with_reducible apply Does.tim
    | with_reducible apply Does.net

theorem gptpRx_does (s : State) (p : Nat) (h : List Byte) (arrival : Nat) (Hs : Does M0 a0 s) (HM : [.regs, .tim, .net] ⊆ M0) :
    Does M0 a0 (State.gptpRx s p h arrival) := by
  unfold State.gptpRx
  repeat' first
    | with_reducible assumption | with_reducible exact mem_of HM (by decide) | with_reducible exact List.Subset.trans (by decide) HM
    | with_reducible apply announce_does | with_reducible apply enqueue_does | with_reducible apply gptpSet_does | with_reducible apply nportSet_does
    | with_reducible apply syncDone_does | split
    | (lift_lets; intro x; refine bring (P := Does M0 a0 x) ?side fun hx => ?main; case' main => clear_value x; case' side => unfold x)
    | (lift_lets; intro x) | exact fun j => j | intro x hx | intro x | with_reducible apply Does.regs | with_reducible apply Does.tim
    | with_reducible apply Does.net

theorem gptpLost_does (s : State) (d : Nat) (Hs : Does M0 a0 s) (HM : [.tim, .net] ⊆ M0) :
    Does M0 a0 (State.gptpLost s d) := by
  unfold State.gptpLost
  repeat' first
    | with_reducible assumption | with_reducible exact mem_of HM (by decide) | with_reducible exact List.Subset.trans (by decide) HM
    | with_reducible apply gptpSet_does | with_reducible apply loseGone_does | with_reducible apply refSet_does | with_reducible apply Does.tim
    | with_reducible apply Does.net

theorem pdelaySend_does (s : State) (p : Nat) (Hs : Does M0 a0 s) (HM : [.net] ⊆ M0) :
    Does M0 a0 (State.pdelaySend s p) := by
  unfold State.pdelaySend
  repeat' first
    | with_reducible assumption | with_reducible exact mem_of HM (by decide) | with_reducible exact List.Subset.trans (by decide) HM
    | with_reducible apply enqueue_does | with_reducible apply nportSet_does | split | with_reducible apply Does.net

theorem syncSend_does (s : State) (p : Nat) (d : Nat) (Hs : Does M0 a0 s) (HM : [.net] ⊆ M0) :
    Does M0 a0 (State.syncSend s p d) := by
  unfold State.syncSend
  repeat' first
    | with_reducible assumption | with_reducible exact mem_of HM (by decide) | with_reducible exact List.Subset.trans (by decide) HM
    | with_reducible apply enqueue_does | with_reducible apply gptpSet_does | split | with_reducible apply Does.net

theorem announceSend_does (s : State) (p : Nat) (d : Nat) (Hs : Does M0 a0 s) (HM : [.net] ⊆ M0) :
    Does M0 a0 (State.announceSend s p d) := by
  unfold State.announceSend
  repeat' first
    | with_reducible assumption | with_reducible exact mem_of HM (by decide) | with_reducible exact List.Subset.trans (by decide) HM
    | with_reducible apply enqueue_does | with_reducible apply gptpSet_does | split | with_reducible apply Does.net

theorem superSend_does (s : State) (q : Nat) (Hs : Does M0 a0 s) (HM : [.out, .regs, .mem, .mix, .hosts, .net, .twin] ⊆ M0) :
    Does M0 a0 (State.superSend s q) := by
  unfold State.superSend
  repeat' first
    | with_reducible assumption | with_reducible exact mem_of HM (by decide) | with_reducible exact List.Subset.trans (by decide) HM
    | with_reducible apply sendOn_does | split | with_reducible apply Does.out | with_reducible apply Does.regs | with_reducible apply Does.mem
    | with_reducible apply Does.mix | with_reducible apply Does.hosts | with_reducible apply Does.net | with_reducible apply Does.twin

theorem toHost_does (s : State) (p : Nat) (w : Word) (bs : List Byte) (sc : Option Nat) (vlan : Bool) (ns : Nat) (Hs : Does M0 a0 s) (HM : [.out, .regs, .mem, .mix, .hosts, .twin] ⊆ M0) :
    Does M0 a0 (State.toHost s p w bs sc vlan ns) := by
  unfold State.toHost
  dsimp only
  split
  · exact count_does _ _ Hs (List.Subset.trans (by decide) HM)
  · split
    · exact count_does _ _ Hs (List.Subset.trans (by decide) HM)
    · split
      · exact count_does _ _ Hs (List.Subset.trans (by decide) HM)
      · exact post_does _ _ _ _ _ (hstPut_does _ _ _ (devWrite_does _ _ _ _ _ Hs (List.Subset.trans (by decide) HM))
          (List.Subset.trans (by decide) HM)) (List.Subset.trans (by decide) HM)

theorem consume_does (s : State) (p : Nat) (bs : List Byte) (sc : Option Nat) (arr : Nat) (Hs : Does M0 a0 s) (HM : [.freeCtr, .out, .regs, .mem, .mix, .tim, .hosts, .net, .twin] ⊆ M0) :
    Does M0 a0 (State.consume s p bs sc arr) := by
  unfold State.consume
  repeat' first
    | with_reducible assumption | with_reducible exact mem_of HM (by decide) | with_reducible exact List.Subset.trans (by decide) HM
    | with_reducible apply count_does | with_reducible apply gptpRx_does | with_reducible apply listen_does | with_reducible apply toHost_does | split
    | with_reducible apply Does.freeCtr | with_reducible apply Does.out | with_reducible apply Does.regs | with_reducible apply Does.mem
    | with_reducible apply Does.mix | with_reducible apply Does.tim | with_reducible apply Does.hosts | with_reducible apply Does.net
    | with_reducible apply Does.twin

theorem unprotect_does (s : State) (p : Nat) (bs : List Byte) (arr : Nat) (Hs : Does M0 a0 s) (HM : [.freeCtr, .out, .regs, .mem, .mix, .tim, .hosts, .net, .twin] ⊆ M0) :
    Does M0 a0 (State.unprotect s p bs arr) := by
  unfold State.unprotect
  repeat' first
    | with_reducible assumption | with_reducible exact mem_of HM (by decide) | with_reducible exact List.Subset.trans (by decide) HM
    | with_reducible apply consume_does | with_reducible apply count_does | with_reducible apply macRx_does | split
    | with_reducible apply Does.freeCtr | with_reducible apply Does.out | with_reducible apply Does.regs | with_reducible apply Does.mem
    | with_reducible apply Does.mix | with_reducible apply Does.hosts | with_reducible apply Does.net | with_reducible apply Does.twin

theorem frameIn_does (s : State) (p : Nat) (f : RxFrame) (Hs : Does M0 a0 s) (HM : [.freeCtr, .out, .regs, .mem, .mix, .tim, .hosts, .net, .twin] ⊆ M0) :
    Does M0 a0 (State.frameIn s p f) := by
  unfold State.frameIn
  repeat' first
    | with_reducible assumption | with_reducible exact mem_of HM (by decide) | with_reducible exact List.Subset.trans (by decide) HM
    | with_reducible apply consume_does | with_reducible apply count_does | with_reducible apply netSet_does | with_reducible apply unprotect_does
    | split | with_reducible apply Does.freeCtr | with_reducible apply Does.out | with_reducible apply Does.regs | with_reducible apply Does.mem
    | with_reducible apply Does.mix | with_reducible apply Does.tim | with_reducible apply Does.hosts | with_reducible apply Does.net
    | with_reducible apply Does.twin

theorem dupForget_does (s : State) (q : Nat) (src : Nat) (Hs : Does M0 a0 s) (HM : [.net] ⊆ M0) :
    Does M0 a0 (State.dupForget s q src) := by
  unfold State.dupForget
  repeat' first
    | with_reducible assumption | with_reducible exact mem_of HM (by decide) | with_reducible exact List.Subset.trans (by decide) HM
    | with_reducible apply netSet_does | with_reducible apply Does.net

theorem strIxSet_does (s : State) (a : Nat) (w : Word) (Hs : Does M0 a0 s) (HM : [.net] ⊆ M0) :
    Does M0 a0 (State.strIxSet s a w) := by
  unfold State.strIxSet
  repeat' first
    | with_reducible assumption | with_reducible exact mem_of HM (by decide) | with_reducible exact List.Subset.trans (by decide) HM
    | with_reducible apply nportSet_does | split
    | (lift_lets; intro x; refine bring (P := Does M0 a0 x) ?side fun hx => ?main; case' main => clear_value x; case' side => unfold x)
    | (lift_lets; intro x) | exact fun j => j | intro x hx | intro x | with_reducible apply Does.net

end Sys2Proof.Laws
end

