-- ==== Sys2Proof/Laws/DoesTwin.lean ====
section
/-! SUPPORT. What the operations of the twin pair can do: the fields of State each may change, and that each keeps the invariant
(Laws.Does). The lemma of an operation of an instruction is cited in place of its definition. -/

namespace Sys2Proof.Laws

set_option Elab.async false
set_option linter.all false

open Sys2Proof.Machine Sys2Proof.Safety

variable {M0 : List Fd} {a0 : State}

theorem driveNext_does (s : State) (on : Bool) (Hs : Does M0 a0 s) (HM : [.twin] ⊆ M0) :
    Does M0 a0 (State.driveNext s on) := by
  unfold State.driveNext
  repeat' first
    | with_reducible assumption | with_reducible exact mem_of HM (by decide) | with_reducible exact List.Subset.trans (by decide) HM
    | with_reducible apply twinSet_does | with_reducible apply Does.twin

theorem hitStart_does (s : State) (Hs : Does M0 a0 s) (HM : [.twin] ⊆ M0) :
    Does M0 a0 (State.hitStart s) := by
  unfold State.hitStart
  repeat' first
    | with_reducible assumption | with_reducible exact mem_of HM (by decide) | with_reducible exact List.Subset.trans (by decide) HM
    | with_reducible apply driveNext_does | with_reducible apply twinSet_does | with_reducible apply Does.twin

theorem missAck_does (s : State) (Hs : Does M0 a0 s) (HM : [.regs, .twin] ⊆ M0) :
    Does M0 a0 (State.missAck s) := by
  unfold State.missAck
  repeat' first
    | with_reducible assumption | with_reducible exact mem_of HM (by decide) | with_reducible exact List.Subset.trans (by decide) HM
    | with_reducible apply count_does | with_reducible apply twinSet_does | split | with_reducible apply Does.regs | with_reducible apply Does.twin

theorem hitStop_does (s : State) (Hs : Does M0 a0 s) (HM : [.regs, .twin] ⊆ M0) :
    Does M0 a0 (State.hitStop s) := by
  unfold State.hitStop
  repeat' first
    | with_reducible assumption | with_reducible exact mem_of HM (by decide) | with_reducible exact List.Subset.trans (by decide) HM
    | with_reducible apply driveNext_does | with_reducible apply missAck_does | with_reducible apply twinSet_does | with_reducible apply Does.regs
    | with_reducible apply Does.twin

theorem pairSend_does (s : State) (Hs : Does M0 a0 s) (HM : [.out, .twin] ⊆ M0) :
    Does M0 a0 (State.pairSend s) := by
  unfold State.pairSend
  repeat' first
    | with_reducible assumption | with_reducible exact mem_of HM (by decide) | with_reducible exact List.Subset.trans (by decide) HM
    | with_reducible apply hitch_does | split | with_reducible apply Does.out | with_reducible apply Does.twin

theorem sendChunk_does (s : State) (n : Nat) (Hs : Does M0 a0 s) (HM : [.out, .twin] ⊆ M0) :
    Does M0 a0 (State.sendChunk s n) := by
  unfold State.sendChunk
  repeat' first
    | with_reducible assumption | with_reducible exact mem_of HM (by decide) | with_reducible exact List.Subset.trans (by decide) HM
    | with_reducible apply hitch_does | with_reducible apply Does.out | with_reducible apply Does.twin

theorem checkpoint_does (s : State) (Hs : Does M0 a0 s) (HM : [.out, .twin] ⊆ M0) :
    Does M0 a0 (State.checkpoint s) := by
  unfold State.checkpoint
  repeat' first
    | with_reducible assumption | with_reducible exact mem_of HM (by decide) | with_reducible exact List.Subset.trans (by decide) HM
    | with_reducible apply Does.foldl | with_reducible apply hitch_does | with_reducible apply sendChunk_does | with_reducible apply twinSet_does
    | split | (lift_lets; intro x; refine bring (P := Does M0 a0 x) ?side fun hx => ?main; case' main => clear_value x; case' side => unfold x)
    | (lift_lets; intro x) | exact fun j => j | intro x hx | intro x | with_reducible apply Does.out | with_reducible apply Does.twin

theorem pairActive_does (s : State) (driving : Bool) (Hs : Does M0 a0 s) (HM : [.out, .regs, .twin] ⊆ M0) :
    Does M0 a0 (State.pairActive s driving) := by
  unfold State.pairActive
  repeat' first
    | with_reducible assumption | with_reducible exact mem_of HM (by decide) | with_reducible exact List.Subset.trans (by decide) HM
    | with_reducible apply checkpoint_does | with_reducible apply missAck_does | with_reducible apply twinSet_does | with_reducible apply Does.out
    | with_reducible apply Does.regs | with_reducible apply Does.twin

theorem beStandby_does (s : State) (Hs : Does M0 a0 s) (HM : [.regs, .twin] ⊆ M0) :
    Does M0 a0 (State.beStandby s) := by
  unfold State.beStandby
  repeat' first
    | with_reducible assumption | with_reducible exact mem_of HM (by decide) | with_reducible exact List.Subset.trans (by decide) HM
    | with_reducible apply missAck_does | with_reducible apply twinSet_does | with_reducible apply Does.regs | with_reducible apply Does.twin

theorem pairRoles_does (s : State) (st : Nat) (Hs : Does M0 a0 s) (HM : [.freeCtr, .out, .regs, .twin] ⊆ M0) :
    Does M0 a0 (State.pairRoles s st) := by
  unfold State.pairRoles
  repeat' first
    | with_reducible assumption | with_reducible exact mem_of HM (by decide) | with_reducible exact List.Subset.trans (by decide) HM
    | with_reducible apply beStandby_does | with_reducible apply now_does | with_reducible apply pairActive_does | with_reducible apply twinSet_does
    | split | with_reducible apply Does.freeCtr | with_reducible apply Does.out | with_reducible apply Does.regs | with_reducible apply Does.twin

theorem heard_does (s : State) (st : Nat) (Hs : Does M0 a0 s) (HM : [.freeCtr, .out, .regs, .twin] ⊆ M0) :
    Does M0 a0 (State.heard s st) := by
  unfold State.heard
  repeat' first
    | with_reducible assumption | with_reducible exact mem_of HM (by decide) | with_reducible exact List.Subset.trans (by decide) HM
    | with_reducible apply pairRoles_does | split | with_reducible apply Does.freeCtr | with_reducible apply Does.out | with_reducible apply Does.regs
    | with_reducible apply Does.twin

theorem pairIn_does (s : State) (vmask : Nat) (home : Bool) (st : Nat) (dig : Nat) (Hs : Does M0 a0 s) (HM : [.freeCtr, .out, .regs, .twin] ⊆ M0) :
    Does M0 a0 (State.pairIn s vmask home st dig) := by
  unfold State.pairIn
  repeat' first
    | with_reducible assumption | with_reducible exact mem_of HM (by decide) | with_reducible exact List.Subset.trans (by decide) HM
    | with_reducible apply pairRoles_does | with_reducible apply twinSet_does | split | with_reducible apply Does.freeCtr
    | with_reducible apply Does.out | with_reducible apply Does.regs | with_reducible apply Does.twin

theorem seekTimeout_does (s : State) (Hs : Does M0 a0 s) (HM : [.twin] ⊆ M0) :
    Does M0 a0 (State.seekTimeout s) := by
  unfold State.seekTimeout
  repeat' first
    | with_reducible assumption | with_reducible exact mem_of HM (by decide) | with_reducible exact List.Subset.trans (by decide) HM
    | with_reducible apply driveNext_does | with_reducible apply twinSet_does | split | with_reducible apply Does.twin

theorem heldTimeout_does (s : State) (Hs : Does M0 a0 s) (HM : [.twin] ⊆ M0) :
    Does M0 a0 (State.heldTimeout s) := by
  unfold State.heldTimeout
  repeat' first
    | with_reducible assumption | with_reducible exact mem_of HM (by decide) | with_reducible exact List.Subset.trans (by decide) HM
    | with_reducible apply driveNext_does | with_reducible apply twinSet_does | split | with_reducible apply Does.twin

theorem renewSend_does (s : State) (Hs : Does M0 a0 s) (HM : [.out, .regs, .twin] ⊆ M0) :
    Does M0 a0 (State.renewSend s) := by
  unfold State.renewSend
  repeat' first
    | with_reducible assumption | with_reducible exact mem_of HM (by decide) | with_reducible exact List.Subset.trans (by decide) HM
    | with_reducible apply hitch_does | with_reducible apply missAck_does | with_reducible apply twinSet_does | split | with_reducible apply Does.out
    | with_reducible apply Does.regs | with_reducible apply Does.twin

theorem renewIn_does (s : State) (rseq : Nat) (Hs : Does M0 a0 s) (HM : [.freeCtr, .out, .twin] ⊆ M0) :
    Does M0 a0 (State.renewIn s rseq) := by
  unfold State.renewIn
  repeat' first
    | with_reducible assumption | with_reducible exact mem_of HM (by decide) | with_reducible exact List.Subset.trans (by decide) HM
    | with_reducible apply hitch_does | with_reducible apply now_does | with_reducible apply twinSet_does | split | with_reducible apply Does.freeCtr
    | with_reducible apply Does.out | with_reducible apply Does.twin

theorem ackIn_does (s : State) (rseq : Nat) (ready : Bool) (sync : Nat) (rtt : Nat) (Hs : Does M0 a0 s) (HM : [.twin] ⊆ M0) :
    Does M0 a0 (State.ackIn s rseq ready sync rtt) := by
  unfold State.ackIn
  repeat' first
    | with_reducible assumption | with_reducible exact mem_of HM (by decide) | with_reducible exact List.Subset.trans (by decide) HM
    | with_reducible apply driveNext_does | with_reducible apply twinSet_does | split | with_reducible apply Does.twin

theorem leaseEnd_does (s : State) (Hs : Does M0 a0 s) (HM : [.regs, .mix, .twin] ⊆ M0) :
    Does M0 a0 (State.leaseEnd s) := by
  unfold State.leaseEnd
  repeat' first
    | with_reducible assumption | with_reducible exact mem_of HM (by decide) | with_reducible exact List.Subset.trans (by decide) HM
    | with_reducible apply driveNext_does | with_reducible apply dropClaims_does | with_reducible apply missAck_does | with_reducible apply scSet_does
    | with_reducible apply takeCsn_does | with_reducible apply twinSet_does | split
    | (lift_lets; intro x; refine bring (P := Does M0 a0 x) ?side fun hx => ?main; case' main => clear_value x; case' side => unfold x)
    | (lift_lets; intro x) | exact fun j => j | intro x hx | intro x | with_reducible apply Does.regs | with_reducible apply Does.mix
    | with_reducible apply Does.twin

theorem settleFwds_does (s : State) (Hs : Does M0 a0 s) (HM : [.out, .regs, .mem, .mix, .hosts, .twin] ⊆ M0) :
    Does M0 a0 (State.settleFwds s) := by
  unfold State.settleFwds
  repeat' first
    | with_reducible assumption | with_reducible exact mem_of HM (by decide) | with_reducible exact List.Subset.trans (by decide) HM
    | with_reducible apply Does.foldl | with_reducible apply post_does | with_reducible apply setDesc_does | with_reducible apply twinSet_does | split
    | (lift_lets; intro x; refine bring (P := Does M0 a0 x) ?side fun hx => ?main; case' main => clear_value x; case' side => unfold x)
    | (lift_lets; intro x) | exact fun j => j | intro x hx | intro x | with_reducible apply Does.out | with_reducible apply Does.regs
    | with_reducible apply Does.mem | with_reducible apply Does.mix | with_reducible apply Does.hosts | with_reducible apply Does.twin

theorem takeOverTwin_does (s : State) (st : Nat) (keep : Bool) (Hs : Does M0 a0 s) (HM : [.out, .regs, .mem, .mix, .hosts, .twin] ⊆ M0) :
    Does M0 a0 (State.takeOverTwin s st keep) := by
  unfold State.takeOverTwin
  repeat' first
    | with_reducible assumption | with_reducible exact mem_of HM (by decide) | with_reducible exact List.Subset.trans (by decide) HM
    | with_reducible apply driveNext_does | with_reducible apply dropClaims_does | with_reducible apply scSet_does
    | with_reducible apply settleFwds_does | with_reducible apply twinSet_does | split | with_reducible apply Does.out
    | with_reducible apply Does.regs | with_reducible apply Does.mem | with_reducible apply Does.mix | with_reducible apply Does.hosts
    | with_reducible apply Does.twin

theorem leaseTakeover_does (s : State) (Hs : Does M0 a0 s) (HM : [.out, .regs, .mem, .mix, .hosts, .twin] ⊆ M0) :
    Does M0 a0 (State.leaseTakeover s) := by
  unfold State.leaseTakeover
  repeat' first
    | with_reducible assumption | with_reducible exact mem_of HM (by decide) | with_reducible exact List.Subset.trans (by decide) HM
    | with_reducible apply takeOverTwin_does | split | with_reducible apply Does.out | with_reducible apply Does.regs | with_reducible apply Does.mem
    | with_reducible apply Does.mix | with_reducible apply Does.hosts | with_reducible apply Does.twin

theorem giveupIn_does (s : State) (g : Nat) (Hs : Does M0 a0 s) (HM : [.out, .regs, .mem, .mix, .hosts, .twin] ⊆ M0) :
    Does M0 a0 (State.giveupIn s g) := by
  unfold State.giveupIn
  repeat' first
    | with_reducible assumption | with_reducible exact mem_of HM (by decide) | with_reducible exact List.Subset.trans (by decide) HM
    | with_reducible apply scSet_does | with_reducible apply takeOverTwin_does | split | with_reducible apply Does.out
    | with_reducible apply Does.regs | with_reducible apply Does.mem | with_reducible apply Does.mix | with_reducible apply Does.hosts
    | with_reducible apply Does.twin

theorem ackTimeout_does (s : State) (Hs : Does M0 a0 s) (HM : [.regs, .twin] ⊆ M0) :
    Does M0 a0 (State.ackTimeout s) := by
  unfold State.ackTimeout
  repeat' first
    | with_reducible assumption | with_reducible exact mem_of HM (by decide) | with_reducible exact List.Subset.trans (by decide) HM
    | with_reducible apply missAck_does | with_reducible apply twinSet_does | split | with_reducible apply Does.regs | with_reducible apply Does.twin

theorem giveUpNow_does (s : State) (Hs : Does M0 a0 s) (HM : [.out, .regs, .twin] ⊆ M0) :
    Does M0 a0 (State.giveUpNow s) := by
  unfold State.giveUpNow
  repeat' first
    | with_reducible assumption | with_reducible exact mem_of HM (by decide) | with_reducible exact List.Subset.trans (by decide) HM
    | with_reducible apply askAll_does | with_reducible apply beStandby_does | with_reducible apply cause_does | with_reducible apply driveNext_does
    | with_reducible apply hitch_does | with_reducible apply twinSet_does | split | with_reducible apply Does.out | with_reducible apply Does.regs
    | with_reducible apply Does.twin

theorem handAsk_does (s : State) (Hs : Does M0 a0 s) (HM : [.freeCtr, .out, .twin] ⊆ M0) :
    Does M0 a0 (State.handAsk s) := by
  unfold State.handAsk
  repeat' first
    | with_reducible assumption | with_reducible exact mem_of HM (by decide) | with_reducible exact List.Subset.trans (by decide) HM
    | with_reducible apply hitch_does | with_reducible apply now_does | with_reducible apply twinSet_does | split | with_reducible apply Does.freeCtr
    | with_reducible apply Does.out | with_reducible apply Does.twin

theorem handIn_does (s : State) (h : Nat) (Hs : Does M0 a0 s) (HM : [.freeCtr, .out, .twin] ⊆ M0) :
    Does M0 a0 (State.handIn s h) := by
  unfold State.handIn
  repeat' first
    | with_reducible assumption | with_reducible exact mem_of HM (by decide) | with_reducible exact List.Subset.trans (by decide) HM
    | with_reducible apply hitch_does | with_reducible apply now_does | with_reducible apply twinSet_does | split | with_reducible apply Does.freeCtr
    | with_reducible apply Does.out | with_reducible apply Does.twin

theorem handAck_does (s : State) (h : Nat) (ok : Bool) (Hs : Does M0 a0 s) (HM : [.twin] ⊆ M0) :
    Does M0 a0 (State.handAck s h ok) := by
  unfold State.handAck
  repeat' first
    | with_reducible assumption | with_reducible exact mem_of HM (by decide) | with_reducible exact List.Subset.trans (by decide) HM
    | with_reducible apply twinSet_does | split | with_reducible apply Does.twin

theorem assume_does (s : State) (h : Nat) (Hs : Does M0 a0 s) (HM : [.mix, .twin] ⊆ M0) :
    Does M0 a0 (State.assume s h) := by
  unfold State.assume
  repeat' first
    | with_reducible assumption | with_reducible exact mem_of HM (by decide) | with_reducible exact List.Subset.trans (by decide) HM
    | with_reducible apply twinSet_does | with_reducible apply Does.mix | with_reducible apply Does.twin

theorem handBoundary_does (s : State) (Hs : Does M0 a0 s) (HM : [.out, .regs, .mem, .mix, .hosts, .twin] ⊆ M0) :
    Does M0 a0 (State.handBoundary s) := by
  unfold State.handBoundary
  repeat' first
    | with_reducible assumption | with_reducible exact mem_of HM (by decide) | with_reducible exact List.Subset.trans (by decide) HM
    | with_reducible apply askAll_does | with_reducible apply assume_does | with_reducible apply beStandby_does | with_reducible apply hitch_does
    | with_reducible apply settleFwds_does | with_reducible apply twinSet_does | split | with_reducible apply Does.out
    | with_reducible apply Does.regs | with_reducible apply Does.mem | with_reducible apply Does.mix | with_reducible apply Does.hosts
    | with_reducible apply Does.twin

theorem twinBoundary_does (s : State) (Hs : Does M0 a0 s) (HM : [.out, .regs, .mem, .mix, .hosts, .twin] ⊆ M0) :
    Does M0 a0 (State.twinBoundary s) := by
  unfold State.twinBoundary
  repeat' first
    | with_reducible assumption | with_reducible exact mem_of HM (by decide) | with_reducible exact List.Subset.trans (by decide) HM
    | with_reducible apply Does.foldl | with_reducible apply cause_does | with_reducible apply handBoundary_does | with_reducible apply hitch_does
    | with_reducible apply twinSet_does | split
    | (lift_lets; intro x; refine bring (P := Does M0 a0 x) ?side fun hx => ?main; case' main => clear_value x; case' side => unfold x)
    | (lift_lets; intro x) | exact fun j => j | intro x hx | intro x | with_reducible apply Does.out | with_reducible apply Does.regs
    | with_reducible apply Does.twin

theorem fwdIn_does (s : State) (id : Nat) (h : Nat) (desc : List Byte) (data : List Byte) (x : Nat) (Hs : Does M0 a0 s) (HM : [.out, .regs, .ctl, .mem, .mix, .tim, .twin] ⊆ M0) :
    Does M0 a0 (State.fwdIn s id h desc data x) := by
  unfold State.fwdIn
  repeat' first
    | with_reducible assumption | with_reducible exact mem_of HM (by decide) | with_reducible exact List.Subset.trans (by decide) HM
    | with_reducible apply count_does | with_reducible apply enter_does | with_reducible apply hitch_does | with_reducible apply release_does | split
    | with_reducible apply Does.out | with_reducible apply Does.regs | with_reducible apply Does.ctl | with_reducible apply Does.mix
    | with_reducible apply Does.tim | with_reducible apply Does.twin

theorem fwdTry_does (s : State) (id : Nat) (Hs : Does M0 a0 s) (HM : [.out, .regs, .mem, .mix, .hosts, .twin] ⊆ M0) :
    Does M0 a0 (State.fwdTry s id) := by
  unfold State.fwdTry
  repeat' first
    | with_reducible assumption | with_reducible exact mem_of HM (by decide) | with_reducible exact List.Subset.trans (by decide) HM
    | with_reducible apply post_does | with_reducible apply twinSet_does | split | with_reducible apply Does.out | with_reducible apply Does.regs
    | with_reducible apply Does.mem | with_reducible apply Does.mix | with_reducible apply Does.hosts | with_reducible apply Does.twin

theorem serveRead_does (s : State) (f : Fwd) (csn : Nat) (t : Nat) (Hs : Does M0 a0 s) (HM : [.mix] ⊆ M0) :
    Does M0 a0 (State.serveRead s f csn t) := by
  unfold State.serveRead
  repeat' first
    | with_reducible assumption | with_reducible exact mem_of HM (by decide) | with_reducible exact List.Subset.trans (by decide) HM | split
    | with_reducible apply Does.mix

theorem fwdReply_does (s : State) (id : Nat) (csn : Nat) (st : Nat) (Hs : Does M0 a0 s) (HM : [.out, .regs, .mem, .mix, .hosts, .twin] ⊆ M0) :
    Does M0 a0 (State.fwdReply s id csn st) := by
  unfold State.fwdReply
  split
  · exact Hs
  · next f _ =>
    split
    · exact post_does _ _ _ _ _ (twinSet_does _ _ Hs (List.Subset.trans (by decide) HM)) (List.Subset.trans (by decide) HM)
    · extract_lets t0 s1
      have h1 : Does M0 a0 s1 := twinSet_does _ _ Hs (List.Subset.trans (by decide) HM)
      clear_value s1
      refine fwdTry_does _ _ ?_ (List.Subset.trans (by decide) HM)
      cases s1.jTarget csn with
      | none => exact h1
      | some t => exact serveRead_does _ _ _ _ h1 (List.Subset.trans (by decide) HM)

theorem fwdDone_does (s : State) (id : Nat) (st : Nat) (Hs : Does M0 a0 s) (HM : [.out, .regs, .mem, .mix, .hosts, .twin] ⊆ M0) :
    Does M0 a0 (State.fwdDone s id st) := by
  unfold State.fwdDone
  repeat' first
    | with_reducible assumption | with_reducible exact mem_of HM (by decide) | with_reducible exact List.Subset.trans (by decide) HM
    | with_reducible apply fwdTry_does | with_reducible apply twinSet_does | with_reducible apply Does.out | with_reducible apply Does.regs
    | with_reducible apply Does.mem | with_reducible apply Does.mix | with_reducible apply Does.hosts | with_reducible apply Does.twin

theorem hfaultIn_does (s : State) (h : Nat) (Hs : Does M0 a0 s) (HM : [.out, .mem, .mix, .twin] ⊆ M0) :
    Does M0 a0 (State.hfaultIn s h) := by
  unfold State.hfaultIn
  repeat' first
    | with_reducible assumption | with_reducible exact mem_of HM (by decide) | with_reducible exact List.Subset.trans (by decide) HM
    | with_reducible apply dropClaims_does | with_reducible apply jRelease_does | with_reducible apply takeCsn_does | split
    | with_reducible apply Does.out | with_reducible apply Does.mem | with_reducible apply Does.mix | with_reducible apply Does.twin

theorem replWrite_does (s : State) (a : Nat) (bs : List Byte) (Hs : Does M0 a0 s) (HM : [.mem, .mix] ⊆ M0) :
    Does M0 a0 (State.replWrite s a bs) := by
  unfold State.replWrite
  repeat' first
    | with_reducible assumption | with_reducible exact mem_of HM (by decide) | with_reducible exact List.Subset.trans (by decide) HM
    | with_reducible apply engWrite_does | split
    | (lift_lets; intro x; refine bring (P := Does M0 a0 x) ?side fun hx => ?main; case' main => clear_value x; case' side => unfold x)
    | (lift_lets; intro x) | with_reducible apply Does.mem | with_reducible apply Does.mix

theorem applyJ_does (s : State) (r : JRec) (Hs : Does M0 a0 s) (HM : [.out, .regs, .ctl, .mem, .mix, .tim, .hosts, .twin] ⊆ M0) :
    Does M0 a0 (State.applyJ s r) := by
  unfold State.applyJ
  split
  · exact replWrite_does _ _ _ Hs (List.Subset.trans (by decide) HM)
  · extract_lets csn h its own x1 s1 x2 s2
    have h2 : Does M0 a0 s2 := twinSet_does _ _ (Hs.mix (HM (by decide)) _) (List.Subset.trans (by decide) HM)
    clear_value s2
    split
    · exact h2
    · extract_lets flat s3 clip e late s4 o s5 s6
      have h3 : Does M0 a0 s3 := .ite (count_does _ _ h2 (List.Subset.trans (by decide) HM)) h2
      clear_value s3
      have h4 : Does M0 a0 s4 := .ite (count_does _ _ h3 (List.Subset.trans (by decide) HM)) h3
      clear_value s4
      have h5 : Does M0 a0 s5 := claimEffect_does _ _ _ _ (renewAll_does _ _ _ h4 (List.Subset.trans (by decide) HM)) (List.Subset.trans (by decide) HM)
      clear_value s5
      have h6 : Does M0 a0 s6 := .ite (addOp_does _ _ h5 (List.Subset.trans (by decide) HM)) h5
      clear_value s6 o own
      split
      · exact fwdTry_does _ _ (serveRead_does _ _ _ _ h6 (List.Subset.trans (by decide) HM)) (List.Subset.trans (by decide) HM)
      · exact h6

theorem nextJ_does (s : State) (r : JRec) (Hs : Does M0 a0 s) (HM : [.out, .regs, .ctl, .mem, .mix, .tim, .hosts, .twin] ⊆ M0) :
    Does M0 a0 (State.nextJ s r) := by
  unfold State.nextJ
  repeat' first
    | with_reducible assumption | with_reducible exact mem_of HM (by decide) | with_reducible exact List.Subset.trans (by decide) HM
    | with_reducible apply applyJ_does | with_reducible apply jkeep_does | with_reducible apply twinSet_does | with_reducible apply Does.out
    | with_reducible apply Does.regs | with_reducible apply Does.ctl | with_reducible apply Does.mem | with_reducible apply Does.mix
    | with_reducible apply Does.tim | with_reducible apply Does.hosts | with_reducible apply Does.twin

theorem drainJ_does (s : State) (n : Nat) (Hs : Does M0 a0 s) (HM : [.out, .regs, .ctl, .mem, .mix, .tim, .hosts, .twin] ⊆ M0) :
    Does M0 a0 (State.drainJ s n) := by
  induction n generalizing s with
  | zero => exact Hs
  | succ n ih =>
    unfold State.drainJ
    split
    · exact Hs
    · exact ih _ (nextJ_does _ _ (twinSet_does _ _ Hs (List.Subset.trans (by decide) HM)) (List.Subset.trans (by decide) HM))

theorem ckAsk_does (s : State) (Hs : Does M0 a0 s) (HM : [.out, .twin] ⊆ M0) :
    Does M0 a0 (State.ckAsk s) := by
  unfold State.ckAsk
  repeat' first
    | with_reducible assumption | with_reducible exact mem_of HM (by decide) | with_reducible exact List.Subset.trans (by decide) HM
    | with_reducible apply Does.foldl | with_reducible apply hitch_does | split
    | (lift_lets; intro x; refine bring (P := Does M0 a0 x) ?side fun hx => ?main; case' main => clear_value x; case' side => unfold x)
    | (lift_lets; intro x) | exact fun j => j | intro x hx | intro x | with_reducible apply Does.out | with_reducible apply Does.twin

theorem redoJ_does (s : State) (r : JRec) (Hs : Does M0 a0 s) (HM : [.mem, .mix] ⊆ M0) :
    Does M0 a0 (State.redoJ s r) := by
  unfold State.redoJ
  split
  · exact replWrite_does _ _ _ Hs HM
  · split
    · exact Hs
    · split
      · exact Hs
      · exact Hs.mem (HM (by decide)) _ (fun j => foldl_wf _ (fun _ _ k => execRec_wf _ _ _ k) _ _ j) id

theorem fromJ_does (s : State) (start : Nat) (skip : Bool) (Hs : Does M0 a0 s) (HM : [.out, .regs, .ctl, .mem, .mix, .tim, .hosts, .twin] ⊆ M0) :
    Does M0 a0 (State.fromJ s start skip) := by
  unfold State.fromJ
  repeat' first
    | with_reducible assumption | with_reducible exact mem_of HM (by decide) | with_reducible exact List.Subset.trans (by decide) HM
    | with_reducible apply drainJ_does | with_reducible apply twinSet_does | split | with_reducible apply Does.out | with_reducible apply Does.regs
    | with_reducible apply Does.ctl | with_reducible apply Does.mem | with_reducible apply Does.mix | with_reducible apply Does.tim
    | with_reducible apply Does.hosts | with_reducible apply Does.twin

theorem ckInstall_does (s : State) (Hs : Does M0 a0 s) (HM : [.out, .regs, .ctl, .mem, .mix, .tim, .hosts, .twin] ⊆ M0) :
    Does M0 a0 (State.ckInstall s) := by
  unfold State.ckInstall
  repeat' first
    | with_reducible assumption | with_reducible exact mem_of HM (by decide) | with_reducible exact List.Subset.trans (by decide) HM
    | with_reducible apply Does.foldl | with_reducible apply fromJ_does | with_reducible apply redoJ_does | with_reducible apply replWrite_does
    | with_reducible apply twinSet_does | split
    | (lift_lets; intro x; refine bring (P := Does M0 a0 x) ?side fun hx => ?main; case' main => clear_value x; case' side => unfold x)
    | (lift_lets; intro x) | exact fun j => j | intro x hx | intro x | with_reducible apply Does.out | with_reducible apply Does.regs
    | with_reducible apply Does.ctl | with_reducible apply Does.mem | with_reducible apply Does.mix | with_reducible apply Does.tim
    | with_reducible apply Does.hosts | with_reducible apply Does.twin

theorem ckptIn_does (s : State) (ck : Nat) (n : Nat) (d : List Byte) (crc : Nat) (Hs : Does M0 a0 s) (HM : [.out, .regs, .ctl, .mem, .mix, .tim, .hosts, .twin] ⊆ M0) :
    Does M0 a0 (State.ckptIn s ck n d crc) := by
  unfold State.ckptIn
  repeat' first
    | with_reducible assumption | with_reducible exact mem_of HM (by decide) | with_reducible exact List.Subset.trans (by decide) HM
    | with_reducible apply ckAsk_does | with_reducible apply ckInstall_does | with_reducible apply count_does | with_reducible apply engWrite_does
    | with_reducible apply hitch_does | with_reducible apply twinSet_does | split | with_reducible apply Does.out | with_reducible apply Does.regs
    | with_reducible apply Does.ctl | with_reducible apply Does.mem | with_reducible apply Does.mix | with_reducible apply Does.tim
    | with_reducible apply Does.hosts | with_reducible apply Does.twin

theorem sealIn_does (s : State) (ck : Nat) (start : Nat) (e : Nat) (crc : Nat) (Hs : Does M0 a0 s) (HM : [.out, .regs, .ctl, .mem, .mix, .tim, .hosts, .twin] ⊆ M0) :
    Does M0 a0 (State.sealIn s ck start e crc) := by
  unfold State.sealIn
  repeat' first
    | with_reducible assumption | with_reducible exact mem_of HM (by decide) | with_reducible exact List.Subset.trans (by decide) HM
    | with_reducible apply ckAsk_does | with_reducible apply ckInstall_does | with_reducible apply fromJ_does | with_reducible apply twinSet_does
    | split | with_reducible apply Does.out | with_reducible apply Does.regs | with_reducible apply Does.ctl | with_reducible apply Does.mem
    | with_reducible apply Does.mix | with_reducible apply Does.tim | with_reducible apply Does.hosts | with_reducible apply Does.twin

theorem ckreqIn_does (s : State) (n : Nat) (Hs : Does M0 a0 s) (HM : [.out, .twin] ⊆ M0) :
    Does M0 a0 (State.ckreqIn s n) := by
  unfold State.ckreqIn
  repeat' first
    | with_reducible assumption | with_reducible exact mem_of HM (by decide) | with_reducible exact List.Subset.trans (by decide) HM
    | with_reducible apply checkpoint_does | with_reducible apply sendChunk_does | split | with_reducible apply Does.out
    | with_reducible apply Does.twin

theorem jrnlIn_does (s : State) (rs : List JRec) (Hs : Does M0 a0 s) (HM : [.out, .regs, .ctl, .mem, .mix, .tim, .hosts, .twin] ⊆ M0) :
    Does M0 a0 (State.jrnlIn s rs) := by
  unfold State.jrnlIn
  repeat' first
    | with_reducible assumption | with_reducible exact mem_of HM (by decide) | with_reducible exact List.Subset.trans (by decide) HM
    | with_reducible apply Does.foldl | with_reducible apply askAll_does | with_reducible apply ckInstall_does | with_reducible apply drainJ_does
    | with_reducible apply hitch_does | with_reducible apply nextJ_does | with_reducible apply twinSet_does | split
    | (lift_lets; intro x; refine bring (P := Does M0 a0 x) ?side fun hx => ?main; case' main => clear_value x; case' side => unfold x)
    | (lift_lets; intro x) | exact fun j => j | intro x hx | intro x | with_reducible apply Does.out | with_reducible apply Does.regs
    | with_reducible apply Does.ctl | with_reducible apply Does.mem | with_reducible apply Does.mix | with_reducible apply Does.tim
    | with_reducible apply Does.hosts | with_reducible apply Does.twin

theorem jnackIn_does (s : State) (j : Nat) (Hs : Does M0 a0 s) (HM : [.out, .twin] ⊆ M0) :
    Does M0 a0 (State.jnackIn s j) := by
  unfold State.jnackIn
  repeat' first
    | with_reducible assumption | with_reducible exact mem_of HM (by decide) | with_reducible exact List.Subset.trans (by decide) HM
    | with_reducible apply Does.foldl | with_reducible apply sendJ_does | split
    | (lift_lets; intro x; refine bring (P := Does M0 a0 x) ?side fun hx => ?main; case' main => clear_value x; case' side => unfold x)
    | (lift_lets; intro x) | exact fun j => j | intro x hx | intro x | with_reducible apply Does.out | with_reducible apply Does.twin

theorem hitCtl_does (s : State) (w : Word) (Hs : Does M0 a0 s) (HM : [.freeCtr, .out, .regs, .twin] ⊆ M0) :
    Does M0 a0 (State.hitCtl s w) := by
  unfold State.hitCtl
  repeat' first
    | with_reducible assumption | with_reducible exact mem_of HM (by decide) | with_reducible exact List.Subset.trans (by decide) HM
    | with_reducible apply askAll_does | with_reducible apply giveCause_does | with_reducible apply handAsk_does | split
    | with_reducible apply Does.freeCtr | with_reducible apply Does.out | with_reducible apply Does.regs | with_reducible apply Does.twin

end Sys2Proof.Laws
end

