-- ==== Sys2Proof/Laws/DoesReset.lean ====
section
/-! SUPPORT. What resets, boot and register writes can do: the fields of State each may change, and that each keeps the invariant
(Laws.Does). The lemma of an operation of an instruction is cited in place of its definition. -/

namespace Sys2Proof.Laws

set_option Elab.async false
set_option linter.all false

open Sys2Proof.Machine Sys2Proof.Safety

variable {M0 : List Fd} {a0 : State}

theorem wipe_does (s : State) (p : Nat → Bool) (Hs : Does M0 a0 s) (HM : [.regs] ⊆ M0) :
    Does M0 a0 (State.wipe s p) :=
  Hs.regs (HM (by decide)) _ fun h q hq => h q ((List.mem_filter.1 hq).1)

theorem lostMem_does (s : State) (Hs : Does M0 a0 s) (HM : [.freeCtr] ⊆ M0) :
    Does M0 a0 (State.lostMem s).2 := by
  unfold State.lostMem
  repeat' first
    | with_reducible assumption | with_reducible exact mem_of HM (by decide) | with_reducible exact List.Subset.trans (by decide) HM
    | with_reducible apply Does.freeCtr

theorem hostGone_does (s : State) (h : Nat) (Hs : Does M0 a0 s) (HM : [.out, .mem, .mix, .hosts, .net, .twin] ⊆ M0) :
    Does M0 a0 (State.hostGone s h) := by
  have h1 := faultClaims_does s h Hs (List.Subset.trans (by decide) HM)
  unfold State.hostGone
  generalize s.faultClaims h = s1 at h1
  exact dropHeads_does _ _ (hstPut_does _ _ _ ((h1.mix (HM (by decide)) { s1.mix with batches := s1.mix.batches.filter fun b => b.host ≠ h }).net
    (HM (by decide)) (s1.net.dropHost h)) (List.Subset.trans (by decide) HM))
    (List.Subset.trans (by decide) HM)

theorem dropOps_does (s : State) (h : Nat) (Hs : Does M0 a0 s) (HM : [.hosts] ⊆ M0) :
    Does M0 a0 (State.dropOps s h) := by
  unfold State.dropOps
  repeat' first
    | with_reducible assumption | with_reducible exact mem_of HM (by decide) | with_reducible exact List.Subset.trans (by decide) HM
    | with_reducible apply hstPut_does | with_reducible apply Does.hosts

theorem dropDrive_does (s : State) (Hs : Does M0 a0 s) (HM : [.twin] ⊆ M0) :
    Does M0 a0 (State.dropDrive s) := by
  unfold State.dropDrive
  repeat' first
    | with_reducible assumption | with_reducible exact mem_of HM (by decide) | with_reducible exact List.Subset.trans (by decide) HM
    | with_reducible apply twinSet_does | split | with_reducible apply Does.twin

theorem streamPins_does (s : State) (Hs : Does M0 a0 s) (HM : [.out] ⊆ M0) :
    Does M0 a0 (State.streamPins s) := by
  unfold State.streamPins
  exact Does.foldl (Hs.foldl fun _ _ Ht => emitPins_does _ _ Ht HM) fun _ _ Ht => .ite Ht (emit_does _ _ Ht HM)

theorem resetSec_does (keep : Bool) (s : State) (n : Nat) (Hs : Does M0 a0 s) (HM : [.freeCtr, .out, .regs, .mem, .pea, .sec, .mix, .tdm, .dac, .tim, .lanes, .drays, .hosts, .net, .twin, .csnLatch] ⊆ M0) :
    Does M0 a0 (State.resetSec keep s n) := by
  have h1 := wipe_does s (fun o => o / 0x10000 = winOf n) Hs (List.Subset.trans (by decide) HM)
  unfold State.resetSec
  dsimp only
  generalize (s.wipe fun o => o / 0x10000 = winOf n) = s1 at h1 ⊢
  split
  · split
    · exact h1.mem (HM (by decide)) _ id id
    · exact (lostMem_does _ h1 (List.Subset.trans (by decide) HM)).mem (HM (by decide)) _ (fun _ => Mem.empty_wf _) id
  · exact h1.tim (HM (by decide)) _ fun _ => Nat.two_pow_pos 64
  · have h2 : Does M0 a0 ((upTo 4).foldl State.hostGone s1) :=
      h1.foldl fun _ _ Ht => hostGone_does _ _ Ht (List.Subset.trans (by decide) HM)
    generalize (upTo 4).foldl State.hostGone s1 = s2 at h2 ⊢
    refine Does.foldl (h2.mem (HM (by decide)) _ id id) fun t k Ht => irqOut_does t k Ht (List.Subset.trans (by decide) HM)
  · refine streamPins_does _ ?_ (List.Subset.trans (by decide) HM)
    exact loseGone_does _ (rwSet_does _ _ _ (((((dropHeads_does _ _ h1 (List.Subset.trans (by decide) HM)).net (HM (by decide)) Net.reset).tdm (HM (by decide)) (Vector.replicate 16 Tdm.reset)).dac
      (HM (by decide)) Dacs.reset).twin (HM (by decide)) Twin.reset) (List.Subset.trans (by decide) HM)) (List.Subset.trans (by decide) HM)
  · exact dropDrive_does _ h1 (List.Subset.trans (by decide) HM)
  · have h2 : Does M0 a0 ((upTo 4).foldl State.dropOps s1) :=
      h1.foldl fun _ _ Ht => dropOps_does _ _ Ht (List.Subset.trans (by decide) HM)
    generalize (upTo 4).foldl State.dropOps s1 = s2 at h2 ⊢
    exact ((dropHeads_does _ _ (dropDrive_does _ h2 (List.Subset.trans (by decide) HM)) (List.Subset.trans (by decide) HM)).mix (HM (by decide)) Mix.reset).csnLatch (HM (by decide)) 0
  · have h2 : Does M0 a0 ((drayLanes (n - 6)).foldl State.dmaCut s1) := h1.foldl fun _ _ Ht => dmaCut_does _ _ Ht (List.Subset.trans (by decide) HM)
    generalize (drayLanes (n - 6)).foldl State.dmaCut s1 = s2 at h2 ⊢
    have h3 := dropHeads_does _ [5 + (n - 6)] (draySet_does s2 (n - 6) Dray.reset h2 (List.Subset.trans (by decide) HM)) (List.Subset.trans (by decide) HM)
    exact h3.foldl fun u l hu => laneSet_does u l Lane.empty hu (List.Subset.trans (by decide) HM)

theorem resetMask_does (s : State) (keep : Bool) (m : Nat) (Hs : Does M0 a0 s) (HM : [.freeCtr, .out, .regs, .ctl, .mem, .pea, .sec, .mix, .tdm, .dac, .tim, .lanes, .drays, .hosts, .net, .twin, .csnLatch] ⊆ M0) :
    Does M0 a0 (State.resetMask s keep m) := by
  unfold State.resetMask
  repeat' first
    | with_reducible assumption | with_reducible exact mem_of HM (by decide) | with_reducible exact List.Subset.trans (by decide) HM
    | with_reducible apply Does.foldl | with_reducible apply ctlSet_does | with_reducible apply resetSec_does | split
    | (lift_lets; intro x; refine bring (P := Does M0 a0 x) ?side fun hx => ?main; case' main => clear_value x; case' side => unfold x)
    | (lift_lets; intro x) | exact fun j => j | intro x hx | intro x | with_reducible apply Does.freeCtr | with_reducible apply Does.out
    | with_reducible apply Does.regs | with_reducible apply Does.ctl | with_reducible apply Does.mem | with_reducible apply Does.mix
    | with_reducible apply Does.tdm | with_reducible apply Does.dac | with_reducible apply Does.tim | with_reducible apply Does.lanes
    | with_reducible apply Does.drays | with_reducible apply Does.hosts | with_reducible apply Does.net | with_reducible apply Does.twin
    | with_reducible apply Does.csnLatch

theorem resetControl_does (s : State) (Hs : Does M0 a0 s) (HM : [.freeCtr, .regs, .pea, .sec, .byp] ⊆ M0) :
    Does M0 a0 (State.resetControl s) := by
  have h1 := fresh_does s Hs (List.Subset.trans (by decide) HM)
  have hp : ∀ (t : State) a bs, (t.peaWrite a bs).sec = t.sec := fun t a bs =>
    (peaWrite_does (M0 := [.pea]) t a bs (.refl _ _) (List.Subset.refl _)).frame .sec (by decide)
  unfold State.resetControl
  generalize s.fresh = f at h1 ⊢
  extract_lets f s1 old sec s2 pe by' s3
  have h2 : Does M0 a0 s2 ∧ s2.sec = s1.sec := by
    unfold s2
    generalize s1.pea.busy = bu
    match bu with
    | none => exact ⟨h1, rfl⟩
    | some (k, bs) =>
      dsimp only
      split
      · exact ⟨h1, rfl⟩
      · exact ⟨peaWrite_does _ _ _ h1 (List.Subset.trans (by decide) HM), hp _ _ _⟩
  refine wipe_does _ _ (((h2.1.sec (HM (by decide)) sec ?_ ?_).pea (HM (by decide)) { pe with buf := none, busy := none } id).byp
    (HM (by decide)) _) (List.Subset.trans (by decide) HM)
  · rw [h2.2]
    intro hb ht
    show (match s1.sec.rbTo with
      | some v => if f.1 % 2 = 0 then s1.sec.rb else v
      | none => s1.sec.rb) < 128
    split
    · next v hv => split; exact hb; exact ht v hv
    · exact hb
  · intro _ _ v hv
    cases hv

theorem applyStrap_does (s : State) (Hs : Does M0 a0 s) (HM : [.regs, .ctl] ⊆ M0) :
    Does M0 a0 (State.applyStrap s) := by
  unfold State.applyStrap
  repeat' first
    | with_reducible assumption | with_reducible exact mem_of HM (by decide) | with_reducible exact List.Subset.trans (by decide) HM
    | with_reducible apply ctlSet_does | with_reducible apply rwSet_does | with_reducible apply Does.regs | with_reducible apply Does.ctl

theorem coreReset_does (s : State) (keep : Bool) (Hs : Does M0 a0 s) (HM : [.freeCtr, .out, .regs, .ctl, .mem, .pea, .sec, .mix, .tdm, .dac, .byp, .tim, .lanes, .drays, .hosts, .net, .twin, .csnLatch] ⊆ M0) :
    Does M0 a0 (State.coreReset s keep) := by
  unfold State.coreReset
  repeat' first
    | with_reducible assumption | with_reducible exact mem_of HM (by decide) | with_reducible exact List.Subset.trans (by decide) HM
    | with_reducible apply applyStrap_does | with_reducible apply ctlSet_does | with_reducible apply resetControl_does
    | with_reducible apply resetMask_does | with_reducible apply Does.freeCtr | with_reducible apply Does.out | with_reducible apply Does.regs
    | with_reducible apply Does.ctl | with_reducible apply Does.mem | with_reducible apply Does.pea | with_reducible apply Does.sec
    | with_reducible apply Does.mix | with_reducible apply Does.tdm | with_reducible apply Does.dac | with_reducible apply Does.byp
    | with_reducible apply Does.tim | with_reducible apply Does.lanes | with_reducible apply Does.drays | with_reducible apply Does.hosts
    | with_reducible apply Does.net | with_reducible apply Does.twin | with_reducible apply Does.csnLatch

theorem fullReset_does (s : State) (phase : Nat) (Hs : Does M0 a0 s) (HM : [.freeCtr, .out, .regs, .ctl, .mem, .pea, .sec, .mix, .tdm, .dac, .byp, .tim, .lanes, .drays, .hosts, .net, .twin, .csnLatch] ⊆ M0) :
    Does M0 a0 (State.fullReset s phase) := by
  have h1 := coreReset_does _ false (wipe_does s (fun o => o = 0x0028) Hs (List.Subset.trans (by decide) HM)) (List.Subset.trans (by decide) HM)
  unfold State.fullReset
  generalize (s.wipe fun o => o = 0x0028).coreReset false = s1 at h1 ⊢
  exact ctlSet_does _ _ (((h1.hosts (HM (by decide)) (Vector.replicate 4 HostPort.reset)).byp (HM (by decide)) Bypass.reset).tim
    (HM (by decide)) { s1.tim with lock := false } id) (List.Subset.trans (by decide) HM)

theorem cause_does (s : State) (b : Nat) (Hs : Does M0 a0 s) (HM : [.regs] ⊆ M0) :
    Does M0 a0 (State.cause s b) := by
  unfold State.cause
  repeat' first
    | with_reducible assumption | with_reducible exact mem_of HM (by decide) | with_reducible exact List.Subset.trans (by decide) HM
    | with_reducible apply scSet_does | with_reducible apply Does.regs

theorem resetBy_does (s : State) (full : Bool) (keep : Bool) (Hs : Does M0 a0 s) (HM : [.freeCtr, .out, .regs, .ctl, .mem, .pea, .sec, .mix, .tdm, .dac, .byp, .tim, .lanes, .drays, .hosts, .net, .twin, .csnLatch] ⊆ M0) :
    Does M0 a0 (State.resetBy s full keep) := by
  unfold State.resetBy
  repeat' first
    | with_reducible assumption | with_reducible exact mem_of HM (by decide) | with_reducible exact List.Subset.trans (by decide) HM
    | with_reducible apply coreReset_does | with_reducible apply fullReset_does | split | with_reducible apply Does.freeCtr
    | with_reducible apply Does.out | with_reducible apply Does.regs | with_reducible apply Does.ctl | with_reducible apply Does.mem
    | with_reducible apply Does.pea | with_reducible apply Does.sec | with_reducible apply Does.mix | with_reducible apply Does.tdm
    | with_reducible apply Does.dac | with_reducible apply Does.byp | with_reducible apply Does.tim | with_reducible apply Does.lanes
    | with_reducible apply Does.drays | with_reducible apply Does.hosts | with_reducible apply Does.net | with_reducible apply Does.twin
    | with_reducible apply Does.csnLatch

theorem sectionsReset_does (s : State) (m : Nat) (held : Nat) (keep : Bool) (Hs : Does M0 a0 s) (HM : [.freeCtr, .out, .regs, .ctl, .mem, .pea, .sec, .mix, .tdm, .dac, .byp, .tim, .lanes, .drays, .hosts, .net, .twin, .csnLatch] ⊆ M0) :
    Does M0 a0 (State.sectionsReset s m held keep) := by
  unfold State.sectionsReset
  repeat' first
    | with_reducible assumption | with_reducible exact mem_of HM (by decide) | with_reducible exact List.Subset.trans (by decide) HM
    | with_reducible apply ctlSet_does | with_reducible apply resetBy_does | with_reducible apply resetMask_does | with_reducible apply rwSet_does
    | split | with_reducible apply Does.freeCtr | with_reducible apply Does.out | with_reducible apply Does.regs | with_reducible apply Does.ctl
    | with_reducible apply Does.mem | with_reducible apply Does.pea | with_reducible apply Does.sec | with_reducible apply Does.mix
    | with_reducible apply Does.tdm | with_reducible apply Does.dac | with_reducible apply Does.byp | with_reducible apply Does.tim
    | with_reducible apply Does.lanes | with_reducible apply Does.drays | with_reducible apply Does.hosts | with_reducible apply Does.net
    | with_reducible apply Does.twin | with_reducible apply Does.csnLatch

theorem hostRst_does (s : State) (h : Nat) (w : Word) (Hs : Does M0 a0 s) (HM : [.freeCtr, .out, .regs, .ctl, .mem, .pea, .sec, .mix, .tdm, .dac, .byp, .tim, .lanes, .drays, .hosts, .net, .twin, .csnLatch] ⊆ M0) :
    Does M0 a0 (State.hostRst s h w) := by
  unfold State.hostRst
  repeat' first
    | with_reducible assumption | with_reducible exact mem_of HM (by decide) | with_reducible exact List.Subset.trans (by decide) HM
    | with_reducible apply capSet_does | with_reducible apply cause_does | with_reducible apply resetBy_does | with_reducible apply sectionsReset_does
    | split | with_reducible apply Does.freeCtr | with_reducible apply Does.out | with_reducible apply Does.regs | with_reducible apply Does.ctl
    | with_reducible apply Does.mem | with_reducible apply Does.pea | with_reducible apply Does.sec | with_reducible apply Does.mix
    | with_reducible apply Does.tdm | with_reducible apply Does.dac | with_reducible apply Does.byp | with_reducible apply Does.tim
    | with_reducible apply Does.lanes | with_reducible apply Does.drays | with_reducible apply Does.hosts | with_reducible apply Does.net
    | with_reducible apply Does.twin | with_reducible apply Does.csnLatch

theorem powerOn_does (s : State) (Hs : Does M0 a0 s) (HM : [.freeCtr, .out, .regs, .ctl, .mem, .pea, .sec, .mix, .tdm, .dac, .byp, .tim, .lanes, .drays, .hosts, .net, .twin, .csnLatch] ⊆ M0) :
    Does M0 a0 (State.powerOn s) := by
  have h1 := fullReset_does s 0 Hs (List.Subset.trans (by decide) HM)
  unfold State.powerOn
  generalize s.fullReset 0 = s1 at h1 ⊢
  exact scPut_does _ _ _ (wipe_does _ _ ((lostMem_does _ h1 (List.Subset.trans (by decide) HM)).mem (HM (by decide)) _ id
    fun _ => Mem.empty_wf _) (List.Subset.trans (by decide) HM)) (List.Subset.trans (by decide) HM)

theorem brownOut_does (s : State) (r : Rail) (Hs : Does M0 a0 s) (HM : [.freeCtr, .out, .regs, .ctl, .mem, .pea, .sec, .mix, .tdm, .dac, .byp, .tim, .lanes, .drays, .hosts, .net, .twin, .csnLatch] ⊆ M0) :
    Does M0 a0 (State.brownOut s r) := by
  have h1 := fullReset_does s 0 Hs (List.Subset.trans (by decide) HM)
  unfold State.brownOut
  generalize s.fullReset 0 = s1 at h1 ⊢
  refine cause_does _ _ ?_ (List.Subset.trans (by decide) HM)
  split
  · exact (lostMem_does _ h1 (List.Subset.trans (by decide) HM)).mem (HM (by decide)) _ id fun _ => Mem.empty_wf _
  · exact h1

theorem timRestore_does (s : State) (Hs : Does M0 a0 s) (HM : [.tim] ⊆ M0) :
    Does M0 a0 (State.timRestore s) := timSet_does _ _ Hs HM fun _ => Nat.two_pow_pos 64

theorem smoSave_does (s : State) (Hs : Does M0 a0 s) (HM : [.pea] ⊆ M0) :
    Does M0 a0 (State.smoSave s) := by
  unfold State.smoSave
  repeat' first
    | with_reducible assumption | with_reducible exact mem_of HM (by decide) | with_reducible exact List.Subset.trans (by decide) HM
    | with_reducible apply peaWrite_does | split | with_reducible apply Does.pea

theorem release_does (s : State) (n : Nat) (Hs : Does M0 a0 s) (HM : [.regs, .ctl, .tim] ⊆ M0) :
    Does M0 a0 (State.release s n) := by
  unfold State.release
  repeat' first
    | with_reducible assumption | with_reducible exact mem_of HM (by decide) | with_reducible exact List.Subset.trans (by decide) HM
    | with_reducible apply ctlSet_does | with_reducible apply rwPutBit_does | with_reducible apply timRestore_does | split
    | with_reducible apply Does.regs | with_reducible apply Does.ctl | with_reducible apply Does.tim

theorem stage_does (s : State) (k : Nat) (Hs : Does M0 a0 s) (HM : [.ctl] ⊆ M0) :
    Does M0 a0 (State.stage s k) := by
  unfold State.stage
  repeat' first
    | with_reducible assumption | with_reducible exact mem_of HM (by decide) | with_reducible exact List.Subset.trans (by decide) HM
    | with_reducible apply ctlSet_does | with_reducible apply Does.ctl

theorem releaseNext_does (s : State) (Hs : Does M0 a0 s) (HM : [.regs, .ctl, .pea, .sec, .tim] ⊆ M0) :
    Does M0 a0 (State.releaseNext s) := by
  unfold State.releaseNext
  repeat' first
    | with_reducible assumption | with_reducible exact mem_of HM (by decide) | with_reducible exact List.Subset.trans (by decide) HM
    | with_reducible apply boot_does | with_reducible apply ctlSet_does | with_reducible apply release_does | with_reducible apply stage_does | split
    | (lift_lets; intro x; refine bring (P := Does M0 a0 x) ?side fun hx => ?main; case' main => clear_value x; case' side => unfold x)
    | (lift_lets; intro x) | with_reducible apply Does.regs | with_reducible apply Does.ctl | with_reducible apply Does.pea
    | with_reducible apply Does.sec | with_reducible apply Does.tim

theorem trained_does (s : State) (gib : Option Nat) (Hs : Does M0 a0 s) (HM : [.ctl, .mem] ⊆ M0) :
    Does M0 a0 (State.trained s gib) := by
  unfold State.trained
  repeat' first
    | with_reducible assumption | with_reducible exact mem_of HM (by decide) | with_reducible exact List.Subset.trans (by decide) HM
    | with_reducible apply stage_does | split
    | (lift_lets; intro x; refine bring (P := Does M0 a0 x) ?side fun hx => ?main; case' main => clear_value x; case' side => unfold x)
    | (lift_lets; intro x) | with_reducible apply Does.ctl | with_reducible apply Does.mem

theorem secHold_does (s : State) (w : Word) (keep : Bool) (Hs : Does M0 a0 s) (HM : [.freeCtr, .out, .regs, .ctl, .mem, .pea, .sec, .mix, .tdm, .dac, .byp, .tim, .lanes, .drays, .hosts, .net, .twin, .csnLatch] ⊆ M0) :
    Does M0 a0 (State.secHold s w keep) := by
  unfold State.secHold
  repeat' first
    | with_reducible assumption | with_reducible exact mem_of HM (by decide) | with_reducible exact List.Subset.trans (by decide) HM
    | with_reducible apply Does.foldl | with_reducible apply capSet_does | with_reducible apply release_does | with_reducible apply scSet_does
    | with_reducible apply sectionsReset_does | split
    | (lift_lets; intro x; refine bring (P := Does M0 a0 x) ?side fun hx => ?main; case' main => clear_value x; case' side => unfold x)
    | (lift_lets; intro x) | exact fun j => j | intro x hx | intro x | with_reducible apply Does.freeCtr | with_reducible apply Does.out
    | with_reducible apply Does.regs | with_reducible apply Does.ctl | with_reducible apply Does.mem | with_reducible apply Does.pea
    | with_reducible apply Does.sec | with_reducible apply Does.mix | with_reducible apply Does.tdm | with_reducible apply Does.dac
    | with_reducible apply Does.byp | with_reducible apply Does.tim | with_reducible apply Does.lanes | with_reducible apply Does.drays
    | with_reducible apply Does.hosts | with_reducible apply Does.net | with_reducible apply Does.twin | with_reducible apply Does.csnLatch

theorem refuse_does (s : State) (src : Nat) (bs : List Byte) (v : Nat) (Hs : Does M0 a0 s) (HM : [.sec] ⊆ M0) :
    Does M0 a0 (State.refuse s src bs v) :=
  secSet_does _ _ Hs HM (fun h _ => h) fun _ h => h

theorem slotFail_does (s : State) (k : Nat) (v : Nat) (Hs : Does M0 a0 s) (HM : [.sec] ⊆ M0) :
    Does M0 a0 (State.slotFail s k v) := by
  have h1 := refuse_does s k (s.slotImg k) v Hs HM
  unfold State.slotFail
  dsimp only
  generalize s.refuse k (s.slotImg k) v = t at h1 ⊢
  split
  · exact secSet_does _ _ h1 HM (fun h _ => h) fun _ h => h
  · exact secSet_does _ _ h1 HM (fun h _ => h) fun _ h => h

theorem bootAudit_does (s : State) (slot : Nat) (f : Fw) (why : Nat) (Hs : Does M0 a0 s) (HM : [.pea, .sec] ⊆ M0) :
    Does M0 a0 (State.bootAudit s slot f why) := by
  unfold State.bootAudit
  repeat' first
    | with_reducible assumption | with_reducible exact mem_of HM (by decide) | with_reducible exact List.Subset.trans (by decide) HM
    | with_reducible apply audit_does | with_reducible apply Does.pea | with_reducible apply Does.sec

theorem boot_does (s : State) (f : Fw) (Hs : Does M0 a0 s) (HM : [.ctl, .pea, .sec] ⊆ M0) :
    Does M0 a0 (State.boot s f) := by
  unfold State.boot
  repeat' first
    | with_reducible assumption | with_reducible exact mem_of HM (by decide) | with_reducible exact List.Subset.trans (by decide) HM
    | with_reducible apply Does.foldl | with_reducible apply bootAudit_does | with_reducible apply secSet_does | with_reducible apply stage_does
    | split | (lift_lets; intro x; refine bring (P := Does M0 a0 x) ?side fun hx => ?main; case' main => clear_value x; case' side => unfold x)
    | (lift_lets; intro x) | exact fun j => j | intro x hx | intro x | with_reducible apply Does.ctl | with_reducible apply Does.pea
    | with_reducible apply Does.sec

theorem verifySlots_does (s : State) (Hs : Does M0 a0 s) (HM : [.ctl, .pea, .sec] ⊆ M0) :
    Does M0 a0 (State.verifySlots s) := by
  have hf (t : State) (k v : Nat) (Ht : Does M0 a0 t) := slotFail_does t k v Ht (List.Subset.trans (by decide) HM)
  have hb (t : State) (f : Fw) (Ht : Does M0 a0 t) := boot_does t f Ht HM
  unfold State.verifySlots
  refine .ite Hs ?_
  extract_lets rs
  clear_value rs
  split
  · extract_lets vp s1 vq
    exact .ite (hb _ _ Hs) (.ite (hb _ _ (hf _ _ _ Hs)) (stage_does _ _ (hf _ _ _ (hf _ _ _ Hs)) (List.Subset.trans (by decide) HM)))
  · exact Hs

theorem bootPush_does (s : State) (w : Word) (Hs : Does M0 a0 s) (HM : [.ctl] ⊆ M0) :
    Does M0 a0 (State.bootPush s w) := by
  unfold State.bootPush
  repeat' first
    | with_reducible assumption | with_reducible exact mem_of HM (by decide) | with_reducible exact List.Subset.trans (by decide) HM
    | with_reducible apply ctlSet_does | with_reducible apply stage_does | split | with_reducible apply Does.ctl

theorem pushCheck_does (s : State) (Hs : Does M0 a0 s) (HM : [.ctl, .pea, .sec] ⊆ M0) :
    Does M0 a0 (State.pushCheck s) := by
  unfold State.pushCheck
  split
  · exact Hs
  · extract_lets bs f v c s1
    have h1 : Does M0 a0 s1 := ctlSet_does _ _ Hs (List.Subset.trans (by decide) HM)
    clear_value s1
    exact .ite (boot_does _ _ h1 HM) (stage_does _ _ (refuse_does _ _ _ _ h1 (List.Subset.trans (by decide) HM)) (List.Subset.trans (by decide) HM))

theorem fuseDone_does (s : State) (c : Nat) (strap : Nat) (banks : Nat) (Hs : Does M0 a0 s) (HM : [.regs, .ctl] ⊆ M0) :
    Does M0 a0 (State.fuseDone s c strap banks) := by
  unfold State.fuseDone
  repeat' first
    | with_reducible assumption | with_reducible exact mem_of HM (by decide) | with_reducible exact List.Subset.trans (by decide) HM
    | with_reducible apply applyStrap_does | with_reducible apply ctlSet_does | with_reducible apply scSet_does | split
    | with_reducible apply Does.regs | with_reducible apply Does.ctl

theorem rootLock_does (s : State) (Hs : Does M0 a0 s) (HM : [.ctl, .tim] ⊆ M0) :
    Does M0 a0 (State.rootLock s) := by
  unfold State.rootLock
  repeat' first
    | with_reducible assumption | with_reducible exact mem_of HM (by decide) | with_reducible exact List.Subset.trans (by decide) HM
    | with_reducible apply ctlSet_does | with_reducible apply timSet_does | split
    | (lift_lets; intro x; refine bring (P := Does M0 a0 x) ?side fun hx => ?main; case' main => clear_value x; case' side => unfold x)
    | (lift_lets; intro x) | exact fun j => j | intro x hx | intro x | with_reducible apply Does.ctl | with_reducible apply Does.tim

theorem ixNext_does (s : State) (a : Nat) (step : Nat) (bits : Nat) (Hs : Does M0 a0 s) (HM : [.regs] ⊆ M0) :
    Does M0 a0 (State.ixNext s a step bits) := by
  unfold State.ixNext
  repeat' first
    | with_reducible assumption | with_reducible exact mem_of HM (by decide) | with_reducible exact List.Subset.trans (by decide) HM
    | with_reducible apply rwSet_does | with_reducible apply Does.regs

theorem ixStep_does (s : State) (n0 : IxPair) (Hs : Does M0 a0 s) (HM : [.regs] ⊆ M0) :
    Does M0 a0 (State.ixStep s n0) := by
  unfold State.ixStep
  repeat' first
    | with_reducible assumption | with_reducible exact mem_of HM (by decide) | with_reducible exact List.Subset.trans (by decide) HM
    | with_reducible apply ixNext_does | split | with_reducible apply Does.regs

theorem ixRead_does (s : State) (p : IxPair) (Hs : Does M0 a0 s) (HM : [.regs] ⊆ M0) :
    Does M0 a0 (State.ixRead s p).2 := by
  unfold State.ixRead
  repeat' first
    | with_reducible assumption | with_reducible exact mem_of HM (by decide) | with_reducible exact List.Subset.trans (by decide) HM
    | with_reducible apply ixStep_does | with_reducible apply Does.regs

theorem ixWrite_does (s : State) (src : WrSrc) (p : IxPair) (w : Word) (Hs : Does M0 a0 s) (HM : [.freeCtr, .sub, .out, .regs, .dac, .tim, .net] ⊆ M0) :
    Does M0 a0 (State.ixWrite s src p w) := by
  unfold State.ixWrite
  repeat' first
    | with_reducible assumption | with_reducible exact mem_of HM (by decide) | with_reducible exact List.Subset.trans (by decide) HM
    | with_reducible apply dacAgain_does | with_reducible apply ixStep_does | with_reducible apply reject_does | with_reducible apply strIxSet_does
    | with_reducible apply timIxSet_does | split | with_reducible apply Does.freeCtr | with_reducible apply Does.sub | with_reducible apply Does.out
    | with_reducible apply Does.regs | with_reducible apply Does.dac | with_reducible apply Does.tim | with_reducible apply Does.net

theorem peaStart_does (s : State) (Hs : Does M0 a0 s) (HM : [.regs, .pea] ⊆ M0) :
    Does M0 a0 (State.peaStart s) := by
  unfold State.peaStart
  repeat' first
    | with_reducible assumption | with_reducible exact mem_of HM (by decide) | with_reducible exact List.Subset.trans (by decide) HM
    | with_reducible apply peaSet_does | with_reducible apply scSet_does | split
    | (lift_lets; intro x; refine bring (P := Does M0 a0 x) ?side fun hx => ?main; case' main => clear_value x; case' side => unfold x)
    | (lift_lets; intro x) | exact fun j => j | intro x hx | intro x | with_reducible apply Does.regs | with_reducible apply Does.pea

theorem peaPut_does (s : State) (src : WrSrc) (w : Word) (Hs : Does M0 a0 s) (HM : [.regs, .pea] ⊆ M0) :
    Does M0 a0 (State.peaPut s src w) := by
  unfold State.peaPut
  repeat' first
    | with_reducible assumption | with_reducible exact mem_of HM (by decide) | with_reducible exact List.Subset.trans (by decide) HM
    | with_reducible apply ixNext_does | with_reducible apply peaSet_does | with_reducible apply peaStart_does | with_reducible apply reject_does
    | with_reducible apply scSet_does | split
    | (lift_lets; intro x; refine bring (P := Does M0 a0 x) ?side fun hx => ?main; case' main => clear_value x; case' side => unfold x)
    | (lift_lets; intro x) | exact fun j => j | intro x hx | intro x | with_reducible apply Does.regs | with_reducible apply Does.pea

theorem peaGet_does (s : State) (Hs : Does M0 a0 s) (HM : [.regs] ⊆ M0) :
    Does M0 a0 (State.peaGet s).2 := by
  unfold State.peaGet
  repeat' first
    | with_reducible assumption | with_reducible exact mem_of HM (by decide) | with_reducible exact List.Subset.trans (by decide) HM
    | with_reducible apply ixNext_does | with_reducible apply Does.regs

theorem peaCtl_does (s : State) (w : Word) (Hs : Does M0 a0 s) (HM : [.regs, .pea] ⊆ M0) :
    Does M0 a0 (State.peaCtl s w) := by
  unfold State.peaCtl
  repeat' first
    | with_reducible assumption | with_reducible exact mem_of HM (by decide) | with_reducible exact List.Subset.trans (by decide) HM
    | with_reducible apply peaStart_does | split | with_reducible apply Does.regs | with_reducible apply Does.pea

theorem peaDone_does (s : State) (retries : Nat) (Hs : Does M0 a0 s) (HM : [.regs, .pea, .sec] ⊆ M0) :
    Does M0 a0 (State.peaDone s retries) := by
  unfold State.peaDone
  repeat' first
    | with_reducible assumption | with_reducible exact mem_of HM (by decide) | with_reducible exact List.Subset.trans (by decide) HM
    | with_reducible apply peaSet_does | with_reducible apply peaWrite_does | with_reducible apply retireSector_does | split
    | (lift_lets; intro x; refine bring (P := Does M0 a0 x) ?side fun hx => ?main; case' main => clear_value x; case' side => unfold x)
    | (lift_lets; intro x) | exact fun j => j | intro x hx | intro x | with_reducible apply Does.regs | with_reducible apply Does.pea
    | with_reducible apply Does.sec

theorem rngRead_does (s : State) (Hs : Does M0 a0 s) (HM : [.freeCtr, .sec] ⊆ M0) :
    Does M0 a0 (State.rngRead s).2 := by
  unfold State.rngRead
  repeat' first
    | with_reducible assumption | with_reducible exact mem_of HM (by decide) | with_reducible exact List.Subset.trans (by decide) HM
    | with_reducible apply secSet_does | with_reducible apply trng_does | split
    | (lift_lets; intro x; refine bring (P := Does M0 a0 x) ?side fun hx => ?main; case' main => clear_value x; case' side => unfold x)
    | (lift_lets; intro x) | exact fun j => j | intro x hx | intro x | with_reducible apply Does.freeCtr | with_reducible apply Does.sec

theorem secCtl_does (s : State) (w : Word) (Hs : Does M0 a0 s) (HM : [.sec] ⊆ M0) :
    Does M0 a0 (State.secCtl s w) := by
  unfold State.secCtl
  repeat' first
    | with_reducible assumption | with_reducible exact mem_of HM (by decide) | with_reducible exact List.Subset.trans (by decide) HM
    | with_reducible apply secSet_does | split
    | (lift_lets; intro x; refine bring (P := Does M0 a0 x) ?side fun hx => ?main; case' main => clear_value x; case' side => unfold x)
    | (lift_lets; intro x) | exact fun j => j | intro x hx | intro x | with_reducible apply Does.sec

theorem rbAdv_does (s : State) (origin : Nat) (w : Word) (Hs : Does M0 a0 s) (HM : [.regs, .sec] ⊆ M0) :
    Does M0 a0 (State.rbAdv s origin w) := by
  have hv : wbits w 0 7 < 128 := Nat.mod_lt _ (by decide)
  unfold State.rbAdv
  dsimp only
  split
  · split
    · exact secSet_does _ _ Hs (List.Subset.trans (by decide) HM) (fun h _ => h) fun _ _ v hv' => by
        injection hv' with hv'; exact hv' ▸ hv
    · exact logFull_does _ Hs (List.Subset.trans (by decide) HM)
  · exact scSet_does _ _ _ Hs (List.Subset.trans (by decide) HM)

theorem rbDone_does (s : State) (Hs : Does M0 a0 s) (HM : [.pea, .sec] ⊆ M0) :
    Does M0 a0 (State.rbDone s) := by
  unfold State.rbDone
  split
  · exact Hs
  · next v hv =>
    exact audit_does _ _ _ _ _ (secSet_does _ _ Hs (List.Subset.trans (by decide) HM) (fun _ h => h v hv) fun _ _ v h => by cases h)
      (List.Subset.trans (by decide) HM)

theorem regRead_does (s : State) (off : Nat) (Hs : Does M0 a0 s) (HM : [.freeCtr, .regs, .sec, .twin, .csnLatch] ⊆ M0) :
    Does M0 a0 (State.regRead s off).2 := by
  unfold State.regRead
  repeat' first
    | with_reducible assumption | with_reducible exact mem_of HM (by decide) | with_reducible exact List.Subset.trans (by decide) HM
    | with_reducible apply ixRead_does | with_reducible apply peaGet_does | with_reducible apply rngRead_does | with_reducible apply twinSet_does
    | split | with_reducible apply Does.freeCtr | with_reducible apply Does.regs | with_reducible apply Does.sec | with_reducible apply Does.twin
    | with_reducible apply Does.csnLatch

theorem mixStart_does (s : State) (Hs : Does M0 a0 s) (HM : [.freeCtr, .mix] ⊆ M0) :
    Does M0 a0 (State.mixStart s) :=
  .ite (Hs.mix (HM (by decide)) _) (.ite Hs ((Hs.freeCtr (HM (by decide)) (s.freeCtr + 1)).mix (HM (by decide)) _))

theorem portDown_does (s : State) (h : Nat) (Hs : Does M0 a0 s) (HM : [.out, .regs, .mem, .mix, .hosts, .net, .twin] ⊆ M0) :
    Does M0 a0 (State.portDown s h) := by
  unfold State.portDown
  repeat' first
    | with_reducible assumption | with_reducible exact mem_of HM (by decide) | with_reducible exact List.Subset.trans (by decide) HM
    | with_reducible apply Does.foldl | with_reducible apply rwPutBit_does | with_reducible apply teardown_does | split
    | (lift_lets; intro x; refine bring (P := Does M0 a0 x) ?side fun hx => ?main; case' main => clear_value x; case' side => unfold x)
    | (lift_lets; intro x) | exact fun j => j | intro x hx | intro x | with_reducible apply Does.out | with_reducible apply Does.regs
    | with_reducible apply Does.mem | with_reducible apply Does.mix | with_reducible apply Does.hosts | with_reducible apply Does.net
    | with_reducible apply Does.twin

theorem hookHost_does (s : State) (h : Nat) (b : Nat) (old : Word) (new : Word) (w : Word) (Hs : Does M0 a0 s) (HM : [.freeCtr, .out, .regs, .mem, .mix, .hosts, .net, .twin] ⊆ M0) :
    Does M0 a0 (State.hookHost s h b old new w) := by
  unfold State.hookHost
  repeat' first
    | with_reducible assumption | with_reducible exact mem_of HM (by decide) | with_reducible exact List.Subset.trans (by decide) HM
    | with_reducible apply cqStart_does | with_reducible apply hstEvent_does | with_reducible apply portDown_does
    | with_reducible apply portStart_does | with_reducible apply ringErr_does | with_reducible apply sqStart_does | with_reducible apply teardown_does
    | split | with_reducible apply Does.freeCtr | with_reducible apply Does.out | with_reducible apply Does.regs | with_reducible apply Does.mem
    | with_reducible apply Does.mix | with_reducible apply Does.hosts | with_reducible apply Does.net | with_reducible apply Does.twin

theorem hookDac_does (s : State) (n : Nat) (old : Word) (new : Word) (Hs : Does M0 a0 s) (HM : [.freeCtr, .sub, .out, .regs, .dac] ⊆ M0) :
    Does M0 a0 (State.hookDac s n old new) := by
  unfold State.hookDac
  repeat' first
    | with_reducible assumption | with_reducible exact mem_of HM (by decide) | with_reducible exact List.Subset.trans (by decide) HM
    | with_reducible apply dacAgain_does | with_reducible apply emit_does | split | with_reducible apply Does.freeCtr | with_reducible apply Does.sub
    | with_reducible apply Does.out | with_reducible apply Does.regs | with_reducible apply Does.dac

theorem hookStr_does (s : State) (o : Nat) (old : Word) (new : Word) (w : Word) (Hs : Does M0 a0 s) (HM : [.freeCtr, .sub, .out, .regs, .mem, .mix, .tdm, .dac, .byp, .hosts, .net, .twin] ⊆ M0) :
    Does M0 a0 (State.hookStr s o old new w) := by
  unfold State.hookStr
  repeat' first
    | with_reducible assumption | with_reducible exact mem_of HM (by decide) | with_reducible exact List.Subset.trans (by decide) HM
    | with_reducible apply dacDirect_does | with_reducible apply emitPins_does | with_reducible apply hitStart_does
    | with_reducible apply hitStop_does | with_reducible apply hookDac_does | with_reducible apply linkChange_does
    | with_reducible apply tdmStart_does | split | with_reducible apply Does.freeCtr | with_reducible apply Does.sub | with_reducible apply Does.out
    | with_reducible apply Does.regs | with_reducible apply Does.mem | with_reducible apply Does.mix | with_reducible apply Does.tdm
    | with_reducible apply Does.dac | with_reducible apply Does.byp | with_reducible apply Does.hosts | with_reducible apply Does.net
    | with_reducible apply Does.twin

theorem dryDown_does (s : State) (d : Nat) (Hs : Does M0 a0 s) (HM : [.lanes, .drays] ⊆ M0) :
    Does M0 a0 (State.dryDown s d) := by
  unfold State.dryDown
  repeat' first
    | with_reducible assumption | with_reducible exact mem_of HM (by decide) | with_reducible exact List.Subset.trans (by decide) HM
    | with_reducible apply Does.foldl | with_reducible apply draySet_does | with_reducible apply laneSet_does | split
    | (lift_lets; intro x; refine bring (P := Does M0 a0 x) ?side fun hx => ?main; case' main => clear_value x; case' side => unfold x)
    | (lift_lets; intro x) | exact fun j => j | intro x hx | intro x | with_reducible apply Does.lanes | with_reducible apply Does.drays

theorem hook_does (s : State) (off : Nat) (old : Word) (new : Word) (w : Word) (Hs : Does M0 a0 s) (HM : [.freeCtr, .sub, .out, .regs, .mem, .mix, .tdm, .dac, .byp, .tim, .lanes, .drays, .hosts, .net, .twin] ⊆ M0) :
    Does M0 a0 (State.hook s off old new w) := by
  unfold State.hook
  repeat' first
    | with_reducible assumption | with_reducible exact mem_of HM (by decide) | with_reducible exact List.Subset.trans (by decide) HM
    | with_reducible apply acFollow_does | with_reducible apply bankOwn_does | with_reducible apply capFld_does | with_reducible apply dryDown_does
    | with_reducible apply hookHost_does | with_reducible apply hookStr_does | with_reducible apply mixStart_does
    | with_reducible apply refEnable_does | with_reducible apply scSet_does | with_reducible apply timSet_does | split
    | (lift_lets; intro x; refine bring (P := Does M0 a0 x) ?side fun hx => ?main; case' main => clear_value x; case' side => unfold x)
    | (lift_lets; intro x) | with_reducible apply Does.freeCtr | with_reducible apply Does.out | with_reducible apply Does.regs
    | with_reducible apply Does.mem | with_reducible apply Does.mix | with_reducible apply Does.tdm | with_reducible apply Does.dac
    | with_reducible apply Does.byp | with_reducible apply Does.tim | with_reducible apply Does.lanes | with_reducible apply Does.hosts
    | with_reducible apply Does.net | with_reducible apply Does.twin

theorem rwWrite_does (s : State) (src : WrSrc) (off : Nat) (w : Word) (mask : Word) (Hs : Does M0 a0 s) (HM : [.freeCtr, .sub, .out, .regs, .mem, .pea, .sec, .mix, .tdm, .dac, .byp, .tim, .lanes, .drays, .hosts, .net, .twin] ⊆ M0) :
    Does M0 a0 (State.rwWrite s src off w mask) := by
  unfold State.rwWrite
  repeat' first
    | with_reducible assumption | with_reducible exact mem_of HM (by decide) | with_reducible exact List.Subset.trans (by decide) HM
    | with_reducible apply audit_does | with_reducible apply hook_does | with_reducible apply logFull_does | with_reducible apply reject_does
    | with_reducible apply rwSet_does | split | with_reducible apply Does.out | with_reducible apply Does.regs | with_reducible apply Does.mem
    | with_reducible apply Does.pea | with_reducible apply Does.sec | with_reducible apply Does.mix | with_reducible apply Does.tdm
    | with_reducible apply Does.byp | with_reducible apply Does.tim | with_reducible apply Does.lanes | with_reducible apply Does.hosts
    | with_reducible apply Does.net | with_reducible apply Does.twin

theorem scClear_does (s : State) (off : Nat) (q : BitVec 8) (Hs : Does M0 a0 s) (HM : [.out, .regs, .mem, .hosts, .twin] ⊆ M0) :
    Does M0 a0 (State.scClear s off q) := by
  unfold State.scClear
  repeat' first
    | with_reducible assumption | with_reducible exact mem_of HM (by decide) | with_reducible exact List.Subset.trans (by decide) HM
    | with_reducible apply Does.foldl | with_reducible apply giveCause_does | with_reducible apply hstPut_does | with_reducible apply irqOut_does
    | with_reducible apply scPut_does | split
    | (lift_lets; intro x; refine bring (P := Does M0 a0 x) ?side fun hx => ?main; case' main => clear_value x; case' side => unfold x)
    | (lift_lets; intro x) | exact fun j => j | intro x hx | intro x | with_reducible apply Does.out | with_reducible apply Does.regs
    | with_reducible apply Does.mem | with_reducible apply Does.hosts | with_reducible apply Does.twin

theorem woWrite_does (s : State) (src : WrSrc) (off : Nat) (w : Word) (Hs : Does M0 a0 s) (HM : [.freeCtr, .sub, .out, .regs, .ctl, .mem, .pea, .sec, .mix, .tdm, .dac, .byp, .tim, .lanes, .drays, .hosts, .net, .twin, .csnLatch] ⊆ M0) :
    Does M0 a0 (State.woWrite s src off w) := by
  unfold State.woWrite
  exact .ite (hostRst_does _ _ _ Hs (List.Subset.trans (by decide) HM)) <|
    .ite (bootPush_does _ _ Hs (List.Subset.trans (by decide) HM)) <|
    .ite (acCtl_does _ _ Hs (List.Subset.trans (by decide) HM)) <|
    .ite (secCtl_does _ _ Hs (List.Subset.trans (by decide) HM)) <|
    .ite (rbAdv_does _ _ _ Hs (List.Subset.trans (by decide) HM)) <|
    .ite (zeroise_does _ _ _ Hs (List.Subset.trans (by decide) HM)) <|
    .ite (peaPut_does _ _ _ Hs (List.Subset.trans (by decide) HM)) <|
    .ite (peaCtl_does _ _ Hs (List.Subset.trans (by decide) HM)) <|
    .ite (ixWrite_does _ _ _ _ Hs (List.Subset.trans (by decide) HM)) <|
    .ite (ixWrite_does _ _ _ _ Hs (List.Subset.trans (by decide) HM)) <|
    .ite (ixWrite_does _ _ _ _ Hs (List.Subset.trans (by decide) HM)) <|
    .ite (hitCtl_does _ _ Hs (List.Subset.trans (by decide) HM)) <|
    .ite (tdmCtl_does _ _ _ Hs (List.Subset.trans (by decide) HM)) Hs

theorem regPut_does (s : State) (src : WrSrc) (off : Nat) (w : Word) (Hs : Does M0 a0 s) (HM : [.freeCtr, .sub, .out, .regs, .ctl, .mem, .pea, .sec, .mix, .tdm, .dac, .byp, .tim, .lanes, .drays, .hosts, .net, .twin, .csnLatch] ⊆ M0) :
    Does M0 a0 (State.regPut s src off w) := by
  have hh := secHold_does s w true Hs (List.Subset.trans (by decide) HM)
  unfold State.regPut
  split
  · split
    · exact reject_does _ _ _ _ _ hh (List.Subset.trans (by decide) HM)
    · exact hh
  · split
    · exact Hs
    · exact rwWrite_does _ _ _ _ _ Hs (List.Subset.trans (by decide) HM)
    · refine ctrSet_does _ _ _ Hs (List.Subset.trans (by decide) HM) fun h => Nat.le_trans (Nat.min_le_left _ _) ?_
      exact ctr_le s off h
    · exact scClear_does _ _ _ Hs (List.Subset.trans (by decide) HM)
    · exact woWrite_does _ _ _ _ Hs (List.Subset.trans (by decide) HM)

theorem regWrite_does (s : State) (src : WrSrc) (off : Nat) (w : Word) (Hs : Does M0 a0 s) (HM : [.freeCtr, .sub, .out, .regs, .ctl, .mem, .pea, .sec, .mix, .tdm, .dac, .byp, .tim, .lanes, .drays, .hosts, .net, .twin, .csnLatch] ⊆ M0) :
    Does M0 a0 (State.regWrite s src off w) := by
  unfold State.regWrite
  repeat' first
    | with_reducible assumption | with_reducible exact mem_of HM (by decide) | with_reducible exact List.Subset.trans (by decide) HM
    | with_reducible apply regPut_does | split | with_reducible apply Does.freeCtr | with_reducible apply Does.out | with_reducible apply Does.regs
    | with_reducible apply Does.ctl | with_reducible apply Does.mem | with_reducible apply Does.pea | with_reducible apply Does.sec
    | with_reducible apply Does.mix | with_reducible apply Does.tdm | with_reducible apply Does.dac | with_reducible apply Does.byp
    | with_reducible apply Does.tim | with_reducible apply Does.lanes | with_reducible apply Does.drays | with_reducible apply Does.hosts
    | with_reducible apply Does.net | with_reducible apply Does.twin | with_reducible apply Does.csnLatch

end Sys2Proof.Laws
end

