-- ==== Sys2Proof/Laws/DoesBlock.lean ====
section
/-! SUPPORT. What the stages and the block boundary can do: the fields of State each may change, and that each keeps the invariant
(Laws.Does). The lemma of an operation of an instruction is cited in place of its definition. -/

namespace Sys2Proof.Laws

set_option Elab.async false
set_option linter.all false

open Sys2Proof.Machine Sys2Proof.Safety

variable {M0 : List Fd} {a0 : State}

theorem mirrorBlk_does (s : State) (e : Ent) (done : Bool) (b : Nat) (Hs : Does M0 a0 s) (HM : [.mem, .mix] ⊆ M0) :
    Does M0 a0 (State.mirrorBlk s e done b) := by
  unfold State.mirrorBlk
  repeat' first
    | with_reducible assumption | with_reducible exact mem_of HM (by decide) | with_reducible exact List.Subset.trans (by decide) HM
    | with_reducible apply engWrite_does | with_reducible apply entSet_does | split | with_reducible apply Does.mem | with_reducible apply Does.mix

theorem countBlk_does (s : State) (n : Nat) (late : Bool) (isOver : Bool) (dly : Bool) (sl : Bool) (Hs : Does M0 a0 s) (HM : [.regs] ⊆ M0) :
    Does M0 a0 (State.countBlk s n late isOver dly sl) := by
  unfold State.countBlk
  repeat' first
    | with_reducible assumption | with_reducible exact mem_of HM (by decide) | with_reducible exact List.Subset.trans (by decide) HM
    | with_reducible apply countN_does | with_reducible apply Does.regs

theorem keyChecks_does (old : State) (s : State) (n : Nat) (Hold : Does M0 a0 old) (Hs : Does M0 a0 s) (HM : [.regs, .mem, .mix] ⊆ M0) :
    Does M0 a0 (State.keyChecks old s n) := by
  unfold State.keyChecks
  repeat' first
    | with_reducible assumption | with_reducible exact mem_of HM (by decide) | with_reducible exact List.Subset.trans (by decide) HM
    | with_reducible apply badAddr_does | with_reducible apply checkReaders_does | with_reducible apply countN_does | with_reducible apply setErr_does
    | split | (lift_lets; intro x; refine bring (P := Does M0 a0 x) ?side fun hx => ?main; case' main => clear_value x; case' side => unfold x)
    | (lift_lets; intro x) | exact fun j => j | intro x hx | intro x | with_reducible apply Does.regs | with_reducible apply Does.mem
    | with_reducible apply Does.mix

theorem processEnt_does (s0 : State) (f : Ent → Feed) (after : Ent → Ent) (io : BlockIn) (b : Nat) (s : State) (n : Nat) (Hs0 : Does M0 a0 s0) (Hs : Does M0 a0 s) (HM : [.regs, .mem, .mix] ⊆ M0) :
    Does M0 a0 (State.processEnt s0 f after io b s n) := by
  unfold State.processEnt
  extract_lets e spb x1 x2 done w x3 e1 x0 s1
  have h1 : Does M0 a0 s1 := Hs.mem (HM (by decide)) { s.mem with bulk := w.bulk } (fun j => runBlock_wf s0 (f e) b done e _ j) id
  clear_value s1
  split
  · exact mirrorBlk_does _ _ _ _ Hs (List.Subset.trans (by decide) HM)
  · split
    · exact mirrorBlk_does _ _ _ _ Hs (List.Subset.trans (by decide) HM)
    · exact countBlk_does _ _ _ _ _ _ (mirrorBlk_does _ _ _ _ h1 (List.Subset.trans (by decide) HM)) (List.Subset.trans (by decide) HM)

theorem mixDue_does (s : State) (b : Nat) (Hs : Does M0 a0 s) (HM : [.mix] ⊆ M0) :
    Does M0 a0 (State.mixDue s b) := by
  unfold State.mixDue
  repeat' first
    | with_reducible assumption | with_reducible exact mem_of HM (by decide) | with_reducible exact List.Subset.trans (by decide) HM
    | with_reducible apply Does.mix

theorem xpsDone_does (s0 : State) (b : Nat) (s : State) (Hs0 : Does M0 a0 s0) (Hs : Does M0 a0 s) (HM : [.mix] ⊆ M0) :
    Does M0 a0 (State.xpsDone s0 b s) := by
  unfold State.xpsDone
  repeat' first
    | with_reducible assumption | with_reducible exact mem_of HM (by decide) | with_reducible exact List.Subset.trans (by decide) HM
    | with_reducible apply Does.mix

theorem mixBegin_does (s : State) (b : Nat) (Hs : Does M0 a0 s) (HM : [.mix] ⊆ M0) :
    Does M0 a0 (State.mixBegin s b) := by
  unfold State.mixBegin
  repeat' first
    | with_reducible assumption | with_reducible exact mem_of HM (by decide) | with_reducible exact List.Subset.trans (by decide) HM
    | with_reducible apply mixDue_does | with_reducible apply Does.mix

theorem emergEvent_does (s : State) (act : List Nat) (Hs : Does M0 a0 s) (HM : [.regs] ⊆ M0) :
    Does M0 a0 (State.emergEvent s act) := by
  unfold State.emergEvent
  repeat' first
    | with_reducible assumption | with_reducible exact mem_of HM (by decide) | with_reducible exact List.Subset.trans (by decide) HM
    | with_reducible apply scSet_does | split | with_reducible apply Does.regs

theorem destPut_does (ts : List Tap) (b : Nat) (s : State) (c : Nat) (Hs : Does M0 a0 s) (HM : [.regs, .mix] ⊆ M0) :
    Does M0 a0 (State.destPut ts b s c) := by
  unfold State.destPut
  repeat' first
    | with_reducible assumption | with_reducible exact mem_of HM (by decide) | with_reducible exact List.Subset.trans (by decide) HM
    | with_reducible apply countN_does | with_reducible apply Does.regs | with_reducible apply Does.mix

theorem destAll_does (s : State) (ts : List Tap) (b : Nat) (Hs : Does M0 a0 s) (HM : [.regs, .mix] ⊆ M0) :
    Does M0 a0 (State.destAll s ts b) := by
  unfold State.destAll
  repeat' first
    | with_reducible assumption | with_reducible exact mem_of HM (by decide) | with_reducible exact List.Subset.trans (by decide) HM
    | with_reducible apply Does.foldl | with_reducible apply destPut_does | split
    | (lift_lets; intro x; refine bring (P := Does M0 a0 x) ?side fun hx => ?main; case' main => clear_value x; case' side => unfold x)
    | (lift_lets; intro x) | exact fun j => j | intro x hx | intro x | with_reducible apply Does.regs | with_reducible apply Does.mix

theorem mixStage_does (io : BlockIn) (b : Nat) (s : State) (Hs : Does M0 a0 s) (HM : [.regs, .mem, .mix] ⊆ M0) :
    Does M0 a0 (State.mixStage io b s) := by
  unfold State.mixStage
  extract_lets s1 act t0 buses outs t1 t2 t3 t4 t5 missed
  have k0 : Does M0 a0 s1 := mixBegin_does _ _ Hs (List.Subset.trans (by decide) HM)
  have k1 : Does M0 a0 t0 := emergEvent_does _ _ k0 (List.Subset.trans (by decide) HM)
  have k2 : Does M0 a0 t1 := k1.foldl fun _ _ ht => processEnt_does _ _ _ _ _ _ _ k0 ht (List.Subset.trans (by decide) HM)
  have k3 : Does M0 a0 t2 := k2.foldl fun _ _ ht => processEnt_does _ _ _ _ _ _ _ k0 ht (List.Subset.trans (by decide) HM)
  have k4 : Does M0 a0 t3 := k3.foldl fun _ _ ht => keyChecks_does _ _ _ Hs ht (List.Subset.trans (by decide) HM)
  have k5 : Does M0 a0 t4 := destAll_does _ _ _ k4 (List.Subset.trans (by decide) HM)
  have k6 : Does M0 a0 t5 := xpsDone_does _ _ _ k0 k5 (List.Subset.trans (by decide) HM)
  exact k6.mix (HM (by decide)) _

theorem zoneFeeds_does (s : State) (Hs : Does M0 a0 s) (HM : [.mix] ⊆ M0) :
    Does M0 a0 (State.zoneFeeds s) := by
  unfold State.zoneFeeds
  repeat' first
    | with_reducible assumption | with_reducible exact mem_of HM (by decide) | with_reducible exact List.Subset.trans (by decide) HM | split
    | with_reducible apply Does.mix

theorem stripStage_does (io : BlockIn) (b : Nat) (s : State) (Hs : Does M0 a0 s) (HM : [.regs, .mem, .mix] ⊆ M0) :
    Does M0 a0 (State.stripStage io b s) := by
  unfold State.stripStage
  extract_lets s0 s1 s2 missed
  have k1 : Does M0 a0 s1 := Hs.foldl fun _ _ ht => processEnt_does _ _ _ _ _ _ _ Hs ht (List.Subset.trans (by decide) HM)
  have k2 : Does M0 a0 s2 := k1.foldl fun _ _ ht => keyChecks_does _ _ _ Hs ht (List.Subset.trans (by decide) HM)
  exact k2.mix (HM (by decide)) _

theorem meterSubs_does (b : Nat) (s : State) (Hs : Does M0 a0 s) (HM : [.hosts] ⊆ M0) :
    Does M0 a0 (State.meterSubs b s) := by
  unfold State.meterSubs
  repeat' first
    | with_reducible assumption | with_reducible exact mem_of HM (by decide) | with_reducible exact List.Subset.trans (by decide) HM
    | with_reducible apply Does.hosts

theorem playerOp_does (s : State) (o : Op) (Hs : Does M0 a0 s) (HM : [.mix] ⊆ M0) :
    Does M0 a0 (State.playerOp s o) := by
  unfold State.playerOp
  repeat' first
    | with_reducible assumption | with_reducible exact mem_of HM (by decide) | with_reducible exact List.Subset.trans (by decide) HM
    | with_reducible apply opPut_does | with_reducible apply playerSet_does | split | with_reducible apply Does.mix

theorem playerOps_does (b : Nat) (s : State) (Hs : Does M0 a0 s) (HM : [.mix] ⊆ M0) :
    Does M0 a0 (State.playerOps b s) := by
  unfold State.playerOps
  repeat' first
    | with_reducible assumption | with_reducible exact mem_of HM (by decide) | with_reducible exact List.Subset.trans (by decide) HM
    | with_reducible apply Does.foldl | with_reducible apply playerOp_does | split
    | (lift_lets; intro x; refine bring (P := Does M0 a0 x) ?side fun hx => ?main; case' main => clear_value x; case' side => unfold x)
    | (lift_lets; intro x) | exact fun j => j | intro x hx | intro x | with_reducible apply Does.mix

theorem playersCapture_does (io : BlockIn) (b : Nat) (s : State) (Hs : Does M0 a0 s) (HM : [.regs, .mix] ⊆ M0) :
    Does M0 a0 (State.playersCapture io b s) := by
  unfold State.playersCapture
  repeat' first
    | with_reducible assumption | with_reducible exact mem_of HM (by decide) | with_reducible exact List.Subset.trans (by decide) HM
    | with_reducible apply countN_does | with_reducible apply Does.regs | with_reducible apply Does.mix

theorem bypCapture_does (io : BlockIn) (b : Nat) (s : State) (Hs : Does M0 a0 s) (HM : [.byp] ⊆ M0) :
    Does M0 a0 (State.bypCapture io b s) := by
  unfold State.bypCapture
  repeat' first
    | with_reducible assumption | with_reducible exact mem_of HM (by decide) | with_reducible exact List.Subset.trans (by decide) HM
    | with_reducible apply Does.byp

theorem captureStage_does (io : BlockIn) (b : Nat) (s : State) (Hs : Does M0 a0 s) (HM : [.regs, .mix, .tdm, .byp, .net] ⊆ M0) :
    Does M0 a0 (State.captureStage io b s) := by
  unfold State.captureStage
  repeat' first
    | with_reducible assumption | with_reducible exact mem_of HM (by decide) | with_reducible exact List.Subset.trans (by decide) HM
    | with_reducible apply Does.foldl | with_reducible apply bypCapture_does | with_reducible apply dropCaptured_does
    | with_reducible apply playerOps_does | with_reducible apply playersCapture_does | with_reducible apply tdmCapture_does | split
    | (lift_lets; intro x; refine bring (P := Does M0 a0 x) ?side fun hx => ?main; case' main => clear_value x; case' side => unfold x)
    | (lift_lets; intro x) | exact fun j => j | intro x hx | intro x | with_reducible apply Does.regs | with_reducible apply Does.mix
    | with_reducible apply Does.tdm | with_reducible apply Does.byp | with_reducible apply Does.net

theorem finishBlock_does (io : BlockIn) (s : State) (Hs : Does M0 a0 s) (HM : [.regs, .mem, .mix, .tdm, .byp, .hosts, .net] ⊆ M0) :
    Does M0 a0 (State.finishBlock io s) := by
  unfold State.finishBlock
  repeat' first
    | with_reducible assumption | with_reducible exact mem_of HM (by decide) | with_reducible exact List.Subset.trans (by decide) HM
    | with_reducible apply captureStage_does | with_reducible apply meterSubs_does | with_reducible apply mixStage_does
    | with_reducible apply packTalkers_does | with_reducible apply slavesEnd_does | with_reducible apply stripStage_does
    | with_reducible apply zoneFeeds_does | split | with_reducible apply Does.regs | with_reducible apply Does.mem | with_reducible apply Does.mix
    | with_reducible apply Does.tdm | with_reducible apply Does.byp | with_reducible apply Does.hosts | with_reducible apply Does.net

theorem jamRunning_does (s : State) (Hs : Does M0 a0 s) (HM : [.mix, .tdm, .tim, .net, .twin] ⊆ M0) :
    Does M0 a0 (State.jamRunning s) := by
  have h1 := jam_does s Hs (List.Subset.trans (by decide) HM)
  exact netSet_does _ _ ((h1.mix (HM (by decide)) (s.jam.mix.jam ((s.jam.tim.nsc : Int) - (s.tim.nsc : Int)) s.jam.tim.nsc)).tdm
    (HM (by decide)) (s.tdm.map fun p => { p with cap := [] })) (List.Subset.trans (by decide) HM)

theorem nextBlock_does (s : State) (Hs : Does M0 a0 s) (HM : [.mix, .tdm, .tim, .net, .twin] ⊆ M0) :
    Does M0 a0 (State.nextBlock s) := by
  unfold State.nextBlock
  extract_lets s0 x0 s1 x s2
  have h0 : Does M0 a0 s0 := steerBlock_does _ Hs (List.Subset.trans (by decide) HM)
  have h1 : Does M0 a0 s1 := timSet_does _ _ h0 (List.Subset.trans (by decide) HM) fun _ => Nat.mod_lt _ (Nat.two_pow_pos 64)
  have h2 : Does M0 a0 s2 := h1.mix (HM (by decide)) _
  clear_value s2
  exact .ite (jamRunning_does _ h2 HM) h2

theorem unitsBoundary_does (s : State) (Hs : Does M0 a0 s) (HM : [.regs, .ctl, .pea, .sec, .twin] ⊆ M0) :
    Does M0 a0 (State.unitsBoundary s) := by
  unfold State.unitsBoundary
  repeat' first
    | with_reducible assumption | with_reducible exact mem_of HM (by decide) | with_reducible exact List.Subset.trans (by decide) HM
    | with_reducible apply Does.foldl | with_reducible apply ctlSet_does | with_reducible apply migrated_does | with_reducible apply place_does
    | with_reducible apply unitFaulted_does | split
    | (lift_lets; intro x; refine bring (P := Does M0 a0 x) ?side fun hx => ?main; case' main => clear_value x; case' side => unfold x)
    | (lift_lets; intro x) | exact fun j => j | intro x hx | intro x | with_reducible apply Does.regs | with_reducible apply Does.ctl
    | with_reducible apply Does.pea | with_reducible apply Does.sec | with_reducible apply Does.twin

theorem sectionsBoundary_does (s : State) (Hs : Does M0 a0 s) (HM : [.freeCtr, .out, .regs, .mem, .mix, .hosts, .twin] ⊆ M0) :
    Does M0 a0 (State.sectionsBoundary s) := by
  have hmix (t : State) (x : Mix) (h : Does M0 a0 t) : Does M0 a0 { t with mix := x } := h.mix (HM (by decide)) x
  unfold State.sectionsBoundary
  extract_lets en x0 s1 on s2 x1 x2 s3
  have h1 : Does M0 a0 s1 := hmix _ _ Hs
  have h3 : Does M0 a0 s3 := hmix _ _ (abortOps_does _ h1 (List.Subset.trans (by decide) HM))
  clear_value s3 s2 s1
  exact .ite (.ite (hmix _ _ h1) h1) (.ite (mixStart_does _ h3 (List.Subset.trans (by decide) HM)) h3)

theorem install_does (blk : Nat) (s : State) (r : Ready) (Hs : Does M0 a0 s) (HM : [.regs, .mem, .mix] ⊆ M0) :
    Does M0 a0 (State.install blk s r) := by
  unfold State.install
  repeat' first
    | with_reducible assumption | with_reducible exact mem_of HM (by decide) | with_reducible exact List.Subset.trans (by decide) HM
    | with_reducible apply installEntry_does | with_reducible apply installXp_does | with_reducible apply installZone_does
    | with_reducible apply relist_does | split | with_reducible apply Does.regs | with_reducible apply Does.mem | with_reducible apply Does.mix

theorem installReady_does (s : State) (blk : Nat) (Hs : Does M0 a0 s) (HM : [.regs, .mem, .mix] ⊆ M0) :
    Does M0 a0 (State.installReady s blk) := by
  unfold State.installReady
  repeat' first
    | with_reducible assumption | with_reducible exact mem_of HM (by decide) | with_reducible exact List.Subset.trans (by decide) HM
    | with_reducible apply Does.foldl | with_reducible apply install_does | with_reducible apply setOn_does | split
    | (lift_lets; intro x; refine bring (P := Does M0 a0 x) ?side fun hx => ?main; case' main => clear_value x; case' side => unfold x)
    | (lift_lets; intro x) | exact fun j => j | intro x hx | intro x | with_reducible apply Does.regs | with_reducible apply Does.mem
    | with_reducible apply Does.mix

theorem snapshot_does (blk : Nat) (s : State) (o : Op) (Hs : Does M0 a0 s) (HM : [.mix] ⊆ M0) :
    Does M0 a0 (State.snapshot blk s o) := by
  unfold State.snapshot
  repeat' first
    | with_reducible assumption | with_reducible exact mem_of HM (by decide) | with_reducible exact List.Subset.trans (by decide) HM
    | with_reducible apply opPut_does | split | with_reducible apply Does.mix

theorem abortedDone_does (s : State) (Hs : Does M0 a0 s) (HM : [.mix] ⊆ M0) :
    Does M0 a0 (State.abortedDone s) := by
  unfold State.abortedDone
  repeat' first
    | with_reducible assumption | with_reducible exact mem_of HM (by decide) | with_reducible exact List.Subset.trans (by decide) HM
    | with_reducible apply Does.mix

theorem zonesClamp_does (s : State) (Hs : Does M0 a0 s) (HM : [.mem, .mix] ⊆ M0) :
    Does M0 a0 (State.zonesClamp s) := by
  unfold State.zonesClamp
  repeat' first
    | with_reducible assumption | with_reducible exact mem_of HM (by decide) | with_reducible exact List.Subset.trans (by decide) HM
    | with_reducible apply Does.foldl | with_reducible apply putZone_does | split
    | (lift_lets; intro x; refine bring (P := Does M0 a0 x) ?side fun hx => ?main; case' main => clear_value x; case' side => unfold x)
    | (lift_lets; intro x) | exact fun j => j | intro x hx | intro x | with_reducible apply Does.mem | with_reducible apply Does.mix

theorem tablesBoundary_does (s : State) (Hs : Does M0 a0 s) (HM : [.regs, .mem, .mix] ⊆ M0) :
    Does M0 a0 (State.tablesBoundary s) := by
  unfold State.tablesBoundary
  repeat' first
    | with_reducible assumption | with_reducible exact mem_of HM (by decide) | with_reducible exact List.Subset.trans (by decide) HM
    | with_reducible apply Does.foldl | with_reducible apply abortedDone_does | with_reducible apply applyCommits_does
    | with_reducible apply checkCommits_does | with_reducible apply installReady_does | with_reducible apply snapshot_does
    | with_reducible apply zonesClamp_does | split
    | (lift_lets; intro x; refine bring (P := Does M0 a0 x) ?side fun hx => ?main; case' main => clear_value x; case' side => unfold x)
    | (lift_lets; intro x) | exact fun j => j | intro x hx | intro x | with_reducible apply Does.regs | with_reducible apply Does.mem
    | with_reducible apply Does.mix

theorem claimsBoundary_does (s : State) (Hs : Does M0 a0 s) (HM : [.regs, .mix] ⊆ M0) :
    Does M0 a0 (State.claimsBoundary s) := by
  unfold State.claimsBoundary
  repeat' first
    | with_reducible assumption | with_reducible exact mem_of HM (by decide) | with_reducible exact List.Subset.trans (by decide) HM
    | with_reducible apply countN_does | with_reducible apply dropClaims_does | with_reducible apply Does.regs | with_reducible apply Does.mix

theorem emitBoundary_does (s : State) (took : Bool) (Hs : Does M0 a0 s) (HM : [.freeCtr, .sub, .out, .regs, .mem, .mix, .tdm, .dac, .byp, .tim, .hosts, .net, .twin] ⊆ M0) :
    Does M0 a0 (State.emitBoundary s took) := by
  unfold State.emitBoundary
  repeat' first
    | with_reducible assumption | with_reducible exact mem_of HM (by decide) | with_reducible exact List.Subset.trans (by decide) HM
    | with_reducible apply Does.foldl | with_reducible apply bypBoundary_does | with_reducible apply emitDac_does | with_reducible apply emitTdm_does
    | with_reducible apply launch_does | with_reducible apply nextBlock_does | with_reducible apply portSet_does | with_reducible apply tdmStopAt_does
    | split | (lift_lets; intro x; refine bring (P := Does M0 a0 x) ?side fun hx => ?main; case' main => clear_value x; case' side => unfold x)
    | (lift_lets; intro x) | exact fun j => j | intro x hx | intro x | with_reducible apply Does.freeCtr | with_reducible apply Does.out
    | with_reducible apply Does.regs | with_reducible apply Does.mem | with_reducible apply Does.mix | with_reducible apply Does.tdm
    | with_reducible apply Does.dac | with_reducible apply Does.byp | with_reducible apply Does.tim | with_reducible apply Does.hosts
    | with_reducible apply Does.net | with_reducible apply Does.twin

theorem migWait_does (s : State) (d : Nat) (Hs : Does M0 a0 s) (HM : [.drays] ⊆ M0) :
    Does M0 a0 (State.migWait s d) := by
  unfold State.migWait
  repeat' first
    | with_reducible assumption | with_reducible exact mem_of HM (by decide) | with_reducible exact List.Subset.trans (by decide) HM
    | with_reducible apply draySet_does | split | with_reducible apply Does.drays

theorem lanesBoundary_does (s : State) (Hs : Does M0 a0 s) (HM : [.out, .regs, .ctl, .mem, .pea, .sec, .mix, .lanes, .drays, .hosts, .twin] ⊆ M0) :
    Does M0 a0 (State.lanesBoundary s) := by
  unfold State.lanesBoundary
  repeat' first
    | with_reducible assumption | with_reducible exact mem_of HM (by decide) | with_reducible exact List.Subset.trans (by decide) HM
    | with_reducible apply Does.foldl | with_reducible apply laneBoundary_does | with_reducible apply migWait_does | split
    | (lift_lets; intro x; refine bring (P := Does M0 a0 x) ?side fun hx => ?main; case' main => clear_value x; case' side => unfold x)
    | (lift_lets; intro x) | exact fun j => j | intro x hx | intro x | with_reducible apply Does.out | with_reducible apply Does.regs
    | with_reducible apply Does.ctl | with_reducible apply Does.mem | with_reducible apply Does.pea | with_reducible apply Does.sec
    | with_reducible apply Does.mix | with_reducible apply Does.lanes | with_reducible apply Does.drays | with_reducible apply Does.hosts
    | with_reducible apply Does.twin

theorem bypAlone_does (s : State) (io : BlockIn) (Hs : Does M0 a0 s) (HM : [.sub, .out, .regs, .dac, .byp] ⊆ M0) :
    Does M0 a0 (State.bypAlone s io) := by
  unfold State.bypAlone
  repeat' first
    | with_reducible assumption | with_reducible exact mem_of HM (by decide) | with_reducible exact List.Subset.trans (by decide) HM
    | with_reducible apply bypBoundary_does | with_reducible apply bypCapture_does | with_reducible apply emitAc15_does
    | with_reducible apply emitDac_does | with_reducible apply emitPinsAll_does | split | with_reducible apply Does.sub
    | with_reducible apply Does.out | with_reducible apply Does.regs | with_reducible apply Does.dac | with_reducible apply Does.byp

theorem beginBlock_does (s : State) (Hs : Does M0 a0 s) (HM : [.freeCtr, .sub, .out, .regs, .ctl, .mem, .pea, .sec, .mix, .tdm, .dac, .byp, .tim, .lanes, .drays, .hosts, .net, .twin] ⊆ M0) :
    Does M0 a0 (State.beginBlock s) := by
  have h1 := twinBoundary_does _ (unitsBoundary_does s Hs (List.Subset.trans (by decide) HM)) (List.Subset.trans (by decide) HM)
  have h2 := lanesBoundary_does _ (streamBoundary_does _ h1 (List.Subset.trans (by decide) HM)) (List.Subset.trans (by decide) HM)
  have h3 := claimsBoundary_does _ (sectionsBoundary_does _ h2 (List.Subset.trans (by decide) HM)) (List.Subset.trans (by decide) HM)
  unfold State.beginBlock
  extract_lets was s1 s2 s3 took x s4
  have h4 : Does M0 a0 s4 := .ite (twinSet_does _ _ h3 (List.Subset.trans (by decide) HM)) h3
  clear_value s4
  exact emitBoundary_does _ _ (tablesBoundary_does _ h4 (List.Subset.trans (by decide) HM)) (List.Subset.trans (by decide) HM)

theorem boundary_does (s : State) (io : BlockIn) (Hs : Does M0 a0 s) (HM : [.freeCtr, .sub, .out, .regs, .ctl, .mem, .pea, .sec, .mix, .tdm, .dac, .byp, .tim, .lanes, .drays, .hosts, .net, .twin] ⊆ M0) :
    Does M0 a0 (State.boundary s io) := by
  unfold State.boundary
  refine .ite (bypAlone_does _ _ Hs (List.Subset.trans (by decide) HM)) ?_
  extract_lets t
  have h : Does M0 a0 t := nextBlock_does _ (.ite (finishBlock_does _ _ Hs (List.Subset.trans (by decide) HM)) Hs) (List.Subset.trans (by decide) HM)
  clear_value t
  exact .ite (beginBlock_does _ h HM) h

end Sys2Proof.Laws
end

