-- ==== Sys2Proof/Laws/DoesCmd.lean ====
section
/-! SUPPORT. What the operations of the commands can do: the fields of State each may change, and that each keeps the invariant
(Laws.Does). The lemma of an operation of an instruction is cited in place of its definition. -/

namespace Sys2Proof.Laws

set_option Elab.async false
set_option linter.all false

open Sys2Proof.Machine Sys2Proof.Safety

variable {M0 : List Fd} {a0 : State}

theorem readAt_does (s : State) (m : Nat) (a : Nat) (n : Nat) (tg : Target) (Hs : Does M0 a0 s) (HM : [.freeCtr, .regs, .sec, .twin, .csnLatch] ⊆ M0) :
    Does M0 a0 (State.readAt s m a n tg).2 := by
  have hd := decerr_does s m a false Hs (List.Subset.trans (by decide) HM)
  have hr := fun o => regRead_does s o Hs (List.Subset.trans (by decide) HM)
  have hf := freeBytes_does s n Hs (List.Subset.trans (by decide) HM)
  cases tg with
  | bulk => rw [State.readAt]; exact Hs
  | pool => rw [State.readAt]; exact foreign_does _ _ _ _ Hs (List.Subset.trans (by decide) HM)
  | pea => rw [State.readAt]; exact Hs
  | reg =>
    have h1 := hr (a - regBase)
    rw [State.readAt]
    split
    · generalize s.regRead (a - regBase) = q at h1 ⊢
      obtain ⟨x, y⟩ := q
      exact h1
    · exact hd
  | host h =>
    rw [State.readAt]
    split
    · exact hf
    · exact hd
  | none => rw [State.readAt]; exact hd

theorem busRead_does (s : State) (m : Nat) (a : Nat) (n : Nat) (Hs : Does M0 a0 s) (HM : [.freeCtr, .regs, .sec, .twin, .csnLatch] ⊆ M0) :
    Does M0 a0 (State.busRead s m a n).2 := by
  unfold State.busRead
  repeat' first
    | with_reducible assumption | with_reducible exact mem_of HM (by decide) | with_reducible exact List.Subset.trans (by decide) HM
    | with_reducible apply readAt_does | with_reducible apply Does.freeCtr | with_reducible apply Does.regs | with_reducible apply Does.sec
    | with_reducible apply Does.twin | with_reducible apply Does.csnLatch

theorem busWrite_does (s : State) (m : Nat) (src : WrSrc) (a : Nat) (bs : List Byte) (Hs : Does M0 a0 s) (HM : [.freeCtr, .sub, .out, .regs, .ctl, .mem, .pea, .sec, .mix, .tdm, .dac, .byp, .tim, .lanes, .drays, .hosts, .net, .twin, .csnLatch] ⊆ M0) :
    Does M0 a0 (State.busWrite s m src a bs).2 := by
  unfold State.busWrite
  repeat' first
    | with_reducible assumption | with_reducible exact mem_of HM (by decide) | with_reducible exact List.Subset.trans (by decide) HM
    | with_reducible apply decerr_does | with_reducible apply devWrite_does | with_reducible apply regWrite_does | split
    | with_reducible apply Does.freeCtr | with_reducible apply Does.out | with_reducible apply Does.regs | with_reducible apply Does.ctl
    | with_reducible apply Does.mem | with_reducible apply Does.pea | with_reducible apply Does.sec | with_reducible apply Does.mix
    | with_reducible apply Does.tdm | with_reducible apply Does.dac | with_reducible apply Does.byp | with_reducible apply Does.tim
    | with_reducible apply Does.lanes | with_reducible apply Does.drays | with_reducible apply Does.hosts | with_reducible apply Does.net
    | with_reducible apply Does.twin | with_reducible apply Does.csnLatch

theorem freeWords_does (s : State) (a : Nat) (ws : List Nat) (bs : List Byte) (Hs : Does M0 a0 s) (HM : [.freeCtr] ⊆ M0) :
    Does M0 a0 (State.freeWords s a ws bs).2 := by
  unfold State.freeWords
  repeat' first
    | with_reducible assumption | with_reducible exact mem_of HM (by decide) | with_reducible exact List.Subset.trans (by decide) HM
    | with_reducible apply freeBytes_does | with_reducible apply Does.freeCtr

theorem readHits_does (s : State) (m : Nat) (a : Nat) (n : Nat) (h : MemHits) (Hs : Does M0 a0 s) (HM : [.freeCtr, .regs, .pea, .sec, .twin, .csnLatch] ⊆ M0) :
    Does M0 a0 (State.readHits s m a n h).2 := by
  unfold State.readHits
  repeat' first
    | with_reducible assumption | with_reducible exact mem_of HM (by decide) | with_reducible exact List.Subset.trans (by decide) HM
    | with_reducible apply busRead_does | with_reducible apply collide_does | with_reducible apply collided_does | with_reducible apply eccFixed_does
    | with_reducible apply eccLost_does | with_reducible apply freeWords_does | with_reducible apply uncBytes_does | split
    | (lift_lets; intro x; refine bring (P := Does M0 a0 x) ?side fun hx => ?main; case' main => clear_value x; case' side => unfold x)
    | (lift_lets; intro x) | with_reducible apply Does.freeCtr | with_reducible apply Does.regs | with_reducible apply Does.pea
    | with_reducible apply Does.sec | with_reducible apply Does.twin | with_reducible apply Does.csnLatch

theorem writeHits_does (s : State) (m : Nat) (src : WrSrc) (a : Nat) (bs : List Byte) (h : MemHits) (Hs : Does M0 a0 s) (HM : [.freeCtr, .sub, .out, .regs, .ctl, .mem, .pea, .sec, .mix, .tdm, .dac, .byp, .tim, .lanes, .drays, .hosts, .net, .twin, .csnLatch] ⊆ M0) :
    Does M0 a0 (State.writeHits s m src a bs h).2 := by
  unfold State.writeHits
  repeat' first
    | with_reducible assumption | with_reducible exact mem_of HM (by decide) | with_reducible exact List.Subset.trans (by decide) HM
    | with_reducible apply busWrite_does | with_reducible apply collide_does | with_reducible apply collided_does | with_reducible apply eccFixed_does
    | with_reducible apply eccWrite_does | split
    | (lift_lets; intro x; refine bring (P := Does M0 a0 x) ?side fun hx => ?main; case' main => clear_value x; case' side => unfold x)
    | (lift_lets; intro x) | with_reducible apply Does.freeCtr | with_reducible apply Does.sub | with_reducible apply Does.out
    | with_reducible apply Does.regs | with_reducible apply Does.ctl | with_reducible apply Does.mem | with_reducible apply Does.pea
    | with_reducible apply Does.sec | with_reducible apply Does.mix | with_reducible apply Does.tdm | with_reducible apply Does.dac
    | with_reducible apply Does.byp | with_reducible apply Does.tim | with_reducible apply Does.lanes | with_reducible apply Does.drays
    | with_reducible apply Does.hosts | with_reducible apply Does.net | with_reducible apply Does.twin | with_reducible apply Does.csnLatch

theorem readAll_does (s : State) (m : Nat) (h : MemHits) (n0 : List (Nat × Nat)) (Hs : Does M0 a0 s) (HM : [.freeCtr, .regs, .pea, .sec, .twin, .csnLatch] ⊆ M0) :
    Does M0 a0 (State.readAll s m h n0).2 := by
  induction n0 generalizing s with
  | nil => exact Hs
  | cons p r ih => exact ih _ (readHits_does _ _ _ _ _ Hs HM)

theorem writeAll_does (s : State) (m : Nat) (src : WrSrc) (h : MemHits) (bs : List Byte) (n0 : List (Nat × Nat)) (Hs : Does M0 a0 s) (HM : [.freeCtr, .sub, .out, .regs, .ctl, .mem, .pea, .sec, .mix, .tdm, .dac, .byp, .tim, .lanes, .drays, .hosts, .net, .twin, .csnLatch] ⊆ M0) :
    Does M0 a0 (State.writeAll s m src h bs n0).2 := by
  induction n0 generalizing s bs with
  | nil => exact Hs
  | cons p r ih => exact ih _ _ (writeHits_does _ _ _ _ _ _ Hs HM)

theorem runOp_does (s : State) (m : Fin 14) (a : Nat) (op : MtxOp) (broken : Bool) (Hs : Does M0 a0 s) (HM : [.freeCtr, .sub, .out, .regs, .ctl, .mem, .pea, .sec, .mix, .tdm, .dac, .byp, .tim, .lanes, .drays, .hosts, .net, .twin, .csnLatch] ⊆ M0) :
    Does M0 a0 (State.runOp s m a op broken).2 := by
  unfold State.runOp
  repeat' first
    | with_reducible assumption | with_reducible exact mem_of HM (by decide) | with_reducible exact List.Subset.trans (by decide) HM
    | with_reducible apply busRead_does | with_reducible apply busWrite_does | with_reducible apply decerr_does | with_reducible apply devWrite_does
    | split | (lift_lets; intro x; refine bring (P := Does M0 a0 x) ?side fun hx => ?main; case' main => clear_value x; case' side => unfold x)
    | (lift_lets; intro x) | with_reducible apply Does.freeCtr | with_reducible apply Does.out | with_reducible apply Does.regs
    | with_reducible apply Does.ctl | with_reducible apply Does.mem | with_reducible apply Does.pea | with_reducible apply Does.sec
    | with_reducible apply Does.mix | with_reducible apply Does.tdm | with_reducible apply Does.dac | with_reducible apply Does.byp
    | with_reducible apply Does.tim | with_reducible apply Does.lanes | with_reducible apply Does.drays | with_reducible apply Does.hosts
    | with_reducible apply Does.net | with_reducible apply Does.twin | with_reducible apply Does.csnLatch

theorem eccOp_does (s : State) (m : Fin 14) (a : Nat) (h : MemHits) (op : MtxOp) (broken : Bool) (Hs : Does M0 a0 s) (HM : [.freeCtr, .sub, .out, .regs, .ctl, .mem, .pea, .sec, .mix, .tdm, .dac, .byp, .tim, .lanes, .drays, .hosts, .net, .twin, .csnLatch] ⊆ M0) :
    Does M0 a0 (State.eccOp s m a h op broken).2 := by
  unfold State.eccOp
  repeat' first
    | with_reducible assumption | with_reducible exact mem_of HM (by decide) | with_reducible exact List.Subset.trans (by decide) HM
    | with_reducible apply eccFixed_does | with_reducible apply eccLost_does | with_reducible apply eccWrite_does | with_reducible apply foreign_does
    | with_reducible apply freeBytes_does | with_reducible apply runOp_does | with_reducible apply uncBytes_does | split
    | (lift_lets; intro x; refine bring (P := Does M0 a0 x) ?side fun hx => ?main; case' main => clear_value x; case' side => unfold x)
    | (lift_lets; intro x) | with_reducible apply Does.freeCtr | with_reducible apply Does.out | with_reducible apply Does.regs
    | with_reducible apply Does.ctl | with_reducible apply Does.mem | with_reducible apply Does.pea | with_reducible apply Does.sec
    | with_reducible apply Does.mix | with_reducible apply Does.tdm | with_reducible apply Does.dac | with_reducible apply Does.byp
    | with_reducible apply Does.tim | with_reducible apply Does.lanes | with_reducible apply Does.drays | with_reducible apply Does.hosts
    | with_reducible apply Does.net | with_reducible apply Does.twin | with_reducible apply Does.csnLatch

theorem collision_does (s : State) (pt : Nat) (h : MtxHead) (c : Fin 14 × Bool × Nat) (x : Ans) (Hs : Does M0 a0 s) (HM : [.freeCtr, .sub, .out, .regs, .ctl, .mem, .pea, .sec, .mix, .tdm, .dac, .byp, .tim, .lanes, .drays, .hosts, .net, .twin, .csnLatch] ⊆ M0) :
    Does M0 a0 (State.collision s pt h c x).2 := by
  unfold State.collision
  repeat' first
    | with_reducible assumption | with_reducible exact mem_of HM (by decide) | with_reducible exact List.Subset.trans (by decide) HM
    | with_reducible apply collide_does | with_reducible apply freeWords_does | with_reducible apply inbound_does
    | with_reducible apply raiseBusy_does | split
    | (lift_lets; intro x; refine bring (P := Does M0 a0 x) ?side fun hx => ?main; case' main => clear_value x; case' side => unfold x)
    | (lift_lets; intro x) | with_reducible apply Does.freeCtr | with_reducible apply Does.sub | with_reducible apply Does.out
    | with_reducible apply Does.regs | with_reducible apply Does.ctl | with_reducible apply Does.mem | with_reducible apply Does.pea
    | with_reducible apply Does.sec | with_reducible apply Does.mix | with_reducible apply Does.tdm | with_reducible apply Does.dac
    | with_reducible apply Does.byp | with_reducible apply Does.tim | with_reducible apply Does.lanes | with_reducible apply Does.drays
    | with_reducible apply Does.hosts | with_reducible apply Does.net | with_reducible apply Does.twin | with_reducible apply Does.csnLatch

theorem keepA_does (s : State) (pt : Nat) (h : MtxHead) (Hs : Does M0 a0 s) (HM : [.mem] ⊆ M0) :
    Does M0 a0 (State.keepA s pt h) := by
  unfold State.keepA
  repeat' first
    | with_reducible assumption | with_reducible exact mem_of HM (by decide) | with_reducible exact List.Subset.trans (by decide) HM | split
    | (lift_lets; intro x; refine bring (P := Does M0 a0 x) ?side fun hx => ?main; case' main => clear_value x; case' side => unfold x)
    | (lift_lets; intro x) | with_reducible apply Does.mem

theorem burst_does (s : State) (pt : Nat) (r : MtxReq) (h : MtxHead) (Hs : Does M0 a0 s) (HM : [.freeCtr, .sub, .out, .regs, .ctl, .mem, .pea, .sec, .mix, .tdm, .dac, .byp, .tim, .lanes, .drays, .hosts, .net, .twin, .csnLatch] ⊆ M0) :
    Does M0 a0 (State.burst s pt r h) := by
  unfold State.burst
  extract_lets x y s1
  have hx : Does M0 a0 x.2 := eccOp_does _ _ _ _ _ _ Hs (List.Subset.trans (by decide) HM)
  have hy : Does M0 a0 y.2 := by
    unfold y
    split
    · split
      · exact collision_does _ _ _ _ _ hx (List.Subset.trans (by decide) HM)
      · exact hx
    · exact hx
  have h1 : Does M0 a0 s1 := emit_does _ _ hy (List.Subset.trans (by decide) HM)
  clear_value s1
  exact .ite (h1.mem (HM (by decide)) _ id id) h1

theorem granted_does (s : State) (pt : Nat) (r : MtxReq) (h : MtxHead) (Hs : Does M0 a0 s) (HM : [.freeCtr, .sub, .out, .regs, .ctl, .mem, .pea, .sec, .mix, .tdm, .dac, .byp, .tim, .lanes, .drays, .hosts, .net, .twin, .csnLatch] ⊆ M0) :
    Does M0 a0 (State.granted s pt r h) := by
  unfold State.granted
  repeat' first
    | with_reducible assumption | with_reducible exact mem_of HM (by decide) | with_reducible exact List.Subset.trans (by decide) HM
    | with_reducible apply burst_does | with_reducible apply eccOp_does | with_reducible apply fly_does | with_reducible apply keepA_does
    | with_reducible apply now_does | with_reducible apply waited_does | split
    | (lift_lets; intro x; refine bring (P := Does M0 a0 x) ?side fun hx => ?main; case' main => clear_value x; case' side => unfold x)
    | (lift_lets; intro x) | with_reducible apply Does.freeCtr | with_reducible apply Does.sub | with_reducible apply Does.out
    | with_reducible apply Does.regs | with_reducible apply Does.ctl | with_reducible apply Does.mem | with_reducible apply Does.pea
    | with_reducible apply Does.sec | with_reducible apply Does.mix | with_reducible apply Does.tdm | with_reducible apply Does.dac
    | with_reducible apply Does.byp | with_reducible apply Does.tim | with_reducible apply Does.lanes | with_reducible apply Does.drays
    | with_reducible apply Does.hosts | with_reducible apply Does.net | with_reducible apply Does.twin | with_reducible apply Does.csnLatch

theorem present_does (pt : Nat) (s : State) (h : MtxHead) (Hs : Does M0 a0 s) (HM : [.mem] ⊆ M0) :
    Does M0 a0 (State.present pt s h) := by
  unfold State.present
  repeat' first
    | with_reducible assumption | with_reducible exact mem_of HM (by decide) | with_reducible exact List.Subset.trans (by decide) HM | split
    | (lift_lets; intro x; refine bring (P := Does M0 a0 x) ?side fun hx => ?main; case' main => clear_value x; case' side => unfold x)
    | (lift_lets; intro x) | with_reducible apply Does.mem

theorem defaulted_does (s : State) (h : MtxHead) (Hs : Does M0 a0 s) (HM : [.out, .regs] ⊆ M0) :
    Does M0 a0 (State.defaulted s h) := by
  unfold State.defaulted
  repeat' first
    | with_reducible assumption | with_reducible exact mem_of HM (by decide) | with_reducible exact List.Subset.trans (by decide) HM
    | with_reducible apply decerr_does | with_reducible apply emit_does | split | with_reducible apply Does.out | with_reducible apply Does.regs

theorem arbitrate_does (s : State) (pt : Nat) (r : MtxReq) (Hs : Does M0 a0 s) (HM : [.freeCtr, .sub, .out, .regs, .ctl, .mem, .pea, .sec, .mix, .tdm, .dac, .byp, .tim, .lanes, .drays, .hosts, .net, .twin, .csnLatch] ⊆ M0) :
    Does M0 a0 (State.arbitrate s pt r) := by
  unfold State.arbitrate
  repeat' first
    | with_reducible assumption | with_reducible exact mem_of HM (by decide) | with_reducible exact List.Subset.trans (by decide) HM
    | with_reducible apply Does.foldl | with_reducible apply defaulted_does | with_reducible apply fly_does | with_reducible apply granted_does
    | with_reducible apply now_does | with_reducible apply present_does | split
    | (lift_lets; intro x; refine bring (P := Does M0 a0 x) ?side fun hx => ?main; case' main => clear_value x; case' side => unfold x)
    | (lift_lets; intro x) | exact fun j => j | intro x hx | intro x | with_reducible apply Does.freeCtr | with_reducible apply Does.sub
    | with_reducible apply Does.out | with_reducible apply Does.regs | with_reducible apply Does.ctl | with_reducible apply Does.mem
    | with_reducible apply Does.pea | with_reducible apply Does.sec | with_reducible apply Does.mix | with_reducible apply Does.tdm
    | with_reducible apply Does.dac | with_reducible apply Does.byp | with_reducible apply Does.tim | with_reducible apply Does.lanes
    | with_reducible apply Does.drays | with_reducible apply Does.hosts | with_reducible apply Does.net | with_reducible apply Does.twin
    | with_reducible apply Does.csnLatch

theorem inbRefuse_does (s : State) (h : Fin 4) (read : Bool) (Hs : Does M0 a0 s) (HM : [.out, .regs] ⊆ M0) :
    Does M0 a0 (State.inbRefuse s h read) := by
  unfold State.inbRefuse
  repeat' first
    | with_reducible assumption | with_reducible exact mem_of HM (by decide) | with_reducible exact List.Subset.trans (by decide) HM
    | with_reducible apply count_does | with_reducible apply emit_does | split | with_reducible apply Does.out | with_reducible apply Does.regs

theorem msixWrite_does (s : State) (h : Fin 4) (o : Nat) (bs : List Byte) (Hs : Does M0 a0 s) (HM : [.out, .hosts] ⊆ M0) :
    Does M0 a0 (State.msixWrite s h o bs) := by
  unfold State.msixWrite
  repeat' first
    | with_reducible assumption | with_reducible exact mem_of HM (by decide) | with_reducible exact List.Subset.trans (by decide) HM
    | with_reducible apply Does.foldl | with_reducible apply emit_does | with_reducible apply hostSet_does | with_reducible apply msix_does | split
    | (lift_lets; intro x; refine bring (P := Does M0 a0 x) ?side fun hx => ?main; case' main => clear_value x; case' side => unfold x)
    | (lift_lets; intro x) | exact fun j => j | intro x hx | intro x | with_reducible apply Does.out | with_reducible apply Does.hosts

theorem hostRead_does (s : State) (m : Nat) (a : Nat) (n : Nat) (h : MemHits) (Hs : Does M0 a0 s) (HM : [.freeCtr, .regs, .mem, .pea, .sec, .twin, .csnLatch] ⊆ M0) :
    Does M0 a0 (State.hostRead s m a n h).2 := by
  unfold State.hostRead
  repeat' first
    | with_reducible assumption | with_reducible exact mem_of HM (by decide) | with_reducible exact List.Subset.trans (by decide) HM
    | with_reducible apply fly_does | with_reducible apply readAll_does | with_reducible apply Does.freeCtr | with_reducible apply Does.regs
    | with_reducible apply Does.mem | with_reducible apply Does.pea | with_reducible apply Does.sec | with_reducible apply Does.twin
    | with_reducible apply Does.csnLatch

theorem inbMatrix_does (s : State) (h : Fin 4) (a : Nat) (n : Nat) (wr : Option (List Byte)) (x : MemHits) (Hs : Does M0 a0 s) (HM : [.freeCtr, .sub, .out, .regs, .ctl, .mem, .pea, .sec, .mix, .tdm, .dac, .byp, .tim, .lanes, .drays, .hosts, .net, .twin, .csnLatch] ⊆ M0) :
    Does M0 a0 (State.inbMatrix s h a n wr x) := by
  unfold State.inbMatrix
  repeat' first
    | with_reducible assumption | with_reducible exact mem_of HM (by decide) | with_reducible exact List.Subset.trans (by decide) HM
    | with_reducible apply decerr_does | with_reducible apply emit_does | with_reducible apply hostRead_does | with_reducible apply inbRefuse_does
    | with_reducible apply writeAll_does | split | with_reducible apply Does.freeCtr | with_reducible apply Does.sub | with_reducible apply Does.out
    | with_reducible apply Does.regs | with_reducible apply Does.ctl | with_reducible apply Does.mem | with_reducible apply Does.pea
    | with_reducible apply Does.sec | with_reducible apply Does.mix | with_reducible apply Does.tdm | with_reducible apply Does.dac
    | with_reducible apply Does.byp | with_reducible apply Does.tim | with_reducible apply Does.lanes | with_reducible apply Does.drays
    | with_reducible apply Does.hosts | with_reducible apply Does.net | with_reducible apply Does.twin | with_reducible apply Does.csnLatch

theorem cfgRead_does (s : State) (h : Fin 4) (o : Nat) (n : Nat) (Hs : Does M0 a0 s) (HM : [.freeCtr, .out] ⊆ M0) :
    Does M0 a0 (State.cfgRead s h o n) := by
  unfold State.cfgRead
  repeat' first
    | with_reducible assumption | with_reducible exact mem_of HM (by decide) | with_reducible exact List.Subset.trans (by decide) HM
    | with_reducible apply emit_does | with_reducible apply freeBytes_does | split | with_reducible apply Does.freeCtr | with_reducible apply Does.out

theorem inbound_does (s : State) (h : Fin 4) (r : InbReq) (Hs : Does M0 a0 s) (HM : [.freeCtr, .sub, .out, .regs, .ctl, .mem, .pea, .sec, .mix, .tdm, .dac, .byp, .tim, .lanes, .drays, .hosts, .net, .twin, .csnLatch] ⊆ M0) :
    Does M0 a0 (State.inbound s h r) := by
  unfold State.inbound
  repeat' first
    | with_reducible assumption | with_reducible exact mem_of HM (by decide) | with_reducible exact List.Subset.trans (by decide) HM
    | with_reducible apply Does.foldl | with_reducible apply cfgRead_does | with_reducible apply decerr_does | with_reducible apply emit_does
    | with_reducible apply inbMatrix_does | with_reducible apply inbRefuse_does | with_reducible apply msixWrite_does | with_reducible apply msix_does
    | with_reducible apply regWrite_does | split | with_reducible apply Does.freeCtr | with_reducible apply Does.out | with_reducible apply Does.regs
    | with_reducible apply Does.ctl | with_reducible apply Does.mem | with_reducible apply Does.pea | with_reducible apply Does.sec
    | with_reducible apply Does.mix | with_reducible apply Does.tdm | with_reducible apply Does.dac | with_reducible apply Does.byp
    | with_reducible apply Does.tim | with_reducible apply Does.lanes | with_reducible apply Does.drays | with_reducible apply Does.hosts
    | with_reducible apply Does.net | with_reducible apply Does.twin | with_reducible apply Does.csnLatch

theorem spiBegin_does (s : State) (i : Fin 2) (Hs : Does M0 a0 s) (HM : [.mem] ⊆ M0) :
    Does M0 a0 (State.spiBegin s i) := by
  unfold State.spiBegin
  repeat' first
    | with_reducible assumption | with_reducible exact mem_of HM (by decide) | with_reducible exact List.Subset.trans (by decide) HM | split
    | (lift_lets; intro x; refine bring (P := Does M0 a0 x) ?side fun hx => ?main; case' main => clear_value x; case' side => unfold x)
    | (lift_lets; intro x) | with_reducible apply Does.mem

theorem spiErr_does (s : State) (i : Fin 2) (Hs : Does M0 a0 s) (HM : [.regs] ⊆ M0) :
    Does M0 a0 (State.spiErr s i) := by
  unfold State.spiErr
  repeat' first
    | with_reducible assumption | with_reducible exact mem_of HM (by decide) | with_reducible exact List.Subset.trans (by decide) HM
    | with_reducible apply count_does | split | with_reducible apply Does.regs

theorem spiWrErr_does (s : State) (i : Fin 2) (Hs : Does M0 a0 s) (HM : [.regs] ⊆ M0) :
    Does M0 a0 (State.spiWrErr s i) := by
  unfold State.spiWrErr
  repeat' first
    | with_reducible assumption | with_reducible exact mem_of HM (by decide) | with_reducible exact List.Subset.trans (by decide) HM
    | with_reducible apply scSet_does | split | with_reducible apply Does.regs

theorem spiId_does (s : State) (i : Fin 2) (Hs : Does M0 a0 s) (HM : [.out, .mem] ⊆ M0) :
    Does M0 a0 (State.spiId s i) := by
  unfold State.spiId
  repeat' first
    | with_reducible assumption | with_reducible exact mem_of HM (by decide) | with_reducible exact List.Subset.trans (by decide) HM
    | with_reducible apply emit_does | with_reducible apply spiBegin_does | with_reducible apply Does.out | with_reducible apply Does.mem

theorem spiReadStatus_does (s : State) (i : Fin 2) (Hs : Does M0 a0 s) (HM : [.out, .mem] ⊆ M0) :
    Does M0 a0 (State.spiReadStatus s i) := by
  unfold State.spiReadStatus
  repeat' first
    | with_reducible assumption | with_reducible exact mem_of HM (by decide) | with_reducible exact List.Subset.trans (by decide) HM
    | with_reducible apply emit_does | with_reducible apply spiBegin_does | with_reducible apply Does.out | with_reducible apply Does.mem

theorem spiWrite1_does (s : State) (i : Fin 2) (w : Nat × List Byte × MemHits) (Hs : Does M0 a0 s) (HM : [.freeCtr, .sub, .out, .regs, .ctl, .mem, .pea, .sec, .mix, .tdm, .dac, .byp, .tim, .lanes, .drays, .hosts, .net, .twin, .csnLatch] ⊆ M0) :
    Does M0 a0 (State.spiWrite1 s i w) := by
  unfold State.spiWrite1
  repeat' first
    | with_reducible assumption | with_reducible exact mem_of HM (by decide) | with_reducible exact List.Subset.trans (by decide) HM
    | with_reducible apply collide_does | with_reducible apply decerr_does | with_reducible apply raiseBusy_does | with_reducible apply spiWrErr_does
    | with_reducible apply writeAll_does | split | with_reducible apply Does.freeCtr | with_reducible apply Does.sub | with_reducible apply Does.out
    | with_reducible apply Does.regs | with_reducible apply Does.ctl | with_reducible apply Does.mem | with_reducible apply Does.pea
    | with_reducible apply Does.sec | with_reducible apply Does.mix | with_reducible apply Does.tdm | with_reducible apply Does.dac
    | with_reducible apply Does.byp | with_reducible apply Does.tim | with_reducible apply Does.lanes | with_reducible apply Does.drays
    | with_reducible apply Does.hosts | with_reducible apply Does.net | with_reducible apply Does.twin | with_reducible apply Does.csnLatch

theorem spiDrain_does (s : State) (i : Fin 2) (Hs : Does M0 a0 s) (HM : [.freeCtr, .sub, .out, .regs, .ctl, .mem, .pea, .sec, .mix, .tdm, .dac, .byp, .tim, .lanes, .drays, .hosts, .net, .twin, .csnLatch] ⊆ M0) :
    Does M0 a0 (State.spiDrain s i) := by
  unfold State.spiDrain
  repeat' first
    | with_reducible assumption | with_reducible exact mem_of HM (by decide) | with_reducible exact List.Subset.trans (by decide) HM
    | with_reducible apply Does.foldl | with_reducible apply hostSet_does | with_reducible apply spiWrite1_does | split
    | (lift_lets; intro x; refine bring (P := Does M0 a0 x) ?side fun hx => ?main; case' main => clear_value x; case' side => unfold x)
    | (lift_lets; intro x) | exact fun j => j | intro x hx | intro x | with_reducible apply Does.freeCtr | with_reducible apply Does.out
    | with_reducible apply Does.regs | with_reducible apply Does.ctl | with_reducible apply Does.mem | with_reducible apply Does.pea
    | with_reducible apply Does.sec | with_reducible apply Does.mix | with_reducible apply Does.tdm | with_reducible apply Does.dac
    | with_reducible apply Does.byp | with_reducible apply Does.tim | with_reducible apply Does.lanes | with_reducible apply Does.drays
    | with_reducible apply Does.hosts | with_reducible apply Does.net | with_reducible apply Does.twin | with_reducible apply Does.csnLatch

theorem spiRead_does (s : State) (i : Fin 2) (a : Nat) (n : Nat) (late : Bool) (x : MemHits) (Hs : Does M0 a0 s) (HM : [.freeCtr, .sub, .out, .regs, .ctl, .mem, .pea, .sec, .mix, .tdm, .dac, .byp, .tim, .lanes, .drays, .hosts, .net, .twin, .csnLatch] ⊆ M0) :
    Does M0 a0 (State.spiRead s i a n late x) := by
  unfold State.spiRead
  repeat' first
    | with_reducible assumption | with_reducible exact mem_of HM (by decide) | with_reducible exact List.Subset.trans (by decide) HM
    | with_reducible apply collide_does | with_reducible apply decerr_does | with_reducible apply emit_does | with_reducible apply hostRead_does
    | with_reducible apply raiseBusy_does | with_reducible apply spiBegin_does | with_reducible apply spiDrain_does | split
    | with_reducible apply Does.freeCtr | with_reducible apply Does.sub | with_reducible apply Does.out | with_reducible apply Does.regs
    | with_reducible apply Does.ctl | with_reducible apply Does.mem | with_reducible apply Does.pea | with_reducible apply Does.sec
    | with_reducible apply Does.mix | with_reducible apply Does.tdm | with_reducible apply Does.dac | with_reducible apply Does.byp
    | with_reducible apply Does.tim | with_reducible apply Does.lanes | with_reducible apply Does.drays | with_reducible apply Does.hosts
    | with_reducible apply Does.net | with_reducible apply Does.twin | with_reducible apply Does.csnLatch

theorem spiWrite_does (s : State) (i : Fin 2) (a : Nat) (d : List Byte) (x : MemHits) (Hs : Does M0 a0 s) (HM : [.regs, .mem, .hosts] ⊆ M0) :
    Does M0 a0 (State.spiWrite s i a d x) := by
  unfold State.spiWrite
  repeat' first
    | with_reducible assumption | with_reducible exact mem_of HM (by decide) | with_reducible exact List.Subset.trans (by decide) HM
    | with_reducible apply hostSet_does | with_reducible apply spiBegin_does | with_reducible apply spiErr_does | with_reducible apply spiWrErr_does
    | split | (lift_lets; intro x; refine bring (P := Does M0 a0 x) ?side fun hx => ?main; case' main => clear_value x; case' side => unfold x)
    | (lift_lets; intro x) | exact fun j => j | intro x hx | intro x | with_reducible apply Does.regs | with_reducible apply Does.mem
    | with_reducible apply Does.hosts

theorem spiMode_does (s : State) (i : Fin 2) (b : Byte) (Hs : Does M0 a0 s) (HM : [.mem, .hosts] ⊆ M0) :
    Does M0 a0 (State.spiMode s i b) := by
  unfold State.spiMode
  repeat' first
    | with_reducible assumption | with_reducible exact mem_of HM (by decide) | with_reducible exact List.Subset.trans (by decide) HM
    | with_reducible apply hostSet_does | with_reducible apply spiBegin_does | split | with_reducible apply Does.mem | with_reducible apply Does.hosts

theorem recoveryRead_does (s : State) (h : Fin 4) (off : Nat) (Hs : Does M0 a0 s) (HM : [.out, .mem] ⊆ M0) :
    Does M0 a0 (State.recoveryRead s h off) := by
  unfold State.recoveryRead
  repeat' first
    | with_reducible assumption | with_reducible exact mem_of HM (by decide) | with_reducible exact List.Subset.trans (by decide) HM
    | with_reducible apply emit_does | with_reducible apply spiBegin_does | split | with_reducible apply Does.out | with_reducible apply Does.mem

theorem recoveryWrite_does (s : State) (h : Fin 4) (off : Nat) (w : Word) (Hs : Does M0 a0 s) (HM : [.freeCtr, .sub, .out, .regs, .ctl, .mem, .pea, .sec, .mix, .tdm, .dac, .byp, .tim, .lanes, .drays, .hosts, .net, .twin, .csnLatch] ⊆ M0) :
    Does M0 a0 (State.recoveryWrite s h off w) := by
  unfold State.recoveryWrite
  repeat' first
    | with_reducible assumption | with_reducible exact mem_of HM (by decide) | with_reducible exact List.Subset.trans (by decide) HM
    | with_reducible apply regWrite_does | with_reducible apply spiBegin_does | split | with_reducible apply Does.freeCtr
    | with_reducible apply Does.out | with_reducible apply Does.regs | with_reducible apply Does.ctl | with_reducible apply Does.mem
    | with_reducible apply Does.pea | with_reducible apply Does.sec | with_reducible apply Does.mix | with_reducible apply Does.tdm
    | with_reducible apply Does.dac | with_reducible apply Does.byp | with_reducible apply Does.tim | with_reducible apply Does.lanes
    | with_reducible apply Does.drays | with_reducible apply Does.hosts | with_reducible apply Does.net | with_reducible apply Does.twin
    | with_reducible apply Does.csnLatch

theorem spiArm_does (s : State) (i : Fin 2) (Hs : Does M0 a0 s) (HM : [.mem, .hosts] ⊆ M0) :
    Does M0 a0 (State.spiArm s i) := by
  unfold State.spiArm
  repeat' first
    | with_reducible assumption | with_reducible exact mem_of HM (by decide) | with_reducible exact List.Subset.trans (by decide) HM
    | with_reducible apply hostSet_does | with_reducible apply spiBegin_does | with_reducible apply Does.mem | with_reducible apply Does.hosts

theorem spiReset_does (s : State) (i : Fin 2) (Hs : Does M0 a0 s) (HM : [.out, .regs, .mem, .mix, .hosts, .net, .twin] ⊆ M0) :
    Does M0 a0 (State.spiReset s i) := by
  unfold State.spiReset
  repeat' first
    | with_reducible assumption | with_reducible exact mem_of HM (by decide) | with_reducible exact List.Subset.trans (by decide) HM
    | with_reducible apply hostFault_does | with_reducible apply hostSet_does | with_reducible apply spiBegin_does | with_reducible apply spiErr_does
    | split | with_reducible apply Does.out | with_reducible apply Does.regs | with_reducible apply Does.mem | with_reducible apply Does.mix
    | with_reducible apply Does.hosts | with_reducible apply Does.net | with_reducible apply Does.twin

theorem spiUnknown_does (s : State) (i : Fin 2) (op : Nat) (Hs : Does M0 a0 s) (HM : [.regs, .mem] ⊆ M0) :
    Does M0 a0 (State.spiUnknown s i op) := by
  unfold State.spiUnknown
  repeat' first
    | with_reducible assumption | with_reducible exact mem_of HM (by decide) | with_reducible exact List.Subset.trans (by decide) HM
    | with_reducible apply spiBegin_does | with_reducible apply spiErr_does | split
    | (lift_lets; intro x; refine bring (P := Does M0 a0 x) ?side fun hx => ?main; case' main => clear_value x; case' side => unfold x)
    | (lift_lets; intro x) | with_reducible apply Does.regs | with_reducible apply Does.mem

theorem spiEnd_does (s : State) (i : Fin 2) (Hs : Does M0 a0 s) (HM : [.freeCtr, .sub, .out, .regs, .ctl, .mem, .pea, .sec, .mix, .tdm, .dac, .byp, .tim, .lanes, .drays, .hosts, .net, .twin, .csnLatch] ⊆ M0) :
    Does M0 a0 (State.spiEnd s i) := by
  unfold State.spiEnd
  repeat' first
    | with_reducible assumption | with_reducible exact mem_of HM (by decide) | with_reducible exact List.Subset.trans (by decide) HM
    | with_reducible apply hostSet_does | with_reducible apply spiDrain_does | split
    | (lift_lets; intro x; refine bring (P := Does M0 a0 x) ?side fun hx => ?main; case' main => clear_value x; case' side => unfold x)
    | (lift_lets; intro x) | with_reducible apply Does.freeCtr | with_reducible apply Does.out | with_reducible apply Does.regs
    | with_reducible apply Does.ctl | with_reducible apply Does.mem | with_reducible apply Does.pea | with_reducible apply Does.sec
    | with_reducible apply Does.mix | with_reducible apply Does.tdm | with_reducible apply Does.dac | with_reducible apply Does.byp
    | with_reducible apply Does.tim | with_reducible apply Does.lanes | with_reducible apply Does.drays | with_reducible apply Does.hosts
    | with_reducible apply Does.net | with_reducible apply Does.twin | with_reducible apply Does.csnLatch

theorem mixDog_does (s : State) (Hs : Does M0 a0 s) (HM : [.regs, .twin] ⊆ M0) :
    Does M0 a0 (State.mixDog s) := by
  unfold State.mixDog
  repeat' first
    | with_reducible assumption | with_reducible exact mem_of HM (by decide) | with_reducible exact List.Subset.trans (by decide) HM
    | with_reducible apply giveCause_does | with_reducible apply health_does | split | with_reducible apply Does.regs | with_reducible apply Does.twin

theorem portWrite_does (s : State) (m : Fin 14) (a : Nat) (bs : List Byte) (Hs : Does M0 a0 s) (HM : [.out, .regs, .mem, .mix, .twin] ⊆ M0) :
    Does M0 a0 (State.portWrite s m a bs) := by
  unfold State.portWrite
  repeat' first
    | with_reducible assumption | with_reducible exact mem_of HM (by decide) | with_reducible exact List.Subset.trans (by decide) HM
    | with_reducible apply bulkWrite_does | with_reducible apply decerr_does | with_reducible apply engWrite_does
    | with_reducible apply replWrite_does | split | with_reducible apply Does.out | with_reducible apply Does.regs | with_reducible apply Does.mem
    | with_reducible apply Does.mix | with_reducible apply Does.twin

theorem refetchFailed_does (s : State) (it : Item) (a : Nat) (adr : Bool) (Hs : Does M0 a0 s) (HM : [.regs, .mem, .mix, .twin] ⊆ M0) :
    Does M0 a0 (State.refetchFailed s it a adr) := by
  unfold State.refetchFailed
  repeat' first
    | with_reducible assumption | with_reducible exact mem_of HM (by decide) | with_reducible exact List.Subset.trans (by decide) HM
    | with_reducible apply entSet_does | with_reducible apply setErr_does | with_reducible apply uncErr_does | split | with_reducible apply Does.regs
    | with_reducible apply Does.mem | with_reducible apply Does.mix | with_reducible apply Does.twin

theorem compileDone_does (s : State) (it : Item) (hits : MemHits) (Hs : Does M0 a0 s) (HM : [.regs, .mem, .pea, .sec, .mix, .twin] ⊆ M0) :
    Does M0 a0 (State.compileDone s it hits) := by
  unfold State.compileDone
  repeat' first
    | with_reducible assumption | with_reducible exact mem_of HM (by decide) | with_reducible exact List.Subset.trans (by decide) HM
    | with_reducible apply eccFixed_does | with_reducible apply refetchFailed_does | split
    | (lift_lets; intro x; refine bring (P := Does M0 a0 x) ?side fun hx => ?main; case' main => clear_value x; case' side => unfold x)
    | (lift_lets; intro x) | exact fun j => j | intro x hx | intro x | with_reducible apply Does.regs | with_reducible apply Does.mem
    | with_reducible apply Does.pea | with_reducible apply Does.sec | with_reducible apply Does.mix | with_reducible apply Does.twin

theorem storeBad_does (s : State) (it : Item) (Hs : Does M0 a0 s) (HM : [.regs, .mix] ⊆ M0) :
    Does M0 a0 (State.storeBad s it) := by
  unfold State.storeBad
  repeat' first
    | with_reducible assumption | with_reducible exact mem_of HM (by decide) | with_reducible exact List.Subset.trans (by decide) HM
    | with_reducible apply count_does | split | with_reducible apply Does.regs | with_reducible apply Does.mix

theorem rampOver_does (s : State) (k : RampKey) (Hs : Does M0 a0 s) (HM : [.mem, .mix] ⊆ M0) :
    Does M0 a0 (State.rampOver s k) := by
  unfold State.rampOver
  repeat' first
    | with_reducible assumption | with_reducible exact mem_of HM (by decide) | with_reducible exact List.Subset.trans (by decide) HM
    | with_reducible apply entSet_does | with_reducible apply putStatus_does | with_reducible apply xpSet_does | split | with_reducible apply Does.mem
    | with_reducible apply Does.mix

theorem fadeOutEnd_does (s : State) (n : Nat) (Hs : Does M0 a0 s) (HM : [.mem, .mix] ⊆ M0) :
    Does M0 a0 (State.fadeOutEnd s n) := by
  unfold State.fadeOutEnd
  repeat' first
    | with_reducible assumption | with_reducible exact mem_of HM (by decide) | with_reducible exact List.Subset.trans (by decide) HM
    | with_reducible apply entSet_does | with_reducible apply putStatus_does | split
    | (lift_lets; intro x; refine bring (P := Does M0 a0 x) ?side fun hx => ?main; case' main => clear_value x; case' side => unfold x)
    | (lift_lets; intro x) | exact fun j => j | intro x hx | intro x | with_reducible apply Does.mem | with_reducible apply Does.mix

theorem runUpd_does (s : State) (n : Nat) (f : Run → Run) (Hs : Does M0 a0 s) (HM : [.mix] ⊆ M0) :
    Does M0 a0 (State.runUpd s n f) := by
  unfold State.runUpd
  repeat' first
    | with_reducible assumption | with_reducible exact mem_of HM (by decide) | with_reducible exact List.Subset.trans (by decide) HM
    | with_reducible apply entSet_does | split | with_reducible apply Does.mix

theorem delayBurst_does (s : State) (n : Nat) (first : Nat) (hits : MemHits) (Hs : Does M0 a0 s) (HM : [.regs, .mem, .mix, .twin] ⊆ M0) :
    Does M0 a0 (State.delayBurst s n first hits) := by
  unfold State.delayBurst
  repeat' first
    | with_reducible assumption | with_reducible exact mem_of HM (by decide) | with_reducible exact List.Subset.trans (by decide) HM
    | with_reducible apply entSet_does | with_reducible apply found_does | with_reducible apply setErr_does | split | with_reducible apply Does.regs
    | with_reducible apply Does.mem | with_reducible apply Does.mix | with_reducible apply Does.twin

theorem hangOver_does (s : State) (n : Nat) (Hs : Does M0 a0 s) (HM : [.mix] ⊆ M0) :
    Does M0 a0 (State.hangOver s n) := by
  unfold State.hangOver
  repeat' first
    | with_reducible assumption | with_reducible exact mem_of HM (by decide) | with_reducible exact List.Subset.trans (by decide) HM
    | with_reducible apply xpSet_does | split | with_reducible apply Does.mix

theorem playerOver_does (s : State) (p : Nat) (Hs : Does M0 a0 s) (HM : [.mix] ⊆ M0) :
    Does M0 a0 (State.playerOver s p) := by
  unfold State.playerOver
  repeat' first
    | with_reducible assumption | with_reducible exact mem_of HM (by decide) | with_reducible exact List.Subset.trans (by decide) HM
    | with_reducible apply playerSet_does | split | with_reducible apply Does.mix

theorem clipBurst_does (s : State) (p : Nat) (csn : Nat) (burst : Nat) (hits : MemHits) (Hs : Does M0 a0 s) (HM : [.regs, .mix, .twin] ⊆ M0) :
    Does M0 a0 (State.clipBurst s p csn burst hits) := by
  unfold State.clipBurst
  repeat' first
    | with_reducible assumption | with_reducible exact mem_of HM (by decide) | with_reducible exact List.Subset.trans (by decide) HM
    | with_reducible apply count_does | with_reducible apply found_does | with_reducible apply playerSet_does | split
    | (lift_lets; intro x; refine bring (P := Does M0 a0 x) ?side fun hx => ?main; case' main => clear_value x; case' side => unfold x)
    | (lift_lets; intro x) | with_reducible apply Does.regs | with_reducible apply Does.mix | with_reducible apply Does.twin

theorem startFailed_does (s : State) (it : Item) (a : Nat) (adr : Bool) (Hs : Does M0 a0 s) (HM : [.regs, .mem, .mix, .twin] ⊆ M0) :
    Does M0 a0 (State.startFailed s it a adr) := by
  unfold State.startFailed
  repeat' first
    | with_reducible assumption | with_reducible exact mem_of HM (by decide) | with_reducible exact List.Subset.trans (by decide) HM
    | with_reducible apply entSet_does | with_reducible apply putStatus_does | with_reducible apply uncErr_does | with_reducible apply xpSet_does
    | split | with_reducible apply Does.regs | with_reducible apply Does.mem | with_reducible apply Does.mix | with_reducible apply Does.twin

theorem startItem_does (hits : MemHits) (blk : Nat) (s : State) (it : Item) (Hs : Does M0 a0 s) (HM : [.regs, .mem, .pea, .sec, .mix, .twin] ⊆ M0) :
    Does M0 a0 (State.startItem hits blk s it) := by
  unfold State.startItem
  repeat' first
    | with_reducible assumption | with_reducible exact mem_of HM (by decide) | with_reducible exact List.Subset.trans (by decide) HM
    | with_reducible apply eccFixed_does | with_reducible apply install_does | with_reducible apply startFailed_does | split
    | (lift_lets; intro x; refine bring (P := Does M0 a0 x) ?side fun hx => ?main; case' main => clear_value x; case' side => unfold x)
    | (lift_lets; intro x) | with_reducible apply Does.regs | with_reducible apply Does.mem | with_reducible apply Does.pea
    | with_reducible apply Does.sec | with_reducible apply Does.mix | with_reducible apply Does.twin

theorem startCompile_does (s : State) (hits : MemHits) (Hs : Does M0 a0 s) (HM : [.regs, .mem, .pea, .sec, .mix, .twin] ⊆ M0) :
    Does M0 a0 (State.startCompile s hits) := by
  unfold State.startCompile
  repeat' first
    | with_reducible assumption | with_reducible exact mem_of HM (by decide) | with_reducible exact List.Subset.trans (by decide) HM
    | with_reducible apply Does.foldl | with_reducible apply setOn_does | with_reducible apply startItem_does | split
    | (lift_lets; intro x; refine bring (P := Does M0 a0 x) ?side fun hx => ?main; case' main => clear_value x; case' side => unfold x)
    | (lift_lets; intro x) | exact fun j => j | intro x hx | intro x | with_reducible apply Does.regs | with_reducible apply Does.mem
    | with_reducible apply Does.mix | with_reducible apply Does.twin

theorem zoneUpd_does (s : State) (z : Nat) (f : Zone → Zone) (Hs : Does M0 a0 s) (HM : [.mix] ⊆ M0) :
    Does M0 a0 (State.zoneUpd s z f) := by
  unfold State.zoneUpd
  repeat' first
    | with_reducible assumption | with_reducible exact mem_of HM (by decide) | with_reducible exact List.Subset.trans (by decide) HM
    | with_reducible apply zoneSet_does | split | with_reducible apply Does.mix

theorem lanesZones_does (s : State) (Hs : Does M0 a0 s) (HM : [.out, .regs, .mem, .mix, .lanes, .hosts, .twin] ⊆ M0) :
    Does M0 a0 (State.lanesZones s) := by
  unfold State.lanesZones
  refine Hs.foldl fun t l Ht => ?_
  dsimp only
  split
  · exact Ht
  · exact post_does _ _ _ _ _ (Ht.lanes (HM (by decide)) _) (List.Subset.trans (by decide) HM)

theorem servoStep_does (s : State) (ms : List ZoneMeas) (Hs : Does M0 a0 s) (HM : [.out, .regs, .mem, .mix, .lanes, .hosts, .twin] ⊆ M0) :
    Does M0 a0 (State.servoStep s ms) := by
  unfold State.servoStep
  repeat' first
    | with_reducible assumption | with_reducible exact mem_of HM (by decide) | with_reducible exact List.Subset.trans (by decide) HM
    | with_reducible apply Does.foldl | with_reducible apply lanesZones_does | with_reducible apply putServo_does | split
    | (lift_lets; intro x; refine bring (P := Does M0 a0 x) ?side fun hx => ?main; case' main => clear_value x; case' side => unfold x)
    | (lift_lets; intro x) | exact fun j => j | intro x hx | intro x | with_reducible apply Does.out | with_reducible apply Does.regs
    | with_reducible apply Does.mem | with_reducible apply Does.mix | with_reducible apply Does.lanes | with_reducible apply Does.hosts
    | with_reducible apply Does.twin

theorem freeze_does (s : State) (z : Nat) (Hs : Does M0 a0 s) (HM : [.regs, .mix] ⊆ M0) :
    Does M0 a0 (State.freeze s z) := by
  unfold State.freeze
  repeat' first
    | with_reducible assumption | with_reducible exact mem_of HM (by decide) | with_reducible exact List.Subset.trans (by decide) HM
    | with_reducible apply count_does | with_reducible apply zoneUpd_does | split | with_reducible apply Does.regs | with_reducible apply Does.mem
    | with_reducible apply Does.mix

theorem acCrossed_does (s : State) (Hs : Does M0 a0 s) (HM : [.sub, .out, .regs, .dac, .byp] ⊆ M0) :
    Does M0 a0 (State.acCrossed s) := by
  unfold State.acCrossed
  extract_lets t
  have h : Does M0 a0 t := Hs.byp (HM (by decide)) _
  clear_value t
  refine .ite h ?_
  cases (upTo 12).find? fun k => decide (s.acWeight k = 0) with
  | none => exact h
  | some p =>
    exact (h.sub (HM (by decide)) _).foldl fun u n hu => .ite (dacGive_does _ _ _ (dacHold_does _ _ hu (List.Subset.trans (by decide) HM)) (List.Subset.trans (by decide) HM)) hu

theorem acLost_does (s : State) (Hs : Does M0 a0 s) (HM : [.regs, .byp] ⊆ M0) :
    Does M0 a0 (State.acLost s) := by
  unfold State.acLost
  repeat' first
    | with_reducible assumption | with_reducible exact mem_of HM (by decide) | with_reducible exact List.Subset.trans (by decide) HM
    | with_reducible apply scSet_does | split | with_reducible apply Does.regs | with_reducible apply Does.byp

theorem onDesc_does (s : State) (h : Nat) (q : Nat) (o : Nat) (f : State → Desc → State) (Hs : Does M0 a0 s) (Hf : ∀ t0 t1, Does M0 a0 t0 → Does M0 a0 (f t0 t1)) (HM : [] ⊆ M0) :
    Does M0 a0 (State.onDesc s h q o f) := by
  unfold State.onDesc
  repeat' first
    | with_reducible assumption | with_reducible exact mem_of HM (by decide) | with_reducible exact List.Subset.trans (by decide) HM
    | with_reducible apply Hf | split

theorem doorbellHit_does (s : State) (h : Nat) (hits : MemHits) (Hs : Does M0 a0 s) (HM : [.out, .regs, .mem, .pea, .sec, .mix, .hosts, .twin] ⊆ M0) :
    Does M0 a0 (State.doorbellHit s h hits) := by
  unfold State.doorbellHit
  repeat' first
    | with_reducible assumption | with_reducible exact mem_of HM (by decide) | with_reducible exact List.Subset.trans (by decide) HM
    | with_reducible apply doorbell_does | split | with_reducible apply Does.out | with_reducible apply Does.regs | with_reducible apply Does.hosts

theorem doorbellSweep_does (s : State) (h : Nat) (hm : HostMem) (Hs : Does M0 a0 s) (HM : [.out, .regs, .mem, .pea, .sec, .mix, .hosts, .twin] ⊆ M0) :
    Does M0 a0 (State.doorbellSweep s h hm) := by
  unfold State.doorbellSweep
  repeat' first
    | with_reducible assumption | with_reducible exact mem_of HM (by decide) | with_reducible exact List.Subset.trans (by decide) HM
    | with_reducible apply doorbell_does | split | with_reducible apply Does.out | with_reducible apply Does.regs | with_reducible apply Does.hosts

theorem watchdog_does (s : State) (h : Nat) (Hs : Does M0 a0 s) (HM : [.out, .regs, .mem, .mix, .hosts, .net, .twin] ⊆ M0) :
    Does M0 a0 (State.watchdog s h) := by
  unfold State.watchdog
  repeat' first
    | with_reducible assumption | with_reducible exact mem_of HM (by decide) | with_reducible exact List.Subset.trans (by decide) HM
    | with_reducible apply hostFault_does | with_reducible apply hstPut_does | split | with_reducible apply Does.out | with_reducible apply Does.regs
    | with_reducible apply Does.mem | with_reducible apply Does.mix | with_reducible apply Does.hosts | with_reducible apply Does.net
    | with_reducible apply Does.twin

theorem helloDesc_does (h : Nat) (s : State) (d : Desc) (Hs : Does M0 a0 s) (HM : [.out, .regs, .mem, .mix, .hosts, .twin] ⊆ M0) :
    Does M0 a0 (State.helloDesc h s d) := by
  unfold State.helloDesc
  repeat' first
    | with_reducible assumption | with_reducible exact mem_of HM (by decide) | with_reducible exact List.Subset.trans (by decide) HM
    | with_reducible apply finish_does | with_reducible apply hstPut_does | split | with_reducible apply Does.out | with_reducible apply Does.regs
    | with_reducible apply Does.mem | with_reducible apply Does.mix | with_reducible apply Does.hosts | with_reducible apply Does.twin

theorem fenceDesc_does (h : Nat) (s : State) (d : Desc) (Hs : Does M0 a0 s) (HM : [.out, .regs, .mem, .mix, .hosts, .twin] ⊆ M0) :
    Does M0 a0 (State.fenceDesc h s d) := by
  unfold State.fenceDesc
  repeat' first
    | with_reducible assumption | with_reducible exact mem_of HM (by decide) | with_reducible exact List.Subset.trans (by decide) HM
    | with_reducible apply beganDesc_does | with_reducible apply finish_does | split | with_reducible apply Does.out | with_reducible apply Does.regs
    | with_reducible apply Does.mem | with_reducible apply Does.mix | with_reducible apply Does.hosts | with_reducible apply Does.twin

theorem fenceEnd_does (s : State) (h : Nat) (q : Nat) (Hs : Does M0 a0 s) (HM : [.out, .regs, .mem, .mix, .hosts, .twin] ⊆ M0) :
    Does M0 a0 (State.fenceEnd s h q) := by
  unfold State.fenceEnd
  repeat' first
    | with_reducible assumption | with_reducible exact mem_of HM (by decide) | with_reducible exact List.Subset.trans (by decide) HM
    | with_reducible apply finish_does | split | with_reducible apply Does.out | with_reducible apply Does.regs | with_reducible apply Does.mem
    | with_reducible apply Does.mix | with_reducible apply Does.hosts | with_reducible apply Does.twin

theorem renewDesc_does (h : Nat) (s : State) (d : Desc) (Hs : Does M0 a0 s) (HM : [.out, .regs, .mem, .mix, .hosts, .twin] ⊆ M0) :
    Does M0 a0 (State.renewDesc h s d) := by
  unfold State.renewDesc
  repeat' first
    | with_reducible assumption | with_reducible exact mem_of HM (by decide) | with_reducible exact List.Subset.trans (by decide) HM
    | with_reducible apply finish_does | with_reducible apply renewAll_does | split | with_reducible apply Does.out | with_reducible apply Does.regs
    | with_reducible apply Does.mem | with_reducible apply Does.mix | with_reducible apply Does.hosts | with_reducible apply Does.twin

theorem recallDesc_does (h : Nat) (hm : HostMem) (s : State) (d : Desc) (Hs : Does M0 a0 s) (HM : [.out, .regs, .mem, .pea, .sec, .mix, .hosts, .twin] ⊆ M0) :
    Does M0 a0 (State.recallDesc h hm s d) := by
  unfold State.recallDesc
  repeat' first
    | with_reducible assumption | with_reducible exact mem_of HM (by decide) | with_reducible exact List.Subset.trans (by decide) HM
    | with_reducible apply finish_does | with_reducible apply request_does | with_reducible apply sceneFetch_does | split
    | with_reducible apply Does.out | with_reducible apply Does.regs | with_reducible apply Does.mem | with_reducible apply Does.mix
    | with_reducible apply Does.hosts | with_reducible apply Does.twin

theorem readTimeout_does (s : State) (h : Nat) (Hs : Does M0 a0 s) (HM : [.freeCtr, .out, .regs] ⊆ M0) :
    Does M0 a0 (State.readTimeout s h) := by
  unfold State.readTimeout
  repeat' first
    | with_reducible assumption | with_reducible exact mem_of HM (by decide) | with_reducible exact List.Subset.trans (by decide) HM
    | with_reducible apply decerr_does | with_reducible apply emit_does | with_reducible apply fresh_does | split | with_reducible apply Does.freeCtr
    | with_reducible apply Does.out | with_reducible apply Does.regs

theorem linkDown_does (s : State) (h : Nat) (Hs : Does M0 a0 s) (HM : [.out, .regs, .mem, .mix, .hosts, .net, .twin] ⊆ M0) :
    Does M0 a0 (State.linkDown s h) := by
  unfold State.linkDown
  repeat' first
    | with_reducible assumption | with_reducible exact mem_of HM (by decide) | with_reducible exact List.Subset.trans (by decide) HM
    | with_reducible apply dropHeads_does | with_reducible apply hostFault_does | with_reducible apply hstPut_does | split
    | with_reducible apply Does.out | with_reducible apply Does.regs | with_reducible apply Does.mem | with_reducible apply Does.mix
    | with_reducible apply Does.hosts | with_reducible apply Does.net | with_reducible apply Does.twin

theorem functionReset_does (s : State) (h : Nat) (Hs : Does M0 a0 s) (HM : [.out, .regs, .mem, .mix, .hosts, .net, .twin] ⊆ M0) :
    Does M0 a0 (State.functionReset s h) := by
  unfold State.functionReset
  repeat' first
    | with_reducible assumption | with_reducible exact mem_of HM (by decide) | with_reducible exact List.Subset.trans (by decide) HM
    | with_reducible apply hostFault_does | split | with_reducible apply Does.out | with_reducible apply Does.regs | with_reducible apply Does.mem
    | with_reducible apply Does.mix | with_reducible apply Does.hosts | with_reducible apply Does.net | with_reducible apply Does.twin

theorem linkUp_does (s : State) (h : Nat) (x2 : Bool) (gen : Nat) (Hs : Does M0 a0 s) (HM : [.hosts] ⊆ M0) :
    Does M0 a0 (State.linkUp s h x2 gen) := by
  unfold State.linkUp
  repeat' first
    | with_reducible assumption | with_reducible exact mem_of HM (by decide) | with_reducible exact List.Subset.trans (by decide) HM
    | with_reducible apply hstPut_does | split | with_reducible apply Does.hosts

theorem copyRead_does (s : State) (h : Nat) (hm : HostMem) (a : Nat) (n : Nat) (Hs : Does M0 a0 s) (HM : [.freeCtr, .regs, .pea, .sec, .twin, .csnLatch] ⊆ M0) :
    Does M0 a0 (State.copyRead s h hm a n).2.2 := by
  unfold State.copyRead
  repeat' first
    | with_reducible assumption | with_reducible exact mem_of HM (by decide) | with_reducible exact List.Subset.trans (by decide) HM
    | with_reducible apply busRead_does | with_reducible apply devRead_does | with_reducible apply freeBytes_does | with_reducible apply uncBytes_does
    | split | (lift_lets; intro x; refine bring (P := Does M0 a0 x) ?side fun hx => ?main; case' main => clear_value x; case' side => unfold x)
    | (lift_lets; intro x) | with_reducible apply Does.freeCtr | with_reducible apply Does.regs | with_reducible apply Does.sec
    | with_reducible apply Does.twin | with_reducible apply Does.csnLatch

theorem copyWrite_does (s : State) (h : Fin 4) (hm : HostMem) (a : Nat) (bs : List Byte) (Hs : Does M0 a0 s) (HM : [.freeCtr, .sub, .out, .regs, .ctl, .mem, .pea, .sec, .mix, .tdm, .dac, .byp, .tim, .lanes, .drays, .hosts, .net, .twin, .csnLatch] ⊆ M0) :
    Does M0 a0 (State.copyWrite s h hm a bs).2 := by
  unfold State.copyWrite
  repeat' first
    | with_reducible assumption | with_reducible exact mem_of HM (by decide) | with_reducible exact List.Subset.trans (by decide) HM
    | with_reducible apply Does.foldl | with_reducible apply busWrite_does | with_reducible apply decerr_does | with_reducible apply freeBytes_does
    | with_reducible apply uncErr_does | with_reducible apply writeHits_does | split
    | (lift_lets; intro x; refine bring (P := Does M0 a0 x) ?side fun hx => ?main; case' main => clear_value x; case' side => unfold x)
    | (lift_lets; intro x) | exact fun j => j | intro x hx | intro x | with_reducible apply Does.freeCtr | with_reducible apply Does.sub
    | with_reducible apply Does.out | with_reducible apply Does.regs | with_reducible apply Does.ctl | with_reducible apply Does.mem
    | with_reducible apply Does.pea | with_reducible apply Does.sec | with_reducible apply Does.mix | with_reducible apply Does.tdm
    | with_reducible apply Does.dac | with_reducible apply Does.byp | with_reducible apply Does.tim | with_reducible apply Does.lanes
    | with_reducible apply Does.drays | with_reducible apply Does.hosts | with_reducible apply Does.net | with_reducible apply Does.twin
    | with_reducible apply Does.csnLatch

theorem copyPieces_does (h : Fin 4) (hm : HostMem) (src : Nat) (dst : Nat) (x : Bool × State) (p : Nat × Nat) (Hx : Does M0 a0 x.2) (HM : [.freeCtr, .sub, .out, .regs, .ctl, .mem, .pea, .sec, .mix, .tdm, .dac, .byp, .tim, .lanes, .drays, .hosts, .net, .twin, .csnLatch] ⊆ M0) :
    Does M0 a0 (State.copyPieces h hm src dst x p).2 := by
  unfold State.copyPieces
  repeat' first
    | with_reducible assumption | with_reducible exact mem_of HM (by decide) | with_reducible exact List.Subset.trans (by decide) HM
    | with_reducible apply copyRead_does | with_reducible apply copyWrite_does | with_reducible apply Does.freeCtr | with_reducible apply Does.out
    | with_reducible apply Does.regs | with_reducible apply Does.ctl | with_reducible apply Does.mem | with_reducible apply Does.pea
    | with_reducible apply Does.sec | with_reducible apply Does.mix | with_reducible apply Does.tdm | with_reducible apply Does.dac
    | with_reducible apply Does.byp | with_reducible apply Does.tim | with_reducible apply Does.lanes | with_reducible apply Does.drays
    | with_reducible apply Does.hosts | with_reducible apply Does.net | with_reducible apply Does.twin | with_reducible apply Does.csnLatch

theorem copyDesc_does (ok : State → Desc → Bool) (h : Fin 4) (hm : HostMem) (s : State) (d : Desc) (Hs : Does M0 a0 s) (HM : [.freeCtr, .sub, .out, .regs, .ctl, .mem, .pea, .sec, .mix, .tdm, .dac, .byp, .tim, .lanes, .drays, .hosts, .net, .twin, .csnLatch] ⊆ M0) :
    Does M0 a0 (State.copyDesc ok h hm s d) := by
  have key (l : List (Nat × Nat)) (src dst : Nat) (x : Bool × State) (Hx : Does M0 a0 x.2) :
      Does M0 a0 (l.foldl (State.copyPieces h hm src dst) x).2 := by
    induction l generalizing x with
    | nil => exact Hx
    | cons p l ih => exact ih _ (copyPieces_does _ _ _ _ _ _ Hx HM)
  unfold State.copyDesc
  generalize pieces = g
  extract_lets n r
  split
  · exact finish_does _ _ _ _ _ Hs (List.Subset.trans (by decide) HM)
  · exact finish_does _ _ _ _ _ (key _ _ _ _ Hs) (List.Subset.trans (by decide) HM)

theorem sceneWrite_does (s : State) (h : Nat) (d : Desc) (img : List Byte) (Hs : Does M0 a0 s) (HM : [.out, .regs, .mem, .pea, .mix, .twin] ⊆ M0) :
    Does M0 a0 (State.sceneWrite s h d img).2 := by
  have hd := devWrite_does s h (d.f 0x20 8) img false Hs (List.Subset.trans (by decide) HM)
  unfold State.sceneWrite
  generalize s.devWrite h (d.f 0x20 8) img false = w at hd ⊢
  split
  · split
    · exact Hs
    · exact hd
  · split
    · next t ht => exact sceneStore_does _ _ _ Hs (List.Subset.trans (by decide) HM) _ ht
    · exact Hs

theorem sceneDesc_does (h : Nat) (hm : HostMem) (s : State) (d : Desc) (Hs : Does M0 a0 s) (HM : [.freeCtr, .out, .regs, .mem, .pea, .sec, .mix, .hosts, .twin] ⊆ M0) :
    Does M0 a0 (State.sceneDesc h hm s d) := by
  unfold State.sceneDesc
  repeat' first
    | with_reducible assumption | with_reducible exact mem_of HM (by decide) | with_reducible exact List.Subset.trans (by decide) HM
    | with_reducible apply devRead_does | with_reducible apply finish_does | with_reducible apply now_does | with_reducible apply sceneWrite_does
    | split | with_reducible apply Does.freeCtr | with_reducible apply Does.out | with_reducible apply Does.regs | with_reducible apply Does.mem
    | with_reducible apply Does.pea | with_reducible apply Does.mix | with_reducible apply Does.hosts | with_reducible apply Does.twin

theorem subPut_does (s : State) (h : Nat) (sub : Nat) (x : Option Sub) (Hs : Does M0 a0 s) (HM : [.hosts] ⊆ M0) :
    Does M0 a0 (State.subPut s h sub x) := by
  unfold State.subPut
  repeat' first
    | with_reducible assumption | with_reducible exact mem_of HM (by decide) | with_reducible exact List.Subset.trans (by decide) HM
    | with_reducible apply hstPut_does | with_reducible apply Does.hosts

theorem meterDesc_does (h : Nat) (hm : HostMem) (s : State) (d : Desc) (Hs : Does M0 a0 s) (HM : [.out, .regs, .mem, .pea, .sec, .mix, .hosts, .twin] ⊆ M0) :
    Does M0 a0 (State.meterDesc h hm s d) := by
  unfold State.meterDesc
  repeat' first
    | with_reducible assumption | with_reducible exact mem_of HM (by decide) | with_reducible exact List.Subset.trans (by decide) HM
    | with_reducible apply devRead_does | with_reducible apply finish_does | with_reducible apply setDesc_does | with_reducible apply subPut_does
    | split | with_reducible apply Does.out | with_reducible apply Does.regs | with_reducible apply Does.mem | with_reducible apply Does.pea
    | with_reducible apply Does.sec | with_reducible apply Does.mix | with_reducible apply Does.hosts | with_reducible apply Does.twin

theorem deliver_does (s : State) (h : Nat) (sub : Nat) (x : Sub) (b : Nat) (Hs : Does M0 a0 s) (HM : [.out, .regs, .mem, .mix, .hosts, .twin] ⊆ M0) :
    Does M0 a0 (State.deliver s h sub x b) := by
  unfold State.deliver
  repeat' first
    | with_reducible assumption | with_reducible exact mem_of HM (by decide) | with_reducible exact List.Subset.trans (by decide) HM
    | with_reducible apply Does.foldl | with_reducible apply count_does | with_reducible apply cqRecord_does | with_reducible apply subPut_does
    | split | (lift_lets; intro x; refine bring (P := Does M0 a0 x) ?side fun hx => ?main; case' main => clear_value x; case' side => unfold x)
    | (lift_lets; intro x) | exact fun j => j | intro x hx | intro x | with_reducible apply Does.out | with_reducible apply Does.regs
    | with_reducible apply Does.mem | with_reducible apply Does.mix | with_reducible apply Does.hosts | with_reducible apply Does.twin

theorem meterPeriod_does (s : State) (h : Nat) (sub : Nat) (Hs : Does M0 a0 s) (HM : [.out, .regs, .mem, .mix, .hosts, .twin] ⊆ M0) :
    Does M0 a0 (State.meterPeriod s h sub) := by
  unfold State.meterPeriod
  repeat' first
    | with_reducible assumption | with_reducible exact mem_of HM (by decide) | with_reducible exact List.Subset.trans (by decide) HM
    | with_reducible apply deliver_does | split | with_reducible apply Does.out | with_reducible apply Does.regs | with_reducible apply Does.mem
    | with_reducible apply Does.mix | with_reducible apply Does.hosts | with_reducible apply Does.twin

theorem loadDesc_does (h : Nat) (hits : MemHits) (s : State) (d : Desc) (Hs : Does M0 a0 s) (HM : [.out, .regs, .mem, .pea, .sec, .mix, .lanes, .hosts, .twin] ⊆ M0) :
    Does M0 a0 (State.loadDesc h hits s d) := by
  unfold State.loadDesc
  repeat' first
    | with_reducible assumption | with_reducible exact mem_of HM (by decide) | with_reducible exact List.Subset.trans (by decide) HM
    | with_reducible apply beganDesc_does | with_reducible apply devRead_does | with_reducible apply finish_does | with_reducible apply laneSet_does
    | with_reducible apply logFull_does | split | with_reducible apply Does.out | with_reducible apply Does.regs | with_reducible apply Does.mem
    | with_reducible apply Does.pea | with_reducible apply Does.sec | with_reducible apply Does.mix | with_reducible apply Does.lanes
    | with_reducible apply Does.hosts | with_reducible apply Does.twin

theorem onCtrl_does (s : State) (h : Nat) (q : Nat) (oper : Nat) (f : State → Desc → State) (Hs : Does M0 a0 s) (Hf : ∀ t0 t1, Does M0 a0 t0 → Does M0 a0 (f t0 t1)) (HM : [] ⊆ M0) :
    Does M0 a0 (State.onCtrl s h q oper f) := by
  unfold State.onCtrl
  repeat' first
    | with_reducible assumption | with_reducible exact mem_of HM (by decide) | with_reducible exact List.Subset.trans (by decide) HM
    | with_reducible apply onDesc_does | with_reducible apply Hf | split
    | (lift_lets; intro x; refine bring (P := Does M0 a0 x) ?side fun hx => ?main; case' main => clear_value x; case' side => unfold x)
    | (lift_lets; intro x) | exact fun j => j | intro x hx | intro x

theorem startDesc_does (h : Nat) (s : State) (d : Desc) (Hs : Does M0 a0 s) (HM : [.out, .regs, .mem, .mix, .lanes, .hosts, .twin] ⊆ M0) :
    Does M0 a0 (State.startDesc h s d) := by
  unfold State.startDesc
  repeat' first
    | with_reducible assumption | with_reducible exact mem_of HM (by decide) | with_reducible exact List.Subset.trans (by decide) HM
    | with_reducible apply beganDesc_does | with_reducible apply finish_does | with_reducible apply laneStart_does | split
    | with_reducible apply Does.out | with_reducible apply Does.regs | with_reducible apply Does.mem | with_reducible apply Does.mix
    | with_reducible apply Does.lanes | with_reducible apply Does.hosts | with_reducible apply Does.twin

theorem stopDesc_does (h : Nat) (s : State) (d : Desc) (Hs : Does M0 a0 s) (HM : [.out, .regs, .mem, .mix, .lanes, .hosts, .twin] ⊆ M0) :
    Does M0 a0 (State.stopDesc h s d) := by
  unfold State.stopDesc
  repeat' first
    | with_reducible assumption | with_reducible exact mem_of HM (by decide) | with_reducible exact List.Subset.trans (by decide) HM
    | with_reducible apply beganDesc_does | with_reducible apply finish_does | with_reducible apply laneSet_does | split
    | with_reducible apply Does.out | with_reducible apply Does.regs | with_reducible apply Does.mem | with_reducible apply Does.mix
    | with_reducible apply Does.lanes | with_reducible apply Does.hosts | with_reducible apply Does.twin

theorem msgDesc_does (h : Nat) (hm : HostMem) (s : State) (d : Desc) (Hs : Does M0 a0 s) (HM : [.out, .regs, .mem, .pea, .sec, .mix, .lanes, .hosts, .twin] ⊆ M0) :
    Does M0 a0 (State.msgDesc h hm s d) := by
  unfold State.msgDesc
  repeat' first
    | with_reducible assumption | with_reducible exact mem_of HM (by decide) | with_reducible exact List.Subset.trans (by decide) HM
    | with_reducible apply devRead_does | with_reducible apply finish_does | with_reducible apply laneSet_does | split | with_reducible apply Does.out
    | with_reducible apply Does.regs | with_reducible apply Does.mem | with_reducible apply Does.mix | with_reducible apply Does.lanes
    | with_reducible apply Does.hosts | with_reducible apply Does.twin

theorem zonesDesc_does (h : Nat) (s : State) (d : Desc) (Hs : Does M0 a0 s) (HM : [.out, .regs, .mem, .mix, .lanes, .hosts, .twin] ⊆ M0) :
    Does M0 a0 (State.zonesDesc h s d) := by
  unfold State.zonesDesc
  repeat' first
    | with_reducible assumption | with_reducible exact mem_of HM (by decide) | with_reducible exact List.Subset.trans (by decide) HM
    | with_reducible apply beganDesc_does | with_reducible apply finish_does | with_reducible apply laneSet_does | split
    | with_reducible apply Does.out | with_reducible apply Does.regs | with_reducible apply Does.mem | with_reducible apply Does.mix
    | with_reducible apply Does.lanes | with_reducible apply Does.hosts | with_reducible apply Does.twin

theorem onStream_does (s : State) (h : Nat) (q : Nat) (o : Nat) (f : State → Desc → State) (Hs : Does M0 a0 s) (Hf : ∀ t0 t1, Does M0 a0 t0 → Does M0 a0 (f t0 t1)) (HM : [] ⊆ M0) :
    Does M0 a0 (State.onStream s h q o f) := by
  unfold State.onStream
  repeat' first
    | with_reducible assumption | with_reducible exact mem_of HM (by decide) | with_reducible exact List.Subset.trans (by decide) HM
    | with_reducible apply onDesc_does | with_reducible apply Hf | split

theorem openDesc_does (h : Nat) (hm : HostMem) (s : State) (d : Desc) (Hs : Does M0 a0 s) (HM : [.out, .regs, .mem, .pea, .sec, .mix, .hosts, .net, .twin] ⊆ M0) :
    Does M0 a0 (State.openDesc h hm s d) := by
  unfold State.openDesc
  repeat' first
    | with_reducible assumption | with_reducible exact mem_of HM (by decide) | with_reducible exact List.Subset.trans (by decide) HM
    | with_reducible apply beganDesc_does | with_reducible apply devRead_does | with_reducible apply finish_does
    | with_reducible apply streamOpen_does | split | with_reducible apply Does.out | with_reducible apply Does.regs | with_reducible apply Does.mem
    | with_reducible apply Does.mix | with_reducible apply Does.hosts | with_reducible apply Does.net | with_reducible apply Does.twin

theorem closeDesc_does (h : Nat) (s : State) (d : Desc) (Hs : Does M0 a0 s) (HM : [.out, .regs, .mem, .mix, .hosts, .net, .twin] ⊆ M0) :
    Does M0 a0 (State.closeDesc h s d) := by
  unfold State.closeDesc
  repeat' first
    | with_reducible assumption | with_reducible exact mem_of HM (by decide) | with_reducible exact List.Subset.trans (by decide) HM
    | with_reducible apply beganDesc_does | with_reducible apply finish_does | with_reducible apply streamClose_does | split
    | with_reducible apply Does.out | with_reducible apply Does.regs | with_reducible apply Does.mem | with_reducible apply Does.mix
    | with_reducible apply Does.hosts | with_reducible apply Does.net | with_reducible apply Does.twin

theorem peerDesc_does (h : Nat) (hm : HostMem) (s : State) (d : Desc) (Hs : Does M0 a0 s) (HM : [.out, .regs, .mem, .pea, .sec, .mix, .hosts, .net, .twin] ⊆ M0) :
    Does M0 a0 (State.peerDesc h hm s d) := by
  unfold State.peerDesc
  repeat' first
    | with_reducible assumption | with_reducible exact mem_of HM (by decide) | with_reducible exact List.Subset.trans (by decide) HM
    | with_reducible apply beganDesc_does | with_reducible apply bulkWrite_does | with_reducible apply devRead_does | with_reducible apply finish_does
    | with_reducible apply netSet_does | split | with_reducible apply Does.out | with_reducible apply Does.regs | with_reducible apply Does.mem
    | with_reducible apply Does.mix | with_reducible apply Does.hosts | with_reducible apply Does.net | with_reducible apply Does.twin

theorem txDesc_does (h : Nat) (hm : HostMem) (s : State) (d : Desc) (Hs : Does M0 a0 s) (HM : [.out, .regs, .mem, .pea, .sec, .mix, .hosts, .net, .twin] ⊆ M0) :
    Does M0 a0 (State.txDesc h hm s d) := by
  unfold State.txDesc
  repeat' first
    | with_reducible assumption | with_reducible exact mem_of HM (by decide) | with_reducible exact List.Subset.trans (by decide) HM
    | with_reducible apply beganDesc_does | with_reducible apply devRead_does | with_reducible apply finish_does | with_reducible apply sendOn_does
    | split | with_reducible apply Does.out | with_reducible apply Does.regs | with_reducible apply Does.mem | with_reducible apply Does.mix
    | with_reducible apply Does.hosts | with_reducible apply Does.net | with_reducible apply Does.twin

theorem rxDesc_does (h : Nat) (s : State) (d : Desc) (Hs : Does M0 a0 s) (HM : [.out, .regs, .mem, .mix, .hosts, .twin] ⊆ M0) :
    Does M0 a0 (State.rxDesc h s d) := by
  unfold State.rxDesc
  repeat' first
    | with_reducible assumption | with_reducible exact mem_of HM (by decide) | with_reducible exact List.Subset.trans (by decide) HM
    | with_reducible apply beganDesc_does | with_reducible apply finish_does | with_reducible apply hstPut_does | split
    | with_reducible apply Does.out | with_reducible apply Does.regs | with_reducible apply Does.mem | with_reducible apply Does.mix
    | with_reducible apply Does.hosts | with_reducible apply Does.twin

theorem keyDesc_does (h : Nat) (s : State) (d : Desc) (Hs : Does M0 a0 s) (HM : [.out, .regs, .mem, .pea, .sec, .mix, .hosts, .twin] ⊆ M0) :
    Does M0 a0 (State.keyDesc h s d) := by
  unfold State.keyDesc
  repeat' first
    | with_reducible assumption | with_reducible exact mem_of HM (by decide) | with_reducible exact List.Subset.trans (by decide) HM
    | with_reducible apply audit_does | with_reducible apply finish_does | with_reducible apply keySet_does | with_reducible apply logFull_does
    | with_reducible apply secSet_does | split
    | (lift_lets; intro x; refine bring (P := Does M0 a0 x) ?side fun hx => ?main; case' main => clear_value x; case' side => unfold x)
    | (lift_lets; intro x) | exact fun j => j | intro x hx | intro x | with_reducible apply Does.out | with_reducible apply Does.regs
    | with_reducible apply Does.mem | with_reducible apply Does.pea | with_reducible apply Does.sec | with_reducible apply Does.mix
    | with_reducible apply Does.hosts | with_reducible apply Does.twin

theorem logDesc_does (h : Nat) (s : State) (d : Desc) (Hs : Does M0 a0 s) (HM : [.out, .regs, .mem, .mix, .hosts, .twin] ⊆ M0) :
    Does M0 a0 (State.logDesc h s d) := by
  unfold State.logDesc
  repeat' first
    | with_reducible assumption | with_reducible exact mem_of HM (by decide) | with_reducible exact List.Subset.trans (by decide) HM
    | with_reducible apply devWrite_does | with_reducible apply finish_does | split | with_reducible apply Does.out | with_reducible apply Does.regs
    | with_reducible apply Does.mem | with_reducible apply Does.mix | with_reducible apply Does.hosts | with_reducible apply Does.twin

theorem gptpTime_does (s : State) (dom : Nat) (ns : Nat) (Hs : Does M0 a0 s) (HM : [.freeCtr] ⊆ M0) :
    Does M0 a0 (State.gptpTime s dom ns).2 := by
  unfold State.gptpTime
  repeat' first
    | with_reducible assumption | with_reducible exact mem_of HM (by decide) | with_reducible exact List.Subset.trans (by decide) HM
    | with_reducible apply freeBytes_does | split
    | (lift_lets; intro x; refine bring (P := Does M0 a0 x) ?side fun hx => ?main; case' main => clear_value x; case' side => unfold x)
    | (lift_lets; intro x) | with_reducible apply Does.freeCtr

theorem timeRecord_does (s : State) (ver : Nat) (Hs : Does M0 a0 s) (HM : [.freeCtr] ⊆ M0) :
    Does M0 a0 (State.timeRecord s ver).2 := by
  unfold State.timeRecord
  repeat' first
    | with_reducible assumption | with_reducible exact mem_of HM (by decide) | with_reducible exact List.Subset.trans (by decide) HM
    | with_reducible apply gptpTime_does | with_reducible apply now_does | with_reducible apply Does.freeCtr

theorem timeDesc_does (h : Nat) (s : State) (d : Desc) (Hs : Does M0 a0 s) (HM : [.freeCtr, .out, .regs, .mem, .mix, .hosts, .twin] ⊆ M0) :
    Does M0 a0 (State.timeDesc h s d) := by
  unfold State.timeDesc
  repeat' first
    | with_reducible assumption | with_reducible exact mem_of HM (by decide) | with_reducible exact List.Subset.trans (by decide) HM
    | with_reducible apply devWrite_does | with_reducible apply finish_does | with_reducible apply timeRecord_does | with_reducible apply Does.freeCtr
    | with_reducible apply Does.out | with_reducible apply Does.regs | with_reducible apply Does.mem | with_reducible apply Does.mix
    | with_reducible apply Does.hosts | with_reducible apply Does.twin

theorem laneCorrected_does (s : State) (l : Nat) (cor : Nat) (Hs : Does M0 a0 s) (HM : [.regs] ⊆ M0) :
    Does M0 a0 (State.laneCorrected s l cor) := by
  unfold State.laneCorrected
  repeat' first
    | with_reducible assumption | with_reducible exact mem_of HM (by decide) | with_reducible exact List.Subset.trans (by decide) HM
    | with_reducible apply countN_does | with_reducible apply Does.regs

theorem stVisit_does (s : State) (Hs : Does M0 a0 s) (HM : [.ctl, .drays] ⊆ M0) :
    Does M0 a0 (State.stVisit s) := by
  unfold State.stVisit
  repeat' first
    | with_reducible assumption | with_reducible exact mem_of HM (by decide) | with_reducible exact List.Subset.trans (by decide) HM
    | with_reducible apply ctlSet_does | with_reducible apply draySet_does | with_reducible apply visit_does | split | with_reducible apply Does.ctl
    | with_reducible apply Does.drays

theorem migrateSkip_does (s : State) (d : Nat) (Hs : Does M0 a0 s) (HM : [.regs, .drays] ⊆ M0) :
    Does M0 a0 (State.migrateSkip s d) := by
  unfold State.migrateSkip
  repeat' first
    | with_reducible assumption | with_reducible exact mem_of HM (by decide) | with_reducible exact List.Subset.trans (by decide) HM
    | with_reducible apply count_does | with_reducible apply draySet_does | split | with_reducible apply Does.regs | with_reducible apply Does.drays

theorem dryTested_does (s : State) (k : Nat) (p : Nat) (pass : Bool) (Hs : Does M0 a0 s) (HM : [.regs] ⊆ M0) :
    Does M0 a0 (State.dryTested s k p pass) := by
  unfold State.dryTested
  repeat' first
    | with_reducible assumption | with_reducible exact mem_of HM (by decide) | with_reducible exact List.Subset.trans (by decide) HM
    | with_reducible apply capSet_does | with_reducible apply scSet_does | split | with_reducible apply Does.regs

theorem stDone_does (s : State) (pass : Bool) (Hs : Does M0 a0 s) (HM : [.regs, .ctl, .pea, .sec, .twin] ⊆ M0) :
    Does M0 a0 (State.stDone s pass) := by
  unfold State.stDone
  repeat' first
    | with_reducible assumption | with_reducible exact mem_of HM (by decide) | with_reducible exact List.Subset.trans (by decide) HM
    | with_reducible apply ctlSet_does | with_reducible apply dryTested_does | with_reducible apply health_does | with_reducible apply retireUnit_does
    | split | with_reducible apply Does.regs | with_reducible apply Does.ctl | with_reducible apply Does.pea | with_reducible apply Does.sec
    | with_reducible apply Does.twin

theorem unitFault_does (s : State) (k : Nat) (p : Nat) (Hs : Does M0 a0 s) (HM : [.ctl, .pea, .sec] ⊆ M0) :
    Does M0 a0 (State.unitFault s k p) := by
  unfold State.unitFault
  repeat' first
    | with_reducible assumption | with_reducible exact mem_of HM (by decide) | with_reducible exact List.Subset.trans (by decide) HM
    | with_reducible apply ctlSet_does | with_reducible apply endTest_does | with_reducible apply retireUnit_does | split
    | with_reducible apply Does.ctl | with_reducible apply Does.pea | with_reducible apply Does.sec

theorem scrubHit_does (s : State) (x : ScrubHit) (Hs : Does M0 a0 s) (HM : [.regs, .twin] ⊆ M0) :
    Does M0 a0 (State.scrubHit s x) := by
  unfold State.scrubHit
  repeat' first
    | with_reducible assumption | with_reducible exact mem_of HM (by decide) | with_reducible exact List.Subset.trans (by decide) HM
    | with_reducible apply count_does | with_reducible apply uncErr_does | split | with_reducible apply Does.regs | with_reducible apply Does.twin

theorem patrol_does (s : State) (found : List ScrubHit) (Hs : Does M0 a0 s) (HM : [.regs, .ctl, .mem, .twin] ⊆ M0) :
    Does M0 a0 (State.patrol s found) := by
  unfold State.patrol
  repeat' first
    | with_reducible assumption | with_reducible exact mem_of HM (by decide) | with_reducible exact List.Subset.trans (by decide) HM
    | with_reducible apply Does.foldl | with_reducible apply scrubHit_does | with_reducible apply trained_does | split
    | (lift_lets; intro x; refine bring (P := Does M0 a0 x) ?side fun hx => ?main; case' main => clear_value x; case' side => unfold x)
    | (lift_lets; intro x) | exact fun j => j | intro x hx | intro x | with_reducible apply Does.regs | with_reducible apply Does.ctl
    | with_reducible apply Does.mem | with_reducible apply Does.twin

theorem inStr_does (s : State) (f : State → State) (Hs : Does M0 a0 s) (Hf : ∀ t0, Does M0 a0 t0 → Does M0 a0 (f t0)) (HM : [] ⊆ M0) :
    Does M0 a0 (State.inStr s f) := by
  unfold State.inStr
  repeat' first
    | with_reducible assumption | with_reducible exact mem_of HM (by decide) | with_reducible exact List.Subset.trans (by decide) HM
    | with_reducible apply Hf | split

theorem rootLoss_does (s : State) (Hs : Does M0 a0 s) (HM : [.freeCtr, .out, .regs, .ctl, .mem, .pea, .sec, .mix, .tdm, .dac, .byp, .tim, .lanes, .drays, .hosts, .net, .twin, .csnLatch] ⊆ M0) :
    Does M0 a0 (State.rootLoss s) := by
  unfold State.rootLoss
  repeat' first
    | with_reducible assumption | with_reducible exact mem_of HM (by decide) | with_reducible exact List.Subset.trans (by decide) HM
    | with_reducible apply cause_does | with_reducible apply fullReset_does | split | with_reducible apply Does.freeCtr
    | with_reducible apply Does.out | with_reducible apply Does.regs | with_reducible apply Does.ctl | with_reducible apply Does.mem
    | with_reducible apply Does.pea | with_reducible apply Does.sec | with_reducible apply Does.mix | with_reducible apply Does.tdm
    | with_reducible apply Does.dac | with_reducible apply Does.byp | with_reducible apply Does.tim | with_reducible apply Does.lanes
    | with_reducible apply Does.drays | with_reducible apply Does.hosts | with_reducible apply Does.net | with_reducible apply Does.twin
    | with_reducible apply Does.csnLatch

theorem qualify_does (s : State) (r : Nat) (Hs : Does M0 a0 s) (HM : [.regs, .tim] ⊆ M0) :
    Does M0 a0 (State.qualify s r) := by
  unfold State.qualify
  repeat' first
    | with_reducible assumption | with_reducible exact mem_of HM (by decide) | with_reducible exact List.Subset.trans (by decide) HM
    | with_reducible apply refSet_does | with_reducible apply scSet_does | split
    | (lift_lets; intro x; refine bring (P := Does M0 a0 x) ?side fun hx => ?main; case' main => clear_value x; case' side => unfold x)
    | (lift_lets; intro x) | with_reducible apply Does.regs | with_reducible apply Does.tim

theorem evaluate_does (s : State) (Hs : Does M0 a0 s) (HM : [.freeCtr, .regs, .tim, .net, .twin] ⊆ M0) :
    Does M0 a0 (State.evaluate s) := by
  unfold State.evaluate
  repeat' first
    | with_reducible assumption | with_reducible exact mem_of HM (by decide) | with_reducible exact List.Subset.trans (by decide) HM
    | with_reducible apply Does.foldl | with_reducible apply bandwidth_does | with_reducible apply failZero_does | with_reducible apply health_does
    | with_reducible apply select_does | with_reducible apply sense_does | split
    | (lift_lets; intro x; refine bring (P := Does M0 a0 x) ?side fun hx => ?main; case' main => clear_value x; case' side => unfold x)
    | (lift_lets; intro x) | exact fun j => j | intro x hx | intro x | with_reducible apply Does.freeCtr | with_reducible apply Does.regs
    | with_reducible apply Does.tim | with_reducible apply Does.twin

theorem timeLocked_does (s : State) (Hs : Does M0 a0 s) (HM : [.tim] ⊆ M0) :
    Does M0 a0 (State.timeLocked s) := by
  unfold State.timeLocked
  repeat' first
    | with_reducible assumption | with_reducible exact mem_of HM (by decide) | with_reducible exact List.Subset.trans (by decide) HM
    | with_reducible apply timSet_does | split
    | (lift_lets; intro x; refine bring (P := Does M0 a0 x) ?side fun hx => ?main; case' main => clear_value x; case' side => unfold x)
    | (lift_lets; intro x) | exact fun j => j | intro x hx | intro x | with_reducible apply Does.tim

theorem buildoutRemoved_does (s : State) (Hs : Does M0 a0 s) (HM : [.tim] ⊆ M0) :
    Does M0 a0 (State.buildoutRemoved s) := by
  unfold State.buildoutRemoved
  repeat' first
    | with_reducible assumption | with_reducible exact mem_of HM (by decide) | with_reducible exact List.Subset.trans (by decide) HM
    | with_reducible apply timSet_does | split
    | (lift_lets; intro x; refine bring (P := Does M0 a0 x) ?side fun hx => ?main; case' main => clear_value x; case' side => unfold x)
    | (lift_lets; intro x) | exact fun j => j | intro x hx | intro x | with_reducible apply Does.tim

theorem smoValid_does (s : State) (Hs : Does M0 a0 s) (HM : [.tim] ⊆ M0) :
    Does M0 a0 (State.smoValid s) := by
  unfold State.smoValid
  repeat' first
    | with_reducible assumption | with_reducible exact mem_of HM (by decide) | with_reducible exact List.Subset.trans (by decide) HM
    | with_reducible apply timSet_does | split
    | (lift_lets; intro x; refine bring (P := Does M0 a0 x) ?side fun hx => ?main; case' main => clear_value x; case' side => unfold x)
    | (lift_lets; intro x) | exact fun j => j | intro x hx | intro x | with_reducible apply Does.tim

theorem onPorts_does (s : State) (f : State → State) (Hs : Does M0 a0 s) (Hf : ∀ t0, Does M0 a0 t0 → Does M0 a0 (f t0)) (HM : [] ⊆ M0) :
    Does M0 a0 (State.onPorts s f) := by
  unfold State.onPorts
  repeat' first
    | with_reducible assumption | with_reducible exact mem_of HM (by decide) | with_reducible exact List.Subset.trans (by decide) HM
    | with_reducible apply Hf | split

theorem swapApply_does (s : State) (n : Fin 16) (Hs : Does M0 a0 s) (HM : [.freeCtr, .sub, .out, .tdm, .byp] ⊆ M0) :
    Does M0 a0 (State.swapApply s n) := by
  unfold State.swapApply
  repeat' first
    | with_reducible assumption | with_reducible exact mem_of HM (by decide) | with_reducible exact List.Subset.trans (by decide) HM
    | with_reducible apply Does.foldl | with_reducible apply emit_does | with_reducible apply later_does | with_reducible apply swapTables_does
    | with_reducible apply tablesFrom_does | split
    | (lift_lets; intro x; refine bring (P := Does M0 a0 x) ?side fun hx => ?main; case' main => clear_value x; case' side => unfold x)
    | (lift_lets; intro x) | exact fun j => j | intro x hx | intro x | with_reducible apply Does.freeCtr | with_reducible apply Does.sub
    | with_reducible apply Does.out | with_reducible apply Does.tdm | with_reducible apply Does.byp

theorem clockLost_does (s : State) (n : Fin 16) (Hs : Does M0 a0 s) (HM : [.freeCtr, .sub, .regs, .tdm, .byp, .tim] ⊆ M0) :
    Does M0 a0 (State.clockLost s n) := by
  unfold State.clockLost
  repeat' first
    | with_reducible assumption | with_reducible exact mem_of HM (by decide) | with_reducible exact List.Subset.trans (by decide) HM
    | with_reducible apply loseGone_does | with_reducible apply portSet_does | with_reducible apply scSet_does | with_reducible apply slaveLeave_does
    | with_reducible apply swapTables_does | split | with_reducible apply Does.freeCtr | with_reducible apply Does.sub
    | with_reducible apply Does.regs | with_reducible apply Does.tdm | with_reducible apply Does.byp | with_reducible apply Does.tim

theorem rateWindow_does (s : State) (n : Fin 16) (ofs : Int) (Hs : Does M0 a0 s) (HM : [.freeCtr, .sub, .regs, .tdm, .byp] ⊆ M0) :
    Does M0 a0 (State.rateWindow s n ofs) := by
  unfold State.rateWindow
  repeat' first
    | with_reducible assumption | with_reducible exact mem_of HM (by decide) | with_reducible exact List.Subset.trans (by decide) HM
    | with_reducible apply portSet_does | with_reducible apply scSet_does | with_reducible apply slaveLeave_does
    | with_reducible apply swapTables_does | split | with_reducible apply Does.freeCtr | with_reducible apply Does.sub
    | with_reducible apply Does.regs | with_reducible apply Does.tdm | with_reducible apply Does.byp

theorem trigger_does (s : State) (c : Nat) (Hs : Does M0 a0 s) (HM : [.regs, .twin] ⊆ M0) :
    Does M0 a0 (State.trigger s c) := by
  unfold State.trigger
  repeat' first
    | with_reducible assumption | with_reducible exact mem_of HM (by decide) | with_reducible exact List.Subset.trans (by decide) HM
    | with_reducible apply giveCause_does | split | with_reducible apply Does.regs | with_reducible apply Does.twin

theorem revert_does (s : State) (Hs : Does M0 a0 s) (HM : [.freeCtr, .out, .twin] ⊆ M0) :
    Does M0 a0 (State.revert s) := by
  unfold State.revert
  repeat' first
    | with_reducible assumption | with_reducible exact mem_of HM (by decide) | with_reducible exact List.Subset.trans (by decide) HM
    | with_reducible apply handAsk_does | split | with_reducible apply Does.freeCtr | with_reducible apply Does.out | with_reducible apply Does.twin

theorem ckPeriod_does (s : State) (Hs : Does M0 a0 s) (HM : [.out, .twin] ⊆ M0) :
    Does M0 a0 (State.ckPeriod s) := by
  unfold State.ckPeriod
  repeat' first
    | with_reducible assumption | with_reducible exact mem_of HM (by decide) | with_reducible exact List.Subset.trans (by decide) HM
    | with_reducible apply checkpoint_does | split | with_reducible apply Does.out | with_reducible apply Does.twin

theorem hitCtlBit_does (s : State) (b : Nat) (w : Word) (Hs : Does M0 a0 s) (HM : [.freeCtr, .out, .regs, .twin] ⊆ M0) :
    Does M0 a0 (State.hitCtlBit s b w) := by
  unfold State.hitCtlBit
  repeat' first
    | with_reducible assumption | with_reducible exact mem_of HM (by decide) | with_reducible exact List.Subset.trans (by decide) HM
    | with_reducible apply hitCtl_does | split | with_reducible apply Does.freeCtr | with_reducible apply Does.out | with_reducible apply Does.regs
    | with_reducible apply Does.twin

theorem readOut_does (s : State) (off : Nat) (Hs : Does M0 a0 s) (HM : [.freeCtr, .out, .regs, .sec, .twin, .csnLatch] ⊆ M0) :
    Does M0 a0 (State.readOut s off) := by
  unfold State.readOut
  repeat' first
    | with_reducible assumption | with_reducible exact mem_of HM (by decide) | with_reducible exact List.Subset.trans (by decide) HM
    | with_reducible apply emit_does | with_reducible apply regRead_does | with_reducible apply Does.freeCtr | with_reducible apply Does.out
    | with_reducible apply Does.regs | with_reducible apply Does.sec | with_reducible apply Does.twin | with_reducible apply Does.csnLatch

theorem rngFail_does (s : State) (test : BitVec 8) (Hs : Does M0 a0 s) (HM : [.regs, .pea, .sec] ⊆ M0) :
    Does M0 a0 (State.rngFail s test) := by
  unfold State.rngFail
  repeat' first
    | with_reducible assumption | with_reducible exact mem_of HM (by decide) | with_reducible exact List.Subset.trans (by decide) HM
    | with_reducible apply audit_does | with_reducible apply scSet_does | with_reducible apply secSet_does | split
    | (lift_lets; intro x; refine bring (P := Does M0 a0 x) ?side fun hx => ?main; case' main => clear_value x; case' side => unfold x)
    | (lift_lets; intro x) | exact fun j => j | intro x hx | intro x | with_reducible apply Does.regs | with_reducible apply Does.pea
    | with_reducible apply Does.sec

theorem debugAsk_does (s : State) (scope : Nat) (Hs : Does M0 a0 s) (HM : [.freeCtr, .out, .regs, .pea, .sec] ⊆ M0) :
    Does M0 a0 (State.debugAsk s scope) := by
  unfold State.debugAsk
  repeat' first
    | with_reducible assumption | with_reducible exact mem_of HM (by decide) | with_reducible exact List.Subset.trans (by decide) HM
    | with_reducible apply audit_does | with_reducible apply emit_does | with_reducible apply logFull_does | with_reducible apply nonce_does
    | with_reducible apply scSet_does | with_reducible apply secSet_does | split
    | (lift_lets; intro x; refine bring (P := Does M0 a0 x) ?side fun hx => ?main; case' main => clear_value x; case' side => unfold x)
    | (lift_lets; intro x) | exact fun j => j | intro x hx | intro x | with_reducible apply Does.freeCtr | with_reducible apply Does.out
    | with_reducible apply Does.regs | with_reducible apply Does.pea | with_reducible apply Does.sec

theorem debugAnswer_does (s : State) (sig : List Byte) (secs : Nat) (Hs : Does M0 a0 s) (HM : [.regs, .pea, .sec] ⊆ M0) :
    Does M0 a0 (State.debugAnswer s sig secs) := by
  unfold State.debugAnswer
  repeat' first
    | with_reducible assumption | with_reducible exact mem_of HM (by decide) | with_reducible exact List.Subset.trans (by decide) HM
    | with_reducible apply audit_does | with_reducible apply logFull_does | with_reducible apply scSet_does | with_reducible apply secSet_does | split
    | (lift_lets; intro x; refine bring (P := Does M0 a0 x) ?side fun hx => ?main; case' main => clear_value x; case' side => unfold x)
    | (lift_lets; intro x) | exact fun j => j | intro x hx | intro x | with_reducible apply Does.regs | with_reducible apply Does.pea
    | with_reducible apply Does.sec

theorem debugLock_does (s : State) (Hs : Does M0 a0 s) (HM : [.regs, .pea, .sec] ⊆ M0) :
    Does M0 a0 (State.debugLock s) := by
  unfold State.debugLock
  repeat' first
    | with_reducible assumption | with_reducible exact mem_of HM (by decide) | with_reducible exact List.Subset.trans (by decide) HM
    | with_reducible apply audit_does | with_reducible apply logFull_does | with_reducible apply secSet_does | split
    | (lift_lets; intro x; refine bring (P := Does M0 a0 x) ?side fun hx => ?main; case' main => clear_value x; case' side => unfold x)
    | (lift_lets; intro x) | exact fun j => j | intro x hx | intro x | with_reducible apply Does.regs | with_reducible apply Does.pea
    | with_reducible apply Does.sec

theorem wearSwap_does (s : State) (k : Nat) (q : Nat) (Hs : Does M0 a0 s) (HM : [.pea] ⊆ M0) :
    Does M0 a0 (State.wearSwap s k q) := by
  unfold State.wearSwap
  repeat' first
    | with_reducible assumption | with_reducible exact mem_of HM (by decide) | with_reducible exact List.Subset.trans (by decide) HM
    | with_reducible apply peaSet_does | split
    | (lift_lets; intro x; refine bring (P := Does M0 a0 x) ?side fun hx => ?main; case' main => clear_value x; case' side => unfold x)
    | (lift_lets; intro x) | exact fun j => j | intro x hx | intro x | with_reducible apply Does.pea

theorem suppliesGood_does (s : State) (Hs : Does M0 a0 s) (HM : [.ctl] ⊆ M0) :
    Does M0 a0 (State.suppliesGood s) := by
  unfold State.suppliesGood
  repeat' first
    | with_reducible assumption | with_reducible exact mem_of HM (by decide) | with_reducible exact List.Subset.trans (by decide) HM
    | with_reducible apply ctlSet_does | split | with_reducible apply Does.ctl

theorem pinReset_does (s : State) (Hs : Does M0 a0 s) (HM : [.freeCtr, .out, .regs, .ctl, .mem, .pea, .sec, .mix, .tdm, .dac, .byp, .tim, .lanes, .drays, .hosts, .net, .twin, .csnLatch] ⊆ M0) :
    Does M0 a0 (State.pinReset s) := by
  unfold State.pinReset
  repeat' first
    | with_reducible assumption | with_reducible exact mem_of HM (by decide) | with_reducible exact List.Subset.trans (by decide) HM
    | with_reducible apply cause_does | with_reducible apply ctlSet_does | with_reducible apply fullReset_does | with_reducible apply Does.freeCtr
    | with_reducible apply Does.out | with_reducible apply Does.regs | with_reducible apply Does.ctl | with_reducible apply Does.mem
    | with_reducible apply Does.pea | with_reducible apply Does.sec | with_reducible apply Does.mix | with_reducible apply Does.tdm
    | with_reducible apply Does.dac | with_reducible apply Does.byp | with_reducible apply Does.tim | with_reducible apply Does.lanes
    | with_reducible apply Does.drays | with_reducible apply Does.hosts | with_reducible apply Does.net | with_reducible apply Does.twin
    | with_reducible apply Does.csnLatch

theorem stokerReset_does (s : State) (Hs : Does M0 a0 s) (HM : [.freeCtr, .out, .regs, .ctl, .mem, .pea, .sec, .mix, .tdm, .dac, .byp, .tim, .lanes, .drays, .hosts, .net, .twin, .csnLatch] ⊆ M0) :
    Does M0 a0 (State.stokerReset s) := by
  unfold State.stokerReset
  repeat' first
    | with_reducible assumption | with_reducible exact mem_of HM (by decide) | with_reducible exact List.Subset.trans (by decide) HM
    | with_reducible apply cause_does | with_reducible apply resetBy_does | with_reducible apply stage_does | split
    | with_reducible apply Does.freeCtr | with_reducible apply Does.out | with_reducible apply Does.regs | with_reducible apply Does.ctl
    | with_reducible apply Does.mem | with_reducible apply Does.pea | with_reducible apply Does.sec | with_reducible apply Does.mix
    | with_reducible apply Does.tdm | with_reducible apply Does.dac | with_reducible apply Does.byp | with_reducible apply Does.tim
    | with_reducible apply Does.lanes | with_reducible apply Does.drays | with_reducible apply Does.hosts | with_reducible apply Does.net
    | with_reducible apply Does.twin | with_reducible apply Does.csnLatch

theorem thermalTrip_does (s : State) (Hs : Does M0 a0 s) (HM : [.freeCtr, .out, .regs, .ctl, .mem, .pea, .sec, .mix, .tdm, .dac, .byp, .tim, .lanes, .drays, .hosts, .net, .twin, .csnLatch] ⊆ M0) :
    Does M0 a0 (State.thermalTrip s) := by
  unfold State.thermalTrip
  repeat' first
    | with_reducible assumption | with_reducible exact mem_of HM (by decide) | with_reducible exact List.Subset.trans (by decide) HM
    | with_reducible apply cause_does | with_reducible apply ctlSet_does | with_reducible apply fullReset_does | with_reducible apply Does.freeCtr
    | with_reducible apply Does.out | with_reducible apply Does.regs | with_reducible apply Does.ctl | with_reducible apply Does.mem
    | with_reducible apply Does.pea | with_reducible apply Does.sec | with_reducible apply Does.mix | with_reducible apply Does.tdm
    | with_reducible apply Does.dac | with_reducible apply Does.byp | with_reducible apply Does.tim | with_reducible apply Does.lanes
    | with_reducible apply Does.drays | with_reducible apply Does.hosts | with_reducible apply Does.net | with_reducible apply Does.twin
    | with_reducible apply Does.csnLatch

theorem hostReset_does (s : State) (scope : Nat) (h : Fin 4) (w : Word) (Hs : Does M0 a0 s) (HM : [.freeCtr, .sub, .out, .regs, .ctl, .mem, .pea, .sec, .mix, .tdm, .dac, .byp, .tim, .lanes, .drays, .hosts, .net, .twin, .csnLatch] ⊆ M0) :
    Does M0 a0 (State.hostReset s scope h w) := by
  unfold State.hostReset
  repeat' first
    | with_reducible assumption | with_reducible exact mem_of HM (by decide) | with_reducible exact List.Subset.trans (by decide) HM
    | with_reducible apply regWrite_does | split | with_reducible apply Does.freeCtr | with_reducible apply Does.out | with_reducible apply Does.regs
    | with_reducible apply Does.ctl | with_reducible apply Does.mem | with_reducible apply Does.pea | with_reducible apply Does.sec
    | with_reducible apply Does.mix | with_reducible apply Does.tdm | with_reducible apply Does.dac | with_reducible apply Does.byp
    | with_reducible apply Does.tim | with_reducible apply Does.lanes | with_reducible apply Does.drays | with_reducible apply Does.hosts
    | with_reducible apply Does.net | with_reducible apply Does.twin | with_reducible apply Does.csnLatch

theorem jtagReset_does (s : State) (Hs : Does M0 a0 s) (HM : [.freeCtr, .out, .regs, .ctl, .mem, .pea, .sec, .mix, .tdm, .dac, .byp, .tim, .lanes, .drays, .hosts, .net, .twin, .csnLatch] ⊆ M0) :
    Does M0 a0 (State.jtagReset s) := by
  unfold State.jtagReset
  repeat' first
    | with_reducible assumption | with_reducible exact mem_of HM (by decide) | with_reducible exact List.Subset.trans (by decide) HM
    | with_reducible apply cause_does | with_reducible apply resetBy_does | split | with_reducible apply Does.freeCtr | with_reducible apply Does.out
    | with_reducible apply Does.regs | with_reducible apply Does.ctl | with_reducible apply Does.mem | with_reducible apply Does.pea
    | with_reducible apply Does.sec | with_reducible apply Does.mix | with_reducible apply Does.tdm | with_reducible apply Does.dac
    | with_reducible apply Does.byp | with_reducible apply Does.tim | with_reducible apply Does.lanes | with_reducible apply Does.drays
    | with_reducible apply Does.hosts | with_reducible apply Does.net | with_reducible apply Does.twin | with_reducible apply Does.csnLatch

theorem scrubFld_does (off : Nat) (s : State) (f : Nat × Nat) (Hs : Does M0 a0 s) (HM : [.freeCtr, .sub, .out, .regs, .ctl, .mem, .pea, .sec, .mix, .tdm, .dac, .byp, .tim, .lanes, .drays, .hosts, .net, .twin, .csnLatch] ⊆ M0) :
    Does M0 a0 (State.scrubFld off s f) := by
  unfold State.scrubFld
  extract_lets a b c g v m put same s1
  have h1 : Does M0 a0 s1 := capSet_does _ _ _ (count_does _ _ Hs (List.Subset.trans (by decide) HM)) (List.Subset.trans (by decide) HM)
  clear_value s1
  have hs (x : Nat) : Does M0 a0 (same x s1) := h1.regs (HM (by decide)) _ id
  split
  · exact Hs
  · split
    · exact hs _
    · split
      · exact secHold_does _ _ _ (hs _) (List.Subset.trans (by decide) HM)
      · exact hook_does _ _ _ _ _ (hs _) (List.Subset.trans (by decide) HM)

theorem voteScrub_does (s : State) (us : List VoteUpset) (Hs : Does M0 a0 s) (HM : [.freeCtr, .sub, .out, .regs, .ctl, .mem, .pea, .sec, .mix, .tdm, .dac, .byp, .tim, .lanes, .drays, .hosts, .net, .twin, .csnLatch] ⊆ M0) :
    Does M0 a0 (State.voteScrub s us) := by
  have hu (l : List VoteUpset) (r : Regs) : (l.foldl Regs.upset r).ctrs = r.ctrs := by
    induction l generalizing r with
    | nil => rfl
    | cons u l ih =>
      refine (ih _).trans ?_
      simp only [Regs.upset]
      split
      · rfl
      · split <;> rfl
  unfold State.voteScrub
  refine Does.foldl (Hs.regs (HM (by decide)) _ fun h => ?_) fun t off Ht => Ht.foldl fun t f Ht => scrubFld_does _ _ _ Ht HM
  rw [hu]; exact h

theorem csnRead_does (s : State) (Hs : Does M0 a0 s) (HM : [.freeCtr, .out, .regs, .sec, .twin, .csnLatch] ⊆ M0) :
    Does M0 a0 (State.csnRead s) := by
  unfold State.csnRead
  repeat' first
    | with_reducible assumption | with_reducible exact mem_of HM (by decide) | with_reducible exact List.Subset.trans (by decide) HM
    | with_reducible apply emit_does | with_reducible apply regRead_does | with_reducible apply Does.freeCtr | with_reducible apply Does.out
    | with_reducible apply Does.regs | with_reducible apply Does.sec | with_reducible apply Does.twin | with_reducible apply Does.csnLatch

theorem dieWarning_does (s : State) (t : Int) (Hs : Does M0 a0 s) (HM : [.regs, .tim, .twin] ⊆ M0) :
    Does M0 a0 (State.dieWarning s t) := by
  unfold State.dieWarning
  repeat' first
    | with_reducible assumption | with_reducible exact mem_of HM (by decide) | with_reducible exact List.Subset.trans (by decide) HM
    | with_reducible apply health_does | with_reducible apply timSet_does | split
    | (lift_lets; intro x; refine bring (P := Does M0 a0 x) ?side fun hx => ?main; case' main => clear_value x; case' side => unfold x)
    | (lift_lets; intro x) | exact fun j => j | intro x hx | intro x | with_reducible apply Does.regs | with_reducible apply Does.tim
    | with_reducible apply Does.twin

end Sys2Proof.Laws
end

