-- ==== Sys2Proof/Laws/DoesExec.lean ====
section
/-! SUPPORT. Every command answers a next state; the fields of State it may change, and that it keeps the invariant. -/

namespace Sys2Proof.Laws

set_option Elab.async false
set_option linter.all false

open Sys2Proof.Machine Sys2Proof.Safety

theorem execBlockBoundary_does (io : BlockIn) (s : State) :
    ∃ s', execBlockBoundary io s = .next s' ∧ Does [.freeCtr, .sub, .out, .regs, .ctl, .mem, .pea, .sec, .mix, .tdm, .dac, .byp, .tim, .lanes, .drays, .hosts, .net, .twin] s s' := by
  refine ⟨_, rfl, does_start fun Hs HM => ?_⟩
  repeat' first
    | with_reducible exact Hs | with_reducible assumption | with_reducible exact mem_of HM (by decide)
    | with_reducible exact List.Subset.trans (by decide) HM | with_reducible apply begin_does | with_reducible apply boundary_does | split
    | intro x hx | intro x | with_reducible apply Does.freeCtr | with_reducible apply Does.sub | with_reducible apply Does.out
    | with_reducible apply Does.regs | with_reducible apply Does.ctl | with_reducible apply Does.mem | with_reducible apply Does.pea
    | with_reducible apply Does.sec | with_reducible apply Does.mix | with_reducible apply Does.tdm | with_reducible apply Does.dac
    | with_reducible apply Does.byp | with_reducible apply Does.tim | with_reducible apply Does.lanes | with_reducible apply Does.drays
    | with_reducible apply Does.hosts | with_reducible apply Does.net | with_reducible apply Does.twin

theorem execMixWatchdog_does (s : State) :
    ∃ s', execMixWatchdog s = .next s' ∧ Does [.out, .regs, .twin] s s' := by
  refine ⟨_, rfl, does_start fun Hs HM => ?_⟩
  repeat' first
    | with_reducible exact Hs | with_reducible assumption | with_reducible exact mem_of HM (by decide)
    | with_reducible exact List.Subset.trans (by decide) HM | with_reducible apply begin_does | with_reducible apply mixDog_does | split | intro x hx
    | intro x | with_reducible apply Does.out | with_reducible apply Does.regs | with_reducible apply Does.twin

theorem execInterfaceClockStop_does (_i : Iface) (s : State) :
    ∃ s', execInterfaceClockStop _i s = .next s' ∧ Does [.out] s s' := by
  refine ⟨_, rfl, does_start fun Hs HM => ?_⟩
  repeat' first
    | with_reducible exact Hs | with_reducible assumption | with_reducible exact mem_of HM (by decide)
    | with_reducible exact List.Subset.trans (by decide) HM | with_reducible apply begin_does | split | intro x hx | intro x
    | with_reducible apply Does.out

theorem execTableDirectWrite_does (m : Fin 14) (addr : BitVec 40) (data : List Byte) (s : State) :
    ∃ s', execTableDirectWrite m addr data s = .next s' ∧ Does [.out, .regs, .mem, .mix, .twin] s s' := by
  refine ⟨_, rfl, does_start fun Hs HM => ?_⟩
  repeat' first
    | with_reducible exact Hs | with_reducible assumption | with_reducible exact mem_of HM (by decide)
    | with_reducible exact List.Subset.trans (by decide) HM | with_reducible apply begin_does | with_reducible apply portWrite_does | split
    | intro x hx | intro x | with_reducible apply Does.out | with_reducible apply Does.regs | with_reducible apply Does.mem
    | with_reducible apply Does.mix | with_reducible apply Does.twin

theorem execTableRefetch_does (s : State) :
    ∃ s', execTableRefetch s = .next s' ∧ Does [.out, .mix] s s' := by
  refine ⟨_, rfl, does_start fun Hs HM => ?_⟩
  repeat' first
    | with_reducible exact Hs | with_reducible assumption | with_reducible exact mem_of HM (by decide)
    | with_reducible exact List.Subset.trans (by decide) HM | with_reducible apply begin_does | split | intro x hx | intro x
    | with_reducible apply Does.out | with_reducible apply Does.mix

theorem execCompileComplete_does (it : Item) (hits : MemHits) (s : State) :
    ∃ s', execCompileComplete it hits s = .next s' ∧ Does [.out, .regs, .mem, .pea, .sec, .mix, .twin] s s' := by
  refine ⟨_, rfl, does_start fun Hs HM => ?_⟩
  repeat' first
    | with_reducible exact Hs | with_reducible assumption | with_reducible exact mem_of HM (by decide)
    | with_reducible exact List.Subset.trans (by decide) HM | with_reducible apply begin_does | with_reducible apply compileDone_does | split
    | intro x hx | intro x | with_reducible apply Does.out | with_reducible apply Does.regs | with_reducible apply Does.mem
    | with_reducible apply Does.pea | with_reducible apply Does.sec | with_reducible apply Does.mix | with_reducible apply Does.twin

theorem execWorkingStoreEccError_does (it : Item) (s : State) :
    ∃ s', execWorkingStoreEccError it s = .next s' ∧ Does [.out, .regs, .mix] s s' := by
  refine ⟨_, rfl, does_start fun Hs HM => ?_⟩
  repeat' first
    | with_reducible exact Hs | with_reducible assumption | with_reducible exact mem_of HM (by decide)
    | with_reducible exact List.Subset.trans (by decide) HM | with_reducible apply begin_does | with_reducible apply storeBad_does | split
    | intro x hx | intro x | with_reducible apply Does.out | with_reducible apply Does.regs | with_reducible apply Does.mix

theorem execSequencedAcceptance_does (h : Fin 4) (q : Fin 8) (pos : Fin 12) (hits : MemHits) (s : State) :
    ∃ s', execSequencedAcceptance h q pos hits s = .next s' ∧ Does [.out, .regs, .ctl, .mem, .pea, .sec, .mix, .tim, .hosts, .twin] s s' := by
  refine ⟨_, rfl, does_start fun Hs HM => ?_⟩
  repeat' first
    | with_reducible exact Hs | with_reducible assumption | with_reducible exact mem_of HM (by decide)
    | with_reducible exact List.Subset.trans (by decide) HM | with_reducible apply accept_does | with_reducible apply begin_does | split | intro x hx
    | intro x | with_reducible apply Does.out | with_reducible apply Does.regs | with_reducible apply Does.ctl | with_reducible apply Does.mem
    | with_reducible apply Does.pea | with_reducible apply Does.sec | with_reducible apply Does.mix | with_reducible apply Does.tim
    | with_reducible apply Does.hosts | with_reducible apply Does.twin

theorem execCommitCompletionPost_does (csn : BitVec 48) (hits : MemHits) (s : State) :
    ∃ s', execCommitCompletionPost csn hits s = .next s' ∧ Does [.out, .regs, .mem, .mix, .hosts, .twin] s s' := by
  refine ⟨_, rfl, does_start fun Hs HM => ?_⟩
  repeat' first
    | with_reducible exact Hs | with_reducible assumption | with_reducible exact mem_of HM (by decide)
    | with_reducible exact List.Subset.trans (by decide) HM | with_reducible apply begin_does | with_reducible apply complete_does | split
    | intro x hx | intro x | with_reducible apply Does.out | with_reducible apply Does.regs | with_reducible apply Does.mem
    | with_reducible apply Does.mix | with_reducible apply Does.hosts | with_reducible apply Does.twin

theorem execDualPathSlotGrant_does (s : State) :
    ∃ s', execDualPathSlotGrant s = .next s' ∧ Does [.out, .regs, .mem, .mix] s s' := by
  refine ⟨_, rfl, does_start fun Hs HM => ?_⟩
  repeat' first
    | with_reducible exact Hs | with_reducible assumption | with_reducible exact mem_of HM (by decide)
    | with_reducible exact List.Subset.trans (by decide) HM | with_reducible apply begin_does | with_reducible apply grantSlots_does | split
    | intro x hx | intro x | with_reducible apply Does.out | with_reducible apply Does.regs | with_reducible apply Does.mem
    | with_reducible apply Does.mix

theorem execSecondTermGrant_does (s : State) :
    ∃ s', execSecondTermGrant s = .next s' ∧ Does [.out, .regs, .mix] s s' := by
  refine ⟨_, rfl, does_start fun Hs HM => ?_⟩
  repeat' first
    | with_reducible exact Hs | with_reducible assumption | with_reducible exact mem_of HM (by decide)
    | with_reducible exact List.Subset.trans (by decide) HM | with_reducible apply begin_does | with_reducible apply grantTerms_does | split
    | intro x hx | intro x | with_reducible apply Does.out | with_reducible apply Does.regs | with_reducible apply Does.mix

theorem execRampEnd_does (k : RampKey) (s : State) :
    ∃ s', execRampEnd k s = .next s' ∧ Does [.out, .mem, .mix] s s' := by
  refine ⟨_, rfl, does_start fun Hs HM => ?_⟩
  repeat' first
    | with_reducible exact Hs | with_reducible assumption | with_reducible exact mem_of HM (by decide)
    | with_reducible exact List.Subset.trans (by decide) HM | with_reducible apply begin_does | with_reducible apply rampOver_does | split
    | intro x hx | intro x | with_reducible apply Does.out | with_reducible apply Does.mem | with_reducible apply Does.mix

theorem execEntryFadeOutEnd_does (e : Fin 3072) (s : State) :
    ∃ s', execEntryFadeOutEnd e s = .next s' ∧ Does [.out, .mem, .mix] s s' := by
  refine ⟨_, rfl, does_start fun Hs HM => ?_⟩
  repeat' first
    | with_reducible exact Hs | with_reducible assumption | with_reducible exact mem_of HM (by decide)
    | with_reducible exact List.Subset.trans (by decide) HM | with_reducible apply begin_does | with_reducible apply fadeOutEnd_does | split
    | intro x hx | intro x | with_reducible apply Does.out | with_reducible apply Does.mem | with_reducible apply Does.mix

theorem execClaimLeaseExpiry_does (csn : BitVec 48) (s : State) :
    ∃ s', execClaimLeaseExpiry csn s = .next s' ∧ Does [.out, .mix] s s' := by
  refine ⟨_, rfl, does_start fun Hs HM => ?_⟩
  repeat' first
    | with_reducible exact Hs | with_reducible assumption | with_reducible exact mem_of HM (by decide)
    | with_reducible exact List.Subset.trans (by decide) HM | with_reducible apply begin_does | split | intro x hx | intro x
    | with_reducible apply Does.out | with_reducible apply Does.mix

theorem execGateHoldExpiry_does (e : Fin 1536) (s : State) :
    ∃ s', execGateHoldExpiry e s = .next s' ∧ Does [.out, .mix] s s' := by
  refine ⟨_, rfl, does_start fun Hs HM => ?_⟩
  repeat' first
    | with_reducible exact Hs | with_reducible assumption | with_reducible exact mem_of HM (by decide)
    | with_reducible exact List.Subset.trans (by decide) HM | with_reducible apply begin_does | with_reducible apply runUpd_does | split | intro x hx
    | intro x | with_reducible apply Does.out | with_reducible apply Does.mix

theorem execPeakHoldExpiry_does (e : Fin 3072) (s : State) :
    ∃ s', execPeakHoldExpiry e s = .next s' ∧ Does [.out, .mix] s s' := by
  refine ⟨_, rfl, does_start fun Hs HM => ?_⟩
  repeat' first
    | with_reducible exact Hs | with_reducible assumption | with_reducible exact mem_of HM (by decide)
    | with_reducible exact List.Subset.trans (by decide) HM | with_reducible apply begin_does | with_reducible apply runUpd_does | split | intro x hx
    | intro x | with_reducible apply Does.out | with_reducible apply Does.mix

theorem execDelayBurstComplete_does (e : Fin 3072) (first : Nat) (hits : MemHits) (s : State) :
    ∃ s', execDelayBurstComplete e first hits s = .next s' ∧ Does [.out, .regs, .mem, .mix, .twin] s s' := by
  refine ⟨_, rfl, does_start fun Hs HM => ?_⟩
  repeat' first
    | with_reducible exact Hs | with_reducible assumption | with_reducible exact mem_of HM (by decide)
    | with_reducible exact List.Subset.trans (by decide) HM | with_reducible apply begin_does | with_reducible apply delayBurst_does | split
    | intro x hx | intro x | with_reducible apply Does.out | with_reducible apply Does.regs | with_reducible apply Does.mem
    | with_reducible apply Does.mix | with_reducible apply Does.twin

theorem execContributorHangExpiry_does (x : Fin 98304) (s : State) :
    ∃ s', execContributorHangExpiry x s = .next s' ∧ Does [.out, .mix] s s' := by
  refine ⟨_, rfl, does_start fun Hs HM => ?_⟩
  repeat' first
    | with_reducible exact Hs | with_reducible assumption | with_reducible exact mem_of HM (by decide)
    | with_reducible exact List.Subset.trans (by decide) HM | with_reducible apply begin_does | with_reducible apply hangOver_does | split
    | intro x hx | intro x | with_reducible apply Does.out | with_reducible apply Does.mix

theorem execClipEnd_does (p : Fin 64) (s : State) :
    ∃ s', execClipEnd p s = .next s' ∧ Does [.out, .mix] s s' := by
  refine ⟨_, rfl, does_start fun Hs HM => ?_⟩
  repeat' first
    | with_reducible exact Hs | with_reducible assumption | with_reducible exact mem_of HM (by decide)
    | with_reducible exact List.Subset.trans (by decide) HM | with_reducible apply begin_does | with_reducible apply playerOver_does | split
    | intro x hx | intro x | with_reducible apply Does.out | with_reducible apply Does.mix

theorem execTonePatternEnd_does (g : Fin 16) (s : State) :
    ∃ s', execTonePatternEnd g s = .next s' ∧ Does [.out, .mix] s s' := by
  refine ⟨_, rfl, does_start fun Hs HM => ?_⟩
  repeat' first
    | with_reducible exact Hs | with_reducible assumption | with_reducible exact mem_of HM (by decide)
    | with_reducible exact List.Subset.trans (by decide) HM | with_reducible apply begin_does | with_reducible apply playerOver_does | split
    | intro x hx | intro x | with_reducible apply Does.out | with_reducible apply Does.mix

theorem execClipDataFetchComplete_does (p : Fin 64) (csn : BitVec 48) (burst : Nat) (hits : MemHits) (s : State) :
    ∃ s', execClipDataFetchComplete p csn burst hits s = .next s' ∧ Does [.out, .regs, .mix, .twin] s s' := by
  refine ⟨_, rfl, does_start fun Hs HM => ?_⟩
  repeat' first
    | with_reducible exact Hs | with_reducible assumption | with_reducible exact mem_of HM (by decide)
    | with_reducible exact List.Subset.trans (by decide) HM | with_reducible apply begin_does | with_reducible apply clipBurst_does | split
    | intro x hx | intro x | with_reducible apply Does.out | with_reducible apply Does.regs | with_reducible apply Does.mix
    | with_reducible apply Does.twin

theorem execMixStartCompileDone_does (hits : MemHits) (s : State) :
    ∃ s', execMixStartCompileDone hits s = .next s' ∧ Does [.out, .regs, .mem, .pea, .sec, .mix, .twin] s s' := by
  refine ⟨_, rfl, does_start fun Hs HM => ?_⟩
  repeat' first
    | with_reducible exact Hs | with_reducible assumption | with_reducible exact mem_of HM (by decide)
    | with_reducible exact List.Subset.trans (by decide) HM | with_reducible apply begin_does | with_reducible apply startCompile_does | split
    | intro x hx | intro x | with_reducible apply Does.out | with_reducible apply Does.regs | with_reducible apply Does.mem
    | with_reducible apply Does.pea | with_reducible apply Does.sec | with_reducible apply Does.mix | with_reducible apply Does.twin

theorem execServoUpdate_does (ms : List ZoneMeas) (s : State) :
    ∃ s', execServoUpdate ms s = .next s' ∧ Does [.out, .regs, .mem, .mix, .lanes, .hosts, .twin] s s' := by
  refine ⟨_, rfl, does_start fun Hs HM => ?_⟩
  repeat' first
    | with_reducible exact Hs | with_reducible assumption | with_reducible exact mem_of HM (by decide)
    | with_reducible exact List.Subset.trans (by decide) HM | with_reducible apply begin_does | with_reducible apply servoStep_does | split
    | intro x hx | intro x | with_reducible apply Does.out | with_reducible apply Does.regs | with_reducible apply Does.mem
    | with_reducible apply Does.mix | with_reducible apply Does.lanes | with_reducible apply Does.hosts | with_reducible apply Does.twin

theorem execServoConverged_does (z : Fin 256) (s : State) :
    ∃ s', execServoConverged z s = .next s' ∧ Does [.out, .mix] s s' := by
  refine ⟨_, rfl, does_start fun Hs HM => ?_⟩
  repeat' first
    | with_reducible exact Hs | with_reducible assumption | with_reducible exact mem_of HM (by decide)
    | with_reducible exact List.Subset.trans (by decide) HM | with_reducible apply begin_does | with_reducible apply zoneUpd_does | split | intro x hx
    | intro x | with_reducible apply Does.out | with_reducible apply Does.mix

theorem execServoFreeze_does (z : Fin 256) (s : State) :
    ∃ s', execServoFreeze z s = .next s' ∧ Does [.out, .regs, .mix] s s' := by
  refine ⟨_, rfl, does_start fun Hs HM => ?_⟩
  repeat' first
    | with_reducible exact Hs | with_reducible assumption | with_reducible exact mem_of HM (by decide)
    | with_reducible exact List.Subset.trans (by decide) HM | with_reducible apply begin_does | with_reducible apply freeze_does | split | intro x hx
    | intro x | with_reducible apply Does.out | with_reducible apply Does.regs | with_reducible apply Does.mix

theorem execServoRelax_does (z : Fin 256) (s : State) :
    ∃ s', execServoRelax z s = .next s' ∧ Does [.out, .mix] s s' := by
  refine ⟨_, rfl, does_start fun Hs HM => ?_⟩
  repeat' first
    | with_reducible exact Hs | with_reducible assumption | with_reducible exact mem_of HM (by decide)
    | with_reducible exact List.Subset.trans (by decide) HM | with_reducible apply begin_does | with_reducible apply zoneUpd_does | split | intro x hx
    | intro x | with_reducible apply Does.out | with_reducible apply Does.mix

theorem execMicUnusable_does (z : Fin 256) (m : Fin 4) (s : State) :
    ∃ s', execMicUnusable z m s = .next s' ∧ Does [.out, .mix] s s' := by
  refine ⟨_, rfl, does_start fun Hs HM => ?_⟩
  repeat' first
    | with_reducible exact Hs | with_reducible assumption | with_reducible exact mem_of HM (by decide)
    | with_reducible exact List.Subset.trans (by decide) HM | with_reducible apply begin_does | with_reducible apply zoneUpd_does | split | intro x hx
    | intro x | with_reducible apply Does.out | with_reducible apply Does.mix

theorem execAllcallPinAccept_does (asserted : Bool) (s : State) :
    ∃ s', execAllcallPinAccept asserted s = .next s' ∧ Does [.freeCtr, .sub, .out, .regs, .byp] s s' := by
  refine ⟨_, rfl, does_start fun Hs HM => ?_⟩
  repeat' first
    | with_reducible exact Hs | with_reducible assumption | with_reducible exact mem_of HM (by decide)
    | with_reducible exact List.Subset.trans (by decide) HM | with_reducible apply acChange_does | with_reducible apply begin_does | split
    | intro x hx | intro x | with_reducible apply Does.freeCtr | with_reducible apply Does.sub | with_reducible apply Does.out
    | with_reducible apply Does.regs | with_reducible apply Does.byp

theorem execAllcallStart_does (w : Word) (s : State) :
    ∃ s', execAllcallStart w s = .next s' ∧ Does [.freeCtr, .sub, .out, .regs, .byp] s s' := by
  refine ⟨_, rfl, does_start fun Hs HM => ?_⟩
  repeat' first
    | with_reducible exact Hs | with_reducible assumption | with_reducible exact mem_of HM (by decide)
    | with_reducible exact List.Subset.trans (by decide) HM | with_reducible apply acCtl_does | with_reducible apply begin_does | split | intro x hx
    | intro x | with_reducible apply Does.freeCtr | with_reducible apply Does.sub | with_reducible apply Does.out | with_reducible apply Does.regs
    | with_reducible apply Does.byp

theorem execAllcallStop_does (w : Word) (s : State) :
    ∃ s', execAllcallStop w s = .next s' ∧ Does [.freeCtr, .sub, .out, .regs, .byp] s s' := by
  refine ⟨_, rfl, does_start fun Hs HM => ?_⟩
  repeat' first
    | with_reducible exact Hs | with_reducible assumption | with_reducible exact mem_of HM (by decide)
    | with_reducible exact List.Subset.trans (by decide) HM | with_reducible apply acCtl_does | with_reducible apply begin_does | split | intro x hx
    | intro x | with_reducible apply Does.freeCtr | with_reducible apply Does.sub | with_reducible apply Does.out | with_reducible apply Does.regs
    | with_reducible apply Does.byp

theorem execAllcallCrossfadeEnd_does (s : State) :
    ∃ s', execAllcallCrossfadeEnd s = .next s' ∧ Does [.sub, .out, .regs, .dac, .byp] s s' := by
  refine ⟨_, rfl, does_start fun Hs HM => ?_⟩
  repeat' first
    | with_reducible exact Hs | with_reducible assumption | with_reducible exact mem_of HM (by decide)
    | with_reducible exact List.Subset.trans (by decide) HM | with_reducible apply acCrossed_does | with_reducible apply begin_does | split
    | intro x hx | intro x | with_reducible apply Does.sub | with_reducible apply Does.out | with_reducible apply Does.regs
    | with_reducible apply Does.dac | with_reducible apply Does.byp

theorem execAllcallSourceLost_does (s : State) :
    ∃ s', execAllcallSourceLost s = .next s' ∧ Does [.out, .regs, .byp] s s' := by
  refine ⟨_, rfl, does_start fun Hs HM => ?_⟩
  repeat' first
    | with_reducible exact Hs | with_reducible assumption | with_reducible exact mem_of HM (by decide)
    | with_reducible exact List.Subset.trans (by decide) HM | with_reducible apply acLost_does | with_reducible apply begin_does | split | intro x hx
    | intro x | with_reducible apply Does.out | with_reducible apply Does.regs | with_reducible apply Does.byp

theorem execAllcallSourceReturn_does (s : State) :
    ∃ s', execAllcallSourceReturn s = .next s' ∧ Does [.out, .byp] s s' := by
  refine ⟨_, rfl, does_start fun Hs HM => ?_⟩
  repeat' first
    | with_reducible exact Hs | with_reducible assumption | with_reducible exact mem_of HM (by decide)
    | with_reducible exact List.Subset.trans (by decide) HM | with_reducible apply begin_does | split | intro x hx | intro x
    | with_reducible apply Does.out | with_reducible apply Does.byp

theorem execDoorbellHit_does (h : Fin 4) (hits : MemHits) (s : State) :
    ∃ s', execDoorbellHit h hits s = .next s' ∧ Does [.out, .regs, .mem, .pea, .sec, .mix, .hosts, .twin] s s' := by
  refine ⟨_, rfl, does_start fun Hs HM => ?_⟩
  repeat' first
    | with_reducible exact Hs | with_reducible assumption | with_reducible exact mem_of HM (by decide)
    | with_reducible exact List.Subset.trans (by decide) HM | with_reducible apply begin_does | with_reducible apply doorbellHit_does | split
    | intro x hx | intro x | with_reducible apply Does.out | with_reducible apply Does.regs | with_reducible apply Does.mem
    | with_reducible apply Does.pea | with_reducible apply Does.sec | with_reducible apply Does.mix | with_reducible apply Does.hosts
    | with_reducible apply Does.twin

theorem execDoorbellSweep_does (h : Fin 4) (hm : HostMem) (s : State) :
    ∃ s', execDoorbellSweep h hm s = .next s' ∧ Does [.out, .regs, .mem, .pea, .sec, .mix, .hosts, .twin] s s' := by
  refine ⟨_, rfl, does_start fun Hs HM => ?_⟩
  repeat' first
    | with_reducible exact Hs | with_reducible assumption | with_reducible exact mem_of HM (by decide)
    | with_reducible exact List.Subset.trans (by decide) HM | with_reducible apply begin_does | with_reducible apply doorbellSweep_does | split
    | intro x hx | intro x | with_reducible apply Does.out | with_reducible apply Does.regs | with_reducible apply Does.mem
    | with_reducible apply Does.pea | with_reducible apply Does.sec | with_reducible apply Does.mix | with_reducible apply Does.hosts
    | with_reducible apply Does.twin

theorem execDescriptorFetch_does (h : Fin 4) (hm : HostMem) (s : State) :
    ∃ s', execDescriptorFetch h hm s = .next s' ∧ Does [.out, .regs, .mem, .pea, .sec, .mix, .hosts, .twin] s s' := by
  refine ⟨_, rfl, does_start fun Hs HM => ?_⟩
  repeat' first
    | with_reducible exact Hs | with_reducible assumption | with_reducible exact mem_of HM (by decide)
    | with_reducible exact List.Subset.trans (by decide) HM | with_reducible apply begin_does | with_reducible apply fetchTurn_does | split
    | intro x hx | intro x | with_reducible apply Does.out | with_reducible apply Does.regs | with_reducible apply Does.mem
    | with_reducible apply Does.pea | with_reducible apply Does.sec | with_reducible apply Does.mix | with_reducible apply Does.hosts
    | with_reducible apply Does.twin

theorem execIndexPageWrite_does (h : Fin 4) (s : State) :
    ∃ s', execIndexPageWrite h s = .next s' ∧ Does [.out, .regs, .mem, .mix, .hosts, .twin] s s' := by
  refine ⟨_, rfl, does_start fun Hs HM => ?_⟩
  repeat' first
    | with_reducible exact Hs | with_reducible assumption | with_reducible exact mem_of HM (by decide)
    | with_reducible exact List.Subset.trans (by decide) HM | with_reducible apply begin_does | with_reducible apply indexPage_does | split
    | intro x hx | intro x | with_reducible apply Does.out | with_reducible apply Does.regs | with_reducible apply Does.mem
    | with_reducible apply Does.mix | with_reducible apply Does.hosts | with_reducible apply Does.twin

theorem execCompletionIrqTimeout_does (h : Fin 4) (c : Fin 8) (s : State) :
    ∃ s', execCompletionIrqTimeout h c s = .next s' ∧ Does [.out, .hosts] s s' := by
  refine ⟨_, rfl, does_start fun Hs HM => ?_⟩
  repeat' first
    | with_reducible exact Hs | with_reducible assumption | with_reducible exact mem_of HM (by decide)
    | with_reducible exact List.Subset.trans (by decide) HM | with_reducible apply begin_does | with_reducible apply modTime_does | split | intro x hx
    | intro x | with_reducible apply Does.out | with_reducible apply Does.hosts

theorem execBarrowWatchdogExpiry_does (h : Fin 4) (s : State) :
    ∃ s', execBarrowWatchdogExpiry h s = .next s' ∧ Does [.out, .regs, .mem, .mix, .hosts, .net, .twin] s s' := by
  refine ⟨_, rfl, does_start fun Hs HM => ?_⟩
  repeat' first
    | with_reducible exact Hs | with_reducible assumption | with_reducible exact mem_of HM (by decide)
    | with_reducible exact List.Subset.trans (by decide) HM | with_reducible apply begin_does | with_reducible apply watchdog_does | split
    | intro x hx | intro x | with_reducible apply Does.out | with_reducible apply Does.regs | with_reducible apply Does.mem
    | with_reducible apply Does.mix | with_reducible apply Does.hosts | with_reducible apply Does.net | with_reducible apply Does.twin

theorem execNop_does (h : Fin 4) (q : Fin 8) (s : State) :
    ∃ s', execNop h q s = .next s' ∧ Does [.out, .regs, .mem, .mix, .hosts, .twin] s s' := by
  refine ⟨_, rfl, does_start fun Hs HM => ?_⟩
  repeat' first
    | with_reducible exact Hs | with_reducible assumption | with_reducible exact mem_of HM (by decide)
    | with_reducible exact List.Subset.trans (by decide) HM | with_reducible apply begin_does | with_reducible apply finish_does
    | with_reducible apply onDesc_does | split | intro x hx | intro x | with_reducible apply Does.out | with_reducible apply Does.regs
    | with_reducible apply Does.mem | with_reducible apply Does.mix | with_reducible apply Does.hosts | with_reducible apply Does.twin

theorem execHello_does (h : Fin 4) (q : Fin 8) (s : State) :
    ∃ s', execHello h q s = .next s' ∧ Does [.out, .regs, .mem, .mix, .hosts, .twin] s s' := by
  refine ⟨_, rfl, does_start fun Hs HM => ?_⟩
  repeat' first
    | with_reducible exact Hs | with_reducible assumption | with_reducible exact mem_of HM (by decide)
    | with_reducible exact List.Subset.trans (by decide) HM | with_reducible apply begin_does | with_reducible apply helloDesc_does
    | with_reducible apply onDesc_does | split | intro x hx | intro x | with_reducible apply Does.out | with_reducible apply Does.regs
    | with_reducible apply Does.mem | with_reducible apply Does.mix | with_reducible apply Does.hosts | with_reducible apply Does.twin

theorem execFence_does (h : Fin 4) (q : Fin 8) (s : State) :
    ∃ s', execFence h q s = .next s' ∧ Does [.out, .regs, .mem, .mix, .hosts, .twin] s s' := by
  refine ⟨_, rfl, does_start fun Hs HM => ?_⟩
  repeat' first
    | with_reducible exact Hs | with_reducible assumption | with_reducible exact mem_of HM (by decide)
    | with_reducible exact List.Subset.trans (by decide) HM | with_reducible apply begin_does | with_reducible apply fenceDesc_does
    | with_reducible apply onDesc_does | split | intro x hx | intro x | with_reducible apply Does.out | with_reducible apply Does.regs
    | with_reducible apply Does.mem | with_reducible apply Does.mix | with_reducible apply Does.hosts | with_reducible apply Does.twin

theorem execFenceSatisfied_does (h : Fin 4) (q : Fin 8) (s : State) :
    ∃ s', execFenceSatisfied h q s = .next s' ∧ Does [.out, .regs, .mem, .mix, .hosts, .twin] s s' := by
  refine ⟨_, rfl, does_start fun Hs HM => ?_⟩
  repeat' first
    | with_reducible exact Hs | with_reducible assumption | with_reducible exact mem_of HM (by decide)
    | with_reducible exact List.Subset.trans (by decide) HM | with_reducible apply begin_does | with_reducible apply fenceEnd_does | split
    | intro x hx | intro x | with_reducible apply Does.out | with_reducible apply Does.regs | with_reducible apply Does.mem
    | with_reducible apply Does.mix | with_reducible apply Does.hosts | with_reducible apply Does.twin

theorem execCommit_does (h : Fin 4) (q : Fin 8) (hm : HostMem) (s : State) :
    ∃ s', execCommit h q hm s = .next s' ∧ Does [.out, .regs, .mem, .pea, .sec, .mix, .hosts, .twin] s s' := by
  refine ⟨_, rfl, does_start fun Hs HM => ?_⟩
  repeat' first
    | with_reducible exact Hs | with_reducible assumption | with_reducible exact mem_of HM (by decide)
    | with_reducible exact List.Subset.trans (by decide) HM | with_reducible apply begin_does | with_reducible apply onDesc_does
    | with_reducible apply requestFrom_does | split | intro x hx | intro x | with_reducible apply Does.out | with_reducible apply Does.regs
    | with_reducible apply Does.mem | with_reducible apply Does.pea | with_reducible apply Does.sec | with_reducible apply Does.mix
    | with_reducible apply Does.hosts | with_reducible apply Does.twin

theorem execClaim_does (h : Fin 4) (q : Fin 8) (hm : HostMem) (s : State) :
    ∃ s', execClaim h q hm s = .next s' ∧ Does [.out, .regs, .mem, .pea, .sec, .mix, .hosts, .twin] s s' := by
  refine ⟨_, rfl, does_start fun Hs HM => ?_⟩
  repeat' first
    | with_reducible exact Hs | with_reducible assumption | with_reducible exact mem_of HM (by decide)
    | with_reducible exact List.Subset.trans (by decide) HM | with_reducible apply begin_does | with_reducible apply onDesc_does
    | with_reducible apply requestFrom_does | split | intro x hx | intro x | with_reducible apply Does.out | with_reducible apply Does.regs
    | with_reducible apply Does.mem | with_reducible apply Does.pea | with_reducible apply Does.sec | with_reducible apply Does.mix
    | with_reducible apply Does.hosts | with_reducible apply Does.twin

theorem execRelease_does (h : Fin 4) (q : Fin 8) (s : State) :
    ∃ s', execRelease h q s = .next s' ∧ Does [.out, .regs, .mem, .mix, .hosts, .twin] s s' := by
  refine ⟨_, rfl, does_start fun Hs HM => ?_⟩
  repeat' first
    | with_reducible exact Hs | with_reducible assumption | with_reducible exact mem_of HM (by decide)
    | with_reducible exact List.Subset.trans (by decide) HM | with_reducible apply begin_does | with_reducible apply onDesc_does
    | with_reducible apply request_does | split | intro x hx | intro x | with_reducible apply Does.out | with_reducible apply Does.regs
    | with_reducible apply Does.mem | with_reducible apply Does.mix | with_reducible apply Does.hosts | with_reducible apply Does.twin

theorem execRenew_does (h : Fin 4) (q : Fin 8) (s : State) :
    ∃ s', execRenew h q s = .next s' ∧ Does [.out, .regs, .mem, .mix, .hosts, .twin] s s' := by
  refine ⟨_, rfl, does_start fun Hs HM => ?_⟩
  repeat' first
    | with_reducible exact Hs | with_reducible assumption | with_reducible exact mem_of HM (by decide)
    | with_reducible exact List.Subset.trans (by decide) HM | with_reducible apply begin_does | with_reducible apply onDesc_does
    | with_reducible apply renewDesc_does | split | intro x hx | intro x | with_reducible apply Does.out | with_reducible apply Does.regs
    | with_reducible apply Does.mem | with_reducible apply Does.mix | with_reducible apply Does.hosts | with_reducible apply Does.twin

theorem execReadState_does (h : Fin 4) (q : Fin 8) (hm : HostMem) (s : State) :
    ∃ s', execReadState h q hm s = .next s' ∧ Does [.out, .regs, .mem, .pea, .sec, .mix, .hosts, .twin] s s' := by
  refine ⟨_, rfl, does_start fun Hs HM => ?_⟩
  repeat' first
    | with_reducible exact Hs | with_reducible assumption | with_reducible exact mem_of HM (by decide)
    | with_reducible exact List.Subset.trans (by decide) HM | with_reducible apply begin_does | with_reducible apply onDesc_does
    | with_reducible apply requestFrom_does | split | intro x hx | intro x | with_reducible apply Does.out | with_reducible apply Does.regs
    | with_reducible apply Does.mem | with_reducible apply Does.pea | with_reducible apply Does.sec | with_reducible apply Does.mix
    | with_reducible apply Does.hosts | with_reducible apply Does.twin

theorem execSceneRecall_does (h : Fin 4) (q : Fin 8) (hm : HostMem) (s : State) :
    ∃ s', execSceneRecall h q hm s = .next s' ∧ Does [.out, .regs, .mem, .pea, .sec, .mix, .hosts, .twin] s s' := by
  refine ⟨_, rfl, does_start fun Hs HM => ?_⟩
  repeat' first
    | with_reducible exact Hs | with_reducible assumption | with_reducible exact mem_of HM (by decide)
    | with_reducible exact List.Subset.trans (by decide) HM | with_reducible apply begin_does | with_reducible apply onDesc_does
    | with_reducible apply recallDesc_does | split | intro x hx | intro x | with_reducible apply Does.out | with_reducible apply Does.regs
    | with_reducible apply Does.mem | with_reducible apply Does.pea | with_reducible apply Does.sec | with_reducible apply Does.mix
    | with_reducible apply Does.hosts | with_reducible apply Does.twin

theorem execClipPlay_does (h : Fin 4) (q : Fin 8) (s : State) :
    ∃ s', execClipPlay h q s = .next s' ∧ Does [.out, .regs, .mem, .mix, .hosts, .twin] s s' := by
  refine ⟨_, rfl, does_start fun Hs HM => ?_⟩
  repeat' first
    | with_reducible exact Hs | with_reducible assumption | with_reducible exact mem_of HM (by decide)
    | with_reducible exact List.Subset.trans (by decide) HM | with_reducible apply begin_does | with_reducible apply onDesc_does
    | with_reducible apply request_does | split | intro x hx | intro x | with_reducible apply Does.out | with_reducible apply Does.regs
    | with_reducible apply Does.mem | with_reducible apply Does.mix | with_reducible apply Does.hosts | with_reducible apply Does.twin

theorem execClipStop_does (h : Fin 4) (q : Fin 8) (s : State) :
    ∃ s', execClipStop h q s = .next s' ∧ Does [.out, .regs, .mem, .mix, .hosts, .twin] s s' := by
  refine ⟨_, rfl, does_start fun Hs HM => ?_⟩
  repeat' first
    | with_reducible exact Hs | with_reducible assumption | with_reducible exact mem_of HM (by decide)
    | with_reducible exact List.Subset.trans (by decide) HM | with_reducible apply begin_does | with_reducible apply onDesc_does
    | with_reducible apply request_does | split | intro x hx | intro x | with_reducible apply Does.out | with_reducible apply Does.regs
    | with_reducible apply Does.mem | with_reducible apply Does.mix | with_reducible apply Does.hosts | with_reducible apply Does.twin

theorem execOutboundReadTimeout_does (h : Fin 2) (s : State) :
    ∃ s', execOutboundReadTimeout h s = .next s' ∧ Does [.freeCtr, .out, .regs] s s' := by
  refine ⟨_, rfl, does_start fun Hs HM => ?_⟩
  repeat' first
    | with_reducible exact Hs | with_reducible assumption | with_reducible exact mem_of HM (by decide)
    | with_reducible exact List.Subset.trans (by decide) HM | with_reducible apply begin_does | with_reducible apply readTimeout_does | split
    | intro x hx | intro x | with_reducible apply Does.freeCtr | with_reducible apply Does.out | with_reducible apply Does.regs

theorem execInboundHostRequest_does (h : Fin 2) (r : InbReq) (s : State) :
    ∃ s', execInboundHostRequest h r s = .next s' ∧ Does [.freeCtr, .sub, .out, .regs, .ctl, .mem, .pea, .sec, .mix, .tdm, .dac, .byp, .tim, .lanes, .drays, .hosts, .net, .twin, .csnLatch] s s' := by
  refine ⟨_, rfl, does_start fun Hs HM => ?_⟩
  repeat' first
    | with_reducible exact Hs | with_reducible assumption | with_reducible exact mem_of HM (by decide)
    | with_reducible exact List.Subset.trans (by decide) HM | with_reducible apply begin_does | with_reducible apply inbound_does | split | intro x hx
    | intro x | with_reducible apply Does.freeCtr | with_reducible apply Does.sub | with_reducible apply Does.out | with_reducible apply Does.regs
    | with_reducible apply Does.ctl | with_reducible apply Does.mem | with_reducible apply Does.pea | with_reducible apply Does.sec
    | with_reducible apply Does.mix | with_reducible apply Does.tdm | with_reducible apply Does.dac | with_reducible apply Does.byp
    | with_reducible apply Does.tim | with_reducible apply Does.lanes | with_reducible apply Does.drays | with_reducible apply Does.hosts
    | with_reducible apply Does.net | with_reducible apply Does.twin | with_reducible apply Does.csnLatch

theorem execPcieLinkDown_does (h : Fin 2) (s : State) :
    ∃ s', execPcieLinkDown h s = .next s' ∧ Does [.out, .regs, .mem, .mix, .hosts, .net, .twin] s s' := by
  refine ⟨_, rfl, does_start fun Hs HM => ?_⟩
  repeat' first
    | with_reducible exact Hs | with_reducible assumption | with_reducible exact mem_of HM (by decide)
    | with_reducible exact List.Subset.trans (by decide) HM | with_reducible apply begin_does | with_reducible apply linkDown_does | split
    | intro x hx | intro x | with_reducible apply Does.out | with_reducible apply Does.regs | with_reducible apply Does.mem
    | with_reducible apply Does.mix | with_reducible apply Does.hosts | with_reducible apply Does.net | with_reducible apply Does.twin

theorem execFunctionLevelReset_does (h : Fin 2) (s : State) :
    ∃ s', execFunctionLevelReset h s = .next s' ∧ Does [.out, .regs, .mem, .mix, .hosts, .net, .twin] s s' := by
  refine ⟨_, rfl, does_start fun Hs HM => ?_⟩
  repeat' first
    | with_reducible exact Hs | with_reducible assumption | with_reducible exact mem_of HM (by decide)
    | with_reducible exact List.Subset.trans (by decide) HM | with_reducible apply begin_does | with_reducible apply functionReset_does | split
    | intro x hx | intro x | with_reducible apply Does.out | with_reducible apply Does.regs | with_reducible apply Does.mem
    | with_reducible apply Does.mix | with_reducible apply Does.hosts | with_reducible apply Does.net | with_reducible apply Does.twin

theorem execPcieLinkUp_does (h : Fin 2) (x2 : Bool) (gen : Fin 3) (s : State) :
    ∃ s', execPcieLinkUp h x2 gen s = .next s' ∧ Does [.out, .hosts] s s' := by
  refine ⟨_, rfl, does_start fun Hs HM => ?_⟩
  repeat' first
    | with_reducible exact Hs | with_reducible assumption | with_reducible exact mem_of HM (by decide)
    | with_reducible exact List.Subset.trans (by decide) HM | with_reducible apply begin_does | with_reducible apply linkUp_does | split | intro x hx
    | intro x | with_reducible apply Does.out | with_reducible apply Does.hosts

theorem execHostPortEnable_does (src : WrSrc) (h : Fin 4) (w : Word) (s : State) :
    ∃ s', execHostPortEnable src h w s = .next s' ∧ Does [.freeCtr, .sub, .out, .regs, .ctl, .mem, .pea, .sec, .mix, .tdm, .dac, .byp, .tim, .lanes, .drays, .hosts, .net, .twin, .csnLatch] s s' := by
  refine ⟨_, rfl, does_start fun Hs HM => ?_⟩
  repeat' first
    | with_reducible exact Hs | with_reducible assumption | with_reducible exact mem_of HM (by decide)
    | with_reducible exact List.Subset.trans (by decide) HM | with_reducible apply begin_does | with_reducible apply regWrite_does | split
    | intro x hx | intro x | with_reducible apply Does.freeCtr | with_reducible apply Does.sub | with_reducible apply Does.out
    | with_reducible apply Does.regs | with_reducible apply Does.ctl | with_reducible apply Does.mem | with_reducible apply Does.pea
    | with_reducible apply Does.sec | with_reducible apply Does.mix | with_reducible apply Does.tdm | with_reducible apply Does.dac
    | with_reducible apply Does.byp | with_reducible apply Does.tim | with_reducible apply Does.lanes | with_reducible apply Does.drays
    | with_reducible apply Does.hosts | with_reducible apply Does.net | with_reducible apply Does.twin | with_reducible apply Does.csnLatch

theorem execRingEnable_does (src : WrSrc) (h : Fin 4) (sub : Bool) (k : Fin 8) (w : Word) (s : State) :
    ∃ s', execRingEnable src h sub k w s = .next s' ∧ Does [.freeCtr, .sub, .out, .regs, .ctl, .mem, .pea, .sec, .mix, .tdm, .dac, .byp, .tim, .lanes, .drays, .hosts, .net, .twin, .csnLatch] s s' := by
  refine ⟨_, rfl, does_start fun Hs HM => ?_⟩
  repeat' first
    | with_reducible exact Hs | with_reducible assumption | with_reducible exact mem_of HM (by decide)
    | with_reducible exact List.Subset.trans (by decide) HM | with_reducible apply begin_does | with_reducible apply regWrite_does | split
    | intro x hx | intro x | with_reducible apply Does.freeCtr | with_reducible apply Does.sub | with_reducible apply Does.out
    | with_reducible apply Does.regs | with_reducible apply Does.ctl | with_reducible apply Does.mem | with_reducible apply Does.pea
    | with_reducible apply Does.sec | with_reducible apply Does.mix | with_reducible apply Does.tdm | with_reducible apply Does.dac
    | with_reducible apply Does.byp | with_reducible apply Does.tim | with_reducible apply Does.lanes | with_reducible apply Does.drays
    | with_reducible apply Does.hosts | with_reducible apply Does.net | with_reducible apply Does.twin | with_reducible apply Does.csnLatch

theorem execRingTeardown_does (src : WrSrc) (h : Fin 4) (which : RingSel) (w : Word) (s : State) :
    ∃ s', execRingTeardown src h which w s = .next s' ∧ Does [.freeCtr, .sub, .out, .regs, .ctl, .mem, .pea, .sec, .mix, .tdm, .dac, .byp, .tim, .lanes, .drays, .hosts, .net, .twin, .csnLatch] s s' := by
  refine ⟨_, rfl, does_start fun Hs HM => ?_⟩
  repeat' first
    | with_reducible exact Hs | with_reducible assumption | with_reducible exact mem_of HM (by decide)
    | with_reducible exact List.Subset.trans (by decide) HM | with_reducible apply begin_does | with_reducible apply regWrite_does | split
    | intro x hx | intro x | with_reducible apply Does.freeCtr | with_reducible apply Does.sub | with_reducible apply Does.out
    | with_reducible apply Does.regs | with_reducible apply Does.ctl | with_reducible apply Does.mem | with_reducible apply Does.pea
    | with_reducible apply Does.sec | with_reducible apply Does.mix | with_reducible apply Does.tdm | with_reducible apply Does.dac
    | with_reducible apply Does.byp | with_reducible apply Does.tim | with_reducible apply Does.lanes | with_reducible apply Does.drays
    | with_reducible apply Does.hosts | with_reducible apply Does.net | with_reducible apply Does.twin | with_reducible apply Does.csnLatch

theorem execWriteBulk_does (h : Fin 4) (q : Fin 8) (hm : HostMem) (s : State) :
    ∃ s', execWriteBulk h q hm s = .next s' ∧ Does [.freeCtr, .sub, .out, .regs, .ctl, .mem, .pea, .sec, .mix, .tdm, .dac, .byp, .tim, .lanes, .drays, .hosts, .net, .twin, .csnLatch] s s' := by
  refine ⟨_, rfl, does_start fun Hs HM => ?_⟩
  repeat' first
    | with_reducible exact Hs | with_reducible assumption | with_reducible exact mem_of HM (by decide)
    | with_reducible exact List.Subset.trans (by decide) HM | with_reducible apply begin_does | with_reducible apply copyDesc_does
    | with_reducible apply onDesc_does | split | intro x hx | intro x | with_reducible apply Does.freeCtr | with_reducible apply Does.sub
    | with_reducible apply Does.out | with_reducible apply Does.regs | with_reducible apply Does.ctl | with_reducible apply Does.mem
    | with_reducible apply Does.pea | with_reducible apply Does.sec | with_reducible apply Does.mix | with_reducible apply Does.tdm
    | with_reducible apply Does.dac | with_reducible apply Does.byp | with_reducible apply Does.tim | with_reducible apply Does.lanes
    | with_reducible apply Does.drays | with_reducible apply Does.hosts | with_reducible apply Does.net | with_reducible apply Does.twin
    | with_reducible apply Does.csnLatch

theorem execReadBulk_does (h : Fin 4) (q : Fin 8) (hm : HostMem) (s : State) :
    ∃ s', execReadBulk h q hm s = .next s' ∧ Does [.freeCtr, .sub, .out, .regs, .ctl, .mem, .pea, .sec, .mix, .tdm, .dac, .byp, .tim, .lanes, .drays, .hosts, .net, .twin, .csnLatch] s s' := by
  refine ⟨_, rfl, does_start fun Hs HM => ?_⟩
  repeat' first
    | with_reducible exact Hs | with_reducible assumption | with_reducible exact mem_of HM (by decide)
    | with_reducible exact List.Subset.trans (by decide) HM | with_reducible apply begin_does | with_reducible apply copyDesc_does
    | with_reducible apply onDesc_does | split | intro x hx | intro x | with_reducible apply Does.freeCtr | with_reducible apply Does.sub
    | with_reducible apply Does.out | with_reducible apply Does.regs | with_reducible apply Does.ctl | with_reducible apply Does.mem
    | with_reducible apply Does.pea | with_reducible apply Does.sec | with_reducible apply Does.mix | with_reducible apply Does.tdm
    | with_reducible apply Does.dac | with_reducible apply Does.byp | with_reducible apply Does.tim | with_reducible apply Does.lanes
    | with_reducible apply Does.drays | with_reducible apply Does.hosts | with_reducible apply Does.net | with_reducible apply Does.twin
    | with_reducible apply Does.csnLatch

theorem execSceneStore_does (h : Fin 4) (q : Fin 8) (hm : HostMem) (s : State) :
    ∃ s', execSceneStore h q hm s = .next s' ∧ Does [.freeCtr, .out, .regs, .mem, .pea, .sec, .mix, .hosts, .twin] s s' := by
  refine ⟨_, rfl, does_start fun Hs HM => ?_⟩
  repeat' first
    | with_reducible exact Hs | with_reducible assumption | with_reducible exact mem_of HM (by decide)
    | with_reducible exact List.Subset.trans (by decide) HM | with_reducible apply begin_does | with_reducible apply onDesc_does
    | with_reducible apply sceneDesc_does | split | intro x hx | intro x | with_reducible apply Does.freeCtr | with_reducible apply Does.out
    | with_reducible apply Does.regs | with_reducible apply Does.mem | with_reducible apply Does.pea | with_reducible apply Does.sec
    | with_reducible apply Does.mix | with_reducible apply Does.hosts | with_reducible apply Does.twin

theorem execMeterSubscribe_does (h : Fin 4) (q : Fin 8) (hm : HostMem) (s : State) :
    ∃ s', execMeterSubscribe h q hm s = .next s' ∧ Does [.out, .regs, .mem, .pea, .sec, .mix, .hosts, .twin] s s' := by
  refine ⟨_, rfl, does_start fun Hs HM => ?_⟩
  repeat' first
    | with_reducible exact Hs | with_reducible assumption | with_reducible exact mem_of HM (by decide)
    | with_reducible exact List.Subset.trans (by decide) HM | with_reducible apply begin_does | with_reducible apply meterDesc_does
    | with_reducible apply onDesc_does | split | intro x hx | intro x | with_reducible apply Does.out | with_reducible apply Does.regs
    | with_reducible apply Does.mem | with_reducible apply Does.pea | with_reducible apply Does.sec | with_reducible apply Does.mix
    | with_reducible apply Does.hosts | with_reducible apply Does.twin

theorem execMeterPeriodDelivery_does (h : Fin 4) (sub : Fin 8) (s : State) :
    ∃ s', execMeterPeriodDelivery h sub s = .next s' ∧ Does [.out, .regs, .mem, .mix, .hosts, .twin] s s' := by
  refine ⟨_, rfl, does_start fun Hs HM => ?_⟩
  repeat' first
    | with_reducible exact Hs | with_reducible assumption | with_reducible exact mem_of HM (by decide)
    | with_reducible exact List.Subset.trans (by decide) HM | with_reducible apply begin_does | with_reducible apply meterPeriod_does | split
    | intro x hx | intro x | with_reducible apply Does.out | with_reducible apply Does.regs | with_reducible apply Does.mem
    | with_reducible apply Does.mix | with_reducible apply Does.hosts | with_reducible apply Does.twin

theorem execLaneLoad_does (h : Fin 4) (q : Fin 8) (hits : MemHits) (s : State) :
    ∃ s', execLaneLoad h q hits s = .next s' ∧ Does [.out, .regs, .mem, .pea, .sec, .mix, .lanes, .hosts, .twin] s s' := by
  refine ⟨_, rfl, does_start fun Hs HM => ?_⟩
  repeat' first
    | with_reducible exact Hs | with_reducible assumption | with_reducible exact mem_of HM (by decide)
    | with_reducible exact List.Subset.trans (by decide) HM | with_reducible apply begin_does | with_reducible apply loadDesc_does
    | with_reducible apply onDesc_does | split | intro x hx | intro x | with_reducible apply Does.out | with_reducible apply Does.regs
    | with_reducible apply Does.mem | with_reducible apply Does.pea | with_reducible apply Does.sec | with_reducible apply Does.mix
    | with_reducible apply Does.lanes | with_reducible apply Does.hosts | with_reducible apply Does.twin

theorem execLaneLoadDone_does (l : Fin 64) (s : State) :
    ∃ s', execLaneLoadDone l s = .next s' ∧ Does [.out, .regs, .mem, .pea, .sec, .mix, .lanes, .hosts, .twin] s s' := by
  refine ⟨_, rfl, does_start fun Hs HM => ?_⟩
  repeat' first
    | with_reducible exact Hs | with_reducible assumption | with_reducible exact mem_of HM (by decide)
    | with_reducible exact List.Subset.trans (by decide) HM | with_reducible apply begin_does | with_reducible apply laneLoaded_does | split
    | intro x hx | intro x | with_reducible apply Does.out | with_reducible apply Does.regs | with_reducible apply Does.mem
    | with_reducible apply Does.pea | with_reducible apply Does.sec | with_reducible apply Does.mix | with_reducible apply Does.lanes
    | with_reducible apply Does.hosts | with_reducible apply Does.twin

theorem execLaneCtrlStart_does (h : Fin 4) (q : Fin 8) (s : State) :
    ∃ s', execLaneCtrlStart h q s = .next s' ∧ Does [.out, .regs, .mem, .mix, .lanes, .hosts, .twin] s s' := by
  refine ⟨_, rfl, does_start fun Hs HM => ?_⟩
  repeat' first
    | with_reducible exact Hs | with_reducible assumption | with_reducible exact mem_of HM (by decide)
    | with_reducible exact List.Subset.trans (by decide) HM | with_reducible apply begin_does | with_reducible apply onCtrl_does
    | with_reducible apply startDesc_does | split | intro x hx | intro x | with_reducible apply Does.out | with_reducible apply Does.regs
    | with_reducible apply Does.mem | with_reducible apply Does.mix | with_reducible apply Does.lanes | with_reducible apply Does.hosts
    | with_reducible apply Does.twin

theorem execLaneCtrlStop_does (h : Fin 4) (q : Fin 8) (s : State) :
    ∃ s', execLaneCtrlStop h q s = .next s' ∧ Does [.out, .regs, .mem, .mix, .lanes, .hosts, .twin] s s' := by
  refine ⟨_, rfl, does_start fun Hs HM => ?_⟩
  repeat' first
    | with_reducible exact Hs | with_reducible assumption | with_reducible exact mem_of HM (by decide)
    | with_reducible exact List.Subset.trans (by decide) HM | with_reducible apply begin_does | with_reducible apply onCtrl_does
    | with_reducible apply stopDesc_does | split | intro x hx | intro x | with_reducible apply Does.out | with_reducible apply Does.regs
    | with_reducible apply Does.mem | with_reducible apply Does.mix | with_reducible apply Does.lanes | with_reducible apply Does.hosts
    | with_reducible apply Does.twin

theorem execLaneCtrlMsg_does (h : Fin 4) (q : Fin 8) (hm : HostMem) (s : State) :
    ∃ s', execLaneCtrlMsg h q hm s = .next s' ∧ Does [.out, .regs, .mem, .pea, .sec, .mix, .lanes, .hosts, .twin] s s' := by
  refine ⟨_, rfl, does_start fun Hs HM => ?_⟩
  repeat' first
    | with_reducible exact Hs | with_reducible assumption | with_reducible exact mem_of HM (by decide)
    | with_reducible exact List.Subset.trans (by decide) HM | with_reducible apply begin_does | with_reducible apply msgDesc_does
    | with_reducible apply onCtrl_does | split | intro x hx | intro x | with_reducible apply Does.out | with_reducible apply Does.regs
    | with_reducible apply Does.mem | with_reducible apply Does.pea | with_reducible apply Does.sec | with_reducible apply Does.mix
    | with_reducible apply Does.lanes | with_reducible apply Does.hosts | with_reducible apply Does.twin

theorem execLaneCtrlZones_does (h : Fin 4) (q : Fin 8) (s : State) :
    ∃ s', execLaneCtrlZones h q s = .next s' ∧ Does [.out, .regs, .mem, .mix, .lanes, .hosts, .twin] s s' := by
  refine ⟨_, rfl, does_start fun Hs HM => ?_⟩
  repeat' first
    | with_reducible exact Hs | with_reducible assumption | with_reducible exact mem_of HM (by decide)
    | with_reducible exact List.Subset.trans (by decide) HM | with_reducible apply begin_does | with_reducible apply onCtrl_does
    | with_reducible apply zonesDesc_does | split | intro x hx | intro x | with_reducible apply Does.out | with_reducible apply Does.regs
    | with_reducible apply Does.mem | with_reducible apply Does.mix | with_reducible apply Does.lanes | with_reducible apply Does.hosts
    | with_reducible apply Does.twin

theorem execStreamOpen_does (h : Fin 4) (q : Fin 8) (hm : HostMem) (s : State) :
    ∃ s', execStreamOpen h q hm s = .next s' ∧ Does [.out, .regs, .mem, .pea, .sec, .mix, .hosts, .net, .twin] s s' := by
  refine ⟨_, rfl, does_start fun Hs HM => ?_⟩
  repeat' first
    | with_reducible exact Hs | with_reducible assumption | with_reducible exact mem_of HM (by decide)
    | with_reducible exact List.Subset.trans (by decide) HM | with_reducible apply begin_does | with_reducible apply onStream_does
    | with_reducible apply openDesc_does | split | intro x hx | intro x | with_reducible apply Does.out | with_reducible apply Does.regs
    | with_reducible apply Does.mem | with_reducible apply Does.pea | with_reducible apply Does.sec | with_reducible apply Does.mix
    | with_reducible apply Does.hosts | with_reducible apply Does.net | with_reducible apply Does.twin

theorem execStreamClose_does (h : Fin 4) (q : Fin 8) (s : State) :
    ∃ s', execStreamClose h q s = .next s' ∧ Does [.out, .regs, .mem, .mix, .hosts, .net, .twin] s s' := by
  refine ⟨_, rfl, does_start fun Hs HM => ?_⟩
  repeat' first
    | with_reducible exact Hs | with_reducible assumption | with_reducible exact mem_of HM (by decide)
    | with_reducible exact List.Subset.trans (by decide) HM | with_reducible apply begin_does | with_reducible apply closeDesc_does
    | with_reducible apply onStream_does | split | intro x hx | intro x | with_reducible apply Does.out | with_reducible apply Does.regs
    | with_reducible apply Does.mem | with_reducible apply Does.mix | with_reducible apply Does.hosts | with_reducible apply Does.net
    | with_reducible apply Does.twin

theorem execPeerSet_does (h : Fin 4) (q : Fin 8) (hm : HostMem) (s : State) :
    ∃ s', execPeerSet h q hm s = .next s' ∧ Does [.out, .regs, .mem, .pea, .sec, .mix, .hosts, .net, .twin] s s' := by
  refine ⟨_, rfl, does_start fun Hs HM => ?_⟩
  repeat' first
    | with_reducible exact Hs | with_reducible assumption | with_reducible exact mem_of HM (by decide)
    | with_reducible exact List.Subset.trans (by decide) HM | with_reducible apply begin_does | with_reducible apply onStream_does
    | with_reducible apply peerDesc_does | split | intro x hx | intro x | with_reducible apply Does.out | with_reducible apply Does.regs
    | with_reducible apply Does.mem | with_reducible apply Does.pea | with_reducible apply Does.sec | with_reducible apply Does.mix
    | with_reducible apply Does.hosts | with_reducible apply Does.net | with_reducible apply Does.twin

theorem execNetTx_does (h : Fin 4) (q : Fin 8) (hm : HostMem) (s : State) :
    ∃ s', execNetTx h q hm s = .next s' ∧ Does [.out, .regs, .mem, .pea, .sec, .mix, .hosts, .net, .twin] s s' := by
  refine ⟨_, rfl, does_start fun Hs HM => ?_⟩
  repeat' first
    | with_reducible exact Hs | with_reducible assumption | with_reducible exact mem_of HM (by decide)
    | with_reducible exact List.Subset.trans (by decide) HM | with_reducible apply begin_does | with_reducible apply onDesc_does
    | with_reducible apply txDesc_does | split | intro x hx | intro x | with_reducible apply Does.out | with_reducible apply Does.regs
    | with_reducible apply Does.mem | with_reducible apply Does.pea | with_reducible apply Does.sec | with_reducible apply Does.mix
    | with_reducible apply Does.hosts | with_reducible apply Does.net | with_reducible apply Does.twin

theorem execNetRxPost_does (h : Fin 4) (q : Fin 8) (s : State) :
    ∃ s', execNetRxPost h q s = .next s' ∧ Does [.out, .regs, .mem, .mix, .hosts, .twin] s s' := by
  refine ⟨_, rfl, does_start fun Hs HM => ?_⟩
  repeat' first
    | with_reducible exact Hs | with_reducible assumption | with_reducible exact mem_of HM (by decide)
    | with_reducible exact List.Subset.trans (by decide) HM | with_reducible apply begin_does | with_reducible apply onDesc_does
    | with_reducible apply rxDesc_does | split | intro x hx | intro x | with_reducible apply Does.out | with_reducible apply Does.regs
    | with_reducible apply Does.mem | with_reducible apply Does.mix | with_reducible apply Does.hosts | with_reducible apply Does.twin

theorem execKeyLoad_does (h : Fin 4) (q : Fin 8) (s : State) :
    ∃ s', execKeyLoad h q s = .next s' ∧ Does [.out, .regs, .mem, .pea, .sec, .mix, .hosts, .twin] s s' := by
  refine ⟨_, rfl, does_start fun Hs HM => ?_⟩
  repeat' first
    | with_reducible exact Hs | with_reducible assumption | with_reducible exact mem_of HM (by decide)
    | with_reducible exact List.Subset.trans (by decide) HM | with_reducible apply begin_does | with_reducible apply keyDesc_does
    | with_reducible apply onDesc_does | split | intro x hx | intro x | with_reducible apply Does.out | with_reducible apply Does.regs
    | with_reducible apply Does.mem | with_reducible apply Does.pea | with_reducible apply Does.sec | with_reducible apply Does.mix
    | with_reducible apply Does.hosts | with_reducible apply Does.twin

theorem execLogRead_does (h : Fin 4) (q : Fin 8) (s : State) :
    ∃ s', execLogRead h q s = .next s' ∧ Does [.out, .regs, .mem, .mix, .hosts, .twin] s s' := by
  refine ⟨_, rfl, does_start fun Hs HM => ?_⟩
  repeat' first
    | with_reducible exact Hs | with_reducible assumption | with_reducible exact mem_of HM (by decide)
    | with_reducible exact List.Subset.trans (by decide) HM | with_reducible apply begin_does | with_reducible apply logDesc_does
    | with_reducible apply onDesc_does | split | intro x hx | intro x | with_reducible apply Does.out | with_reducible apply Does.regs
    | with_reducible apply Does.mem | with_reducible apply Does.mix | with_reducible apply Does.hosts | with_reducible apply Does.twin

theorem execTimeQuery_does (h : Fin 4) (q : Fin 8) (s : State) :
    ∃ s', execTimeQuery h q s = .next s' ∧ Does [.freeCtr, .out, .regs, .mem, .mix, .hosts, .twin] s s' := by
  refine ⟨_, rfl, does_start fun Hs HM => ?_⟩
  repeat' first
    | with_reducible exact Hs | with_reducible assumption | with_reducible exact mem_of HM (by decide)
    | with_reducible exact List.Subset.trans (by decide) HM | with_reducible apply begin_does | with_reducible apply onDesc_does
    | with_reducible apply timeDesc_does | split | intro x hx | intro x | with_reducible apply Does.freeCtr | with_reducible apply Does.out
    | with_reducible apply Does.regs | with_reducible apply Does.mem | with_reducible apply Does.mix | with_reducible apply Does.hosts
    | with_reducible apply Does.twin

theorem execDrayInputCopyDone_does (d : Fin 4) (s : State) :
    ∃ s', execDrayInputCopyDone d s = .next s' ∧ Does [.out, .lanes, .drays] s s' := by
  refine ⟨_, rfl, does_start fun Hs HM => ?_⟩
  repeat' first
    | with_reducible exact Hs | with_reducible assumption | with_reducible exact mem_of HM (by decide)
    | with_reducible exact List.Subset.trans (by decide) HM | with_reducible apply begin_does | with_reducible apply inputCopy_does | split
    | intro x hx | intro x | with_reducible apply Does.out | with_reducible apply Does.lanes | with_reducible apply Does.drays

theorem execLaneDeadline_does (d : Fin 4) (s : State) :
    ∃ s', execLaneDeadline d s = .next s' ∧ Does [.out, .regs, .lanes] s s' := by
  refine ⟨_, rfl, does_start fun Hs HM => ?_⟩
  repeat' first
    | with_reducible exact Hs | with_reducible assumption | with_reducible exact mem_of HM (by decide)
    | with_reducible exact List.Subset.trans (by decide) HM | with_reducible apply begin_does | with_reducible apply laneDeadline_does | split
    | intro x hx | intro x | with_reducible apply Does.out | with_reducible apply Does.regs | with_reducible apply Does.lanes

theorem execBundleIssue_does (l : Fin 64) (cor : Nat) (s : State) :
    ∃ s', execBundleIssue l cor s = .next s' ∧ Does [.freeCtr, .out, .regs, .lanes, .drays] s s' := by
  refine ⟨_, rfl, does_start fun Hs HM => ?_⟩
  repeat' first
    | with_reducible exact Hs | with_reducible assumption | with_reducible exact mem_of HM (by decide)
    | with_reducible exact List.Subset.trans (by decide) HM | with_reducible apply begin_does | with_reducible apply issueBundle_does
    | with_reducible apply laneCorrected_does | split | intro x hx | intro x | with_reducible apply Does.freeCtr | with_reducible apply Does.out
    | with_reducible apply Does.regs | with_reducible apply Does.lanes | with_reducible apply Does.drays

theorem execLaneInterruptEntry_does (l : Fin 64) (s : State) :
    ∃ s', execLaneInterruptEntry l s = .next s' ∧ Does [.out, .regs, .ctl, .mem, .mix, .tim, .lanes, .twin] s s' := by
  refine ⟨_, rfl, does_start fun Hs HM => ?_⟩
  repeat' first
    | with_reducible exact Hs | with_reducible assumption | with_reducible exact mem_of HM (by decide)
    | with_reducible exact List.Subset.trans (by decide) HM | with_reducible apply begin_does | with_reducible apply interrupt_does | split
    | intro x hx | intro x | with_reducible apply Does.out | with_reducible apply Does.regs | with_reducible apply Does.ctl
    | with_reducible apply Does.mem | with_reducible apply Does.mix | with_reducible apply Does.tim | with_reducible apply Does.lanes
    | with_reducible apply Does.twin

theorem execLaneDmaComplete_does (l : Fin 64) (hits : MemHits) (cor : Nat) (s : State) :
    ∃ s', execLaneDmaComplete l hits cor s = .next s' ∧ Does [.out, .regs, .mem, .pea, .sec, .mix, .lanes, .drays, .twin] s s' := by
  refine ⟨_, rfl, does_start fun Hs HM => ?_⟩
  repeat' first
    | with_reducible exact Hs | with_reducible assumption | with_reducible exact mem_of HM (by decide)
    | with_reducible exact List.Subset.trans (by decide) HM | with_reducible apply begin_does | with_reducible apply dmaDone_does
    | with_reducible apply laneCorrected_does | split | intro x hx | intro x | with_reducible apply Does.out | with_reducible apply Does.regs
    | with_reducible apply Does.mem | with_reducible apply Does.pea | with_reducible apply Does.sec | with_reducible apply Does.mix
    | with_reducible apply Does.lanes | with_reducible apply Does.drays | with_reducible apply Does.twin

theorem execLaneHwFault_does (d : Fin 4) (phys : Fin 17) (badWords : List Nat) (s : State) :
    ∃ s', execLaneHwFault d phys badWords s = .next s' ∧ Does [.out, .regs, .ctl, .pea, .sec, .lanes, .drays] s s' := by
  refine ⟨_, rfl, does_start fun Hs HM => ?_⟩
  repeat' first
    | with_reducible exact Hs | with_reducible assumption | with_reducible exact mem_of HM (by decide)
    | with_reducible exact List.Subset.trans (by decide) HM | with_reducible apply begin_does | with_reducible apply laneFault_does | split
    | intro x hx | intro x | with_reducible apply Does.out | with_reducible apply Does.regs | with_reducible apply Does.ctl
    | with_reducible apply Does.pea | with_reducible apply Does.sec | with_reducible apply Does.lanes | with_reducible apply Does.drays

theorem execDryCtlWrite_does (src : WrSrc) (d : Fin 4) (w : Word) (s : State) :
    ∃ s', execDryCtlWrite src d w s = .next s' ∧ Does [.freeCtr, .sub, .out, .regs, .ctl, .mem, .pea, .sec, .mix, .tdm, .dac, .byp, .tim, .lanes, .drays, .hosts, .net, .twin, .csnLatch] s s' := by
  refine ⟨_, rfl, does_start fun Hs HM => ?_⟩
  repeat' first
    | with_reducible exact Hs | with_reducible assumption | with_reducible exact mem_of HM (by decide)
    | with_reducible exact List.Subset.trans (by decide) HM | with_reducible apply begin_does | with_reducible apply regWrite_does | split
    | intro x hx | intro x | with_reducible apply Does.freeCtr | with_reducible apply Does.sub | with_reducible apply Does.out
    | with_reducible apply Does.regs | with_reducible apply Does.ctl | with_reducible apply Does.mem | with_reducible apply Does.pea
    | with_reducible apply Does.sec | with_reducible apply Does.mix | with_reducible apply Does.tdm | with_reducible apply Does.dac
    | with_reducible apply Does.byp | with_reducible apply Does.tim | with_reducible apply Does.lanes | with_reducible apply Does.drays
    | with_reducible apply Does.hosts | with_reducible apply Does.net | with_reducible apply Does.twin | with_reducible apply Does.csnLatch

theorem execSelftestVisit_does (s : State) :
    ∃ s', execSelftestVisit s = .next s' ∧ Does [.out, .ctl, .drays] s s' := by
  refine ⟨_, rfl, does_start fun Hs HM => ?_⟩
  repeat' first
    | with_reducible exact Hs | with_reducible assumption | with_reducible exact mem_of HM (by decide)
    | with_reducible exact List.Subset.trans (by decide) HM | with_reducible apply begin_does | with_reducible apply stVisit_does | split | intro x hx
    | intro x | with_reducible apply Does.out | with_reducible apply Does.ctl | with_reducible apply Does.drays

theorem execLaneMigration_does (d : Fin 4) (s : State) :
    ∃ s', execLaneMigration d s = .next s' ∧ Does [.out, .ctl, .drays] s s' := by
  refine ⟨_, rfl, does_start fun Hs HM => ?_⟩
  repeat' first
    | with_reducible exact Hs | with_reducible assumption | with_reducible exact mem_of HM (by decide)
    | with_reducible exact List.Subset.trans (by decide) HM | with_reducible apply begin_does | with_reducible apply migrate_does | split | intro x hx
    | intro x | with_reducible apply Does.out | with_reducible apply Does.ctl | with_reducible apply Does.drays

theorem execLaneMigrationSkip_does (d : Fin 4) (s : State) :
    ∃ s', execLaneMigrationSkip d s = .next s' ∧ Does [.out, .regs, .drays] s s' := by
  refine ⟨_, rfl, does_start fun Hs HM => ?_⟩
  repeat' first
    | with_reducible exact Hs | with_reducible assumption | with_reducible exact mem_of HM (by decide)
    | with_reducible exact List.Subset.trans (by decide) HM | with_reducible apply begin_does | with_reducible apply migrateSkip_does | split
    | intro x hx | intro x | with_reducible apply Does.out | with_reducible apply Does.regs | with_reducible apply Does.drays

theorem execSelftestComplete_does (pass : Bool) (s : State) :
    ∃ s', execSelftestComplete pass s = .next s' ∧ Does [.out, .regs, .ctl, .pea, .sec, .twin] s s' := by
  refine ⟨_, rfl, does_start fun Hs HM => ?_⟩
  repeat' first
    | with_reducible exact Hs | with_reducible assumption | with_reducible exact mem_of HM (by decide)
    | with_reducible exact List.Subset.trans (by decide) HM | with_reducible apply begin_does | with_reducible apply stDone_does | split | intro x hx
    | intro x | with_reducible apply Does.out | with_reducible apply Does.regs | with_reducible apply Does.ctl | with_reducible apply Does.pea
    | with_reducible apply Does.sec | with_reducible apply Does.twin

theorem execUnitFault_does (k : UnitKind) (phys : Fin 34) (s : State) :
    ∃ s', execUnitFault k phys s = .next s' ∧ Does [.out, .ctl, .pea, .sec] s s' := by
  refine ⟨_, rfl, does_start fun Hs HM => ?_⟩
  repeat' first
    | with_reducible exact Hs | with_reducible assumption | with_reducible exact mem_of HM (by decide)
    | with_reducible exact List.Subset.trans (by decide) HM | with_reducible apply begin_does | with_reducible apply unitFault_does | split
    | intro x hx | intro x | with_reducible apply Does.out | with_reducible apply Does.ctl | with_reducible apply Does.pea
    | with_reducible apply Does.sec

theorem execReadId_does (i : Fin 2) (s : State) :
    ∃ s', execReadId i s = .next s' ∧ Does [.out, .mem] s s' := by
  refine ⟨_, rfl, does_start fun Hs HM => ?_⟩
  repeat' first
    | with_reducible exact Hs | with_reducible assumption | with_reducible exact mem_of HM (by decide)
    | with_reducible exact List.Subset.trans (by decide) HM | with_reducible apply begin_does | with_reducible apply spiId_does | split | intro x hx
    | intro x | with_reducible apply Does.out | with_reducible apply Does.mem

theorem execReadStatus_does (i : Fin 2) (s : State) :
    ∃ s', execReadStatus i s = .next s' ∧ Does [.out, .mem] s s' := by
  refine ⟨_, rfl, does_start fun Hs HM => ?_⟩
  repeat' first
    | with_reducible exact Hs | with_reducible assumption | with_reducible exact mem_of HM (by decide)
    | with_reducible exact List.Subset.trans (by decide) HM | with_reducible apply begin_does | with_reducible apply spiReadStatus_does | split
    | intro x hx | intro x | with_reducible apply Does.out | with_reducible apply Does.mem

theorem execRead_does (i : Fin 2) (addr : BitVec 40) (len : Nat) (late : Bool) (hits : MemHits) (s : State) :
    ∃ s', execRead i addr len late hits s = .next s' ∧ Does [.freeCtr, .sub, .out, .regs, .ctl, .mem, .pea, .sec, .mix, .tdm, .dac, .byp, .tim, .lanes, .drays, .hosts, .net, .twin, .csnLatch] s s' := by
  refine ⟨_, rfl, does_start fun Hs HM => ?_⟩
  repeat' first
    | with_reducible exact Hs | with_reducible assumption | with_reducible exact mem_of HM (by decide)
    | with_reducible exact List.Subset.trans (by decide) HM | with_reducible apply begin_does | with_reducible apply spiRead_does | split | intro x hx
    | intro x | with_reducible apply Does.freeCtr | with_reducible apply Does.sub | with_reducible apply Does.out | with_reducible apply Does.regs
    | with_reducible apply Does.ctl | with_reducible apply Does.mem | with_reducible apply Does.pea | with_reducible apply Does.sec
    | with_reducible apply Does.mix | with_reducible apply Does.tdm | with_reducible apply Does.dac | with_reducible apply Does.byp
    | with_reducible apply Does.tim | with_reducible apply Does.lanes | with_reducible apply Does.drays | with_reducible apply Does.hosts
    | with_reducible apply Does.net | with_reducible apply Does.twin | with_reducible apply Does.csnLatch

theorem execWrite_does (i : Fin 2) (addr : BitVec 40) (data : List Byte) (hits : MemHits) (s : State) :
    ∃ s', execWrite i addr data hits s = .next s' ∧ Does [.out, .regs, .mem, .hosts] s s' := by
  refine ⟨_, rfl, does_start fun Hs HM => ?_⟩
  repeat' first
    | with_reducible exact Hs | with_reducible assumption | with_reducible exact mem_of HM (by decide)
    | with_reducible exact List.Subset.trans (by decide) HM | with_reducible apply begin_does | with_reducible apply spiWrite_does | split
    | intro x hx | intro x | with_reducible apply Does.out | with_reducible apply Does.regs | with_reducible apply Does.mem
    | with_reducible apply Does.hosts

theorem execMode_does (i : Fin 2) (b : Byte) (s : State) :
    ∃ s', execMode i b s = .next s' ∧ Does [.out, .mem, .hosts] s s' := by
  refine ⟨_, rfl, does_start fun Hs HM => ?_⟩
  repeat' first
    | with_reducible exact Hs | with_reducible assumption | with_reducible exact mem_of HM (by decide)
    | with_reducible exact List.Subset.trans (by decide) HM | with_reducible apply begin_does | with_reducible apply spiMode_does | split | intro x hx
    | intro x | with_reducible apply Does.out | with_reducible apply Does.mem | with_reducible apply Does.hosts

theorem execRecoveryRead_does (h : Fin 4) (off : BitVec 12) (s : State) :
    ∃ s', execRecoveryRead h off s = .next s' ∧ Does [.out, .mem] s s' := by
  refine ⟨_, rfl, does_start fun Hs HM => ?_⟩
  repeat' first
    | with_reducible exact Hs | with_reducible assumption | with_reducible exact mem_of HM (by decide)
    | with_reducible exact List.Subset.trans (by decide) HM | with_reducible apply begin_does | with_reducible apply recoveryRead_does | split
    | intro x hx | intro x | with_reducible apply Does.out | with_reducible apply Does.mem

theorem execRecoveryWrite_does (h : Fin 4) (off : BitVec 12) (w : Word) (s : State) :
    ∃ s', execRecoveryWrite h off w s = .next s' ∧ Does [.freeCtr, .sub, .out, .regs, .ctl, .mem, .pea, .sec, .mix, .tdm, .dac, .byp, .tim, .lanes, .drays, .hosts, .net, .twin, .csnLatch] s s' := by
  refine ⟨_, rfl, does_start fun Hs HM => ?_⟩
  repeat' first
    | with_reducible exact Hs | with_reducible assumption | with_reducible exact mem_of HM (by decide)
    | with_reducible exact List.Subset.trans (by decide) HM | with_reducible apply begin_does | with_reducible apply recoveryWrite_does | split
    | intro x hx | intro x | with_reducible apply Does.freeCtr | with_reducible apply Does.sub | with_reducible apply Does.out
    | with_reducible apply Does.regs | with_reducible apply Does.ctl | with_reducible apply Does.mem | with_reducible apply Does.pea
    | with_reducible apply Does.sec | with_reducible apply Does.mix | with_reducible apply Does.tdm | with_reducible apply Does.dac
    | with_reducible apply Does.byp | with_reducible apply Does.tim | with_reducible apply Does.lanes | with_reducible apply Does.drays
    | with_reducible apply Does.hosts | with_reducible apply Does.net | with_reducible apply Does.twin | with_reducible apply Does.csnLatch

theorem execResetEnable_does (i : Fin 2) (s : State) :
    ∃ s', execResetEnable i s = .next s' ∧ Does [.out, .mem, .hosts] s s' := by
  refine ⟨_, rfl, does_start fun Hs HM => ?_⟩
  repeat' first
    | with_reducible exact Hs | with_reducible assumption | with_reducible exact mem_of HM (by decide)
    | with_reducible exact List.Subset.trans (by decide) HM | with_reducible apply begin_does | with_reducible apply spiArm_does | split | intro x hx
    | intro x | with_reducible apply Does.out | with_reducible apply Does.mem | with_reducible apply Does.hosts

theorem execPortReset_does (i : Fin 2) (s : State) :
    ∃ s', execPortReset i s = .next s' ∧ Does [.out, .regs, .mem, .mix, .hosts, .net, .twin] s s' := by
  refine ⟨_, rfl, does_start fun Hs HM => ?_⟩
  repeat' first
    | with_reducible exact Hs | with_reducible assumption | with_reducible exact mem_of HM (by decide)
    | with_reducible exact List.Subset.trans (by decide) HM | with_reducible apply begin_does | with_reducible apply spiReset_does | split
    | intro x hx | intro x | with_reducible apply Does.out | with_reducible apply Does.regs | with_reducible apply Does.mem
    | with_reducible apply Does.mix | with_reducible apply Does.hosts | with_reducible apply Does.net | with_reducible apply Does.twin

theorem execSpiUnknownOpcode_does (i : Fin 2) (op : Byte) (s : State) :
    ∃ s', execSpiUnknownOpcode i op s = .next s' ∧ Does [.out, .regs, .mem] s s' := by
  refine ⟨_, rfl, does_start fun Hs HM => ?_⟩
  repeat' first
    | with_reducible exact Hs | with_reducible assumption | with_reducible exact mem_of HM (by decide)
    | with_reducible exact List.Subset.trans (by decide) HM | with_reducible apply begin_does | with_reducible apply spiUnknown_does | split
    | intro x hx | intro x | with_reducible apply Does.out | with_reducible apply Does.regs | with_reducible apply Does.mem

theorem execSpiCsRise_does (i : Fin 2) (s : State) :
    ∃ s', execSpiCsRise i s = .next s' ∧ Does [.freeCtr, .sub, .out, .regs, .ctl, .mem, .pea, .sec, .mix, .tdm, .dac, .byp, .tim, .lanes, .drays, .hosts, .net, .twin, .csnLatch] s s' := by
  refine ⟨_, rfl, does_start fun Hs HM => ?_⟩
  repeat' first
    | with_reducible exact Hs | with_reducible assumption | with_reducible exact mem_of HM (by decide)
    | with_reducible exact List.Subset.trans (by decide) HM | with_reducible apply begin_does | with_reducible apply spiEnd_does | split | intro x hx
    | intro x | with_reducible apply Does.freeCtr | with_reducible apply Does.sub | with_reducible apply Does.out | with_reducible apply Does.regs
    | with_reducible apply Does.ctl | with_reducible apply Does.mem | with_reducible apply Does.pea | with_reducible apply Does.sec
    | with_reducible apply Does.mix | with_reducible apply Does.tdm | with_reducible apply Does.dac | with_reducible apply Does.byp
    | with_reducible apply Does.tim | with_reducible apply Does.lanes | with_reducible apply Does.drays | with_reducible apply Does.hosts
    | with_reducible apply Does.net | with_reducible apply Does.twin | with_reducible apply Does.csnLatch

theorem execMatrixGrant_does (pt : Fin 8) (r : MtxReq) (s : State) :
    ∃ s', execMatrixGrant pt r s = .next s' ∧ Does [.freeCtr, .sub, .out, .regs, .ctl, .mem, .pea, .sec, .mix, .tdm, .dac, .byp, .tim, .lanes, .drays, .hosts, .net, .twin, .csnLatch] s s' := by
  refine ⟨_, rfl, does_start fun Hs HM => ?_⟩
  repeat' first
    | with_reducible exact Hs | with_reducible assumption | with_reducible exact mem_of HM (by decide)
    | with_reducible exact List.Subset.trans (by decide) HM | with_reducible apply arbitrate_does | with_reducible apply begin_does | split
    | intro x hx | intro x | with_reducible apply Does.freeCtr | with_reducible apply Does.sub | with_reducible apply Does.out
    | with_reducible apply Does.regs | with_reducible apply Does.ctl | with_reducible apply Does.mem | with_reducible apply Does.pea
    | with_reducible apply Does.sec | with_reducible apply Does.mix | with_reducible apply Does.tdm | with_reducible apply Does.dac
    | with_reducible apply Does.byp | with_reducible apply Does.tim | with_reducible apply Does.lanes | with_reducible apply Does.drays
    | with_reducible apply Does.hosts | with_reducible apply Does.net | with_reducible apply Does.twin | with_reducible apply Does.csnLatch

theorem execQosWrite_does (src : WrSrc) (pt : Fin 8) (w : Word) (s : State) :
    ∃ s', execQosWrite src pt w s = .next s' ∧ Does [.freeCtr, .sub, .out, .regs, .ctl, .mem, .pea, .sec, .mix, .tdm, .dac, .byp, .tim, .lanes, .drays, .hosts, .net, .twin, .csnLatch] s s' := by
  refine ⟨_, rfl, does_start fun Hs HM => ?_⟩
  repeat' first
    | with_reducible exact Hs | with_reducible assumption | with_reducible exact mem_of HM (by decide)
    | with_reducible exact List.Subset.trans (by decide) HM | with_reducible apply begin_does | with_reducible apply regWrite_does | split
    | intro x hx | intro x | with_reducible apply Does.freeCtr | with_reducible apply Does.sub | with_reducible apply Does.out
    | with_reducible apply Does.regs | with_reducible apply Does.ctl | with_reducible apply Does.mem | with_reducible apply Does.pea
    | with_reducible apply Does.sec | with_reducible apply Does.mix | with_reducible apply Does.tdm | with_reducible apply Does.dac
    | with_reducible apply Does.byp | with_reducible apply Does.tim | with_reducible apply Does.lanes | with_reducible apply Does.drays
    | with_reducible apply Does.hosts | with_reducible apply Does.net | with_reducible apply Does.twin | with_reducible apply Does.csnLatch

theorem execBankOwnerWrite_does (src : WrSrc) (n : Fin 32) (w : Word) (s : State) :
    ∃ s', execBankOwnerWrite src n w s = .next s' ∧ Does [.freeCtr, .sub, .out, .regs, .ctl, .mem, .pea, .sec, .mix, .tdm, .dac, .byp, .tim, .lanes, .drays, .hosts, .net, .twin, .csnLatch] s s' := by
  refine ⟨_, rfl, does_start fun Hs HM => ?_⟩
  repeat' first
    | with_reducible exact Hs | with_reducible assumption | with_reducible exact mem_of HM (by decide)
    | with_reducible exact List.Subset.trans (by decide) HM | with_reducible apply begin_does | with_reducible apply regWrite_does | split
    | intro x hx | intro x | with_reducible apply Does.freeCtr | with_reducible apply Does.sub | with_reducible apply Does.out
    | with_reducible apply Does.regs | with_reducible apply Does.ctl | with_reducible apply Does.mem | with_reducible apply Does.pea
    | with_reducible apply Does.sec | with_reducible apply Does.mix | with_reducible apply Does.tdm | with_reducible apply Does.dac
    | with_reducible apply Does.byp | with_reducible apply Does.tim | with_reducible apply Does.lanes | with_reducible apply Does.drays
    | with_reducible apply Does.hosts | with_reducible apply Does.net | with_reducible apply Does.twin | with_reducible apply Does.csnLatch

theorem execBankHandoverDone_does (n : Fin 32) (s : State) :
    ∃ s', execBankHandoverDone n s = .next s' ∧ Does [.out, .mem] s s' := by
  refine ⟨_, rfl, does_start fun Hs HM => ?_⟩
  repeat' first
    | with_reducible exact Hs | with_reducible assumption | with_reducible exact mem_of HM (by decide)
    | with_reducible exact List.Subset.trans (by decide) HM | with_reducible apply bankDone_does | with_reducible apply begin_does | split
    | intro x hx | intro x | with_reducible apply Does.out | with_reducible apply Does.mem

theorem execPatrolScrub_does (found : List ScrubHit) (s : State) :
    ∃ s', execPatrolScrub found s = .next s' ∧ Does [.out, .regs, .ctl, .mem, .twin] s s' := by
  refine ⟨_, rfl, does_start fun Hs HM => ?_⟩
  repeat' first
    | with_reducible exact Hs | with_reducible assumption | with_reducible exact mem_of HM (by decide)
    | with_reducible exact List.Subset.trans (by decide) HM | with_reducible apply begin_does | with_reducible apply patrol_does | split | intro x hx
    | intro x | with_reducible apply Does.out | with_reducible apply Does.regs | with_reducible apply Does.ctl | with_reducible apply Does.mem
    | with_reducible apply Does.twin

theorem execMemoryTrainingDone_does (gib : Option Nat) (s : State) :
    ∃ s', execMemoryTrainingDone gib s = .next s' ∧ Does [.out, .ctl, .mem] s s' := by
  refine ⟨_, rfl, does_start fun Hs HM => ?_⟩
  repeat' first
    | with_reducible exact Hs | with_reducible assumption | with_reducible exact mem_of HM (by decide)
    | with_reducible exact List.Subset.trans (by decide) HM | with_reducible apply begin_does | with_reducible apply trained_does | split | intro x hx
    | intro x | with_reducible apply Does.out | with_reducible apply Does.ctl | with_reducible apply Does.mem

theorem execLinkChange_does (p : Fin 4) (up : Bool) (speed : BitVec 2) (an : Bool) (s : State) :
    ∃ s', execLinkChange p up speed an s = .next s' ∧ Does [.out, .regs, .mem, .mix, .hosts, .net, .twin] s s' := by
  refine ⟨_, rfl, does_start fun Hs HM => ?_⟩
  repeat' first
    | with_reducible exact Hs | with_reducible assumption | with_reducible exact mem_of HM (by decide)
    | with_reducible exact List.Subset.trans (by decide) HM | with_reducible apply begin_does | with_reducible apply inStr_does
    | with_reducible apply linkChange_does | split | intro x hx | intro x | with_reducible apply Does.out | with_reducible apply Does.regs
    | with_reducible apply Does.mem | with_reducible apply Does.mix | with_reducible apply Does.hosts | with_reducible apply Does.net
    | with_reducible apply Does.twin

theorem execFrameReceive_does (p : Fin 4) (f : RxFrame) (s : State) :
    ∃ s', execFrameReceive p f s = .next s' ∧ Does [.freeCtr, .out, .regs, .mem, .mix, .tim, .hosts, .net, .twin] s s' := by
  refine ⟨_, rfl, does_start fun Hs HM => ?_⟩
  repeat' first
    | with_reducible exact Hs | with_reducible assumption | with_reducible exact mem_of HM (by decide)
    | with_reducible exact List.Subset.trans (by decide) HM | with_reducible apply begin_does | with_reducible apply frameIn_does | split | intro x hx
    | intro x | with_reducible apply Does.freeCtr | with_reducible apply Does.out | with_reducible apply Does.regs | with_reducible apply Does.mem
    | with_reducible apply Does.mix | with_reducible apply Does.tim | with_reducible apply Does.hosts | with_reducible apply Does.net
    | with_reducible apply Does.twin

theorem execFrameDeparture_does (p : Fin 4) (t : BitVec 80) (s : State) :
    ∃ s', execFrameDeparture p t s = .next s' ∧ Does [.freeCtr, .out, .regs, .mem, .mix, .hosts, .net, .twin] s s' := by
  refine ⟨_, rfl, does_start fun Hs HM => ?_⟩
  repeat' first
    | with_reducible exact Hs | with_reducible assumption | with_reducible exact mem_of HM (by decide)
    | with_reducible exact List.Subset.trans (by decide) HM | with_reducible apply begin_does | with_reducible apply depart_does | split | intro x hx
    | intro x | with_reducible apply Does.freeCtr | with_reducible apply Does.out | with_reducible apply Does.regs | with_reducible apply Does.mem
    | with_reducible apply Does.mix | with_reducible apply Does.hosts | with_reducible apply Does.net | with_reducible apply Does.twin

theorem execListenerLost_does (n : Fin 256) (s : State) :
    ∃ s', execListenerLost n s = .next s' ∧ Does [.out, .net] s s' := by
  refine ⟨_, rfl, does_start fun Hs HM => ?_⟩
  repeat' first
    | with_reducible exact Hs | with_reducible assumption | with_reducible exact mem_of HM (by decide)
    | with_reducible exact List.Subset.trans (by decide) HM | with_reducible apply begin_does | with_reducible apply inStr_does
    | with_reducible apply listenerLost_does | split | intro x hx | intro x | with_reducible apply Does.out | with_reducible apply Does.net

theorem execPrpSupervisionSend_does (q : Fin 2) (s : State) :
    ∃ s', execPrpSupervisionSend q s = .next s' ∧ Does [.out, .regs, .mem, .mix, .hosts, .net, .twin] s s' := by
  refine ⟨_, rfl, does_start fun Hs HM => ?_⟩
  repeat' first
    | with_reducible exact Hs | with_reducible assumption | with_reducible exact mem_of HM (by decide)
    | with_reducible exact List.Subset.trans (by decide) HM | with_reducible apply begin_does | with_reducible apply inStr_does
    | with_reducible apply superSend_does | split | intro x hx | intro x | with_reducible apply Does.out | with_reducible apply Does.regs
    | with_reducible apply Does.mem | with_reducible apply Does.mix | with_reducible apply Does.hosts | with_reducible apply Does.net
    | with_reducible apply Does.twin

theorem execPrpEntryAgeout_does (q : Fin 2) (src : BitVec 48) (s : State) :
    ∃ s', execPrpEntryAgeout q src s = .next s' ∧ Does [.out, .net] s s' := by
  refine ⟨_, rfl, does_start fun Hs HM => ?_⟩
  repeat' first
    | with_reducible exact Hs | with_reducible assumption | with_reducible exact mem_of HM (by decide)
    | with_reducible exact List.Subset.trans (by decide) HM | with_reducible apply begin_does | with_reducible apply dupForget_does
    | with_reducible apply inStr_does | split | intro x hx | intro x | with_reducible apply Does.out | with_reducible apply Does.net

theorem execPdelayReqSend_does (p : Fin 4) (s : State) :
    ∃ s', execPdelayReqSend p s = .next s' ∧ Does [.out, .net] s s' := by
  refine ⟨_, rfl, does_start fun Hs HM => ?_⟩
  repeat' first
    | with_reducible exact Hs | with_reducible assumption | with_reducible exact mem_of HM (by decide)
    | with_reducible exact List.Subset.trans (by decide) HM | with_reducible apply begin_does | with_reducible apply pdelaySend_does | split
    | intro x hx | intro x | with_reducible apply Does.out | with_reducible apply Does.net

theorem execSyncSend_does (p : Fin 4) (dom : Fin 2) (s : State) :
    ∃ s', execSyncSend p dom s = .next s' ∧ Does [.out, .net] s s' := by
  refine ⟨_, rfl, does_start fun Hs HM => ?_⟩
  repeat' first
    | with_reducible exact Hs | with_reducible assumption | with_reducible exact mem_of HM (by decide)
    | with_reducible exact List.Subset.trans (by decide) HM | with_reducible apply begin_does | with_reducible apply syncSend_does | split
    | intro x hx | intro x | with_reducible apply Does.out | with_reducible apply Does.net

theorem execGptpSyncTimeout_does (dom : Fin 2) (s : State) :
    ∃ s', execGptpSyncTimeout dom s = .next s' ∧ Does [.out, .tim, .net] s s' := by
  refine ⟨_, rfl, does_start fun Hs HM => ?_⟩
  repeat' first
    | with_reducible exact Hs | with_reducible assumption | with_reducible exact mem_of HM (by decide)
    | with_reducible exact List.Subset.trans (by decide) HM | with_reducible apply begin_does | with_reducible apply gptpLost_does
    | with_reducible apply inStr_does | split | intro x hx | intro x | with_reducible apply Does.out | with_reducible apply Does.tim
    | with_reducible apply Does.net

theorem execCrfOffsetReport_does (n : Fin 256) (s : State) :
    ∃ s', execCrfOffsetReport n s = .next s' ∧ Does [.out, .net] s s' := by
  refine ⟨_, rfl, does_start fun Hs HM => ?_⟩
  repeat' first
    | with_reducible exact Hs | with_reducible assumption | with_reducible exact mem_of HM (by decide)
    | with_reducible exact List.Subset.trans (by decide) HM | with_reducible apply begin_does | with_reducible apply crfReport_does
    | with_reducible apply inStr_does | split | intro x hx | intro x | with_reducible apply Does.out | with_reducible apply Does.net

theorem execAnnounceSend_does (p : Fin 4) (dom : Fin 2) (s : State) :
    ∃ s', execAnnounceSend p dom s = .next s' ∧ Does [.out, .net] s s' := by
  refine ⟨_, rfl, does_start fun Hs HM => ?_⟩
  repeat' first
    | with_reducible exact Hs | with_reducible assumption | with_reducible exact mem_of HM (by decide)
    | with_reducible exact List.Subset.trans (by decide) HM | with_reducible apply announceSend_does | with_reducible apply begin_does | split
    | intro x hx | intro x | with_reducible apply Does.out | with_reducible apply Does.net

theorem execRootLock_does (s : State) :
    ∃ s', execRootLock s = .next s' ∧ Does [.out, .ctl, .tim] s s' := by
  refine ⟨_, rfl, does_start fun Hs HM => ?_⟩
  repeat' first
    | with_reducible exact Hs | with_reducible assumption | with_reducible exact mem_of HM (by decide)
    | with_reducible exact List.Subset.trans (by decide) HM | with_reducible apply begin_does | with_reducible apply rootLock_does | split
    | intro x hx | intro x | with_reducible apply Does.out | with_reducible apply Does.ctl | with_reducible apply Does.tim

theorem execRootLoss_does (s : State) :
    ∃ s', execRootLoss s = .next s' ∧ Does [.freeCtr, .out, .regs, .ctl, .mem, .pea, .sec, .mix, .tdm, .dac, .byp, .tim, .lanes, .drays, .hosts, .net, .twin, .csnLatch] s s' := by
  refine ⟨_, rfl, does_start fun Hs HM => ?_⟩
  repeat' first
    | with_reducible exact Hs | with_reducible assumption | with_reducible exact mem_of HM (by decide)
    | with_reducible exact List.Subset.trans (by decide) HM | with_reducible apply begin_does | with_reducible apply rootLoss_does | split
    | intro x hx | intro x | with_reducible apply Does.freeCtr | with_reducible apply Does.out | with_reducible apply Does.regs
    | with_reducible apply Does.ctl | with_reducible apply Does.mem | with_reducible apply Does.pea | with_reducible apply Does.sec
    | with_reducible apply Does.mix | with_reducible apply Does.tdm | with_reducible apply Does.dac | with_reducible apply Does.byp
    | with_reducible apply Does.tim | with_reducible apply Does.lanes | with_reducible apply Does.drays | with_reducible apply Does.hosts
    | with_reducible apply Does.net | with_reducible apply Does.twin | with_reducible apply Does.csnLatch

theorem execRefMeasurement_does (r : Fin 9) (m : RefMeas) (s : State) :
    ∃ s', execRefMeasurement r m s = .next s' ∧ Does [.out, .regs, .mem, .tim] s s' := by
  refine ⟨_, rfl, does_start fun Hs HM => ?_⟩
  repeat' first
    | with_reducible exact Hs | with_reducible assumption | with_reducible exact mem_of HM (by decide)
    | with_reducible exact List.Subset.trans (by decide) HM | with_reducible apply begin_does | with_reducible apply lose_does
    | with_reducible apply measure_does | with_reducible apply missed_does | with_reducible apply present_does | split | intro x hx | intro x
    | with_reducible apply Does.out | with_reducible apply Does.regs | with_reducible apply Does.mem | with_reducible apply Does.tim

theorem execRefLost_does (r : Fin 9) (s : State) :
    ∃ s', execRefLost r s = .next s' ∧ Does [.out, .tim] s s' := by
  refine ⟨_, rfl, does_start fun Hs HM => ?_⟩
  repeat' first
    | with_reducible exact Hs | with_reducible assumption | with_reducible exact mem_of HM (by decide)
    | with_reducible exact List.Subset.trans (by decide) HM | with_reducible apply begin_does | with_reducible apply lose_does | split | intro x hx
    | intro x | with_reducible apply Does.out | with_reducible apply Does.tim

theorem execRefDisqualify_does (r : Fin 9) (s : State) :
    ∃ s', execRefDisqualify r s = .next s' ∧ Does [.out, .regs, .tim] s s' := by
  refine ⟨_, rfl, does_start fun Hs HM => ?_⟩
  repeat' first
    | with_reducible exact Hs | with_reducible assumption | with_reducible exact mem_of HM (by decide)
    | with_reducible exact List.Subset.trans (by decide) HM | with_reducible apply begin_does | with_reducible apply disqualify_does | split
    | intro x hx | intro x | with_reducible apply Does.out | with_reducible apply Does.regs | with_reducible apply Does.tim

theorem execRefQualify_does (r : Fin 9) (s : State) :
    ∃ s', execRefQualify r s = .next s' ∧ Does [.out, .regs, .tim] s s' := by
  refine ⟨_, rfl, does_start fun Hs HM => ?_⟩
  repeat' first
    | with_reducible exact Hs | with_reducible assumption | with_reducible exact mem_of HM (by decide)
    | with_reducible exact List.Subset.trans (by decide) HM | with_reducible apply begin_does | with_reducible apply qualify_does | split | intro x hx
    | intro x | with_reducible apply Does.out | with_reducible apply Does.regs | with_reducible apply Does.tim

theorem execReferenceEvaluation_does (s : State) :
    ∃ s', execReferenceEvaluation s = .next s' ∧ Does [.freeCtr, .out, .regs, .tim, .net, .twin] s s' := by
  refine ⟨_, rfl, does_start fun Hs HM => ?_⟩
  repeat' first
    | with_reducible exact Hs | with_reducible assumption | with_reducible exact mem_of HM (by decide)
    | with_reducible exact List.Subset.trans (by decide) HM | with_reducible apply begin_does | with_reducible apply evaluate_does | split
    | intro x hx | intro x | with_reducible apply Does.freeCtr | with_reducible apply Does.out | with_reducible apply Does.regs
    | with_reducible apply Does.tim | with_reducible apply Does.net | with_reducible apply Does.twin

theorem execJamnow_does (src : WrSrc) (w : Word) (s : State) :
    ∃ s', execJamnow src w s = .next s' ∧ Does [.freeCtr, .sub, .out, .regs, .ctl, .mem, .pea, .sec, .mix, .tdm, .dac, .byp, .tim, .lanes, .drays, .hosts, .net, .twin, .csnLatch] s s' := by
  refine ⟨_, rfl, does_start fun Hs HM => ?_⟩
  repeat' first
    | with_reducible exact Hs | with_reducible assumption | with_reducible exact mem_of HM (by decide)
    | with_reducible exact List.Subset.trans (by decide) HM | with_reducible apply begin_does | with_reducible apply regWrite_does | split
    | intro x hx | intro x | with_reducible apply Does.freeCtr | with_reducible apply Does.sub | with_reducible apply Does.out
    | with_reducible apply Does.regs | with_reducible apply Does.ctl | with_reducible apply Does.mem | with_reducible apply Does.pea
    | with_reducible apply Does.sec | with_reducible apply Does.mix | with_reducible apply Does.tdm | with_reducible apply Does.dac
    | with_reducible apply Does.byp | with_reducible apply Does.tim | with_reducible apply Does.lanes | with_reducible apply Does.drays
    | with_reducible apply Does.hosts | with_reducible apply Does.net | with_reducible apply Does.twin | with_reducible apply Does.csnLatch

theorem execTimeLocked_does (s : State) :
    ∃ s', execTimeLocked s = .next s' ∧ Does [.out, .tim] s s' := by
  refine ⟨_, rfl, does_start fun Hs HM => ?_⟩
  repeat' first
    | with_reducible exact Hs | with_reducible assumption | with_reducible exact mem_of HM (by decide)
    | with_reducible exact List.Subset.trans (by decide) HM | with_reducible apply begin_does | with_reducible apply timeLocked_does | split
    | intro x hx | intro x | with_reducible apply Does.out | with_reducible apply Does.tim

theorem execBuildoutRemoved_does (s : State) :
    ∃ s', execBuildoutRemoved s = .next s' ∧ Does [.out, .tim] s s' := by
  refine ⟨_, rfl, does_start fun Hs HM => ?_⟩
  repeat' first
    | with_reducible exact Hs | with_reducible assumption | with_reducible exact mem_of HM (by decide)
    | with_reducible exact List.Subset.trans (by decide) HM | with_reducible apply begin_does | with_reducible apply buildoutRemoved_does | split
    | intro x hx | intro x | with_reducible apply Does.out | with_reducible apply Does.tim

theorem execSmoulderValid_does (s : State) :
    ∃ s', execSmoulderValid s = .next s' ∧ Does [.out, .tim] s s' := by
  refine ⟨_, rfl, does_start fun Hs HM => ?_⟩
  repeat' first
    | with_reducible exact Hs | with_reducible assumption | with_reducible exact mem_of HM (by decide)
    | with_reducible exact List.Subset.trans (by decide) HM | with_reducible apply begin_does | with_reducible apply smoValid_does | split
    | intro x hx | intro x | with_reducible apply Does.out | with_reducible apply Does.tim

theorem execSmoulderLearn_does (s : State) :
    ∃ s', execSmoulderLearn s = .next s' ∧ Does [.out, .tim] s s' := by
  refine ⟨_, rfl, does_start fun Hs HM => ?_⟩
  repeat' first
    | with_reducible exact Hs | with_reducible assumption | with_reducible exact mem_of HM (by decide)
    | with_reducible exact List.Subset.trans (by decide) HM | with_reducible apply begin_does | with_reducible apply learn_does | split | intro x hx
    | intro x | with_reducible apply Does.out | with_reducible apply Does.tim

theorem execSmoulderSave_does (s : State) :
    ∃ s', execSmoulderSave s = .next s' ∧ Does [.out, .pea] s s' := by
  refine ⟨_, rfl, does_start fun Hs HM => ?_⟩
  repeat' first
    | with_reducible exact Hs | with_reducible assumption | with_reducible exact mem_of HM (by decide)
    | with_reducible exact List.Subset.trans (by decide) HM | with_reducible apply begin_does | with_reducible apply smoSave_does | split | intro x hx
    | intro x | with_reducible apply Does.out | with_reducible apply Does.pea

theorem execTdmStartGo_does (src : WrSrc) (w : Word) (s : State) :
    ∃ s', execTdmStartGo src w s = .next s' ∧ Does [.freeCtr, .sub, .out, .regs, .ctl, .mem, .pea, .sec, .mix, .tdm, .dac, .byp, .tim, .lanes, .drays, .hosts, .net, .twin, .csnLatch] s s' := by
  refine ⟨_, rfl, does_start fun Hs HM => ?_⟩
  repeat' first
    | with_reducible exact Hs | with_reducible assumption | with_reducible exact mem_of HM (by decide)
    | with_reducible exact List.Subset.trans (by decide) HM | with_reducible apply begin_does | with_reducible apply regWrite_does | split
    | intro x hx | intro x | with_reducible apply Does.freeCtr | with_reducible apply Does.sub | with_reducible apply Does.out
    | with_reducible apply Does.regs | with_reducible apply Does.ctl | with_reducible apply Does.mem | with_reducible apply Does.pea
    | with_reducible apply Does.sec | with_reducible apply Does.mix | with_reducible apply Does.tdm | with_reducible apply Does.dac
    | with_reducible apply Does.byp | with_reducible apply Does.tim | with_reducible apply Does.lanes | with_reducible apply Does.drays
    | with_reducible apply Does.hosts | with_reducible apply Does.net | with_reducible apply Does.twin | with_reducible apply Does.csnLatch

theorem execTdmStartPin_does (s : State) :
    ∃ s', execTdmStartPin s = .next s' ∧ Does [.freeCtr, .sub, .out, .regs, .tdm, .byp] s s' := by
  refine ⟨_, rfl, does_start fun Hs HM => ?_⟩
  repeat' first
    | with_reducible exact Hs | with_reducible assumption | with_reducible exact mem_of HM (by decide)
    | with_reducible exact List.Subset.trans (by decide) HM | with_reducible apply begin_does | with_reducible apply onPorts_does
    | with_reducible apply tdmStart_does | split | intro x hx | intro x | with_reducible apply Does.freeCtr | with_reducible apply Does.sub
    | with_reducible apply Does.out | with_reducible apply Does.regs | with_reducible apply Does.tdm | with_reducible apply Does.byp

theorem execTdmStartReached_does (s : State) :
    ∃ s', execTdmStartReached s = .next s' ∧ Does [.freeCtr, .out, .tdm, .byp] s s' := by
  refine ⟨_, rfl, does_start fun Hs HM => ?_⟩
  refine onPorts_does _ _ (begin_does _ Hs (List.Subset.trans (by decide) HM)) (fun t Ht => ?_) (List.Subset.trans (by decide) HM)
  generalize List.finRange 16 = l
  exact Ht.foldl fun _ _ H => tdmBegin_does _ _ H (List.Subset.trans (by decide) HM)

theorem execTdmSlaveFrame_does (n : Fin 16) (f : SlaveFrame) (s : State) :
    ∃ s', execTdmSlaveFrame n f s = .next s' ∧ Does [.sub, .out, .regs, .tdm, .byp] s s' := by
  refine ⟨_, rfl, does_start fun Hs HM => ?_⟩
  repeat' first
    | with_reducible exact Hs | with_reducible assumption | with_reducible exact mem_of HM (by decide)
    | with_reducible exact List.Subset.trans (by decide) HM | with_reducible apply acFrame_does | with_reducible apply begin_does
    | with_reducible apply onPorts_does | with_reducible apply slaveFrame_does | split | intro x hx | intro x | with_reducible apply Does.sub
    | with_reducible apply Does.out | with_reducible apply Does.regs | with_reducible apply Does.tdm | with_reducible apply Does.byp

theorem execTdmStop_does (src : WrSrc) (n : Fin 16) (w : Word) (s : State) :
    ∃ s', execTdmStop src n w s = .next s' ∧ Does [.freeCtr, .sub, .out, .regs, .ctl, .mem, .pea, .sec, .mix, .tdm, .dac, .byp, .tim, .lanes, .drays, .hosts, .net, .twin, .csnLatch] s s' := by
  refine ⟨_, rfl, does_start fun Hs HM => ?_⟩
  repeat' first
    | with_reducible exact Hs | with_reducible assumption | with_reducible exact mem_of HM (by decide)
    | with_reducible exact List.Subset.trans (by decide) HM | with_reducible apply begin_does | with_reducible apply regWrite_does | split
    | intro x hx | intro x | with_reducible apply Does.freeCtr | with_reducible apply Does.sub | with_reducible apply Does.out
    | with_reducible apply Does.regs | with_reducible apply Does.ctl | with_reducible apply Does.mem | with_reducible apply Does.pea
    | with_reducible apply Does.sec | with_reducible apply Does.mix | with_reducible apply Does.tdm | with_reducible apply Does.dac
    | with_reducible apply Does.byp | with_reducible apply Does.tim | with_reducible apply Does.lanes | with_reducible apply Does.drays
    | with_reducible apply Does.hosts | with_reducible apply Does.net | with_reducible apply Does.twin | with_reducible apply Does.csnLatch

theorem execTdmSwap_does (src : WrSrc) (n : Fin 16) (w : Word) (s : State) :
    ∃ s', execTdmSwap src n w s = .next s' ∧ Does [.freeCtr, .sub, .out, .regs, .ctl, .mem, .pea, .sec, .mix, .tdm, .dac, .byp, .tim, .lanes, .drays, .hosts, .net, .twin, .csnLatch] s s' := by
  refine ⟨_, rfl, does_start fun Hs HM => ?_⟩
  repeat' first
    | with_reducible exact Hs | with_reducible assumption | with_reducible exact mem_of HM (by decide)
    | with_reducible exact List.Subset.trans (by decide) HM | with_reducible apply begin_does | with_reducible apply regWrite_does | split
    | intro x hx | intro x | with_reducible apply Does.freeCtr | with_reducible apply Does.sub | with_reducible apply Does.out
    | with_reducible apply Does.regs | with_reducible apply Does.ctl | with_reducible apply Does.mem | with_reducible apply Does.pea
    | with_reducible apply Does.sec | with_reducible apply Does.mix | with_reducible apply Does.tdm | with_reducible apply Does.dac
    | with_reducible apply Does.byp | with_reducible apply Does.tim | with_reducible apply Does.lanes | with_reducible apply Does.drays
    | with_reducible apply Does.hosts | with_reducible apply Does.net | with_reducible apply Does.twin | with_reducible apply Does.csnLatch

theorem execTdmSwapApply_does (n : Fin 16) (s : State) :
    ∃ s', execTdmSwapApply n s = .next s' ∧ Does [.freeCtr, .sub, .out, .tdm, .byp] s s' := by
  refine ⟨_, rfl, does_start fun Hs HM => ?_⟩
  repeat' first
    | with_reducible exact Hs | with_reducible assumption | with_reducible exact mem_of HM (by decide)
    | with_reducible exact List.Subset.trans (by decide) HM | with_reducible apply begin_does | with_reducible apply onPorts_does
    | with_reducible apply swapApply_does | split | intro x hx | intro x | with_reducible apply Does.freeCtr | with_reducible apply Does.sub
    | with_reducible apply Does.out | with_reducible apply Does.tdm | with_reducible apply Does.byp

theorem execTdmRestart_does (src : WrSrc) (n : Fin 16) (auto : Bool) (w : Word) (s : State) :
    ∃ s', execTdmRestart src n auto w s = .next s' ∧ Does [.freeCtr, .sub, .out, .regs, .ctl, .mem, .pea, .sec, .mix, .tdm, .dac, .byp, .tim, .lanes, .drays, .hosts, .net, .twin, .csnLatch] s s' := by
  refine ⟨_, rfl, does_start fun Hs HM => ?_⟩
  repeat' first
    | with_reducible exact Hs | with_reducible assumption | with_reducible exact mem_of HM (by decide)
    | with_reducible exact List.Subset.trans (by decide) HM | with_reducible apply begin_does | with_reducible apply onPorts_does
    | with_reducible apply regWrite_does | with_reducible apply tdmRestart_does | split | intro x hx | intro x | with_reducible apply Does.freeCtr
    | with_reducible apply Does.sub | with_reducible apply Does.out | with_reducible apply Does.regs | with_reducible apply Does.ctl
    | with_reducible apply Does.mem | with_reducible apply Does.pea | with_reducible apply Does.sec | with_reducible apply Does.mix
    | with_reducible apply Does.tdm | with_reducible apply Does.dac | with_reducible apply Does.byp | with_reducible apply Does.tim
    | with_reducible apply Does.lanes | with_reducible apply Does.drays | with_reducible apply Does.hosts | with_reducible apply Does.net
    | with_reducible apply Does.twin | with_reducible apply Does.csnLatch

theorem execTdmClockLost_does (n : Fin 16) (s : State) :
    ∃ s', execTdmClockLost n s = .next s' ∧ Does [.freeCtr, .sub, .out, .regs, .tdm, .byp, .tim] s s' := by
  refine ⟨_, rfl, does_start fun Hs HM => ?_⟩
  repeat' first
    | with_reducible exact Hs | with_reducible assumption | with_reducible exact mem_of HM (by decide)
    | with_reducible exact List.Subset.trans (by decide) HM | with_reducible apply begin_does | with_reducible apply clockLost_does
    | with_reducible apply onPorts_does | split | intro x hx | intro x | with_reducible apply Does.freeCtr | with_reducible apply Does.sub
    | with_reducible apply Does.out | with_reducible apply Does.regs | with_reducible apply Does.tdm | with_reducible apply Does.byp
    | with_reducible apply Does.tim

theorem execTdmRateWindow_does (n : Fin 16) (ofs : Int) (s : State) :
    ∃ s', execTdmRateWindow n ofs s = .next s' ∧ Does [.freeCtr, .sub, .out, .regs, .tdm, .byp] s s' := by
  refine ⟨_, rfl, does_start fun Hs HM => ?_⟩
  repeat' first
    | with_reducible exact Hs | with_reducible assumption | with_reducible exact mem_of HM (by decide)
    | with_reducible exact List.Subset.trans (by decide) HM | with_reducible apply begin_does | with_reducible apply onPorts_does
    | with_reducible apply rateWindow_does | split | intro x hx | intro x | with_reducible apply Does.freeCtr | with_reducible apply Does.sub
    | with_reducible apply Does.out | with_reducible apply Does.regs | with_reducible apply Does.tdm | with_reducible apply Does.byp

theorem execDacCodeWrite_does (src : WrSrc) (n : Fin 8) (w : Word) (s : State) :
    ∃ s', execDacCodeWrite src n w s = .next s' ∧ Does [.freeCtr, .sub, .out, .regs, .ctl, .mem, .pea, .sec, .mix, .tdm, .dac, .byp, .tim, .lanes, .drays, .hosts, .net, .twin, .csnLatch] s s' := by
  refine ⟨_, rfl, does_start fun Hs HM => ?_⟩
  repeat' first
    | with_reducible exact Hs | with_reducible assumption | with_reducible exact mem_of HM (by decide)
    | with_reducible exact List.Subset.trans (by decide) HM | with_reducible apply begin_does | with_reducible apply regWrite_does | split
    | intro x hx | intro x | with_reducible apply Does.freeCtr | with_reducible apply Does.sub | with_reducible apply Does.out
    | with_reducible apply Does.regs | with_reducible apply Does.ctl | with_reducible apply Does.mem | with_reducible apply Does.pea
    | with_reducible apply Does.sec | with_reducible apply Does.mix | with_reducible apply Does.tdm | with_reducible apply Does.dac
    | with_reducible apply Does.byp | with_reducible apply Does.tim | with_reducible apply Does.lanes | with_reducible apply Does.drays
    | with_reducible apply Does.hosts | with_reducible apply Does.net | with_reducible apply Does.twin | with_reducible apply Does.csnLatch

theorem execDacCfgWrite_does (src : WrSrc) (n : Fin 8) (w : Word) (s : State) :
    ∃ s', execDacCfgWrite src n w s = .next s' ∧ Does [.freeCtr, .sub, .out, .regs, .ctl, .mem, .pea, .sec, .mix, .tdm, .dac, .byp, .tim, .lanes, .drays, .hosts, .net, .twin, .csnLatch] s s' := by
  refine ⟨_, rfl, does_start fun Hs HM => ?_⟩
  repeat' first
    | with_reducible exact Hs | with_reducible assumption | with_reducible exact mem_of HM (by decide)
    | with_reducible exact List.Subset.trans (by decide) HM | with_reducible apply begin_does | with_reducible apply regWrite_does | split
    | intro x hx | intro x | with_reducible apply Does.freeCtr | with_reducible apply Does.sub | with_reducible apply Does.out
    | with_reducible apply Does.regs | with_reducible apply Does.ctl | with_reducible apply Does.mem | with_reducible apply Does.pea
    | with_reducible apply Does.sec | with_reducible apply Does.mix | with_reducible apply Does.tdm | with_reducible apply Does.dac
    | with_reducible apply Does.byp | with_reducible apply Does.tim | with_reducible apply Does.lanes | with_reducible apply Does.drays
    | with_reducible apply Does.hosts | with_reducible apply Does.net | with_reducible apply Does.twin | with_reducible apply Does.csnLatch

theorem execHitEnable_does (src : WrSrc) (w : Word) (s : State) :
    ∃ s', execHitEnable src w s = .next s' ∧ Does [.freeCtr, .sub, .out, .regs, .ctl, .mem, .pea, .sec, .mix, .tdm, .dac, .byp, .tim, .lanes, .drays, .hosts, .net, .twin, .csnLatch] s s' := by
  refine ⟨_, rfl, does_start fun Hs HM => ?_⟩
  repeat' first
    | with_reducible exact Hs | with_reducible assumption | with_reducible exact mem_of HM (by decide)
    | with_reducible exact List.Subset.trans (by decide) HM | with_reducible apply begin_does | with_reducible apply regWrite_does | split
    | intro x hx | intro x | with_reducible apply Does.freeCtr | with_reducible apply Does.sub | with_reducible apply Does.out
    | with_reducible apply Does.regs | with_reducible apply Does.ctl | with_reducible apply Does.mem | with_reducible apply Does.pea
    | with_reducible apply Does.sec | with_reducible apply Does.mix | with_reducible apply Does.tdm | with_reducible apply Does.dac
    | with_reducible apply Does.byp | with_reducible apply Does.tim | with_reducible apply Does.lanes | with_reducible apply Does.drays
    | with_reducible apply Does.hosts | with_reducible apply Does.net | with_reducible apply Does.twin | with_reducible apply Does.csnLatch

theorem execHitchPairSend_does (s : State) :
    ∃ s', execHitchPairSend s = .next s' ∧ Does [.out, .twin] s s' := by
  refine ⟨_, rfl, does_start fun Hs HM => ?_⟩
  repeat' first
    | with_reducible exact Hs | with_reducible assumption | with_reducible exact mem_of HM (by decide)
    | with_reducible exact List.Subset.trans (by decide) HM | with_reducible apply begin_does | with_reducible apply pairSend_does | split
    | intro x hx | intro x | with_reducible apply Does.out | with_reducible apply Does.twin

theorem execSeekTimeout_does (s : State) :
    ∃ s', execSeekTimeout s = .next s' ∧ Does [.out, .twin] s s' := by
  refine ⟨_, rfl, does_start fun Hs HM => ?_⟩
  repeat' first
    | with_reducible exact Hs | with_reducible assumption | with_reducible exact mem_of HM (by decide)
    | with_reducible exact List.Subset.trans (by decide) HM | with_reducible apply begin_does | with_reducible apply seekTimeout_does | split
    | intro x hx | intro x | with_reducible apply Does.out | with_reducible apply Does.twin

theorem execHitchPair_does (vmask : BitVec 8) (home : Bool) (st : BitVec 3) (digest : BitVec 32) (s : State) :
    ∃ s', execHitchPair vmask home st digest s = .next s' ∧ Does [.freeCtr, .out, .regs, .twin] s s' := by
  refine ⟨_, rfl, does_start fun Hs HM => ?_⟩
  repeat' first
    | with_reducible exact Hs | with_reducible assumption | with_reducible exact mem_of HM (by decide)
    | with_reducible exact List.Subset.trans (by decide) HM | with_reducible apply begin_does | with_reducible apply pairIn_does | split | intro x hx
    | intro x | with_reducible apply Does.freeCtr | with_reducible apply Does.out | with_reducible apply Does.regs | with_reducible apply Does.twin

theorem execHitchRenewSend_does (s : State) :
    ∃ s', execHitchRenewSend s = .next s' ∧ Does [.out, .regs, .twin] s s' := by
  refine ⟨_, rfl, does_start fun Hs HM => ?_⟩
  repeat' first
    | with_reducible exact Hs | with_reducible assumption | with_reducible exact mem_of HM (by decide)
    | with_reducible exact List.Subset.trans (by decide) HM | with_reducible apply begin_does | with_reducible apply renewSend_does | split
    | intro x hx | intro x | with_reducible apply Does.out | with_reducible apply Does.regs | with_reducible apply Does.twin

theorem execHitchRenew_does (rseq : BitVec 32) (s : State) :
    ∃ s', execHitchRenew rseq s = .next s' ∧ Does [.freeCtr, .out, .regs, .twin] s s' := by
  refine ⟨_, rfl, does_start fun Hs HM => ?_⟩
  repeat' first
    | with_reducible exact Hs | with_reducible assumption | with_reducible exact mem_of HM (by decide)
    | with_reducible exact List.Subset.trans (by decide) HM | with_reducible apply begin_does | with_reducible apply heard_does
    | with_reducible apply renewIn_does | split | intro x hx | intro x | with_reducible apply Does.freeCtr | with_reducible apply Does.out
    | with_reducible apply Does.regs | with_reducible apply Does.twin

theorem execHitchAck_does (rseq : BitVec 32) (ready : Bool) (sync : BitVec 2) (rtt : Nat) (s : State) :
    ∃ s', execHitchAck rseq ready sync rtt s = .next s' ∧ Does [.freeCtr, .out, .regs, .twin] s s' := by
  refine ⟨_, rfl, does_start fun Hs HM => ?_⟩
  repeat' first
    | with_reducible exact Hs | with_reducible assumption | with_reducible exact mem_of HM (by decide)
    | with_reducible exact List.Subset.trans (by decide) HM | with_reducible apply ackIn_does | with_reducible apply begin_does
    | with_reducible apply heard_does | split | intro x hx | intro x | with_reducible apply Does.freeCtr | with_reducible apply Does.out
    | with_reducible apply Does.regs | with_reducible apply Does.twin

theorem execDriveLeaseEnd_does (s : State) :
    ∃ s', execDriveLeaseEnd s = .next s' ∧ Does [.out, .regs, .mix, .twin] s s' := by
  refine ⟨_, rfl, does_start fun Hs HM => ?_⟩
  repeat' first
    | with_reducible exact Hs | with_reducible assumption | with_reducible exact mem_of HM (by decide)
    | with_reducible exact List.Subset.trans (by decide) HM | with_reducible apply begin_does | with_reducible apply leaseEnd_does | split
    | intro x hx | intro x | with_reducible apply Does.out | with_reducible apply Does.regs | with_reducible apply Does.mix
    | with_reducible apply Does.twin

theorem execLeaseExpiryTakeover_does (s : State) :
    ∃ s', execLeaseExpiryTakeover s = .next s' ∧ Does [.out, .regs, .mem, .mix, .hosts, .twin] s s' := by
  refine ⟨_, rfl, does_start fun Hs HM => ?_⟩
  repeat' first
    | with_reducible exact Hs | with_reducible assumption | with_reducible exact mem_of HM (by decide)
    | with_reducible exact List.Subset.trans (by decide) HM | with_reducible apply begin_does | with_reducible apply leaseTakeover_does | split
    | intro x hx | intro x | with_reducible apply Does.out | with_reducible apply Does.regs | with_reducible apply Does.mem
    | with_reducible apply Does.mix | with_reducible apply Does.hosts | with_reducible apply Does.twin

theorem execHeldTimeout_does (s : State) :
    ∃ s', execHeldTimeout s = .next s' ∧ Does [.out, .twin] s s' := by
  refine ⟨_, rfl, does_start fun Hs HM => ?_⟩
  repeat' first
    | with_reducible exact Hs | with_reducible assumption | with_reducible exact mem_of HM (by decide)
    | with_reducible exact List.Subset.trans (by decide) HM | with_reducible apply begin_does | with_reducible apply heldTimeout_does | split
    | intro x hx | intro x | with_reducible apply Does.out | with_reducible apply Does.twin

theorem execGiveupTrigger_does (cause : Fin 8) (s : State) :
    ∃ s', execGiveupTrigger cause s = .next s' ∧ Does [.out, .regs, .twin] s s' := by
  refine ⟨_, rfl, does_start fun Hs HM => ?_⟩
  repeat' first
    | with_reducible exact Hs | with_reducible assumption | with_reducible exact mem_of HM (by decide)
    | with_reducible exact List.Subset.trans (by decide) HM | with_reducible apply begin_does | with_reducible apply trigger_does | split | intro x hx
    | intro x | with_reducible apply Does.out | with_reducible apply Does.regs | with_reducible apply Does.twin

theorem execGiveUp_does (s : State) :
    ∃ s', execGiveUp s = .next s' ∧ Does [.out, .regs, .twin] s s' := by
  refine ⟨_, rfl, does_start fun Hs HM => ?_⟩
  repeat' first
    | with_reducible exact Hs | with_reducible assumption | with_reducible exact mem_of HM (by decide)
    | with_reducible exact List.Subset.trans (by decide) HM | with_reducible apply begin_does | with_reducible apply giveUpNow_does | split
    | intro x hx | intro x | with_reducible apply Does.out | with_reducible apply Does.regs | with_reducible apply Does.twin

theorem execHitchGiveup_does (g : BitVec 64) (cause : BitVec 8) (s : State) :
    ∃ s', execHitchGiveup g cause s = .next s' ∧ Does [.freeCtr, .out, .regs, .mem, .mix, .hosts, .twin] s s' := by
  refine ⟨_, rfl, does_start fun Hs HM => ?_⟩
  repeat' first
    | with_reducible exact Hs | with_reducible assumption | with_reducible exact mem_of HM (by decide)
    | with_reducible exact List.Subset.trans (by decide) HM | with_reducible apply begin_does | with_reducible apply giveupIn_does
    | with_reducible apply heard_does | split | intro x hx | intro x | with_reducible apply Does.freeCtr | with_reducible apply Does.out
    | with_reducible apply Does.regs | with_reducible apply Does.mem | with_reducible apply Does.mix | with_reducible apply Does.hosts
    | with_reducible apply Does.twin

theorem execHandoverStart_does (s : State) :
    ∃ s', execHandoverStart s = .next s' ∧ Does [.freeCtr, .out, .twin] s s' := by
  refine ⟨_, rfl, does_start fun Hs HM => ?_⟩
  repeat' first
    | with_reducible exact Hs | with_reducible assumption | with_reducible exact mem_of HM (by decide)
    | with_reducible exact List.Subset.trans (by decide) HM | with_reducible apply begin_does | with_reducible apply revert_does | split | intro x hx
    | intro x | with_reducible apply Does.freeCtr | with_reducible apply Does.out | with_reducible apply Does.twin

theorem execHitchHandover_does (hb : BitVec 64) (s : State) :
    ∃ s', execHitchHandover hb s = .next s' ∧ Does [.freeCtr, .out, .regs, .twin] s s' := by
  refine ⟨_, rfl, does_start fun Hs HM => ?_⟩
  repeat' first
    | with_reducible exact Hs | with_reducible assumption | with_reducible exact mem_of HM (by decide)
    | with_reducible exact List.Subset.trans (by decide) HM | with_reducible apply begin_does | with_reducible apply handIn_does
    | with_reducible apply heard_does | split | intro x hx | intro x | with_reducible apply Does.freeCtr | with_reducible apply Does.out
    | with_reducible apply Does.regs | with_reducible apply Does.twin

theorem execHitchHandack_does (hb : BitVec 64) (accept : Bool) (s : State) :
    ∃ s', execHitchHandack hb accept s = .next s' ∧ Does [.freeCtr, .out, .regs, .twin] s s' := by
  refine ⟨_, rfl, does_start fun Hs HM => ?_⟩
  repeat' first
    | with_reducible exact Hs | with_reducible assumption | with_reducible exact mem_of HM (by decide)
    | with_reducible exact List.Subset.trans (by decide) HM | with_reducible apply begin_does | with_reducible apply handAck_does
    | with_reducible apply heard_does | split | intro x hx | intro x | with_reducible apply Does.freeCtr | with_reducible apply Does.out
    | with_reducible apply Does.regs | with_reducible apply Does.twin

theorem execHitchFwd_does (fwdid : BitVec 32) (h : Fin 4) (desc : List Byte) (data : List Byte) (s : State) :
    ∃ s', execHitchFwd fwdid h desc data s = .next s' ∧ Does [.freeCtr, .out, .regs, .ctl, .mem, .mix, .tim, .twin] s s' := by
  refine ⟨_, rfl, does_start fun Hs HM => ?_⟩
  repeat' first
    | with_reducible exact Hs | with_reducible assumption | with_reducible exact mem_of HM (by decide)
    | with_reducible exact List.Subset.trans (by decide) HM | with_reducible apply begin_does | with_reducible apply fwdIn_does
    | with_reducible apply heard_does | with_reducible apply now_does | split | intro x hx | intro x | with_reducible apply Does.freeCtr
    | with_reducible apply Does.out | with_reducible apply Does.regs | with_reducible apply Does.ctl | with_reducible apply Does.mem
    | with_reducible apply Does.mix | with_reducible apply Does.tim | with_reducible apply Does.twin

theorem execHitchFwdreply_does (fwdid : BitVec 32) (csn : BitVec 48) (status : BitVec 16) (s : State) :
    ∃ s', execHitchFwdreply fwdid csn status s = .next s' ∧ Does [.freeCtr, .out, .regs, .mem, .mix, .hosts, .twin] s s' := by
  refine ⟨_, rfl, does_start fun Hs HM => ?_⟩
  repeat' first
    | with_reducible exact Hs | with_reducible assumption | with_reducible exact mem_of HM (by decide)
    | with_reducible exact List.Subset.trans (by decide) HM | with_reducible apply begin_does | with_reducible apply fwdReply_does
    | with_reducible apply heard_does | split | intro x hx | intro x | with_reducible apply Does.freeCtr | with_reducible apply Does.out
    | with_reducible apply Does.regs | with_reducible apply Does.mem | with_reducible apply Does.mix | with_reducible apply Does.hosts
    | with_reducible apply Does.twin

theorem execHitchFwdcpl_does (fwdid : BitVec 32) (status : BitVec 16) (s : State) :
    ∃ s', execHitchFwdcpl fwdid status s = .next s' ∧ Does [.freeCtr, .out, .regs, .mem, .mix, .hosts, .twin] s s' := by
  refine ⟨_, rfl, does_start fun Hs HM => ?_⟩
  repeat' first
    | with_reducible exact Hs | with_reducible assumption | with_reducible exact mem_of HM (by decide)
    | with_reducible exact List.Subset.trans (by decide) HM | with_reducible apply begin_does | with_reducible apply fwdDone_does
    | with_reducible apply heard_does | split | intro x hx | intro x | with_reducible apply Does.freeCtr | with_reducible apply Does.out
    | with_reducible apply Does.regs | with_reducible apply Does.mem | with_reducible apply Does.mix | with_reducible apply Does.hosts
    | with_reducible apply Does.twin

theorem execHitchHfault_does (h : Fin 4) (s : State) :
    ∃ s', execHitchHfault h s = .next s' ∧ Does [.freeCtr, .out, .regs, .mem, .mix, .twin] s s' := by
  refine ⟨_, rfl, does_start fun Hs HM => ?_⟩
  repeat' first
    | with_reducible exact Hs | with_reducible assumption | with_reducible exact mem_of HM (by decide)
    | with_reducible exact List.Subset.trans (by decide) HM | with_reducible apply begin_does | with_reducible apply heard_does
    | with_reducible apply hfaultIn_does | split | intro x hx | intro x | with_reducible apply Does.freeCtr | with_reducible apply Does.out
    | with_reducible apply Does.regs | with_reducible apply Does.mem | with_reducible apply Does.mix | with_reducible apply Does.twin

theorem execHitchJrnl_does (recs : List JRec) (s : State) :
    ∃ s', execHitchJrnl recs s = .next s' ∧ Does [.freeCtr, .out, .regs, .ctl, .mem, .mix, .tim, .hosts, .twin] s s' := by
  refine ⟨_, rfl, does_start fun Hs HM => ?_⟩
  repeat' first
    | with_reducible exact Hs | with_reducible assumption | with_reducible exact mem_of HM (by decide)
    | with_reducible exact List.Subset.trans (by decide) HM | with_reducible apply begin_does | with_reducible apply heard_does
    | with_reducible apply jrnlIn_does | split | intro x hx | intro x | with_reducible apply Does.freeCtr | with_reducible apply Does.out
    | with_reducible apply Does.regs | with_reducible apply Does.ctl | with_reducible apply Does.mem | with_reducible apply Does.mix
    | with_reducible apply Does.tim | with_reducible apply Does.hosts | with_reducible apply Does.twin

theorem execHitchJnack_does (jsn : BitVec 48) (s : State) :
    ∃ s', execHitchJnack jsn s = .next s' ∧ Does [.freeCtr, .out, .regs, .twin] s s' := by
  refine ⟨_, rfl, does_start fun Hs HM => ?_⟩
  repeat' first
    | with_reducible exact Hs | with_reducible assumption | with_reducible exact mem_of HM (by decide)
    | with_reducible exact List.Subset.trans (by decide) HM | with_reducible apply begin_does | with_reducible apply heard_does
    | with_reducible apply jnackIn_does | split | intro x hx | intro x | with_reducible apply Does.freeCtr | with_reducible apply Does.out
    | with_reducible apply Does.regs | with_reducible apply Does.twin

theorem execHitchCkpt_does (ckno chunk : BitVec 32) (data : List Byte) (crc : BitVec 32) (s : State) :
    ∃ s', execHitchCkpt ckno chunk data crc s = .next s' ∧ Does [.freeCtr, .out, .regs, .ctl, .mem, .mix, .tim, .hosts, .twin] s s' := by
  refine ⟨_, rfl, does_start fun Hs HM => ?_⟩
  repeat' first
    | with_reducible exact Hs | with_reducible assumption | with_reducible exact mem_of HM (by decide)
    | with_reducible exact List.Subset.trans (by decide) HM | with_reducible apply begin_does | with_reducible apply ckptIn_does
    | with_reducible apply heard_does | split | intro x hx | intro x | with_reducible apply Does.freeCtr | with_reducible apply Does.out
    | with_reducible apply Does.regs | with_reducible apply Does.ctl | with_reducible apply Does.mem | with_reducible apply Does.mix
    | with_reducible apply Does.tim | with_reducible apply Does.hosts | with_reducible apply Does.twin

theorem execHitchSeal_does (ckno : BitVec 32) (startJ endJ : BitVec 48) (crc : BitVec 32) (s : State) :
    ∃ s', execHitchSeal ckno startJ endJ crc s = .next s' ∧ Does [.freeCtr, .out, .regs, .ctl, .mem, .mix, .tim, .hosts, .twin] s s' := by
  refine ⟨_, rfl, does_start fun Hs HM => ?_⟩
  repeat' first
    | with_reducible exact Hs | with_reducible assumption | with_reducible exact mem_of HM (by decide)
    | with_reducible exact List.Subset.trans (by decide) HM | with_reducible apply begin_does | with_reducible apply heard_does
    | with_reducible apply sealIn_does | split | intro x hx | intro x | with_reducible apply Does.freeCtr | with_reducible apply Does.out
    | with_reducible apply Does.regs | with_reducible apply Does.ctl | with_reducible apply Does.mem | with_reducible apply Does.mix
    | with_reducible apply Does.tim | with_reducible apply Does.hosts | with_reducible apply Does.twin

theorem execHitchCkreq_does (ckno chunk : BitVec 32) (s : State) :
    ∃ s', execHitchCkreq ckno chunk s = .next s' ∧ Does [.freeCtr, .out, .regs, .twin] s s' := by
  refine ⟨_, rfl, does_start fun Hs HM => ?_⟩
  repeat' first
    | with_reducible exact Hs | with_reducible assumption | with_reducible exact mem_of HM (by decide)
    | with_reducible exact List.Subset.trans (by decide) HM | with_reducible apply begin_does | with_reducible apply ckreqIn_does
    | with_reducible apply heard_does | split | intro x hx | intro x | with_reducible apply Does.freeCtr | with_reducible apply Does.out
    | with_reducible apply Does.regs | with_reducible apply Does.twin

theorem execCheckpointPeriod_does (s : State) :
    ∃ s', execCheckpointPeriod s = .next s' ∧ Does [.out, .twin] s s' := by
  refine ⟨_, rfl, does_start fun Hs HM => ?_⟩
  repeat' first
    | with_reducible exact Hs | with_reducible assumption | with_reducible exact mem_of HM (by decide)
    | with_reducible exact List.Subset.trans (by decide) HM | with_reducible apply begin_does | with_reducible apply ckPeriod_does | split
    | intro x hx | intro x | with_reducible apply Does.out | with_reducible apply Does.twin

theorem execHitCtlGiveup_does (w : Word) (s : State) :
    ∃ s', execHitCtlGiveup w s = .next s' ∧ Does [.freeCtr, .out, .regs, .twin] s s' := by
  refine ⟨_, rfl, does_start fun Hs HM => ?_⟩
  repeat' first
    | with_reducible exact Hs | with_reducible assumption | with_reducible exact mem_of HM (by decide)
    | with_reducible exact List.Subset.trans (by decide) HM | with_reducible apply begin_does | with_reducible apply hitCtlBit_does | split
    | intro x hx | intro x | with_reducible apply Does.freeCtr | with_reducible apply Does.out | with_reducible apply Does.regs
    | with_reducible apply Does.twin

theorem execHitCtlHandover_does (w : Word) (s : State) :
    ∃ s', execHitCtlHandover w s = .next s' ∧ Does [.freeCtr, .out, .regs, .twin] s s' := by
  refine ⟨_, rfl, does_start fun Hs HM => ?_⟩
  repeat' first
    | with_reducible exact Hs | with_reducible assumption | with_reducible exact mem_of HM (by decide)
    | with_reducible exact List.Subset.trans (by decide) HM | with_reducible apply begin_does | with_reducible apply hitCtlBit_does | split
    | intro x hx | intro x | with_reducible apply Does.freeCtr | with_reducible apply Does.out | with_reducible apply Does.regs
    | with_reducible apply Does.twin

theorem execResync_does (w : Word) (s : State) :
    ∃ s', execResync w s = .next s' ∧ Does [.freeCtr, .out, .regs, .twin] s s' := by
  refine ⟨_, rfl, does_start fun Hs HM => ?_⟩
  repeat' first
    | with_reducible exact Hs | with_reducible assumption | with_reducible exact mem_of HM (by decide)
    | with_reducible exact List.Subset.trans (by decide) HM | with_reducible apply begin_does | with_reducible apply hitCtlBit_does | split
    | intro x hx | intro x | with_reducible apply Does.freeCtr | with_reducible apply Does.out | with_reducible apply Does.regs
    | with_reducible apply Does.twin

theorem execNewActiveAckTimeout_does (s : State) :
    ∃ s', execNewActiveAckTimeout s = .next s' ∧ Does [.out, .regs, .twin] s s' := by
  refine ⟨_, rfl, does_start fun Hs HM => ?_⟩
  repeat' first
    | with_reducible exact Hs | with_reducible assumption | with_reducible exact mem_of HM (by decide)
    | with_reducible exact List.Subset.trans (by decide) HM | with_reducible apply ackTimeout_does | with_reducible apply begin_does | split
    | intro x hx | intro x | with_reducible apply Does.out | with_reducible apply Does.regs | with_reducible apply Does.twin

theorem execZeroiseVolatile_does (src : WrSrc) (w : Word) (s : State) :
    ∃ s', execZeroiseVolatile src w s = .next s' ∧ Does [.freeCtr, .sub, .out, .regs, .ctl, .mem, .pea, .sec, .mix, .tdm, .dac, .byp, .tim, .lanes, .drays, .hosts, .net, .twin, .csnLatch] s s' := by
  refine ⟨_, rfl, does_start fun Hs HM => ?_⟩
  repeat' first
    | with_reducible exact Hs | with_reducible assumption | with_reducible exact mem_of HM (by decide)
    | with_reducible exact List.Subset.trans (by decide) HM | with_reducible apply begin_does | with_reducible apply regWrite_does | split
    | intro x hx | intro x | with_reducible apply Does.freeCtr | with_reducible apply Does.sub | with_reducible apply Does.out
    | with_reducible apply Does.regs | with_reducible apply Does.ctl | with_reducible apply Does.mem | with_reducible apply Does.pea
    | with_reducible apply Does.sec | with_reducible apply Does.mix | with_reducible apply Does.tdm | with_reducible apply Does.dac
    | with_reducible apply Does.byp | with_reducible apply Does.tim | with_reducible apply Does.lanes | with_reducible apply Does.drays
    | with_reducible apply Does.hosts | with_reducible apply Does.net | with_reducible apply Does.twin | with_reducible apply Does.csnLatch

theorem execZeroiseSigners_does (src : WrSrc) (w : Word) (s : State) :
    ∃ s', execZeroiseSigners src w s = .next s' ∧ Does [.freeCtr, .sub, .out, .regs, .ctl, .mem, .pea, .sec, .mix, .tdm, .dac, .byp, .tim, .lanes, .drays, .hosts, .net, .twin, .csnLatch] s s' := by
  refine ⟨_, rfl, does_start fun Hs HM => ?_⟩
  repeat' first
    | with_reducible exact Hs | with_reducible assumption | with_reducible exact mem_of HM (by decide)
    | with_reducible exact List.Subset.trans (by decide) HM | with_reducible apply begin_does | with_reducible apply regWrite_does | split
    | intro x hx | intro x | with_reducible apply Does.freeCtr | with_reducible apply Does.sub | with_reducible apply Does.out
    | with_reducible apply Does.regs | with_reducible apply Does.ctl | with_reducible apply Does.mem | with_reducible apply Does.pea
    | with_reducible apply Does.sec | with_reducible apply Does.mix | with_reducible apply Does.tdm | with_reducible apply Does.dac
    | with_reducible apply Does.byp | with_reducible apply Does.tim | with_reducible apply Does.lanes | with_reducible apply Does.drays
    | with_reducible apply Does.hosts | with_reducible apply Does.net | with_reducible apply Does.twin | with_reducible apply Does.csnLatch

theorem execAntiRollbackAdvance_does (src : WrSrc) (w : Word) (s : State) :
    ∃ s', execAntiRollbackAdvance src w s = .next s' ∧ Does [.freeCtr, .sub, .out, .regs, .ctl, .mem, .pea, .sec, .mix, .tdm, .dac, .byp, .tim, .lanes, .drays, .hosts, .net, .twin, .csnLatch] s s' := by
  refine ⟨_, rfl, does_start fun Hs HM => ?_⟩
  repeat' first
    | with_reducible exact Hs | with_reducible assumption | with_reducible exact mem_of HM (by decide)
    | with_reducible exact List.Subset.trans (by decide) HM | with_reducible apply begin_does | with_reducible apply regWrite_does | split
    | intro x hx | intro x | with_reducible apply Does.freeCtr | with_reducible apply Does.sub | with_reducible apply Does.out
    | with_reducible apply Does.regs | with_reducible apply Does.ctl | with_reducible apply Does.mem | with_reducible apply Does.pea
    | with_reducible apply Does.sec | with_reducible apply Does.mix | with_reducible apply Does.tdm | with_reducible apply Does.dac
    | with_reducible apply Does.byp | with_reducible apply Does.tim | with_reducible apply Does.lanes | with_reducible apply Does.drays
    | with_reducible apply Does.hosts | with_reducible apply Does.net | with_reducible apply Does.twin | with_reducible apply Does.csnLatch

theorem execAntiRollbackProgrammed_does (s : State) :
    ∃ s', execAntiRollbackProgrammed s = .next s' ∧ Does [.out, .pea, .sec] s s' := by
  refine ⟨_, rfl, does_start fun Hs HM => ?_⟩
  repeat' first
    | with_reducible exact Hs | with_reducible assumption | with_reducible exact mem_of HM (by decide)
    | with_reducible exact List.Subset.trans (by decide) HM | with_reducible apply begin_does | with_reducible apply rbDone_does | split | intro x hx
    | intro x | with_reducible apply Does.out | with_reducible apply Does.pea | with_reducible apply Does.sec

theorem execRngRead_does (s : State) :
    ∃ s', execRngRead s = .next s' ∧ Does [.freeCtr, .out, .regs, .sec, .twin, .csnLatch] s s' := by
  refine ⟨_, rfl, does_start fun Hs HM => ?_⟩
  repeat' first
    | with_reducible exact Hs | with_reducible assumption | with_reducible exact mem_of HM (by decide)
    | with_reducible exact List.Subset.trans (by decide) HM | with_reducible apply begin_does | with_reducible apply readOut_does | split | intro x hx
    | intro x | with_reducible apply Does.freeCtr | with_reducible apply Does.out | with_reducible apply Does.regs | with_reducible apply Does.sec
    | with_reducible apply Does.twin | with_reducible apply Does.csnLatch

theorem execRngrst_does (w : Word) (s : State) :
    ∃ s', execRngrst w s = .next s' ∧ Does [.out, .sec] s s' := by
  refine ⟨_, rfl, does_start fun Hs HM => ?_⟩
  repeat' first
    | with_reducible exact Hs | with_reducible assumption | with_reducible exact mem_of HM (by decide)
    | with_reducible exact List.Subset.trans (by decide) HM | with_reducible apply begin_does | with_reducible apply secCtl_does | split | intro x hx
    | intro x | with_reducible apply Does.out | with_reducible apply Does.sec

theorem execTrngHealthFail_does (test : BitVec 8) (s : State) :
    ∃ s', execTrngHealthFail test s = .next s' ∧ Does [.out, .regs, .pea, .sec] s s' := by
  refine ⟨_, rfl, does_start fun Hs HM => ?_⟩
  repeat' first
    | with_reducible exact Hs | with_reducible assumption | with_reducible exact mem_of HM (by decide)
    | with_reducible exact List.Subset.trans (by decide) HM | with_reducible apply begin_does | with_reducible apply rngFail_does | split | intro x hx
    | intro x | with_reducible apply Does.out | with_reducible apply Does.regs | with_reducible apply Does.pea | with_reducible apply Does.sec

theorem execDebugChallenge_does (scope : BitVec 3) (s : State) :
    ∃ s', execDebugChallenge scope s = .next s' ∧ Does [.freeCtr, .out, .regs, .pea, .sec] s s' := by
  refine ⟨_, rfl, does_start fun Hs HM => ?_⟩
  repeat' first
    | with_reducible exact Hs | with_reducible assumption | with_reducible exact mem_of HM (by decide)
    | with_reducible exact List.Subset.trans (by decide) HM | with_reducible apply begin_does | with_reducible apply debugAsk_does | split
    | intro x hx | intro x | with_reducible apply Does.freeCtr | with_reducible apply Does.out | with_reducible apply Does.regs
    | with_reducible apply Does.pea | with_reducible apply Does.sec

theorem execDebugResponse_does (sig : List Byte) (secs : Nat) (s : State) :
    ∃ s', execDebugResponse sig secs s = .next s' ∧ Does [.out, .regs, .pea, .sec] s s' := by
  refine ⟨_, rfl, does_start fun Hs HM => ?_⟩
  repeat' first
    | with_reducible exact Hs | with_reducible assumption | with_reducible exact mem_of HM (by decide)
    | with_reducible exact List.Subset.trans (by decide) HM | with_reducible apply begin_does | with_reducible apply debugAnswer_does | split
    | intro x hx | intro x | with_reducible apply Does.out | with_reducible apply Does.regs | with_reducible apply Does.pea
    | with_reducible apply Does.sec

theorem execDebugLock_does (s : State) :
    ∃ s', execDebugLock s = .next s' ∧ Does [.out, .regs, .pea, .sec] s s' := by
  refine ⟨_, rfl, does_start fun Hs HM => ?_⟩
  repeat' first
    | with_reducible exact Hs | with_reducible assumption | with_reducible exact mem_of HM (by decide)
    | with_reducible exact List.Subset.trans (by decide) HM | with_reducible apply begin_does | with_reducible apply debugLock_does | split
    | intro x hx | intro x | with_reducible apply Does.out | with_reducible apply Does.regs | with_reducible apply Does.pea
    | with_reducible apply Does.sec

theorem execPeaIxdataWrite_does (src : WrSrc) (w : Word) (s : State) :
    ∃ s', execPeaIxdataWrite src w s = .next s' ∧ Does [.freeCtr, .sub, .out, .regs, .ctl, .mem, .pea, .sec, .mix, .tdm, .dac, .byp, .tim, .lanes, .drays, .hosts, .net, .twin, .csnLatch] s s' := by
  refine ⟨_, rfl, does_start fun Hs HM => ?_⟩
  repeat' first
    | with_reducible exact Hs | with_reducible assumption | with_reducible exact mem_of HM (by decide)
    | with_reducible exact List.Subset.trans (by decide) HM | with_reducible apply begin_does | with_reducible apply regWrite_does | split
    | intro x hx | intro x | with_reducible apply Does.freeCtr | with_reducible apply Does.sub | with_reducible apply Does.out
    | with_reducible apply Does.regs | with_reducible apply Does.ctl | with_reducible apply Does.mem | with_reducible apply Does.pea
    | with_reducible apply Does.sec | with_reducible apply Does.mix | with_reducible apply Does.tdm | with_reducible apply Does.dac
    | with_reducible apply Does.byp | with_reducible apply Does.tim | with_reducible apply Does.lanes | with_reducible apply Does.drays
    | with_reducible apply Does.hosts | with_reducible apply Does.net | with_reducible apply Does.twin | with_reducible apply Does.csnLatch

theorem execPeaIxdataRead_does (s : State) :
    ∃ s', execPeaIxdataRead s = .next s' ∧ Does [.freeCtr, .out, .regs, .sec, .twin, .csnLatch] s s' := by
  refine ⟨_, rfl, does_start fun Hs HM => ?_⟩
  repeat' first
    | with_reducible exact Hs | with_reducible assumption | with_reducible exact mem_of HM (by decide)
    | with_reducible exact List.Subset.trans (by decide) HM | with_reducible apply begin_does | with_reducible apply readOut_does | split | intro x hx
    | intro x | with_reducible apply Does.freeCtr | with_reducible apply Does.out | with_reducible apply Does.regs | with_reducible apply Does.sec
    | with_reducible apply Does.twin | with_reducible apply Does.csnLatch

theorem execPeaCommit_does (src : WrSrc) (w : Word) (s : State) :
    ∃ s', execPeaCommit src w s = .next s' ∧ Does [.freeCtr, .sub, .out, .regs, .ctl, .mem, .pea, .sec, .mix, .tdm, .dac, .byp, .tim, .lanes, .drays, .hosts, .net, .twin, .csnLatch] s s' := by
  refine ⟨_, rfl, does_start fun Hs HM => ?_⟩
  repeat' first
    | with_reducible exact Hs | with_reducible assumption | with_reducible exact mem_of HM (by decide)
    | with_reducible exact List.Subset.trans (by decide) HM | with_reducible apply begin_does | with_reducible apply regWrite_does | split
    | intro x hx | intro x | with_reducible apply Does.freeCtr | with_reducible apply Does.sub | with_reducible apply Does.out
    | with_reducible apply Does.regs | with_reducible apply Does.ctl | with_reducible apply Does.mem | with_reducible apply Does.pea
    | with_reducible apply Does.sec | with_reducible apply Does.mix | with_reducible apply Does.tdm | with_reducible apply Does.dac
    | with_reducible apply Does.byp | with_reducible apply Does.tim | with_reducible apply Does.lanes | with_reducible apply Does.drays
    | with_reducible apply Does.hosts | with_reducible apply Does.net | with_reducible apply Does.twin | with_reducible apply Does.csnLatch

theorem execPeaSectorWriteDone_does (retries : Nat) (s : State) :
    ∃ s', execPeaSectorWriteDone retries s = .next s' ∧ Does [.out, .regs, .pea, .sec] s s' := by
  refine ⟨_, rfl, does_start fun Hs HM => ?_⟩
  repeat' first
    | with_reducible exact Hs | with_reducible assumption | with_reducible exact mem_of HM (by decide)
    | with_reducible exact List.Subset.trans (by decide) HM | with_reducible apply begin_does | with_reducible apply peaDone_does | split | intro x hx
    | intro x | with_reducible apply Does.out | with_reducible apply Does.regs | with_reducible apply Does.pea | with_reducible apply Does.sec

theorem execWearLevelSwap_does (rarely : Fin 8192) (worn : Fin 8704) (s : State) :
    ∃ s', execWearLevelSwap rarely worn s = .next s' ∧ Does [.out, .pea] s s' := by
  refine ⟨_, rfl, does_start fun Hs HM => ?_⟩
  repeat' first
    | with_reducible exact Hs | with_reducible assumption | with_reducible exact mem_of HM (by decide)
    | with_reducible exact List.Subset.trans (by decide) HM | with_reducible apply begin_does | with_reducible apply wearSwap_does | split
    | intro x hx | intro x | with_reducible apply Does.out | with_reducible apply Does.pea

theorem execIxdataAccess_does (src : WrSrc) (pair : IxPair) (wr : Option Word) (s : State) :
    ∃ s', execIxdataAccess src pair wr s = .next s' ∧ Does [.freeCtr, .sub, .out, .regs, .ctl, .mem, .pea, .sec, .mix, .tdm, .dac, .byp, .tim, .lanes, .drays, .hosts, .net, .twin, .csnLatch] s s' := by
  refine ⟨_, rfl, does_start fun Hs HM => ?_⟩
  repeat' first
    | with_reducible exact Hs | with_reducible assumption | with_reducible exact mem_of HM (by decide)
    | with_reducible exact List.Subset.trans (by decide) HM | with_reducible apply begin_does | with_reducible apply readOut_does
    | with_reducible apply regWrite_does | split | intro x hx | intro x | with_reducible apply Does.freeCtr | with_reducible apply Does.sub
    | with_reducible apply Does.out | with_reducible apply Does.regs | with_reducible apply Does.ctl | with_reducible apply Does.mem
    | with_reducible apply Does.pea | with_reducible apply Does.sec | with_reducible apply Does.mix | with_reducible apply Does.tdm
    | with_reducible apply Does.dac | with_reducible apply Does.byp | with_reducible apply Does.tim | with_reducible apply Does.lanes
    | with_reducible apply Does.drays | with_reducible apply Does.hosts | with_reducible apply Does.net | with_reducible apply Does.twin
    | with_reducible apply Does.csnLatch

theorem execPowerOn_does (s : State) :
    ∃ s', execPowerOn s = .next s' ∧ Does [.freeCtr, .out, .regs, .ctl, .mem, .pea, .sec, .mix, .tdm, .dac, .byp, .tim, .lanes, .drays, .hosts, .net, .twin, .csnLatch] s s' := by
  refine ⟨_, rfl, does_start fun Hs HM => ?_⟩
  repeat' first
    | with_reducible exact Hs | with_reducible assumption | with_reducible exact mem_of HM (by decide)
    | with_reducible exact List.Subset.trans (by decide) HM | with_reducible apply begin_does | with_reducible apply powerOn_does | split | intro x hx
    | intro x | with_reducible apply Does.freeCtr | with_reducible apply Does.out | with_reducible apply Does.regs | with_reducible apply Does.ctl
    | with_reducible apply Does.mem | with_reducible apply Does.pea | with_reducible apply Does.sec | with_reducible apply Does.mix
    | with_reducible apply Does.tdm | with_reducible apply Does.dac | with_reducible apply Does.byp | with_reducible apply Does.tim
    | with_reducible apply Does.lanes | with_reducible apply Does.drays | with_reducible apply Does.hosts | with_reducible apply Does.net
    | with_reducible apply Does.twin | with_reducible apply Does.csnLatch

theorem execSuppliesGood_does (s : State) :
    ∃ s', execSuppliesGood s = .next s' ∧ Does [.out, .ctl] s s' := by
  refine ⟨_, rfl, does_start fun Hs HM => ?_⟩
  repeat' first
    | with_reducible exact Hs | with_reducible assumption | with_reducible exact mem_of HM (by decide)
    | with_reducible exact List.Subset.trans (by decide) HM | with_reducible apply begin_does | with_reducible apply suppliesGood_does | split
    | intro x hx | intro x | with_reducible apply Does.out | with_reducible apply Does.ctl

theorem execBrownOut_does (rail : Rail) (s : State) :
    ∃ s', execBrownOut rail s = .next s' ∧ Does [.freeCtr, .out, .regs, .ctl, .mem, .pea, .sec, .mix, .tdm, .dac, .byp, .tim, .lanes, .drays, .hosts, .net, .twin, .csnLatch] s s' := by
  refine ⟨_, rfl, does_start fun Hs HM => ?_⟩
  repeat' first
    | with_reducible exact Hs | with_reducible assumption | with_reducible exact mem_of HM (by decide)
    | with_reducible exact List.Subset.trans (by decide) HM | with_reducible apply begin_does | with_reducible apply brownOut_does | split
    | intro x hx | intro x | with_reducible apply Does.freeCtr | with_reducible apply Does.out | with_reducible apply Does.regs
    | with_reducible apply Does.ctl | with_reducible apply Does.mem | with_reducible apply Does.pea | with_reducible apply Does.sec
    | with_reducible apply Does.mix | with_reducible apply Does.tdm | with_reducible apply Does.dac | with_reducible apply Does.byp
    | with_reducible apply Does.tim | with_reducible apply Does.lanes | with_reducible apply Does.drays | with_reducible apply Does.hosts
    | with_reducible apply Does.net | with_reducible apply Does.twin | with_reducible apply Does.csnLatch

theorem execResetPin_does (s : State) :
    ∃ s', execResetPin s = .next s' ∧ Does [.freeCtr, .out, .regs, .ctl, .mem, .pea, .sec, .mix, .tdm, .dac, .byp, .tim, .lanes, .drays, .hosts, .net, .twin, .csnLatch] s s' := by
  refine ⟨_, rfl, does_start fun Hs HM => ?_⟩
  repeat' first
    | with_reducible exact Hs | with_reducible assumption | with_reducible exact mem_of HM (by decide)
    | with_reducible exact List.Subset.trans (by decide) HM | with_reducible apply begin_does | with_reducible apply pinReset_does | split
    | intro x hx | intro x | with_reducible apply Does.freeCtr | with_reducible apply Does.out | with_reducible apply Does.regs
    | with_reducible apply Does.ctl | with_reducible apply Does.mem | with_reducible apply Does.pea | with_reducible apply Does.sec
    | with_reducible apply Does.mix | with_reducible apply Does.tdm | with_reducible apply Does.dac | with_reducible apply Does.byp
    | with_reducible apply Does.tim | with_reducible apply Does.lanes | with_reducible apply Does.drays | with_reducible apply Does.hosts
    | with_reducible apply Does.net | with_reducible apply Does.twin | with_reducible apply Does.csnLatch

theorem execResetPinRelease_does (s : State) :
    ∃ s', execResetPinRelease s = .next s' ∧ Does [.out, .ctl] s s' := by
  refine ⟨_, rfl, does_start fun Hs HM => ?_⟩
  repeat' first
    | with_reducible exact Hs | with_reducible assumption | with_reducible exact mem_of HM (by decide)
    | with_reducible exact List.Subset.trans (by decide) HM | with_reducible apply begin_does | with_reducible apply ctlSet_does | split | intro x hx
    | intro x | with_reducible apply Does.out | with_reducible apply Does.ctl

theorem execStokerWatchdog_does (s : State) :
    ∃ s', execStokerWatchdog s = .next s' ∧ Does [.freeCtr, .out, .regs, .ctl, .mem, .pea, .sec, .mix, .tdm, .dac, .byp, .tim, .lanes, .drays, .hosts, .net, .twin, .csnLatch] s s' := by
  refine ⟨_, rfl, does_start fun Hs HM => ?_⟩
  repeat' first
    | with_reducible exact Hs | with_reducible assumption | with_reducible exact mem_of HM (by decide)
    | with_reducible exact List.Subset.trans (by decide) HM | with_reducible apply begin_does | with_reducible apply stokerReset_does | split
    | intro x hx | intro x | with_reducible apply Does.freeCtr | with_reducible apply Does.out | with_reducible apply Does.regs
    | with_reducible apply Does.ctl | with_reducible apply Does.mem | with_reducible apply Does.pea | with_reducible apply Does.sec
    | with_reducible apply Does.mix | with_reducible apply Does.tdm | with_reducible apply Does.dac | with_reducible apply Does.byp
    | with_reducible apply Does.tim | with_reducible apply Does.lanes | with_reducible apply Does.drays | with_reducible apply Does.hosts
    | with_reducible apply Does.net | with_reducible apply Does.twin | with_reducible apply Does.csnLatch

theorem execThermalTrip_does (s : State) :
    ∃ s', execThermalTrip s = .next s' ∧ Does [.freeCtr, .out, .regs, .ctl, .mem, .pea, .sec, .mix, .tdm, .dac, .byp, .tim, .lanes, .drays, .hosts, .net, .twin, .csnLatch] s s' := by
  refine ⟨_, rfl, does_start fun Hs HM => ?_⟩
  repeat' first
    | with_reducible exact Hs | with_reducible assumption | with_reducible exact mem_of HM (by decide)
    | with_reducible exact List.Subset.trans (by decide) HM | with_reducible apply begin_does | with_reducible apply thermalTrip_does | split
    | intro x hx | intro x | with_reducible apply Does.freeCtr | with_reducible apply Does.out | with_reducible apply Does.regs
    | with_reducible apply Does.ctl | with_reducible apply Does.mem | with_reducible apply Does.pea | with_reducible apply Does.sec
    | with_reducible apply Does.mix | with_reducible apply Does.tdm | with_reducible apply Does.dac | with_reducible apply Does.byp
    | with_reducible apply Does.tim | with_reducible apply Does.lanes | with_reducible apply Does.drays | with_reducible apply Does.hosts
    | with_reducible apply Does.net | with_reducible apply Does.twin | with_reducible apply Does.csnLatch

theorem execThermalRelease_does (s : State) :
    ∃ s', execThermalRelease s = .next s' ∧ Does [.out, .ctl] s s' := by
  refine ⟨_, rfl, does_start fun Hs HM => ?_⟩
  repeat' first
    | with_reducible exact Hs | with_reducible assumption | with_reducible exact mem_of HM (by decide)
    | with_reducible exact List.Subset.trans (by decide) HM | with_reducible apply begin_does | with_reducible apply ctlSet_does | split | intro x hx
    | intro x | with_reducible apply Does.out | with_reducible apply Does.ctl

theorem execHostResetSections_does (h : Fin 4) (w : Word) (s : State) :
    ∃ s', execHostResetSections h w s = .next s' ∧ Does [.freeCtr, .sub, .out, .regs, .ctl, .mem, .pea, .sec, .mix, .tdm, .dac, .byp, .tim, .lanes, .drays, .hosts, .net, .twin, .csnLatch] s s' := by
  refine ⟨_, rfl, does_start fun Hs HM => ?_⟩
  repeat' first
    | with_reducible exact Hs | with_reducible assumption | with_reducible exact mem_of HM (by decide)
    | with_reducible exact List.Subset.trans (by decide) HM | with_reducible apply begin_does | with_reducible apply hostReset_does | split
    | intro x hx | intro x | with_reducible apply Does.freeCtr | with_reducible apply Does.sub | with_reducible apply Does.out
    | with_reducible apply Does.regs | with_reducible apply Does.ctl | with_reducible apply Does.mem | with_reducible apply Does.pea
    | with_reducible apply Does.sec | with_reducible apply Does.mix | with_reducible apply Does.tdm | with_reducible apply Does.dac
    | with_reducible apply Does.byp | with_reducible apply Does.tim | with_reducible apply Does.lanes | with_reducible apply Does.drays
    | with_reducible apply Does.hosts | with_reducible apply Does.net | with_reducible apply Does.twin | with_reducible apply Does.csnLatch

theorem execHostResetCore_does (h : Fin 4) (w : Word) (s : State) :
    ∃ s', execHostResetCore h w s = .next s' ∧ Does [.freeCtr, .sub, .out, .regs, .ctl, .mem, .pea, .sec, .mix, .tdm, .dac, .byp, .tim, .lanes, .drays, .hosts, .net, .twin, .csnLatch] s s' := by
  refine ⟨_, rfl, does_start fun Hs HM => ?_⟩
  repeat' first
    | with_reducible exact Hs | with_reducible assumption | with_reducible exact mem_of HM (by decide)
    | with_reducible exact List.Subset.trans (by decide) HM | with_reducible apply begin_does | with_reducible apply hostReset_does | split
    | intro x hx | intro x | with_reducible apply Does.freeCtr | with_reducible apply Does.sub | with_reducible apply Does.out
    | with_reducible apply Does.regs | with_reducible apply Does.ctl | with_reducible apply Does.mem | with_reducible apply Does.pea
    | with_reducible apply Does.sec | with_reducible apply Does.mix | with_reducible apply Does.tdm | with_reducible apply Does.dac
    | with_reducible apply Does.byp | with_reducible apply Does.tim | with_reducible apply Does.lanes | with_reducible apply Does.drays
    | with_reducible apply Does.hosts | with_reducible apply Does.net | with_reducible apply Does.twin | with_reducible apply Does.csnLatch

theorem execHostResetFullChip_does (h : Fin 4) (w : Word) (s : State) :
    ∃ s', execHostResetFullChip h w s = .next s' ∧ Does [.freeCtr, .sub, .out, .regs, .ctl, .mem, .pea, .sec, .mix, .tdm, .dac, .byp, .tim, .lanes, .drays, .hosts, .net, .twin, .csnLatch] s s' := by
  refine ⟨_, rfl, does_start fun Hs HM => ?_⟩
  repeat' first
    | with_reducible exact Hs | with_reducible assumption | with_reducible exact mem_of HM (by decide)
    | with_reducible exact List.Subset.trans (by decide) HM | with_reducible apply begin_does | with_reducible apply hostReset_does | split
    | intro x hx | intro x | with_reducible apply Does.freeCtr | with_reducible apply Does.sub | with_reducible apply Does.out
    | with_reducible apply Does.regs | with_reducible apply Does.ctl | with_reducible apply Does.mem | with_reducible apply Does.pea
    | with_reducible apply Does.sec | with_reducible apply Does.mix | with_reducible apply Does.tdm | with_reducible apply Does.dac
    | with_reducible apply Does.byp | with_reducible apply Does.tim | with_reducible apply Does.lanes | with_reducible apply Does.drays
    | with_reducible apply Does.hosts | with_reducible apply Does.net | with_reducible apply Does.twin | with_reducible apply Does.csnLatch

theorem execJtagReset_does (s : State) :
    ∃ s', execJtagReset s = .next s' ∧ Does [.freeCtr, .out, .regs, .ctl, .mem, .pea, .sec, .mix, .tdm, .dac, .byp, .tim, .lanes, .drays, .hosts, .net, .twin, .csnLatch] s s' := by
  refine ⟨_, rfl, does_start fun Hs HM => ?_⟩
  repeat' first
    | with_reducible exact Hs | with_reducible assumption | with_reducible exact mem_of HM (by decide)
    | with_reducible exact List.Subset.trans (by decide) HM | with_reducible apply begin_does | with_reducible apply jtagReset_does | split
    | intro x hx | intro x | with_reducible apply Does.freeCtr | with_reducible apply Does.out | with_reducible apply Does.regs
    | with_reducible apply Does.ctl | with_reducible apply Does.mem | with_reducible apply Does.pea | with_reducible apply Does.sec
    | with_reducible apply Does.mix | with_reducible apply Does.tdm | with_reducible apply Does.dac | with_reducible apply Does.byp
    | with_reducible apply Does.tim | with_reducible apply Does.lanes | with_reducible apply Does.drays | with_reducible apply Does.hosts
    | with_reducible apply Does.net | with_reducible apply Does.twin | with_reducible apply Does.csnLatch

theorem execTapReset_does (s : State) :
    ∃ s', execTapReset s = .next s' ∧ Does [.out] s s' := by
  refine ⟨_, rfl, does_start fun Hs HM => ?_⟩
  repeat' first
    | with_reducible exact Hs | with_reducible assumption | with_reducible exact mem_of HM (by decide)
    | with_reducible exact List.Subset.trans (by decide) HM | with_reducible apply begin_does | split | intro x hx | intro x
    | with_reducible apply Does.out

theorem execFuseLoadDone_does (copy : Fin 3) (strap : BitVec 6) (banks33 : BitVec 5) (s : State) :
    ∃ s', execFuseLoadDone copy strap banks33 s = .next s' ∧ Does [.out, .regs, .ctl] s s' := by
  refine ⟨_, rfl, does_start fun Hs HM => ?_⟩
  repeat' first
    | with_reducible exact Hs | with_reducible assumption | with_reducible exact mem_of HM (by decide)
    | with_reducible exact List.Subset.trans (by decide) HM | with_reducible apply begin_does | with_reducible apply fuseDone_does | split
    | intro x hx | intro x | with_reducible apply Does.out | with_reducible apply Does.regs | with_reducible apply Does.ctl

theorem execFuseLoadRetry_does (s : State) :
    ∃ s', execFuseLoadRetry s = .next s' ∧ Does [.out] s s' := by
  refine ⟨_, rfl, does_start fun Hs HM => ?_⟩
  repeat' first
    | with_reducible exact Hs | with_reducible assumption | with_reducible exact mem_of HM (by decide)
    | with_reducible exact List.Subset.trans (by decide) HM | with_reducible apply begin_does | split | intro x hx | intro x
    | with_reducible apply Does.out

theorem execSectionRelease_does (s : State) :
    ∃ s', execSectionRelease s = .next s' ∧ Does [.out, .regs, .ctl, .pea, .sec, .tim] s s' := by
  refine ⟨_, rfl, does_start fun Hs HM => ?_⟩
  repeat' first
    | with_reducible exact Hs | with_reducible assumption | with_reducible exact mem_of HM (by decide)
    | with_reducible exact List.Subset.trans (by decide) HM | with_reducible apply begin_does | with_reducible apply releaseNext_does | split
    | intro x hx | intro x | with_reducible apply Does.out | with_reducible apply Does.regs | with_reducible apply Does.ctl
    | with_reducible apply Does.pea | with_reducible apply Does.sec | with_reducible apply Does.tim

theorem execFirmwareVerifyDone_does (s : State) :
    ∃ s', execFirmwareVerifyDone s = .next s' ∧ Does [.out, .ctl, .pea, .sec] s s' := by
  refine ⟨_, rfl, does_start fun Hs HM => ?_⟩
  repeat' first
    | with_reducible exact Hs | with_reducible assumption | with_reducible exact mem_of HM (by decide)
    | with_reducible exact List.Subset.trans (by decide) HM | with_reducible apply begin_does | with_reducible apply verifySlots_does | split
    | intro x hx | intro x | with_reducible apply Does.out | with_reducible apply Does.ctl | with_reducible apply Does.pea
    | with_reducible apply Does.sec

theorem execBootPush_does (w : Word) (s : State) :
    ∃ s', execBootPush w s = .next s' ∧ Does [.out, .ctl] s s' := by
  refine ⟨_, rfl, does_start fun Hs HM => ?_⟩
  repeat' first
    | with_reducible exact Hs | with_reducible assumption | with_reducible exact mem_of HM (by decide)
    | with_reducible exact List.Subset.trans (by decide) HM | with_reducible apply begin_does | with_reducible apply bootPush_does | split
    | intro x hx | intro x | with_reducible apply Does.out | with_reducible apply Does.ctl

theorem execPushCheckDone_does (s : State) :
    ∃ s', execPushCheckDone s = .next s' ∧ Does [.out, .ctl, .pea, .sec] s s' := by
  refine ⟨_, rfl, does_start fun Hs HM => ?_⟩
  repeat' first
    | with_reducible exact Hs | with_reducible assumption | with_reducible exact mem_of HM (by decide)
    | with_reducible exact List.Subset.trans (by decide) HM | with_reducible apply begin_does | with_reducible apply pushCheck_does | split
    | intro x hx | intro x | with_reducible apply Does.out | with_reducible apply Does.ctl | with_reducible apply Does.pea
    | with_reducible apply Does.sec

theorem execSectionHoldWrite_does (src : WrSrc) (w : Word) (s : State) :
    ∃ s', execSectionHoldWrite src w s = .next s' ∧ Does [.freeCtr, .sub, .out, .regs, .ctl, .mem, .pea, .sec, .mix, .tdm, .dac, .byp, .tim, .lanes, .drays, .hosts, .net, .twin, .csnLatch] s s' := by
  refine ⟨_, rfl, does_start fun Hs HM => ?_⟩
  repeat' first
    | with_reducible exact Hs | with_reducible assumption | with_reducible exact mem_of HM (by decide)
    | with_reducible exact List.Subset.trans (by decide) HM | with_reducible apply begin_does | with_reducible apply regWrite_does | split
    | intro x hx | intro x | with_reducible apply Does.freeCtr | with_reducible apply Does.sub | with_reducible apply Does.out
    | with_reducible apply Does.regs | with_reducible apply Does.ctl | with_reducible apply Does.mem | with_reducible apply Does.pea
    | with_reducible apply Does.sec | with_reducible apply Does.mix | with_reducible apply Does.tdm | with_reducible apply Does.dac
    | with_reducible apply Does.byp | with_reducible apply Does.tim | with_reducible apply Does.lanes | with_reducible apply Does.drays
    | with_reducible apply Does.hosts | with_reducible apply Does.net | with_reducible apply Does.twin | with_reducible apply Does.csnLatch

theorem execVoteScrub_does (upsets : List VoteUpset) (s : State) :
    ∃ s', execVoteScrub upsets s = .next s' ∧ Does [.freeCtr, .sub, .out, .regs, .ctl, .mem, .pea, .sec, .mix, .tdm, .dac, .byp, .tim, .lanes, .drays, .hosts, .net, .twin, .csnLatch] s s' := by
  refine ⟨_, rfl, does_start fun Hs HM => ?_⟩
  repeat' first
    | with_reducible exact Hs | with_reducible assumption | with_reducible exact mem_of HM (by decide)
    | with_reducible exact List.Subset.trans (by decide) HM | with_reducible apply begin_does | with_reducible apply voteScrub_does | split
    | intro x hx | intro x | with_reducible apply Does.freeCtr | with_reducible apply Does.sub | with_reducible apply Does.out
    | with_reducible apply Does.regs | with_reducible apply Does.ctl | with_reducible apply Does.mem | with_reducible apply Does.pea
    | with_reducible apply Does.sec | with_reducible apply Does.mix | with_reducible apply Does.tdm | with_reducible apply Does.dac
    | with_reducible apply Does.byp | with_reducible apply Does.tim | with_reducible apply Does.lanes | with_reducible apply Does.drays
    | with_reducible apply Does.hosts | with_reducible apply Does.net | with_reducible apply Does.twin | with_reducible apply Does.csnLatch

theorem execSequenceClear_does (src : WrSrc) (off : BitVec 20) (w : Word) (s : State) :
    ∃ s', execSequenceClear src off w s = .next s' ∧ Does [.freeCtr, .sub, .out, .regs, .ctl, .mem, .pea, .sec, .mix, .tdm, .dac, .byp, .tim, .lanes, .drays, .hosts, .net, .twin, .csnLatch] s s' := by
  refine ⟨_, rfl, does_start fun Hs HM => ?_⟩
  repeat' first
    | with_reducible exact Hs | with_reducible assumption | with_reducible exact mem_of HM (by decide)
    | with_reducible exact List.Subset.trans (by decide) HM | with_reducible apply begin_does | with_reducible apply regWrite_does | split
    | intro x hx | intro x | with_reducible apply Does.freeCtr | with_reducible apply Does.sub | with_reducible apply Does.out
    | with_reducible apply Does.regs | with_reducible apply Does.ctl | with_reducible apply Does.mem | with_reducible apply Does.pea
    | with_reducible apply Does.sec | with_reducible apply Does.mix | with_reducible apply Does.tdm | with_reducible apply Does.dac
    | with_reducible apply Does.byp | with_reducible apply Does.tim | with_reducible apply Does.lanes | with_reducible apply Does.drays
    | with_reducible apply Does.hosts | with_reducible apply Does.net | with_reducible apply Does.twin | with_reducible apply Does.csnLatch

theorem execCsnReadLatch_does (s : State) :
    ∃ s', execCsnReadLatch s = .next s' ∧ Does [.freeCtr, .out, .regs, .sec, .twin, .csnLatch] s s' := by
  refine ⟨_, rfl, does_start fun Hs HM => ?_⟩
  repeat' first
    | with_reducible exact Hs | with_reducible assumption | with_reducible exact mem_of HM (by decide)
    | with_reducible exact List.Subset.trans (by decide) HM | with_reducible apply begin_does | with_reducible apply csnRead_does | split | intro x hx
    | intro x | with_reducible apply Does.freeCtr | with_reducible apply Does.out | with_reducible apply Does.regs | with_reducible apply Does.sec
    | with_reducible apply Does.twin | with_reducible apply Does.csnLatch

theorem execMixEnable_does (src : WrSrc) (w : Word) (s : State) :
    ∃ s', execMixEnable src w s = .next s' ∧ Does [.freeCtr, .sub, .out, .regs, .ctl, .mem, .pea, .sec, .mix, .tdm, .dac, .byp, .tim, .lanes, .drays, .hosts, .net, .twin, .csnLatch] s s' := by
  refine ⟨_, rfl, does_start fun Hs HM => ?_⟩
  repeat' first
    | with_reducible exact Hs | with_reducible assumption | with_reducible exact mem_of HM (by decide)
    | with_reducible exact List.Subset.trans (by decide) HM | with_reducible apply begin_does | with_reducible apply regWrite_does | split
    | intro x hx | intro x | with_reducible apply Does.freeCtr | with_reducible apply Does.sub | with_reducible apply Does.out
    | with_reducible apply Does.regs | with_reducible apply Does.ctl | with_reducible apply Does.mem | with_reducible apply Does.pea
    | with_reducible apply Does.sec | with_reducible apply Does.mix | with_reducible apply Does.tdm | with_reducible apply Does.dac
    | with_reducible apply Does.byp | with_reducible apply Does.tim | with_reducible apply Does.lanes | with_reducible apply Does.drays
    | with_reducible apply Does.hosts | with_reducible apply Does.net | with_reducible apply Does.twin | with_reducible apply Does.csnLatch

theorem execMixDisable_does (src : WrSrc) (w : Word) (s : State) :
    ∃ s', execMixDisable src w s = .next s' ∧ Does [.freeCtr, .sub, .out, .regs, .ctl, .mem, .pea, .sec, .mix, .tdm, .dac, .byp, .tim, .lanes, .drays, .hosts, .net, .twin, .csnLatch] s s' := by
  refine ⟨_, rfl, does_start fun Hs HM => ?_⟩
  repeat' first
    | with_reducible exact Hs | with_reducible assumption | with_reducible exact mem_of HM (by decide)
    | with_reducible exact List.Subset.trans (by decide) HM | with_reducible apply begin_does | with_reducible apply regWrite_does | split
    | intro x hx | intro x | with_reducible apply Does.freeCtr | with_reducible apply Does.sub | with_reducible apply Does.out
    | with_reducible apply Does.regs | with_reducible apply Does.ctl | with_reducible apply Does.mem | with_reducible apply Does.pea
    | with_reducible apply Does.sec | with_reducible apply Does.mix | with_reducible apply Does.tdm | with_reducible apply Does.dac
    | with_reducible apply Does.byp | with_reducible apply Does.tim | with_reducible apply Does.lanes | with_reducible apply Does.drays
    | with_reducible apply Does.hosts | with_reducible apply Does.net | with_reducible apply Does.twin | with_reducible apply Does.csnLatch

theorem execStripEnable_does (src : WrSrc) (w : Word) (s : State) :
    ∃ s', execStripEnable src w s = .next s' ∧ Does [.freeCtr, .sub, .out, .regs, .ctl, .mem, .pea, .sec, .mix, .tdm, .dac, .byp, .tim, .lanes, .drays, .hosts, .net, .twin, .csnLatch] s s' := by
  refine ⟨_, rfl, does_start fun Hs HM => ?_⟩
  repeat' first
    | with_reducible exact Hs | with_reducible assumption | with_reducible exact mem_of HM (by decide)
    | with_reducible exact List.Subset.trans (by decide) HM | with_reducible apply begin_does | with_reducible apply regWrite_does | split
    | intro x hx | intro x | with_reducible apply Does.freeCtr | with_reducible apply Does.sub | with_reducible apply Does.out
    | with_reducible apply Does.regs | with_reducible apply Does.ctl | with_reducible apply Does.mem | with_reducible apply Does.pea
    | with_reducible apply Does.sec | with_reducible apply Does.mix | with_reducible apply Does.tdm | with_reducible apply Does.dac
    | with_reducible apply Does.byp | with_reducible apply Does.tim | with_reducible apply Does.lanes | with_reducible apply Does.drays
    | with_reducible apply Does.hosts | with_reducible apply Does.net | with_reducible apply Does.twin | with_reducible apply Does.csnLatch

theorem execStripDisable_does (src : WrSrc) (w : Word) (s : State) :
    ∃ s', execStripDisable src w s = .next s' ∧ Does [.freeCtr, .sub, .out, .regs, .ctl, .mem, .pea, .sec, .mix, .tdm, .dac, .byp, .tim, .lanes, .drays, .hosts, .net, .twin, .csnLatch] s s' := by
  refine ⟨_, rfl, does_start fun Hs HM => ?_⟩
  repeat' first
    | with_reducible exact Hs | with_reducible assumption | with_reducible exact mem_of HM (by decide)
    | with_reducible exact List.Subset.trans (by decide) HM | with_reducible apply begin_does | with_reducible apply regWrite_does | split
    | intro x hx | intro x | with_reducible apply Does.freeCtr | with_reducible apply Does.sub | with_reducible apply Does.out
    | with_reducible apply Does.regs | with_reducible apply Does.ctl | with_reducible apply Does.mem | with_reducible apply Does.pea
    | with_reducible apply Does.sec | with_reducible apply Does.mix | with_reducible apply Does.tdm | with_reducible apply Does.dac
    | with_reducible apply Does.byp | with_reducible apply Does.tim | with_reducible apply Does.lanes | with_reducible apply Does.drays
    | with_reducible apply Does.hosts | with_reducible apply Does.net | with_reducible apply Does.twin | with_reducible apply Does.csnLatch

theorem execRegisterWrite_does (src : WrSrc) (off : BitVec 20) (w : Word) (s : State) :
    ∃ s', execRegisterWrite src off w s = .next s' ∧ Does [.freeCtr, .sub, .out, .regs, .ctl, .mem, .pea, .sec, .mix, .tdm, .dac, .byp, .tim, .lanes, .drays, .hosts, .net, .twin, .csnLatch] s s' := by
  refine ⟨_, rfl, does_start fun Hs HM => ?_⟩
  repeat' first
    | with_reducible exact Hs | with_reducible assumption | with_reducible exact mem_of HM (by decide)
    | with_reducible exact List.Subset.trans (by decide) HM | with_reducible apply begin_does | with_reducible apply regWrite_does | split
    | intro x hx | intro x | with_reducible apply Does.freeCtr | with_reducible apply Does.sub | with_reducible apply Does.out
    | with_reducible apply Does.regs | with_reducible apply Does.ctl | with_reducible apply Does.mem | with_reducible apply Does.pea
    | with_reducible apply Does.sec | with_reducible apply Does.mix | with_reducible apply Does.tdm | with_reducible apply Does.dac
    | with_reducible apply Does.byp | with_reducible apply Does.tim | with_reducible apply Does.lanes | with_reducible apply Does.drays
    | with_reducible apply Does.hosts | with_reducible apply Does.net | with_reducible apply Does.twin | with_reducible apply Does.csnLatch

theorem execDieTemperatureWarning_does (t : BitVec 16) (s : State) :
    ∃ s', execDieTemperatureWarning t s = .next s' ∧ Does [.out, .regs, .tim, .twin] s s' := by
  refine ⟨_, rfl, does_start fun Hs HM => ?_⟩
  repeat' first
    | with_reducible exact Hs | with_reducible assumption | with_reducible exact mem_of HM (by decide)
    | with_reducible exact List.Subset.trans (by decide) HM | with_reducible apply begin_does | with_reducible apply dieWarning_does | split
    | intro x hx | intro x | with_reducible apply Does.out | with_reducible apply Does.regs | with_reducible apply Does.tim
    | with_reducible apply Does.twin

end Sys2Proof.Laws
end

