-- ==== Sys2Proof/Laws/State.lean ====
section
/-! SUPPORT. The updates of State, one lemma for each field: the updated field, and every other one as it was. -/

namespace Sys2Proof.Machine

/-! ### State.begin -/

@[simp] theorem State.begin_pending (s : State) : s.begin.pending = s.pending := rfl
@[simp] theorem State.begin_freeCtr (s : State) : s.begin.freeCtr = s.freeCtr := rfl
@[simp] theorem State.begin_sub (s : State) : s.begin.sub = s.sub := rfl
@[simp] theorem State.begin_out (s : State) : s.begin.out = [] := rfl
@[simp] theorem State.begin_regs (s : State) : s.begin.regs = s.regs := rfl
@[simp] theorem State.begin_ctl (s : State) : s.begin.ctl = s.ctl := rfl
@[simp] theorem State.begin_mem (s : State) : s.begin.mem = s.mem := rfl
@[simp] theorem State.begin_pea (s : State) : s.begin.pea = s.pea := rfl
@[simp] theorem State.begin_sec (s : State) : s.begin.sec = s.sec := rfl
@[simp] theorem State.begin_mix (s : State) : s.begin.mix = s.mix := rfl
@[simp] theorem State.begin_tdm (s : State) : s.begin.tdm = s.tdm := rfl
@[simp] theorem State.begin_dac (s : State) : s.begin.dac = s.dac := rfl
@[simp] theorem State.begin_byp (s : State) : s.begin.byp = s.byp := rfl
@[simp] theorem State.begin_tim (s : State) : s.begin.tim = s.tim := rfl
@[simp] theorem State.begin_lanes (s : State) : s.begin.lanes = s.lanes := rfl
@[simp] theorem State.begin_drays (s : State) : s.begin.drays = s.drays := rfl
@[simp] theorem State.begin_hosts (s : State) : s.begin.hosts = s.hosts := rfl
@[simp] theorem State.begin_net (s : State) : s.begin.net = s.net := rfl
@[simp] theorem State.begin_twin (s : State) : s.begin.twin = s.twin := rfl
@[simp] theorem State.begin_csnLatch (s : State) : s.begin.csnLatch = s.csnLatch := rfl

/-! ### State.emit -/

@[simp] theorem State.emit_pending (s : State) (o : Out) : (s.emit o).pending = s.pending := rfl
@[simp] theorem State.emit_freeCtr (s : State) (o : Out) : (s.emit o).freeCtr = s.freeCtr := rfl
@[simp] theorem State.emit_sub (s : State) (o : Out) : (s.emit o).sub = s.sub := rfl
@[simp] theorem State.emit_out (s : State) (o : Out) : (s.emit o).out = s.out ++ [o] := rfl
@[simp] theorem State.emit_regs (s : State) (o : Out) : (s.emit o).regs = s.regs := rfl
@[simp] theorem State.emit_ctl (s : State) (o : Out) : (s.emit o).ctl = s.ctl := rfl
@[simp] theorem State.emit_mem (s : State) (o : Out) : (s.emit o).mem = s.mem := rfl
@[simp] theorem State.emit_pea (s : State) (o : Out) : (s.emit o).pea = s.pea := rfl
@[simp] theorem State.emit_sec (s : State) (o : Out) : (s.emit o).sec = s.sec := rfl
@[simp] theorem State.emit_mix (s : State) (o : Out) : (s.emit o).mix = s.mix := rfl
@[simp] theorem State.emit_tdm (s : State) (o : Out) : (s.emit o).tdm = s.tdm := rfl
@[simp] theorem State.emit_dac (s : State) (o : Out) : (s.emit o).dac = s.dac := rfl
@[simp] theorem State.emit_byp (s : State) (o : Out) : (s.emit o).byp = s.byp := rfl
@[simp] theorem State.emit_tim (s : State) (o : Out) : (s.emit o).tim = s.tim := rfl
@[simp] theorem State.emit_lanes (s : State) (o : Out) : (s.emit o).lanes = s.lanes := rfl
@[simp] theorem State.emit_drays (s : State) (o : Out) : (s.emit o).drays = s.drays := rfl
@[simp] theorem State.emit_hosts (s : State) (o : Out) : (s.emit o).hosts = s.hosts := rfl
@[simp] theorem State.emit_net (s : State) (o : Out) : (s.emit o).net = s.net := rfl
@[simp] theorem State.emit_twin (s : State) (o : Out) : (s.emit o).twin = s.twin := rfl
@[simp] theorem State.emit_csnLatch (s : State) (o : Out) : (s.emit o).csnLatch = s.csnLatch := rfl

/-! ### State.emits -/

@[simp] theorem State.emits_pending (s : State) (os : List Out) : (s.emits os).pending = s.pending := rfl
@[simp] theorem State.emits_freeCtr (s : State) (os : List Out) : (s.emits os).freeCtr = s.freeCtr := rfl
@[simp] theorem State.emits_sub (s : State) (os : List Out) : (s.emits os).sub = s.sub := rfl
@[simp] theorem State.emits_out (s : State) (os : List Out) : (s.emits os).out = s.out ++ os := rfl
@[simp] theorem State.emits_regs (s : State) (os : List Out) : (s.emits os).regs = s.regs := rfl
@[simp] theorem State.emits_ctl (s : State) (os : List Out) : (s.emits os).ctl = s.ctl := rfl
@[simp] theorem State.emits_mem (s : State) (os : List Out) : (s.emits os).mem = s.mem := rfl
@[simp] theorem State.emits_pea (s : State) (os : List Out) : (s.emits os).pea = s.pea := rfl
@[simp] theorem State.emits_sec (s : State) (os : List Out) : (s.emits os).sec = s.sec := rfl
@[simp] theorem State.emits_mix (s : State) (os : List Out) : (s.emits os).mix = s.mix := rfl
@[simp] theorem State.emits_tdm (s : State) (os : List Out) : (s.emits os).tdm = s.tdm := rfl
@[simp] theorem State.emits_dac (s : State) (os : List Out) : (s.emits os).dac = s.dac := rfl
@[simp] theorem State.emits_byp (s : State) (os : List Out) : (s.emits os).byp = s.byp := rfl
@[simp] theorem State.emits_tim (s : State) (os : List Out) : (s.emits os).tim = s.tim := rfl
@[simp] theorem State.emits_lanes (s : State) (os : List Out) : (s.emits os).lanes = s.lanes := rfl
@[simp] theorem State.emits_drays (s : State) (os : List Out) : (s.emits os).drays = s.drays := rfl
@[simp] theorem State.emits_hosts (s : State) (os : List Out) : (s.emits os).hosts = s.hosts := rfl
@[simp] theorem State.emits_net (s : State) (os : List Out) : (s.emits os).net = s.net := rfl
@[simp] theorem State.emits_twin (s : State) (os : List Out) : (s.emits os).twin = s.twin := rfl
@[simp] theorem State.emits_csnLatch (s : State) (os : List Out) : (s.emits os).csnLatch = s.csnLatch := rfl

/-! ### State.timSet -/

@[simp] theorem State.timSet_pending (s : State) (t : Tim) : (s.timSet t).pending = s.pending := rfl
@[simp] theorem State.timSet_freeCtr (s : State) (t : Tim) : (s.timSet t).freeCtr = s.freeCtr := rfl
@[simp] theorem State.timSet_sub (s : State) (t : Tim) : (s.timSet t).sub = s.sub := rfl
@[simp] theorem State.timSet_out (s : State) (t : Tim) : (s.timSet t).out = s.out := rfl
@[simp] theorem State.timSet_regs (s : State) (t : Tim) : (s.timSet t).regs = s.regs := rfl
@[simp] theorem State.timSet_ctl (s : State) (t : Tim) : (s.timSet t).ctl = s.ctl := rfl
@[simp] theorem State.timSet_mem (s : State) (t : Tim) : (s.timSet t).mem = s.mem := rfl
@[simp] theorem State.timSet_pea (s : State) (t : Tim) : (s.timSet t).pea = s.pea := rfl
@[simp] theorem State.timSet_sec (s : State) (t : Tim) : (s.timSet t).sec = s.sec := rfl
@[simp] theorem State.timSet_mix (s : State) (t : Tim) : (s.timSet t).mix = s.mix := rfl
@[simp] theorem State.timSet_tdm (s : State) (t : Tim) : (s.timSet t).tdm = s.tdm := rfl
@[simp] theorem State.timSet_dac (s : State) (t : Tim) : (s.timSet t).dac = s.dac := rfl
@[simp] theorem State.timSet_byp (s : State) (t : Tim) : (s.timSet t).byp = s.byp := rfl
@[simp] theorem State.timSet_tim (s : State) (t : Tim) : (s.timSet t).tim = t := rfl
@[simp] theorem State.timSet_lanes (s : State) (t : Tim) : (s.timSet t).lanes = s.lanes := rfl
@[simp] theorem State.timSet_drays (s : State) (t : Tim) : (s.timSet t).drays = s.drays := rfl
@[simp] theorem State.timSet_hosts (s : State) (t : Tim) : (s.timSet t).hosts = s.hosts := rfl
@[simp] theorem State.timSet_net (s : State) (t : Tim) : (s.timSet t).net = s.net := rfl
@[simp] theorem State.timSet_twin (s : State) (t : Tim) : (s.timSet t).twin = s.twin := rfl
@[simp] theorem State.timSet_csnLatch (s : State) (t : Tim) : (s.timSet t).csnLatch = s.csnLatch := rfl

/-! ### State.ctlSet -/

@[simp] theorem State.ctlSet_pending (s : State) (c : Ctl) : (s.ctlSet c).pending = s.pending := rfl
@[simp] theorem State.ctlSet_freeCtr (s : State) (c : Ctl) : (s.ctlSet c).freeCtr = s.freeCtr := rfl
@[simp] theorem State.ctlSet_sub (s : State) (c : Ctl) : (s.ctlSet c).sub = s.sub := rfl
@[simp] theorem State.ctlSet_out (s : State) (c : Ctl) : (s.ctlSet c).out = s.out := rfl
@[simp] theorem State.ctlSet_regs (s : State) (c : Ctl) : (s.ctlSet c).regs = s.regs := rfl
@[simp] theorem State.ctlSet_ctl (s : State) (c : Ctl) : (s.ctlSet c).ctl = c := rfl
@[simp] theorem State.ctlSet_mem (s : State) (c : Ctl) : (s.ctlSet c).mem = s.mem := rfl
@[simp] theorem State.ctlSet_pea (s : State) (c : Ctl) : (s.ctlSet c).pea = s.pea := rfl
@[simp] theorem State.ctlSet_sec (s : State) (c : Ctl) : (s.ctlSet c).sec = s.sec := rfl
@[simp] theorem State.ctlSet_mix (s : State) (c : Ctl) : (s.ctlSet c).mix = s.mix := rfl
@[simp] theorem State.ctlSet_tdm (s : State) (c : Ctl) : (s.ctlSet c).tdm = s.tdm := rfl
@[simp] theorem State.ctlSet_dac (s : State) (c : Ctl) : (s.ctlSet c).dac = s.dac := rfl
@[simp] theorem State.ctlSet_byp (s : State) (c : Ctl) : (s.ctlSet c).byp = s.byp := rfl
@[simp] theorem State.ctlSet_tim (s : State) (c : Ctl) : (s.ctlSet c).tim = s.tim := rfl
@[simp] theorem State.ctlSet_lanes (s : State) (c : Ctl) : (s.ctlSet c).lanes = s.lanes := rfl
@[simp] theorem State.ctlSet_drays (s : State) (c : Ctl) : (s.ctlSet c).drays = s.drays := rfl
@[simp] theorem State.ctlSet_hosts (s : State) (c : Ctl) : (s.ctlSet c).hosts = s.hosts := rfl
@[simp] theorem State.ctlSet_net (s : State) (c : Ctl) : (s.ctlSet c).net = s.net := rfl
@[simp] theorem State.ctlSet_twin (s : State) (c : Ctl) : (s.ctlSet c).twin = s.twin := rfl
@[simp] theorem State.ctlSet_csnLatch (s : State) (c : Ctl) : (s.ctlSet c).csnLatch = s.csnLatch := rfl

/-! ### State.peaSet -/

@[simp] theorem State.peaSet_pending (s : State) (p : Pea) : (s.peaSet p).pending = s.pending := rfl
@[simp] theorem State.peaSet_freeCtr (s : State) (p : Pea) : (s.peaSet p).freeCtr = s.freeCtr := rfl
@[simp] theorem State.peaSet_sub (s : State) (p : Pea) : (s.peaSet p).sub = s.sub := rfl
@[simp] theorem State.peaSet_out (s : State) (p : Pea) : (s.peaSet p).out = s.out := rfl
@[simp] theorem State.peaSet_regs (s : State) (p : Pea) : (s.peaSet p).regs = s.regs := rfl
@[simp] theorem State.peaSet_ctl (s : State) (p : Pea) : (s.peaSet p).ctl = s.ctl := rfl
@[simp] theorem State.peaSet_mem (s : State) (p : Pea) : (s.peaSet p).mem = s.mem := rfl
@[simp] theorem State.peaSet_pea (s : State) (p : Pea) : (s.peaSet p).pea = p := rfl
@[simp] theorem State.peaSet_sec (s : State) (p : Pea) : (s.peaSet p).sec = s.sec := rfl
@[simp] theorem State.peaSet_mix (s : State) (p : Pea) : (s.peaSet p).mix = s.mix := rfl
@[simp] theorem State.peaSet_tdm (s : State) (p : Pea) : (s.peaSet p).tdm = s.tdm := rfl
@[simp] theorem State.peaSet_dac (s : State) (p : Pea) : (s.peaSet p).dac = s.dac := rfl
@[simp] theorem State.peaSet_byp (s : State) (p : Pea) : (s.peaSet p).byp = s.byp := rfl
@[simp] theorem State.peaSet_tim (s : State) (p : Pea) : (s.peaSet p).tim = s.tim := rfl
@[simp] theorem State.peaSet_lanes (s : State) (p : Pea) : (s.peaSet p).lanes = s.lanes := rfl
@[simp] theorem State.peaSet_drays (s : State) (p : Pea) : (s.peaSet p).drays = s.drays := rfl
@[simp] theorem State.peaSet_hosts (s : State) (p : Pea) : (s.peaSet p).hosts = s.hosts := rfl
@[simp] theorem State.peaSet_net (s : State) (p : Pea) : (s.peaSet p).net = s.net := rfl
@[simp] theorem State.peaSet_twin (s : State) (p : Pea) : (s.peaSet p).twin = s.twin := rfl
@[simp] theorem State.peaSet_csnLatch (s : State) (p : Pea) : (s.peaSet p).csnLatch = s.csnLatch := rfl

/-! ### State.secSet -/

@[simp] theorem State.secSet_pending (s : State) (x : Sec) : (s.secSet x).pending = s.pending := rfl
@[simp] theorem State.secSet_freeCtr (s : State) (x : Sec) : (s.secSet x).freeCtr = s.freeCtr := rfl
@[simp] theorem State.secSet_sub (s : State) (x : Sec) : (s.secSet x).sub = s.sub := rfl
@[simp] theorem State.secSet_out (s : State) (x : Sec) : (s.secSet x).out = s.out := rfl
@[simp] theorem State.secSet_regs (s : State) (x : Sec) : (s.secSet x).regs = s.regs := rfl
@[simp] theorem State.secSet_ctl (s : State) (x : Sec) : (s.secSet x).ctl = s.ctl := rfl
@[simp] theorem State.secSet_mem (s : State) (x : Sec) : (s.secSet x).mem = s.mem := rfl
@[simp] theorem State.secSet_pea (s : State) (x : Sec) : (s.secSet x).pea = s.pea := rfl
@[simp] theorem State.secSet_sec (s : State) (x : Sec) : (s.secSet x).sec = x := rfl
@[simp] theorem State.secSet_mix (s : State) (x : Sec) : (s.secSet x).mix = s.mix := rfl
@[simp] theorem State.secSet_tdm (s : State) (x : Sec) : (s.secSet x).tdm = s.tdm := rfl
@[simp] theorem State.secSet_dac (s : State) (x : Sec) : (s.secSet x).dac = s.dac := rfl
@[simp] theorem State.secSet_byp (s : State) (x : Sec) : (s.secSet x).byp = s.byp := rfl
@[simp] theorem State.secSet_tim (s : State) (x : Sec) : (s.secSet x).tim = s.tim := rfl
@[simp] theorem State.secSet_lanes (s : State) (x : Sec) : (s.secSet x).lanes = s.lanes := rfl
@[simp] theorem State.secSet_drays (s : State) (x : Sec) : (s.secSet x).drays = s.drays := rfl
@[simp] theorem State.secSet_hosts (s : State) (x : Sec) : (s.secSet x).hosts = s.hosts := rfl
@[simp] theorem State.secSet_net (s : State) (x : Sec) : (s.secSet x).net = s.net := rfl
@[simp] theorem State.secSet_twin (s : State) (x : Sec) : (s.secSet x).twin = s.twin := rfl
@[simp] theorem State.secSet_csnLatch (s : State) (x : Sec) : (s.secSet x).csnLatch = s.csnLatch := rfl

/-! ### State.netSet -/

@[simp] theorem State.netSet_pending (s : State) (n : Net) : (s.netSet n).pending = s.pending := rfl
@[simp] theorem State.netSet_freeCtr (s : State) (n : Net) : (s.netSet n).freeCtr = s.freeCtr := rfl
@[simp] theorem State.netSet_sub (s : State) (n : Net) : (s.netSet n).sub = s.sub := rfl
@[simp] theorem State.netSet_out (s : State) (n : Net) : (s.netSet n).out = s.out := rfl
@[simp] theorem State.netSet_regs (s : State) (n : Net) : (s.netSet n).regs = s.regs := rfl
@[simp] theorem State.netSet_ctl (s : State) (n : Net) : (s.netSet n).ctl = s.ctl := rfl
@[simp] theorem State.netSet_mem (s : State) (n : Net) : (s.netSet n).mem = s.mem := rfl
@[simp] theorem State.netSet_pea (s : State) (n : Net) : (s.netSet n).pea = s.pea := rfl
@[simp] theorem State.netSet_sec (s : State) (n : Net) : (s.netSet n).sec = s.sec := rfl
@[simp] theorem State.netSet_mix (s : State) (n : Net) : (s.netSet n).mix = s.mix := rfl
@[simp] theorem State.netSet_tdm (s : State) (n : Net) : (s.netSet n).tdm = s.tdm := rfl
@[simp] theorem State.netSet_dac (s : State) (n : Net) : (s.netSet n).dac = s.dac := rfl
@[simp] theorem State.netSet_byp (s : State) (n : Net) : (s.netSet n).byp = s.byp := rfl
@[simp] theorem State.netSet_tim (s : State) (n : Net) : (s.netSet n).tim = s.tim := rfl
@[simp] theorem State.netSet_lanes (s : State) (n : Net) : (s.netSet n).lanes = s.lanes := rfl
@[simp] theorem State.netSet_drays (s : State) (n : Net) : (s.netSet n).drays = s.drays := rfl
@[simp] theorem State.netSet_hosts (s : State) (n : Net) : (s.netSet n).hosts = s.hosts := rfl
@[simp] theorem State.netSet_net (s : State) (n : Net) : (s.netSet n).net = n := rfl
@[simp] theorem State.netSet_twin (s : State) (n : Net) : (s.netSet n).twin = s.twin := rfl
@[simp] theorem State.netSet_csnLatch (s : State) (n : Net) : (s.netSet n).csnLatch = s.csnLatch := rfl

/-! ### State.twinSet -/

@[simp] theorem State.twinSet_pending (s : State) (t : Twin) : (s.twinSet t).pending = s.pending := rfl
@[simp] theorem State.twinSet_freeCtr (s : State) (t : Twin) : (s.twinSet t).freeCtr = s.freeCtr := rfl
@[simp] theorem State.twinSet_sub (s : State) (t : Twin) : (s.twinSet t).sub = s.sub := rfl
@[simp] theorem State.twinSet_out (s : State) (t : Twin) : (s.twinSet t).out = s.out := rfl
@[simp] theorem State.twinSet_regs (s : State) (t : Twin) : (s.twinSet t).regs = s.regs := rfl
@[simp] theorem State.twinSet_ctl (s : State) (t : Twin) : (s.twinSet t).ctl = s.ctl := rfl
@[simp] theorem State.twinSet_mem (s : State) (t : Twin) : (s.twinSet t).mem = s.mem := rfl
@[simp] theorem State.twinSet_pea (s : State) (t : Twin) : (s.twinSet t).pea = s.pea := rfl
@[simp] theorem State.twinSet_sec (s : State) (t : Twin) : (s.twinSet t).sec = s.sec := rfl
@[simp] theorem State.twinSet_mix (s : State) (t : Twin) : (s.twinSet t).mix = s.mix := rfl
@[simp] theorem State.twinSet_tdm (s : State) (t : Twin) : (s.twinSet t).tdm = s.tdm := rfl
@[simp] theorem State.twinSet_dac (s : State) (t : Twin) : (s.twinSet t).dac = s.dac := rfl
@[simp] theorem State.twinSet_byp (s : State) (t : Twin) : (s.twinSet t).byp = s.byp := rfl
@[simp] theorem State.twinSet_tim (s : State) (t : Twin) : (s.twinSet t).tim = s.tim := rfl
@[simp] theorem State.twinSet_lanes (s : State) (t : Twin) : (s.twinSet t).lanes = s.lanes := rfl
@[simp] theorem State.twinSet_drays (s : State) (t : Twin) : (s.twinSet t).drays = s.drays := rfl
@[simp] theorem State.twinSet_hosts (s : State) (t : Twin) : (s.twinSet t).hosts = s.hosts := rfl
@[simp] theorem State.twinSet_net (s : State) (t : Twin) : (s.twinSet t).net = s.net := rfl
@[simp] theorem State.twinSet_twin (s : State) (t : Twin) : (s.twinSet t).twin = t := rfl
@[simp] theorem State.twinSet_csnLatch (s : State) (t : Twin) : (s.twinSet t).csnLatch = s.csnLatch := rfl

/-! ### State.portSet -/

@[simp] theorem State.portSet_pending (s : State) (n : Fin 16) (p : Tdm) : (s.portSet n p).pending = s.pending := rfl
@[simp] theorem State.portSet_freeCtr (s : State) (n : Fin 16) (p : Tdm) : (s.portSet n p).freeCtr = s.freeCtr := rfl
@[simp] theorem State.portSet_sub (s : State) (n : Fin 16) (p : Tdm) : (s.portSet n p).sub = s.sub := rfl
@[simp] theorem State.portSet_out (s : State) (n : Fin 16) (p : Tdm) : (s.portSet n p).out = s.out := rfl
@[simp] theorem State.portSet_regs (s : State) (n : Fin 16) (p : Tdm) : (s.portSet n p).regs = s.regs := rfl
@[simp] theorem State.portSet_ctl (s : State) (n : Fin 16) (p : Tdm) : (s.portSet n p).ctl = s.ctl := rfl
@[simp] theorem State.portSet_mem (s : State) (n : Fin 16) (p : Tdm) : (s.portSet n p).mem = s.mem := rfl
@[simp] theorem State.portSet_pea (s : State) (n : Fin 16) (p : Tdm) : (s.portSet n p).pea = s.pea := rfl
@[simp] theorem State.portSet_sec (s : State) (n : Fin 16) (p : Tdm) : (s.portSet n p).sec = s.sec := rfl
@[simp] theorem State.portSet_mix (s : State) (n : Fin 16) (p : Tdm) : (s.portSet n p).mix = s.mix := rfl
@[simp] theorem State.portSet_tdm (s : State) (n : Fin 16) (p : Tdm) : (s.portSet n p).tdm = s.tdm.set n p := rfl
@[simp] theorem State.portSet_dac (s : State) (n : Fin 16) (p : Tdm) : (s.portSet n p).dac = s.dac := rfl
@[simp] theorem State.portSet_byp (s : State) (n : Fin 16) (p : Tdm) : (s.portSet n p).byp = s.byp := rfl
@[simp] theorem State.portSet_tim (s : State) (n : Fin 16) (p : Tdm) : (s.portSet n p).tim = s.tim := rfl
@[simp] theorem State.portSet_lanes (s : State) (n : Fin 16) (p : Tdm) : (s.portSet n p).lanes = s.lanes := rfl
@[simp] theorem State.portSet_drays (s : State) (n : Fin 16) (p : Tdm) : (s.portSet n p).drays = s.drays := rfl
@[simp] theorem State.portSet_hosts (s : State) (n : Fin 16) (p : Tdm) : (s.portSet n p).hosts = s.hosts := rfl
@[simp] theorem State.portSet_net (s : State) (n : Fin 16) (p : Tdm) : (s.portSet n p).net = s.net := rfl
@[simp] theorem State.portSet_twin (s : State) (n : Fin 16) (p : Tdm) : (s.portSet n p).twin = s.twin := rfl
@[simp] theorem State.portSet_csnLatch (s : State) (n : Fin 16) (p : Tdm) : (s.portSet n p).csnLatch = s.csnLatch := rfl

/-! ### State.hostSet -/

@[simp] theorem State.hostSet_pending (s : State) (h : Fin 4) (x : HostPort) : (s.hostSet h x).pending = s.pending := rfl
@[simp] theorem State.hostSet_freeCtr (s : State) (h : Fin 4) (x : HostPort) : (s.hostSet h x).freeCtr = s.freeCtr := rfl
@[simp] theorem State.hostSet_sub (s : State) (h : Fin 4) (x : HostPort) : (s.hostSet h x).sub = s.sub := rfl
@[simp] theorem State.hostSet_out (s : State) (h : Fin 4) (x : HostPort) : (s.hostSet h x).out = s.out := rfl
@[simp] theorem State.hostSet_regs (s : State) (h : Fin 4) (x : HostPort) : (s.hostSet h x).regs = s.regs := rfl
@[simp] theorem State.hostSet_ctl (s : State) (h : Fin 4) (x : HostPort) : (s.hostSet h x).ctl = s.ctl := rfl
@[simp] theorem State.hostSet_mem (s : State) (h : Fin 4) (x : HostPort) : (s.hostSet h x).mem = s.mem := rfl
@[simp] theorem State.hostSet_pea (s : State) (h : Fin 4) (x : HostPort) : (s.hostSet h x).pea = s.pea := rfl
@[simp] theorem State.hostSet_sec (s : State) (h : Fin 4) (x : HostPort) : (s.hostSet h x).sec = s.sec := rfl
@[simp] theorem State.hostSet_mix (s : State) (h : Fin 4) (x : HostPort) : (s.hostSet h x).mix = s.mix := rfl
@[simp] theorem State.hostSet_tdm (s : State) (h : Fin 4) (x : HostPort) : (s.hostSet h x).tdm = s.tdm := rfl
@[simp] theorem State.hostSet_dac (s : State) (h : Fin 4) (x : HostPort) : (s.hostSet h x).dac = s.dac := rfl
@[simp] theorem State.hostSet_byp (s : State) (h : Fin 4) (x : HostPort) : (s.hostSet h x).byp = s.byp := rfl
@[simp] theorem State.hostSet_tim (s : State) (h : Fin 4) (x : HostPort) : (s.hostSet h x).tim = s.tim := rfl
@[simp] theorem State.hostSet_lanes (s : State) (h : Fin 4) (x : HostPort) : (s.hostSet h x).lanes = s.lanes := rfl
@[simp] theorem State.hostSet_drays (s : State) (h : Fin 4) (x : HostPort) : (s.hostSet h x).drays = s.drays := rfl
@[simp] theorem State.hostSet_hosts (s : State) (h : Fin 4) (x : HostPort) : (s.hostSet h x).hosts = s.hosts.set h x := rfl
@[simp] theorem State.hostSet_net (s : State) (h : Fin 4) (x : HostPort) : (s.hostSet h x).net = s.net := rfl
@[simp] theorem State.hostSet_twin (s : State) (h : Fin 4) (x : HostPort) : (s.hostSet h x).twin = s.twin := rfl
@[simp] theorem State.hostSet_csnLatch (s : State) (h : Fin 4) (x : HostPort) : (s.hostSet h x).csnLatch = s.csnLatch := rfl

/-! ### State.nportSet -/

@[simp] theorem State.nportSet_pending (s : State) (p : Nat) (x : Port) : (s.nportSet p x).pending = s.pending := rfl
@[simp] theorem State.nportSet_freeCtr (s : State) (p : Nat) (x : Port) : (s.nportSet p x).freeCtr = s.freeCtr := rfl
@[simp] theorem State.nportSet_sub (s : State) (p : Nat) (x : Port) : (s.nportSet p x).sub = s.sub := rfl
@[simp] theorem State.nportSet_out (s : State) (p : Nat) (x : Port) : (s.nportSet p x).out = s.out := rfl
@[simp] theorem State.nportSet_regs (s : State) (p : Nat) (x : Port) : (s.nportSet p x).regs = s.regs := rfl
@[simp] theorem State.nportSet_ctl (s : State) (p : Nat) (x : Port) : (s.nportSet p x).ctl = s.ctl := rfl
@[simp] theorem State.nportSet_mem (s : State) (p : Nat) (x : Port) : (s.nportSet p x).mem = s.mem := rfl
@[simp] theorem State.nportSet_pea (s : State) (p : Nat) (x : Port) : (s.nportSet p x).pea = s.pea := rfl
@[simp] theorem State.nportSet_sec (s : State) (p : Nat) (x : Port) : (s.nportSet p x).sec = s.sec := rfl
@[simp] theorem State.nportSet_mix (s : State) (p : Nat) (x : Port) : (s.nportSet p x).mix = s.mix := rfl
@[simp] theorem State.nportSet_tdm (s : State) (p : Nat) (x : Port) : (s.nportSet p x).tdm = s.tdm := rfl
@[simp] theorem State.nportSet_dac (s : State) (p : Nat) (x : Port) : (s.nportSet p x).dac = s.dac := rfl
@[simp] theorem State.nportSet_byp (s : State) (p : Nat) (x : Port) : (s.nportSet p x).byp = s.byp := rfl
@[simp] theorem State.nportSet_tim (s : State) (p : Nat) (x : Port) : (s.nportSet p x).tim = s.tim := rfl
@[simp] theorem State.nportSet_lanes (s : State) (p : Nat) (x : Port) : (s.nportSet p x).lanes = s.lanes := rfl
@[simp] theorem State.nportSet_drays (s : State) (p : Nat) (x : Port) : (s.nportSet p x).drays = s.drays := rfl
@[simp] theorem State.nportSet_hosts (s : State) (p : Nat) (x : Port) : (s.nportSet p x).hosts = s.hosts := rfl
@[simp] theorem State.nportSet_net (s : State) (p : Nat) (x : Port) : (s.nportSet p x).net = { s.net with ports := s.net.ports.set p x } := rfl
@[simp] theorem State.nportSet_twin (s : State) (p : Nat) (x : Port) : (s.nportSet p x).twin = s.twin := rfl
@[simp] theorem State.nportSet_csnLatch (s : State) (p : Nat) (x : Port) : (s.nportSet p x).csnLatch = s.csnLatch := rfl

/-! ### State.laneSet -/

@[simp] theorem State.laneSet_pending (s : State) (l : Nat) (x : Lane) : (s.laneSet l x).pending = s.pending := rfl
@[simp] theorem State.laneSet_freeCtr (s : State) (l : Nat) (x : Lane) : (s.laneSet l x).freeCtr = s.freeCtr := rfl
@[simp] theorem State.laneSet_sub (s : State) (l : Nat) (x : Lane) : (s.laneSet l x).sub = s.sub := rfl
@[simp] theorem State.laneSet_out (s : State) (l : Nat) (x : Lane) : (s.laneSet l x).out = s.out := rfl
@[simp] theorem State.laneSet_regs (s : State) (l : Nat) (x : Lane) : (s.laneSet l x).regs = s.regs := rfl
@[simp] theorem State.laneSet_ctl (s : State) (l : Nat) (x : Lane) : (s.laneSet l x).ctl = s.ctl := rfl
@[simp] theorem State.laneSet_mem (s : State) (l : Nat) (x : Lane) : (s.laneSet l x).mem = s.mem := rfl
@[simp] theorem State.laneSet_pea (s : State) (l : Nat) (x : Lane) : (s.laneSet l x).pea = s.pea := rfl
@[simp] theorem State.laneSet_sec (s : State) (l : Nat) (x : Lane) : (s.laneSet l x).sec = s.sec := rfl
@[simp] theorem State.laneSet_mix (s : State) (l : Nat) (x : Lane) : (s.laneSet l x).mix = s.mix := rfl
@[simp] theorem State.laneSet_tdm (s : State) (l : Nat) (x : Lane) : (s.laneSet l x).tdm = s.tdm := rfl
@[simp] theorem State.laneSet_dac (s : State) (l : Nat) (x : Lane) : (s.laneSet l x).dac = s.dac := rfl
@[simp] theorem State.laneSet_byp (s : State) (l : Nat) (x : Lane) : (s.laneSet l x).byp = s.byp := rfl
@[simp] theorem State.laneSet_tim (s : State) (l : Nat) (x : Lane) : (s.laneSet l x).tim = s.tim := rfl
@[simp] theorem State.laneSet_lanes (s : State) (l : Nat) (x : Lane) : (s.laneSet l x).lanes = s.lanes.set (l % 64) x (Nat.mod_lt l (by decide)) := rfl
@[simp] theorem State.laneSet_drays (s : State) (l : Nat) (x : Lane) : (s.laneSet l x).drays = s.drays := rfl
@[simp] theorem State.laneSet_hosts (s : State) (l : Nat) (x : Lane) : (s.laneSet l x).hosts = s.hosts := rfl
@[simp] theorem State.laneSet_net (s : State) (l : Nat) (x : Lane) : (s.laneSet l x).net = s.net := rfl
@[simp] theorem State.laneSet_twin (s : State) (l : Nat) (x : Lane) : (s.laneSet l x).twin = s.twin := rfl
@[simp] theorem State.laneSet_csnLatch (s : State) (l : Nat) (x : Lane) : (s.laneSet l x).csnLatch = s.csnLatch := rfl

/-! ### State.draySet -/

@[simp] theorem State.draySet_pending (s : State) (d : Nat) (x : Dray) : (s.draySet d x).pending = s.pending := rfl
@[simp] theorem State.draySet_freeCtr (s : State) (d : Nat) (x : Dray) : (s.draySet d x).freeCtr = s.freeCtr := rfl
@[simp] theorem State.draySet_sub (s : State) (d : Nat) (x : Dray) : (s.draySet d x).sub = s.sub := rfl
@[simp] theorem State.draySet_out (s : State) (d : Nat) (x : Dray) : (s.draySet d x).out = s.out := rfl
@[simp] theorem State.draySet_regs (s : State) (d : Nat) (x : Dray) : (s.draySet d x).regs = s.regs := rfl
@[simp] theorem State.draySet_ctl (s : State) (d : Nat) (x : Dray) : (s.draySet d x).ctl = s.ctl := rfl
@[simp] theorem State.draySet_mem (s : State) (d : Nat) (x : Dray) : (s.draySet d x).mem = s.mem := rfl
@[simp] theorem State.draySet_pea (s : State) (d : Nat) (x : Dray) : (s.draySet d x).pea = s.pea := rfl
@[simp] theorem State.draySet_sec (s : State) (d : Nat) (x : Dray) : (s.draySet d x).sec = s.sec := rfl
@[simp] theorem State.draySet_mix (s : State) (d : Nat) (x : Dray) : (s.draySet d x).mix = s.mix := rfl
@[simp] theorem State.draySet_tdm (s : State) (d : Nat) (x : Dray) : (s.draySet d x).tdm = s.tdm := rfl
@[simp] theorem State.draySet_dac (s : State) (d : Nat) (x : Dray) : (s.draySet d x).dac = s.dac := rfl
@[simp] theorem State.draySet_byp (s : State) (d : Nat) (x : Dray) : (s.draySet d x).byp = s.byp := rfl
@[simp] theorem State.draySet_tim (s : State) (d : Nat) (x : Dray) : (s.draySet d x).tim = s.tim := rfl
@[simp] theorem State.draySet_lanes (s : State) (d : Nat) (x : Dray) : (s.draySet d x).lanes = s.lanes := rfl
@[simp] theorem State.draySet_drays (s : State) (d : Nat) (x : Dray) : (s.draySet d x).drays = s.drays.set (d % 4) x (Nat.mod_lt d (by decide)) := rfl
@[simp] theorem State.draySet_hosts (s : State) (d : Nat) (x : Dray) : (s.draySet d x).hosts = s.hosts := rfl
@[simp] theorem State.draySet_net (s : State) (d : Nat) (x : Dray) : (s.draySet d x).net = s.net := rfl
@[simp] theorem State.draySet_twin (s : State) (d : Nat) (x : Dray) : (s.draySet d x).twin = s.twin := rfl
@[simp] theorem State.draySet_csnLatch (s : State) (d : Nat) (x : Dray) : (s.draySet d x).csnLatch = s.csnLatch := rfl

/-! ### State.entSet -/

@[simp] theorem State.entSet_pending (s : State) (e : Ent) : (s.entSet e).pending = s.pending := rfl
@[simp] theorem State.entSet_freeCtr (s : State) (e : Ent) : (s.entSet e).freeCtr = s.freeCtr := rfl
@[simp] theorem State.entSet_sub (s : State) (e : Ent) : (s.entSet e).sub = s.sub := rfl
@[simp] theorem State.entSet_out (s : State) (e : Ent) : (s.entSet e).out = s.out := rfl
@[simp] theorem State.entSet_regs (s : State) (e : Ent) : (s.entSet e).regs = s.regs := rfl
@[simp] theorem State.entSet_ctl (s : State) (e : Ent) : (s.entSet e).ctl = s.ctl := rfl
@[simp] theorem State.entSet_mem (s : State) (e : Ent) : (s.entSet e).mem = s.mem := rfl
@[simp] theorem State.entSet_pea (s : State) (e : Ent) : (s.entSet e).pea = s.pea := rfl
@[simp] theorem State.entSet_sec (s : State) (e : Ent) : (s.entSet e).sec = s.sec := rfl
@[simp] theorem State.entSet_mix (s : State) (e : Ent) : (s.entSet e).mix = { s.mix with ents := entPut e s.mix.ents } := rfl
@[simp] theorem State.entSet_tdm (s : State) (e : Ent) : (s.entSet e).tdm = s.tdm := rfl
@[simp] theorem State.entSet_dac (s : State) (e : Ent) : (s.entSet e).dac = s.dac := rfl
@[simp] theorem State.entSet_byp (s : State) (e : Ent) : (s.entSet e).byp = s.byp := rfl
@[simp] theorem State.entSet_tim (s : State) (e : Ent) : (s.entSet e).tim = s.tim := rfl
@[simp] theorem State.entSet_lanes (s : State) (e : Ent) : (s.entSet e).lanes = s.lanes := rfl
@[simp] theorem State.entSet_drays (s : State) (e : Ent) : (s.entSet e).drays = s.drays := rfl
@[simp] theorem State.entSet_hosts (s : State) (e : Ent) : (s.entSet e).hosts = s.hosts := rfl
@[simp] theorem State.entSet_net (s : State) (e : Ent) : (s.entSet e).net = s.net := rfl
@[simp] theorem State.entSet_twin (s : State) (e : Ent) : (s.entSet e).twin = s.twin := rfl
@[simp] theorem State.entSet_csnLatch (s : State) (e : Ent) : (s.entSet e).csnLatch = s.csnLatch := rfl

/-! ### State.xpSet -/

@[simp] theorem State.xpSet_pending (s : State) (x : Xp) : (s.xpSet x).pending = s.pending := rfl
@[simp] theorem State.xpSet_freeCtr (s : State) (x : Xp) : (s.xpSet x).freeCtr = s.freeCtr := rfl
@[simp] theorem State.xpSet_sub (s : State) (x : Xp) : (s.xpSet x).sub = s.sub := rfl
@[simp] theorem State.xpSet_out (s : State) (x : Xp) : (s.xpSet x).out = s.out := rfl
@[simp] theorem State.xpSet_regs (s : State) (x : Xp) : (s.xpSet x).regs = s.regs := rfl
@[simp] theorem State.xpSet_ctl (s : State) (x : Xp) : (s.xpSet x).ctl = s.ctl := rfl
@[simp] theorem State.xpSet_mem (s : State) (x : Xp) : (s.xpSet x).mem = s.mem := rfl
@[simp] theorem State.xpSet_pea (s : State) (x : Xp) : (s.xpSet x).pea = s.pea := rfl
@[simp] theorem State.xpSet_sec (s : State) (x : Xp) : (s.xpSet x).sec = s.sec := rfl
@[simp] theorem State.xpSet_mix (s : State) (x : Xp) : (s.xpSet x).mix = { s.mix with xps := xpPut x s.mix.xps } := rfl
@[simp] theorem State.xpSet_tdm (s : State) (x : Xp) : (s.xpSet x).tdm = s.tdm := rfl
@[simp] theorem State.xpSet_dac (s : State) (x : Xp) : (s.xpSet x).dac = s.dac := rfl
@[simp] theorem State.xpSet_byp (s : State) (x : Xp) : (s.xpSet x).byp = s.byp := rfl
@[simp] theorem State.xpSet_tim (s : State) (x : Xp) : (s.xpSet x).tim = s.tim := rfl
@[simp] theorem State.xpSet_lanes (s : State) (x : Xp) : (s.xpSet x).lanes = s.lanes := rfl
@[simp] theorem State.xpSet_drays (s : State) (x : Xp) : (s.xpSet x).drays = s.drays := rfl
@[simp] theorem State.xpSet_hosts (s : State) (x : Xp) : (s.xpSet x).hosts = s.hosts := rfl
@[simp] theorem State.xpSet_net (s : State) (x : Xp) : (s.xpSet x).net = s.net := rfl
@[simp] theorem State.xpSet_twin (s : State) (x : Xp) : (s.xpSet x).twin = s.twin := rfl
@[simp] theorem State.xpSet_csnLatch (s : State) (x : Xp) : (s.xpSet x).csnLatch = s.csnLatch := rfl

/-! ### State.refSet -/

@[simp] theorem State.refSet_pending (s : State) (r : Nat) (x : Ref) : (s.refSet r x).pending = s.pending := rfl
@[simp] theorem State.refSet_freeCtr (s : State) (r : Nat) (x : Ref) : (s.refSet r x).freeCtr = s.freeCtr := rfl
@[simp] theorem State.refSet_sub (s : State) (r : Nat) (x : Ref) : (s.refSet r x).sub = s.sub := rfl
@[simp] theorem State.refSet_out (s : State) (r : Nat) (x : Ref) : (s.refSet r x).out = s.out := rfl
@[simp] theorem State.refSet_regs (s : State) (r : Nat) (x : Ref) : (s.refSet r x).regs = s.regs := rfl
@[simp] theorem State.refSet_ctl (s : State) (r : Nat) (x : Ref) : (s.refSet r x).ctl = s.ctl := rfl
@[simp] theorem State.refSet_mem (s : State) (r : Nat) (x : Ref) : (s.refSet r x).mem = s.mem := rfl
@[simp] theorem State.refSet_pea (s : State) (r : Nat) (x : Ref) : (s.refSet r x).pea = s.pea := rfl
@[simp] theorem State.refSet_sec (s : State) (r : Nat) (x : Ref) : (s.refSet r x).sec = s.sec := rfl
@[simp] theorem State.refSet_mix (s : State) (r : Nat) (x : Ref) : (s.refSet r x).mix = s.mix := rfl
@[simp] theorem State.refSet_tdm (s : State) (r : Nat) (x : Ref) : (s.refSet r x).tdm = s.tdm := rfl
@[simp] theorem State.refSet_dac (s : State) (r : Nat) (x : Ref) : (s.refSet r x).dac = s.dac := rfl
@[simp] theorem State.refSet_byp (s : State) (r : Nat) (x : Ref) : (s.refSet r x).byp = s.byp := rfl
@[simp] theorem State.refSet_tim (s : State) (r : Nat) (x : Ref) : (s.refSet r x).tim = { s.tim with refs := s.tim.refs.set r x, ran := true } := rfl
@[simp] theorem State.refSet_lanes (s : State) (r : Nat) (x : Ref) : (s.refSet r x).lanes = s.lanes := rfl
@[simp] theorem State.refSet_drays (s : State) (r : Nat) (x : Ref) : (s.refSet r x).drays = s.drays := rfl
@[simp] theorem State.refSet_hosts (s : State) (r : Nat) (x : Ref) : (s.refSet r x).hosts = s.hosts := rfl
@[simp] theorem State.refSet_net (s : State) (r : Nat) (x : Ref) : (s.refSet r x).net = s.net := rfl
@[simp] theorem State.refSet_twin (s : State) (r : Nat) (x : Ref) : (s.refSet r x).twin = s.twin := rfl
@[simp] theorem State.refSet_csnLatch (s : State) (r : Nat) (x : Ref) : (s.refSet r x).csnLatch = s.csnLatch := rfl

/-! ### State.rwSet -/

@[simp] theorem State.rwSet_pending (s : State) (off : Nat) (w : Word) : (s.rwSet off w).pending = s.pending := rfl
@[simp] theorem State.rwSet_freeCtr (s : State) (off : Nat) (w : Word) : (s.rwSet off w).freeCtr = s.freeCtr := rfl
@[simp] theorem State.rwSet_sub (s : State) (off : Nat) (w : Word) : (s.rwSet off w).sub = s.sub := rfl
@[simp] theorem State.rwSet_out (s : State) (off : Nat) (w : Word) : (s.rwSet off w).out = s.out := rfl
@[simp] theorem State.rwSet_ctl (s : State) (off : Nat) (w : Word) : (s.rwSet off w).ctl = s.ctl := rfl
@[simp] theorem State.rwSet_mem (s : State) (off : Nat) (w : Word) : (s.rwSet off w).mem = s.mem := rfl
@[simp] theorem State.rwSet_pea (s : State) (off : Nat) (w : Word) : (s.rwSet off w).pea = s.pea := rfl
@[simp] theorem State.rwSet_sec (s : State) (off : Nat) (w : Word) : (s.rwSet off w).sec = s.sec := rfl
@[simp] theorem State.rwSet_mix (s : State) (off : Nat) (w : Word) : (s.rwSet off w).mix = s.mix := rfl
@[simp] theorem State.rwSet_tdm (s : State) (off : Nat) (w : Word) : (s.rwSet off w).tdm = s.tdm := rfl
@[simp] theorem State.rwSet_dac (s : State) (off : Nat) (w : Word) : (s.rwSet off w).dac = s.dac := rfl
@[simp] theorem State.rwSet_byp (s : State) (off : Nat) (w : Word) : (s.rwSet off w).byp = s.byp := rfl
@[simp] theorem State.rwSet_tim (s : State) (off : Nat) (w : Word) : (s.rwSet off w).tim = s.tim := rfl
@[simp] theorem State.rwSet_lanes (s : State) (off : Nat) (w : Word) : (s.rwSet off w).lanes = s.lanes := rfl
@[simp] theorem State.rwSet_drays (s : State) (off : Nat) (w : Word) : (s.rwSet off w).drays = s.drays := rfl
@[simp] theorem State.rwSet_hosts (s : State) (off : Nat) (w : Word) : (s.rwSet off w).hosts = s.hosts := rfl
@[simp] theorem State.rwSet_net (s : State) (off : Nat) (w : Word) : (s.rwSet off w).net = s.net := rfl
@[simp] theorem State.rwSet_twin (s : State) (off : Nat) (w : Word) : (s.rwSet off w).twin = s.twin := rfl
@[simp] theorem State.rwSet_csnLatch (s : State) (off : Nat) (w : Word) : (s.rwSet off w).csnLatch = s.csnLatch := rfl

/-! ### State.ctrSet -/

@[simp] theorem State.ctrSet_pending (s : State) (off : Nat) (c : Ctr) : (s.ctrSet off c).pending = s.pending := rfl
@[simp] theorem State.ctrSet_freeCtr (s : State) (off : Nat) (c : Ctr) : (s.ctrSet off c).freeCtr = s.freeCtr := rfl
@[simp] theorem State.ctrSet_sub (s : State) (off : Nat) (c : Ctr) : (s.ctrSet off c).sub = s.sub := rfl
@[simp] theorem State.ctrSet_out (s : State) (off : Nat) (c : Ctr) : (s.ctrSet off c).out = s.out := rfl
@[simp] theorem State.ctrSet_ctl (s : State) (off : Nat) (c : Ctr) : (s.ctrSet off c).ctl = s.ctl := rfl
@[simp] theorem State.ctrSet_mem (s : State) (off : Nat) (c : Ctr) : (s.ctrSet off c).mem = s.mem := rfl
@[simp] theorem State.ctrSet_pea (s : State) (off : Nat) (c : Ctr) : (s.ctrSet off c).pea = s.pea := rfl
@[simp] theorem State.ctrSet_sec (s : State) (off : Nat) (c : Ctr) : (s.ctrSet off c).sec = s.sec := rfl
@[simp] theorem State.ctrSet_mix (s : State) (off : Nat) (c : Ctr) : (s.ctrSet off c).mix = s.mix := rfl
@[simp] theorem State.ctrSet_tdm (s : State) (off : Nat) (c : Ctr) : (s.ctrSet off c).tdm = s.tdm := rfl
@[simp] theorem State.ctrSet_dac (s : State) (off : Nat) (c : Ctr) : (s.ctrSet off c).dac = s.dac := rfl
@[simp] theorem State.ctrSet_byp (s : State) (off : Nat) (c : Ctr) : (s.ctrSet off c).byp = s.byp := rfl
@[simp] theorem State.ctrSet_tim (s : State) (off : Nat) (c : Ctr) : (s.ctrSet off c).tim = s.tim := rfl
@[simp] theorem State.ctrSet_lanes (s : State) (off : Nat) (c : Ctr) : (s.ctrSet off c).lanes = s.lanes := rfl
@[simp] theorem State.ctrSet_drays (s : State) (off : Nat) (c : Ctr) : (s.ctrSet off c).drays = s.drays := rfl
@[simp] theorem State.ctrSet_hosts (s : State) (off : Nat) (c : Ctr) : (s.ctrSet off c).hosts = s.hosts := rfl
@[simp] theorem State.ctrSet_net (s : State) (off : Nat) (c : Ctr) : (s.ctrSet off c).net = s.net := rfl
@[simp] theorem State.ctrSet_twin (s : State) (off : Nat) (c : Ctr) : (s.ctrSet off c).twin = s.twin := rfl
@[simp] theorem State.ctrSet_csnLatch (s : State) (off : Nat) (c : Ctr) : (s.ctrSet off c).csnLatch = s.csnLatch := rfl

/-! ### State.scPut -/

@[simp] theorem State.scPut_pending (s : State) (off : Nat) (c : Sc) : (s.scPut off c).pending = s.pending := rfl
@[simp] theorem State.scPut_freeCtr (s : State) (off : Nat) (c : Sc) : (s.scPut off c).freeCtr = s.freeCtr := rfl
@[simp] theorem State.scPut_sub (s : State) (off : Nat) (c : Sc) : (s.scPut off c).sub = s.sub := rfl
@[simp] theorem State.scPut_out (s : State) (off : Nat) (c : Sc) : (s.scPut off c).out = s.out := rfl
@[simp] theorem State.scPut_ctl (s : State) (off : Nat) (c : Sc) : (s.scPut off c).ctl = s.ctl := rfl
@[simp] theorem State.scPut_mem (s : State) (off : Nat) (c : Sc) : (s.scPut off c).mem = s.mem := rfl
@[simp] theorem State.scPut_pea (s : State) (off : Nat) (c : Sc) : (s.scPut off c).pea = s.pea := rfl
@[simp] theorem State.scPut_sec (s : State) (off : Nat) (c : Sc) : (s.scPut off c).sec = s.sec := rfl
@[simp] theorem State.scPut_mix (s : State) (off : Nat) (c : Sc) : (s.scPut off c).mix = s.mix := rfl
@[simp] theorem State.scPut_tdm (s : State) (off : Nat) (c : Sc) : (s.scPut off c).tdm = s.tdm := rfl
@[simp] theorem State.scPut_dac (s : State) (off : Nat) (c : Sc) : (s.scPut off c).dac = s.dac := rfl
@[simp] theorem State.scPut_byp (s : State) (off : Nat) (c : Sc) : (s.scPut off c).byp = s.byp := rfl
@[simp] theorem State.scPut_tim (s : State) (off : Nat) (c : Sc) : (s.scPut off c).tim = s.tim := rfl
@[simp] theorem State.scPut_lanes (s : State) (off : Nat) (c : Sc) : (s.scPut off c).lanes = s.lanes := rfl
@[simp] theorem State.scPut_drays (s : State) (off : Nat) (c : Sc) : (s.scPut off c).drays = s.drays := rfl
@[simp] theorem State.scPut_hosts (s : State) (off : Nat) (c : Sc) : (s.scPut off c).hosts = s.hosts := rfl
@[simp] theorem State.scPut_net (s : State) (off : Nat) (c : Sc) : (s.scPut off c).net = s.net := rfl
@[simp] theorem State.scPut_twin (s : State) (off : Nat) (c : Sc) : (s.scPut off c).twin = s.twin := rfl
@[simp] theorem State.scPut_csnLatch (s : State) (off : Nat) (c : Sc) : (s.scPut off c).csnLatch = s.csnLatch := rfl

/-! ### State.capSet -/

@[simp] theorem State.capSet_pending (s : State) (off : Nat) (w : Word) : (s.capSet off w).pending = s.pending := rfl
@[simp] theorem State.capSet_freeCtr (s : State) (off : Nat) (w : Word) : (s.capSet off w).freeCtr = s.freeCtr := rfl
@[simp] theorem State.capSet_sub (s : State) (off : Nat) (w : Word) : (s.capSet off w).sub = s.sub := rfl
@[simp] theorem State.capSet_out (s : State) (off : Nat) (w : Word) : (s.capSet off w).out = s.out := rfl
@[simp] theorem State.capSet_ctl (s : State) (off : Nat) (w : Word) : (s.capSet off w).ctl = s.ctl := rfl
@[simp] theorem State.capSet_mem (s : State) (off : Nat) (w : Word) : (s.capSet off w).mem = s.mem := rfl
@[simp] theorem State.capSet_pea (s : State) (off : Nat) (w : Word) : (s.capSet off w).pea = s.pea := rfl
@[simp] theorem State.capSet_sec (s : State) (off : Nat) (w : Word) : (s.capSet off w).sec = s.sec := rfl
@[simp] theorem State.capSet_mix (s : State) (off : Nat) (w : Word) : (s.capSet off w).mix = s.mix := rfl
@[simp] theorem State.capSet_tdm (s : State) (off : Nat) (w : Word) : (s.capSet off w).tdm = s.tdm := rfl
@[simp] theorem State.capSet_dac (s : State) (off : Nat) (w : Word) : (s.capSet off w).dac = s.dac := rfl
@[simp] theorem State.capSet_byp (s : State) (off : Nat) (w : Word) : (s.capSet off w).byp = s.byp := rfl
@[simp] theorem State.capSet_tim (s : State) (off : Nat) (w : Word) : (s.capSet off w).tim = s.tim := rfl
@[simp] theorem State.capSet_lanes (s : State) (off : Nat) (w : Word) : (s.capSet off w).lanes = s.lanes := rfl
@[simp] theorem State.capSet_drays (s : State) (off : Nat) (w : Word) : (s.capSet off w).drays = s.drays := rfl
@[simp] theorem State.capSet_hosts (s : State) (off : Nat) (w : Word) : (s.capSet off w).hosts = s.hosts := rfl
@[simp] theorem State.capSet_net (s : State) (off : Nat) (w : Word) : (s.capSet off w).net = s.net := rfl
@[simp] theorem State.capSet_twin (s : State) (off : Nat) (w : Word) : (s.capSet off w).twin = s.twin := rfl
@[simp] theorem State.capSet_csnLatch (s : State) (off : Nat) (w : Word) : (s.capSet off w).csnLatch = s.csnLatch := rfl

/-! ### State.scSet -/

@[simp] theorem State.scSet_pending (s : State) (off b : Nat) : (s.scSet off b).pending = s.pending := rfl
@[simp] theorem State.scSet_freeCtr (s : State) (off b : Nat) : (s.scSet off b).freeCtr = s.freeCtr := rfl
@[simp] theorem State.scSet_sub (s : State) (off b : Nat) : (s.scSet off b).sub = s.sub := rfl
@[simp] theorem State.scSet_out (s : State) (off b : Nat) : (s.scSet off b).out = s.out := rfl
@[simp] theorem State.scSet_ctl (s : State) (off b : Nat) : (s.scSet off b).ctl = s.ctl := rfl
@[simp] theorem State.scSet_mem (s : State) (off b : Nat) : (s.scSet off b).mem = s.mem := rfl
@[simp] theorem State.scSet_pea (s : State) (off b : Nat) : (s.scSet off b).pea = s.pea := rfl
@[simp] theorem State.scSet_sec (s : State) (off b : Nat) : (s.scSet off b).sec = s.sec := rfl
@[simp] theorem State.scSet_mix (s : State) (off b : Nat) : (s.scSet off b).mix = s.mix := rfl
@[simp] theorem State.scSet_tdm (s : State) (off b : Nat) : (s.scSet off b).tdm = s.tdm := rfl
@[simp] theorem State.scSet_dac (s : State) (off b : Nat) : (s.scSet off b).dac = s.dac := rfl
@[simp] theorem State.scSet_byp (s : State) (off b : Nat) : (s.scSet off b).byp = s.byp := rfl
@[simp] theorem State.scSet_tim (s : State) (off b : Nat) : (s.scSet off b).tim = s.tim := rfl
@[simp] theorem State.scSet_lanes (s : State) (off b : Nat) : (s.scSet off b).lanes = s.lanes := rfl
@[simp] theorem State.scSet_drays (s : State) (off b : Nat) : (s.scSet off b).drays = s.drays := rfl
@[simp] theorem State.scSet_hosts (s : State) (off b : Nat) : (s.scSet off b).hosts = s.hosts := rfl
@[simp] theorem State.scSet_net (s : State) (off b : Nat) : (s.scSet off b).net = s.net := rfl
@[simp] theorem State.scSet_twin (s : State) (off b : Nat) : (s.scSet off b).twin = s.twin := rfl
@[simp] theorem State.scSet_csnLatch (s : State) (off b : Nat) : (s.scSet off b).csnLatch = s.csnLatch := rfl

/-! ### State.count -/

@[simp] theorem State.count_pending (s : State) (off : Nat) : (s.count off).pending = s.pending := rfl
@[simp] theorem State.count_freeCtr (s : State) (off : Nat) : (s.count off).freeCtr = s.freeCtr := rfl
@[simp] theorem State.count_sub (s : State) (off : Nat) : (s.count off).sub = s.sub := rfl
@[simp] theorem State.count_out (s : State) (off : Nat) : (s.count off).out = s.out := rfl
@[simp] theorem State.count_ctl (s : State) (off : Nat) : (s.count off).ctl = s.ctl := rfl
@[simp] theorem State.count_mem (s : State) (off : Nat) : (s.count off).mem = s.mem := rfl
@[simp] theorem State.count_pea (s : State) (off : Nat) : (s.count off).pea = s.pea := rfl
@[simp] theorem State.count_sec (s : State) (off : Nat) : (s.count off).sec = s.sec := rfl
@[simp] theorem State.count_mix (s : State) (off : Nat) : (s.count off).mix = s.mix := rfl
@[simp] theorem State.count_tdm (s : State) (off : Nat) : (s.count off).tdm = s.tdm := rfl
@[simp] theorem State.count_dac (s : State) (off : Nat) : (s.count off).dac = s.dac := rfl
@[simp] theorem State.count_byp (s : State) (off : Nat) : (s.count off).byp = s.byp := rfl
@[simp] theorem State.count_tim (s : State) (off : Nat) : (s.count off).tim = s.tim := rfl
@[simp] theorem State.count_lanes (s : State) (off : Nat) : (s.count off).lanes = s.lanes := rfl
@[simp] theorem State.count_drays (s : State) (off : Nat) : (s.count off).drays = s.drays := rfl
@[simp] theorem State.count_hosts (s : State) (off : Nat) : (s.count off).hosts = s.hosts := rfl
@[simp] theorem State.count_net (s : State) (off : Nat) : (s.count off).net = s.net := rfl
@[simp] theorem State.count_twin (s : State) (off : Nat) : (s.count off).twin = s.twin := rfl
@[simp] theorem State.count_csnLatch (s : State) (off : Nat) : (s.count off).csnLatch = s.csnLatch := rfl

/-! ### State.capFld -/

@[simp] theorem State.capFld_pending (s : State) (off lo n v : Nat) : (s.capFld off lo n v).pending = s.pending := rfl
@[simp] theorem State.capFld_freeCtr (s : State) (off lo n v : Nat) : (s.capFld off lo n v).freeCtr = s.freeCtr := rfl
@[simp] theorem State.capFld_sub (s : State) (off lo n v : Nat) : (s.capFld off lo n v).sub = s.sub := rfl
@[simp] theorem State.capFld_out (s : State) (off lo n v : Nat) : (s.capFld off lo n v).out = s.out := rfl
@[simp] theorem State.capFld_ctl (s : State) (off lo n v : Nat) : (s.capFld off lo n v).ctl = s.ctl := rfl
@[simp] theorem State.capFld_mem (s : State) (off lo n v : Nat) : (s.capFld off lo n v).mem = s.mem := rfl
@[simp] theorem State.capFld_pea (s : State) (off lo n v : Nat) : (s.capFld off lo n v).pea = s.pea := rfl
@[simp] theorem State.capFld_sec (s : State) (off lo n v : Nat) : (s.capFld off lo n v).sec = s.sec := rfl
@[simp] theorem State.capFld_mix (s : State) (off lo n v : Nat) : (s.capFld off lo n v).mix = s.mix := rfl
@[simp] theorem State.capFld_tdm (s : State) (off lo n v : Nat) : (s.capFld off lo n v).tdm = s.tdm := rfl
@[simp] theorem State.capFld_dac (s : State) (off lo n v : Nat) : (s.capFld off lo n v).dac = s.dac := rfl
@[simp] theorem State.capFld_byp (s : State) (off lo n v : Nat) : (s.capFld off lo n v).byp = s.byp := rfl
@[simp] theorem State.capFld_tim (s : State) (off lo n v : Nat) : (s.capFld off lo n v).tim = s.tim := rfl
@[simp] theorem State.capFld_lanes (s : State) (off lo n v : Nat) : (s.capFld off lo n v).lanes = s.lanes := rfl
@[simp] theorem State.capFld_drays (s : State) (off lo n v : Nat) : (s.capFld off lo n v).drays = s.drays := rfl
@[simp] theorem State.capFld_hosts (s : State) (off lo n v : Nat) : (s.capFld off lo n v).hosts = s.hosts := rfl
@[simp] theorem State.capFld_net (s : State) (off lo n v : Nat) : (s.capFld off lo n v).net = s.net := rfl
@[simp] theorem State.capFld_twin (s : State) (off lo n v : Nat) : (s.capFld off lo n v).twin = s.twin := rfl
@[simp] theorem State.capFld_csnLatch (s : State) (off lo n v : Nat) : (s.capFld off lo n v).csnLatch = s.csnLatch := rfl

/-! ### State.wipe -/

@[simp] theorem State.wipe_pending (s : State) (p : Nat → Bool) : (s.wipe p).pending = s.pending := rfl
@[simp] theorem State.wipe_freeCtr (s : State) (p : Nat → Bool) : (s.wipe p).freeCtr = s.freeCtr := rfl
@[simp] theorem State.wipe_sub (s : State) (p : Nat → Bool) : (s.wipe p).sub = s.sub := rfl
@[simp] theorem State.wipe_out (s : State) (p : Nat → Bool) : (s.wipe p).out = s.out := rfl
@[simp] theorem State.wipe_ctl (s : State) (p : Nat → Bool) : (s.wipe p).ctl = s.ctl := rfl
@[simp] theorem State.wipe_mem (s : State) (p : Nat → Bool) : (s.wipe p).mem = s.mem := rfl
@[simp] theorem State.wipe_pea (s : State) (p : Nat → Bool) : (s.wipe p).pea = s.pea := rfl
@[simp] theorem State.wipe_sec (s : State) (p : Nat → Bool) : (s.wipe p).sec = s.sec := rfl
@[simp] theorem State.wipe_mix (s : State) (p : Nat → Bool) : (s.wipe p).mix = s.mix := rfl
@[simp] theorem State.wipe_tdm (s : State) (p : Nat → Bool) : (s.wipe p).tdm = s.tdm := rfl
@[simp] theorem State.wipe_dac (s : State) (p : Nat → Bool) : (s.wipe p).dac = s.dac := rfl
@[simp] theorem State.wipe_byp (s : State) (p : Nat → Bool) : (s.wipe p).byp = s.byp := rfl
@[simp] theorem State.wipe_tim (s : State) (p : Nat → Bool) : (s.wipe p).tim = s.tim := rfl
@[simp] theorem State.wipe_lanes (s : State) (p : Nat → Bool) : (s.wipe p).lanes = s.lanes := rfl
@[simp] theorem State.wipe_drays (s : State) (p : Nat → Bool) : (s.wipe p).drays = s.drays := rfl
@[simp] theorem State.wipe_hosts (s : State) (p : Nat → Bool) : (s.wipe p).hosts = s.hosts := rfl
@[simp] theorem State.wipe_net (s : State) (p : Nat → Bool) : (s.wipe p).net = s.net := rfl
@[simp] theorem State.wipe_twin (s : State) (p : Nat → Bool) : (s.wipe p).twin = s.twin := rfl
@[simp] theorem State.wipe_csnLatch (s : State) (p : Nat → Bool) : (s.wipe p).csnLatch = s.csnLatch := rfl

/-! ### State.cause -/

@[simp] theorem State.cause_pending (s : State) (b : Nat) : (s.cause b).pending = s.pending := rfl
@[simp] theorem State.cause_freeCtr (s : State) (b : Nat) : (s.cause b).freeCtr = s.freeCtr := rfl
@[simp] theorem State.cause_sub (s : State) (b : Nat) : (s.cause b).sub = s.sub := rfl
@[simp] theorem State.cause_out (s : State) (b : Nat) : (s.cause b).out = s.out := rfl
@[simp] theorem State.cause_ctl (s : State) (b : Nat) : (s.cause b).ctl = s.ctl := rfl
@[simp] theorem State.cause_mem (s : State) (b : Nat) : (s.cause b).mem = s.mem := rfl
@[simp] theorem State.cause_pea (s : State) (b : Nat) : (s.cause b).pea = s.pea := rfl
@[simp] theorem State.cause_sec (s : State) (b : Nat) : (s.cause b).sec = s.sec := rfl
@[simp] theorem State.cause_mix (s : State) (b : Nat) : (s.cause b).mix = s.mix := rfl
@[simp] theorem State.cause_tdm (s : State) (b : Nat) : (s.cause b).tdm = s.tdm := rfl
@[simp] theorem State.cause_dac (s : State) (b : Nat) : (s.cause b).dac = s.dac := rfl
@[simp] theorem State.cause_byp (s : State) (b : Nat) : (s.cause b).byp = s.byp := rfl
@[simp] theorem State.cause_tim (s : State) (b : Nat) : (s.cause b).tim = s.tim := rfl
@[simp] theorem State.cause_lanes (s : State) (b : Nat) : (s.cause b).lanes = s.lanes := rfl
@[simp] theorem State.cause_drays (s : State) (b : Nat) : (s.cause b).drays = s.drays := rfl
@[simp] theorem State.cause_hosts (s : State) (b : Nat) : (s.cause b).hosts = s.hosts := rfl
@[simp] theorem State.cause_net (s : State) (b : Nat) : (s.cause b).net = s.net := rfl
@[simp] theorem State.cause_twin (s : State) (b : Nat) : (s.cause b).twin = s.twin := rfl
@[simp] theorem State.cause_csnLatch (s : State) (b : Nat) : (s.cause b).csnLatch = s.csnLatch := rfl

/-! ### State.reject -/

@[simp] theorem State.reject_pending (s : State) (src : WrSrc) (off : Nat) (w : Word) (reason : Nat) : (s.reject src off w reason).pending = s.pending := by
  unfold State.reject; simp only [State.capSet_pending, State.scSet_pending]
@[simp] theorem State.reject_freeCtr (s : State) (src : WrSrc) (off : Nat) (w : Word) (reason : Nat) : (s.reject src off w reason).freeCtr = s.freeCtr := by
  unfold State.reject; simp only [State.capSet_freeCtr, State.scSet_freeCtr]
@[simp] theorem State.reject_sub (s : State) (src : WrSrc) (off : Nat) (w : Word) (reason : Nat) : (s.reject src off w reason).sub = s.sub := by
  unfold State.reject; simp only [State.capSet_sub, State.scSet_sub]
@[simp] theorem State.reject_out (s : State) (src : WrSrc) (off : Nat) (w : Word) (reason : Nat) : (s.reject src off w reason).out = s.out := by
  unfold State.reject; simp only [State.capSet_out, State.scSet_out]
@[simp] theorem State.reject_ctl (s : State) (src : WrSrc) (off : Nat) (w : Word) (reason : Nat) : (s.reject src off w reason).ctl = s.ctl := by
  unfold State.reject; simp only [State.capSet_ctl, State.scSet_ctl]
@[simp] theorem State.reject_mem (s : State) (src : WrSrc) (off : Nat) (w : Word) (reason : Nat) : (s.reject src off w reason).mem = s.mem := by
  unfold State.reject; simp only [State.capSet_mem, State.scSet_mem]
@[simp] theorem State.reject_pea (s : State) (src : WrSrc) (off : Nat) (w : Word) (reason : Nat) : (s.reject src off w reason).pea = s.pea := by
  unfold State.reject; simp only [State.capSet_pea, State.scSet_pea]
@[simp] theorem State.reject_sec (s : State) (src : WrSrc) (off : Nat) (w : Word) (reason : Nat) : (s.reject src off w reason).sec = s.sec := by
  unfold State.reject; simp only [State.capSet_sec, State.scSet_sec]
@[simp] theorem State.reject_mix (s : State) (src : WrSrc) (off : Nat) (w : Word) (reason : Nat) : (s.reject src off w reason).mix = s.mix := by
  unfold State.reject; simp only [State.capSet_mix, State.scSet_mix]
@[simp] theorem State.reject_tdm (s : State) (src : WrSrc) (off : Nat) (w : Word) (reason : Nat) : (s.reject src off w reason).tdm = s.tdm := by
  unfold State.reject; simp only [State.capSet_tdm, State.scSet_tdm]
@[simp] theorem State.reject_dac (s : State) (src : WrSrc) (off : Nat) (w : Word) (reason : Nat) : (s.reject src off w reason).dac = s.dac := by
  unfold State.reject; simp only [State.capSet_dac, State.scSet_dac]
@[simp] theorem State.reject_byp (s : State) (src : WrSrc) (off : Nat) (w : Word) (reason : Nat) : (s.reject src off w reason).byp = s.byp := by
  unfold State.reject; simp only [State.capSet_byp, State.scSet_byp]
@[simp] theorem State.reject_tim (s : State) (src : WrSrc) (off : Nat) (w : Word) (reason : Nat) : (s.reject src off w reason).tim = s.tim := by
  unfold State.reject; simp only [State.capSet_tim, State.scSet_tim]
@[simp] theorem State.reject_lanes (s : State) (src : WrSrc) (off : Nat) (w : Word) (reason : Nat) : (s.reject src off w reason).lanes = s.lanes := by
  unfold State.reject; simp only [State.capSet_lanes, State.scSet_lanes]
@[simp] theorem State.reject_drays (s : State) (src : WrSrc) (off : Nat) (w : Word) (reason : Nat) : (s.reject src off w reason).drays = s.drays := by
  unfold State.reject; simp only [State.capSet_drays, State.scSet_drays]
@[simp] theorem State.reject_hosts (s : State) (src : WrSrc) (off : Nat) (w : Word) (reason : Nat) : (s.reject src off w reason).hosts = s.hosts := by
  unfold State.reject; simp only [State.capSet_hosts, State.scSet_hosts]
@[simp] theorem State.reject_net (s : State) (src : WrSrc) (off : Nat) (w : Word) (reason : Nat) : (s.reject src off w reason).net = s.net := by
  unfold State.reject; simp only [State.capSet_net, State.scSet_net]
@[simp] theorem State.reject_twin (s : State) (src : WrSrc) (off : Nat) (w : Word) (reason : Nat) : (s.reject src off w reason).twin = s.twin := by
  unfold State.reject; simp only [State.capSet_twin, State.scSet_twin]
@[simp] theorem State.reject_csnLatch (s : State) (src : WrSrc) (off : Nat) (w : Word) (reason : Nat) : (s.reject src off w reason).csnLatch = s.csnLatch := by
  unfold State.reject; simp only [State.capSet_csnLatch, State.scSet_csnLatch]

/-! ### State.fresh -/

@[simp] theorem State.fresh_pending (s : State) : s.fresh.2.pending = s.pending := rfl
@[simp] theorem State.fresh_freeCtr (s : State) : s.fresh.2.freeCtr = s.freeCtr + 1 := rfl
@[simp] theorem State.fresh_sub (s : State) : s.fresh.2.sub = s.sub := rfl
@[simp] theorem State.fresh_out (s : State) : s.fresh.2.out = s.out := rfl
@[simp] theorem State.fresh_regs (s : State) : s.fresh.2.regs = s.regs := rfl
@[simp] theorem State.fresh_ctl (s : State) : s.fresh.2.ctl = s.ctl := rfl
@[simp] theorem State.fresh_mem (s : State) : s.fresh.2.mem = s.mem := rfl
@[simp] theorem State.fresh_pea (s : State) : s.fresh.2.pea = s.pea := rfl
@[simp] theorem State.fresh_sec (s : State) : s.fresh.2.sec = s.sec := rfl
@[simp] theorem State.fresh_mix (s : State) : s.fresh.2.mix = s.mix := rfl
@[simp] theorem State.fresh_tdm (s : State) : s.fresh.2.tdm = s.tdm := rfl
@[simp] theorem State.fresh_dac (s : State) : s.fresh.2.dac = s.dac := rfl
@[simp] theorem State.fresh_byp (s : State) : s.fresh.2.byp = s.byp := rfl
@[simp] theorem State.fresh_tim (s : State) : s.fresh.2.tim = s.tim := rfl
@[simp] theorem State.fresh_lanes (s : State) : s.fresh.2.lanes = s.lanes := rfl
@[simp] theorem State.fresh_drays (s : State) : s.fresh.2.drays = s.drays := rfl
@[simp] theorem State.fresh_hosts (s : State) : s.fresh.2.hosts = s.hosts := rfl
@[simp] theorem State.fresh_net (s : State) : s.fresh.2.net = s.net := rfl
@[simp] theorem State.fresh_twin (s : State) : s.fresh.2.twin = s.twin := rfl
@[simp] theorem State.fresh_csnLatch (s : State) : s.fresh.2.csnLatch = s.csnLatch := rfl

/-! ### Registers read after they are stored -/

@[simp] theorem State.begin_rw (s : State) : s.begin.rw = s.rw := rfl
@[simp] theorem State.begin_sc (s : State) : s.begin.sc = s.sc := rfl
@[simp] theorem State.begin_ctr (s : State) : s.begin.ctr = s.ctr := rfl
@[simp] theorem State.begin_up (s : State) : s.begin.up = s.up := rfl
@[simp] theorem State.begin_awake (s : State) : s.begin.awake = s.awake := rfl

end Sys2Proof.Machine
end

