-- ==== Sys2Proof/Laws/Regs.lean ====
section
/-! SUPPORT. Registers read back after they are stored: RW words, counters, status registers and captured words. -/

namespace Sys2Proof.Machine

set_option Elab.async false
set_option linter.all false

theorem copyAt_copySet (l : List (Nat × Word)) (off o : Nat) (w : Word) :
    copyAt (copySet l off w) o = if o = off then w else copyAt l o := by
  unfold copyAt copySet
  by_cases h : w = resetWord off
  · rw [if_pos h, look_drop]
    by_cases e : o = off
    · subst e; simp [h]
    · simp [e]
  · rw [if_neg h, look_put]
    by_cases e : o = off <;> simp [e]

/-- The RW word stored reads back, and no other register changes (R457). -/
theorem State.rw_rwSet (s : State) (off o : Nat) (w : Word) : (s.rwSet off w).rw o = if o = off then w else s.rw o := by
  have hB (l : List (Nat × Word)) : copyAt (if votedMask off = 0 then l else copySet l off w) o =
      if votedMask off ≠ 0 ∧ o = off then w else copyAt l o := by
    by_cases h : votedMask off = 0
    · rw [if_pos h, if_neg fun k => k.1 h]
    · rw [if_neg h, copyAt_copySet]
      by_cases e : o = off
      · rw [if_pos e, if_pos ⟨h, e⟩]
      · rw [if_neg e, if_neg fun k => e k.2]
  unfold State.rw State.rwSet
  dsimp only
  rw [hB, hB, copyAt_copySet]
  by_cases e : o = off
  · subst e
    by_cases h : votedMask o = 0
    · rw [if_pos rfl, if_pos rfl, h]
      show (w &&& ~~~0#32) ||| (_ &&& 0#32) = w
      rw [BitVec.and_zero, BitVec.or_zero, BitVec.not_zero, BitVec.and_allOnes]
    · simp only [if_true, and_true, h, ne_eq, not_false_eq_true, major]
      ext i hi
      simp only [BitVec.getElem_or, BitVec.getElem_and, BitVec.getElem_not]
      cases w[i] <;> cases (votedMask o)[i] <;> rfl
  · simp only [e, if_false, and_false]

theorem State.ctr_ctrSet (s : State) (off o : Nat) (c : Ctr) : (s.ctrSet off c).ctr o = if o = off then c else s.ctr o := by
  unfold State.ctr State.ctrSet
  dsimp only
  by_cases h : c = ⟨0, 0⟩
  · rw [if_pos h, look_drop]
    by_cases e : o = off <;> simp [e, h]
  · rw [if_neg h, look_put]
    by_cases e : o = off <;> simp [e]

theorem State.ctr_count (s : State) (off o : Nat) : (s.count off).ctr o = if o = off then (s.ctr off).inc else s.ctr o :=
  s.ctr_ctrSet _ _ _

theorem State.sc_scPut (s : State) (off o : Nat) (c : Sc) : (s.scPut off c).sc o = if o = off then c else s.sc o := by
  unfold State.sc State.scPut
  dsimp only
  by_cases h : c = ⟨0, []⟩
  · rw [if_pos h, look_drop]
    by_cases e : o = off <;> simp [e, h]
  · rw [if_neg h, look_put]
    by_cases e : o = off <;> simp [e]

/-- A set SC bit reads as set (R458). -/
theorem State.scBit_scSet (s : State) (off b o c : Nat) :
    (s.scSet off b).scBit o c = if o = off ∧ c = b then true else s.scBit o c := by
  unfold State.scBit State.scSet
  rw [sc_scPut]
  by_cases e : o = off
  · subst e
    simp only [if_true, Sc.event, look_put, true_and]
    by_cases f : c = b <;> simp [f]
  · simp [e]

theorem State.cap_capSet (s : State) (off o : Nat) (w : Word) : (s.capSet off w).cap o = if o = off then w else s.cap o := by
  unfold State.cap State.capSet
  dsimp only
  by_cases h : w = 0
  · rw [if_pos h, look_drop]
    by_cases e : o = off <;> simp [e, h]
  · rw [if_neg h, look_put]
    by_cases e : o = off <;> simp [e]

@[simp] theorem State.rw_ctrSet (s : State) (off : Nat) (c : Ctr) : (s.ctrSet off c).rw = s.rw := rfl
@[simp] theorem State.rw_count (s : State) (off : Nat) : (s.count off).rw = s.rw := rfl
@[simp] theorem State.rw_scPut (s : State) (off : Nat) (c : Sc) : (s.scPut off c).rw = s.rw := rfl
@[simp] theorem State.rw_scSet (s : State) (off b : Nat) : (s.scSet off b).rw = s.rw := rfl
@[simp] theorem State.rw_capSet (s : State) (off : Nat) (w : Word) : (s.capSet off w).rw = s.rw := rfl
@[simp] theorem State.ctr_scSet (s : State) (off b : Nat) : (s.scSet off b).ctr = s.ctr := rfl
@[simp] theorem State.ctr_capSet (s : State) (off : Nat) (w : Word) : (s.capSet off w).ctr = s.ctr := rfl
@[simp] theorem State.sc_count (s : State) (off : Nat) : (s.count off).sc = s.sc := rfl
@[simp] theorem State.sc_capSet (s : State) (off : Nat) (w : Word) : (s.capSet off w).sc = s.sc := rfl
@[simp] theorem State.sc_rwSet (s : State) (off : Nat) (w : Word) : (s.rwSet off w).sc = s.sc := rfl
@[simp] theorem State.ctr_rwSet (s : State) (off : Nat) (w : Word) : (s.rwSet off w).ctr = s.ctr := rfl

/-! ### Health faults (R447) -/

/-- A give-up cause is recorded in HIT_STAT and in the twin's state alone. -/
theorem State.giveCause_cases (s : State) (c : Nat) :
    s.giveCause c = s ∨ ∃ t, s.giveCause c = { s.scSet rHitStat 22 with twin := t } := by
  unfold State.giveCause
  split
  · exact .inr ⟨_, rfl⟩
  · exact .inl rfl

theorem State.health_cases (s : State) (b : Nat) :
    s.health b = s.scSet rHealth b ∨ ∃ t, s.health b = { (s.scSet rHealth b).scSet rHitStat 22 with twin := t } := by
  unfold State.health
  dsimp only
  split
  · exact State.giveCause_cases _ _
  split
  · exact State.giveCause_cases _ _
  · exact .inl rfl

theorem State.scBit_withTwin (s : State) (t : Twin) (o b : Nat) : ({ s with twin := t } : State).scBit o b = s.scBit o b := rfl

/-- The fault's bit of CTL_HEALTH is set. -/
theorem State.scBit_health (s : State) (b : Nat) : (s.health b).scBit rHealth b = true := by
  obtain h | ⟨t, h⟩ := s.health_cases b
  · rw [h, scBit_scSet]; simp
  · rw [h, scBit_withTwin, scBit_scSet, scBit_scSet]; simp

@[simp] theorem State.ctr_health (s : State) (b : Nat) : (s.health b).ctr = s.ctr := by
  obtain h | ⟨t, h⟩ := s.health_cases b <;> rw [h] <;> rfl
@[simp] theorem State.rw_health (s : State) (b : Nat) : (s.health b).rw = s.rw := by
  obtain h | ⟨t, h⟩ := s.health_cases b <;> rw [h] <;> rfl
@[simp] theorem State.cap_health (s : State) (b : Nat) : (s.health b).cap = s.cap := by
  obtain h | ⟨t, h⟩ := s.health_cases b <;> rw [h] <;> rfl
@[simp] theorem State.health_mix (s : State) (b : Nat) : (s.health b).mix = s.mix := by
  obtain h | ⟨t, h⟩ := s.health_cases b <;> rw [h] <;> rfl
@[simp] theorem State.health_mem (s : State) (b : Nat) : (s.health b).mem = s.mem := by
  obtain h | ⟨t, h⟩ := s.health_cases b <;> rw [h] <;> rfl

/-! ### Registers returned to their reset values -/

theorem look_filter {α : Type} (k : Nat) (p : Nat → Bool) (l : List (Nat × α)) :
    look k (l.filter fun x => !p x.1) = if p k then none else look k l := by
  induction l with
  | nil => simp [look]
  | cons q r ih =>
    obtain ⟨a, u⟩ := q
    by_cases h : p a
    · rw [List.filter_cons_of_neg (by simp [h]), ih]
      by_cases e : a = k
      · subst e; simp [h]
      · simp [look, e]
    · rw [List.filter_cons_of_pos (by simp [h])]
      simp only [look, ih]
      by_cases e : a = k
      · subst e; simp [h]
      · simp [e]

theorem State.rw_wipe (s : State) (p : Nat → Bool) (o : Nat) :
    (s.wipe p).rw o = if p o then (resetWord o &&& ~~~votedMask o) ||| (resetWord o &&& votedMask o) else s.rw o := by
  unfold State.rw State.wipe Regs.wipe copyAt
  simp only [look_filter]
  by_cases h : p o <;> simp [h, major]

theorem State.ctr_wipe (s : State) (p : Nat → Bool) (o : Nat) : (s.wipe p).ctr o = if p o then ⟨0, 0⟩ else s.ctr o := by
  unfold State.ctr State.wipe Regs.wipe
  simp only [look_filter]
  by_cases h : p o <;> simp [h]

theorem State.sc_wipe (s : State) (p : Nat → Bool) (o : Nat) : (s.wipe p).sc o = if p o then ⟨0, []⟩ else s.sc o := by
  unfold State.sc State.wipe Regs.wipe
  simp only [look_filter]
  by_cases h : p o <;> simp [h]

theorem State.cap_wipe (s : State) (p : Nat → Bool) (o : Nat) : (s.wipe p).cap o = if p o then 0 else s.cap o := by
  unfold State.cap State.wipe Regs.wipe
  simp only [look_filter]
  by_cases h : p o <;> simp [h]

end Sys2Proof.Machine
end

