-- ==== Sys2Proof/Laws/Store.lean ====
section
/-! SUPPORT. The working store: entries, records and players read back after they are stored. -/

namespace Sys2Proof.Machine

set_option Elab.async false
set_option linter.all false

theorem find_entPut (e : Ent) (l : List Ent) (n : Nat) :
    (entPut e l).find? (fun a => a.idx = n) = if n = e.idx then some e else l.find? fun a => a.idx = n := by
  induction l with
  | nil => by_cases h : n = e.idx <;> simp [entPut, h, eq_comm]
  | cons a r ih =>
    unfold entPut
    by_cases h1 : a.idx < e.idx
    · rw [if_pos h1, List.find?_cons, List.find?_cons, ih]
      by_cases h : n = e.idx
      · subst h; simp [Nat.ne_of_lt h1]
      · simp [h]
    · rw [if_neg h1]
      by_cases h2 : a.idx = e.idx
      · rw [if_pos h2, List.find?_cons, List.find?_cons]
        by_cases h : n = e.idx
        · subst h; simp
        · have k : ¬ e.idx = n := fun k => h k.symm
          simp [h, h2, k]
      · rw [if_neg h2, List.find?_cons]
        by_cases h : n = e.idx
        · subst h; simp
        · have k : ¬ e.idx = n := fun k => h k.symm
          simp [h, k]

/-- An entry stored reads back, and no other entry changes. -/
theorem State.ent_entSet (s : State) (e : Ent) (n : Nat) : (s.entSet e).ent n = if n = e.idx then e else s.ent n := by
  unfold State.ent State.entSet
  rw [find_entPut]
  by_cases h : n = e.idx <;> simp [h]

/-- The slot of entry n holds entry n. -/
theorem State.ent_idx (s : State) (n : Nat) : (s.ent n).idx = n := by
  unfold State.ent
  cases q : s.mix.ents.find? fun e => e.idx = n with
  | none => rfl
  | some e => simpa using List.find?_some q

/-- The slot of record n holds record n. -/
theorem State.xp_idx (s : State) (n : Nat) : (s.xp n).idx = n := by
  unfold State.xp
  cases q : s.mix.xps.find? fun x => x.idx = n with
  | none => rfl
  | some x => simpa using List.find?_some q

theorem find_xpPut (x : Xp) (l : List Xp) (n : Nat) :
    (xpPut x l).find? (fun a => a.idx = n) = if n = x.idx then some x else l.find? fun a => a.idx = n := by
  induction l with
  | nil => by_cases h : n = x.idx <;> simp [xpPut, h, eq_comm]
  | cons a r ih =>
    unfold xpPut
    by_cases h1 : a.idx < x.idx
    · rw [if_pos h1, List.find?_cons, List.find?_cons, ih]
      by_cases h : n = x.idx
      · subst h; simp [Nat.ne_of_lt h1]
      · simp [h]
    · rw [if_neg h1]
      by_cases h2 : a.idx = x.idx
      · rw [if_pos h2, List.find?_cons, List.find?_cons]
        by_cases h : n = x.idx
        · subst h; simp
        · have k : ¬ x.idx = n := fun k => h k.symm
          simp [h, h2, k]
      · rw [if_neg h2, List.find?_cons]
        by_cases h : n = x.idx
        · subst h; simp
        · have k : ¬ x.idx = n := fun k => h k.symm
          simp [h, k]

/-- A record stored reads back, and no other record changes. -/
theorem State.xp_xpSet (s : State) (x : Xp) (n : Nat) : (s.xpSet x).xp n = if n = x.idx then x else s.xp n := by
  unfold State.xp State.xpSet
  rw [find_xpPut]
  by_cases h : n = x.idx <;> simp [h]

/-- A player stored reads back, and no other player changes. -/
theorem State.player_playerSet (s : State) (p k : Nat) (x : Player) :
    (s.playerSet p x).player k = if k = p ∧ p < s.mix.players.length then x else s.player k := by
  unfold State.player State.playerSet
  simp only [List.getD_eq_getElem?_getD, List.getElem?_set]
  by_cases h : p = k
  · subst h
    by_cases hp : p < s.mix.players.length
    · simp [hp]
    · simp [hp]
  · have e : ¬ k = p := fun e => h e.symm
    simp [h, e]

end Sys2Proof.Machine
end

