-- ==== Sys2Proof/WellFormed.lean ====
section
/-! DEFINITION. Well-formed commands: operands that the spec's numbering and lengths admit. A command that is not well formed
names something the block does not have; `exec` does not rely on it. -/

namespace Sys2Proof

/-- An item the table engine knows (R27, R47, R148). -/
def Item.ok : Item → Bool
  | .entry n => n < 3072
  | .xp n => n < 98304
  | .zone n => n < 256

/-- A ramp of an entry or a crosspoint that exists (R27, R46). -/
def RampKey.ok (k : RampKey) : Bool :=
  match k.owner with
  | .entry n => n < 3072
  | .xp n => n < 98304

/-- Ports, frames and positions of a block, entries and clip players (R14, R350, R139). -/
def BlockIn.ok (io : BlockIn) : Bool :=
  (io.sdi.all fun w => w.port < 16 && w.frame < 12 && w.pos < 32) && (io.lateEntries.all fun p => p.1 < 3072 && p.2 ≤ 12) &&
  io.lateClips.all fun g => g.csn < 2 ^ 48 && g.pos.all (· < 12)

/-- One of the 256 zones, with four microphones (R148). -/
def ZoneMeas.ok (m : ZoneMeas) : Bool := m.zone < 256 && m.noise.length = 4

/-- Physical units of a kind (R437). -/
def UnitKind.count : UnitKind → Nat
  | .strip => 17
  | .output => 9
  | .column => 34

/-- The bytes a matrix request moves (R260, R272). -/
def MtxOp.len : MtxOp → Nat
  | .read n => n
  | .write d => d.length
  | .masked d _ => d.length
  | .swap n _ => n
  | .cas n _ _ => n
  | .add n _ => n

/-- A burst of at most 16 beats of 32 bytes (R260), masked writes and atomics of 4 or 8 bytes (R272). -/
def MtxOp.ok : MtxOp → Bool
  | .read n => 1 ≤ n && n ≤ 512
  | .write d => 1 ≤ d.length && d.length ≤ 512
  | .masked d m => (d.length = 4 || d.length = 8) && m.length = d.length
  | .swap n _ => n = 4 || n = 8
  | .cas n _ _ => n = 4 || n = 8
  | .add n _ => n = 4 || n = 8

/-- A burst stays within 512 bytes, and within 16 beats of a 128-bit target (R260), presented by the time of the arbitration. -/
def MtxHead.ok (now : Nat) (h : MtxHead) : Bool :=
  let a := h.addr.toNat
  let n := h.op.len
  h.op.ok && a % 512 + n ≤ 512 && (a < 0x01_2000_0000 || (a % 16 + n + 15) / 16 ≤ 16) && h.since ≤ now

/-- The heads presented are bursts that the matrix knows, one of a master (R265). -/
def MtxReq.ok (r : MtxReq) : Bool :=
  (r.heads.all fun h => h.ok r.now) && (r.heads.map fun h => h.master.val).eraseDups.length = r.heads.length

/-- An inbound request moves something, and a write brings its bytes (R212). -/
def InbReq.ok (r : InbReq) : Bool := 1 ≤ r.len && r.wr.elim true fun d => d.length = r.len

/-- Whether a command is well formed. -/
def Instr.wf : Instr → Bool
  | .blockBoundary io => io.ok
  | .mixWatchdog => true
  | .interfaceClockStop _ => true
  | .tableDirectWrite _ _ data => !data.isEmpty
  | .tableRefetch => true
  | .compileComplete it _ => it.ok
  | .workingStoreEccError it => it.ok
  | .sequencedAcceptance _ _ _ _ => true
  | .commitCompletionPost _ _ => true
  | .dualPathSlotGrant => true
  | .secondTermGrant => true
  | .rampEnd k => k.ok
  | .entryFadeOutEnd _ => true
  | .claimLeaseExpiry _ => true
  | .gateHoldExpiry _ => true
  | .peakHoldExpiry _ => true
  | .delayBurstComplete _ first _ => first < 131072
  | .contributorHangExpiry _ => true
  | .clipEnd _ => true
  | .clipDataFetchComplete _ _ burst _ => burst < 2 ^ 32
  | .tonePatternEnd _ => true
  | .servoUpdate ms => ms.all ZoneMeas.ok
  | .servoConverged _ => true
  | .servoFreeze _ => true
  | .servoRelax _ => true
  | .micUnusable _ _ => true
  | .allcallPinAccept _ => true
  | .allcallStart _ => true
  | .allcallStop _ => true
  | .allcallCrossfadeEnd => true
  | .allcallSourceLost => true
  | .allcallSourceReturn => true
  | .drayInputCopyDone _ => true
  | .laneDeadline _ => true
  | .bundleIssue _ _ => true
  | .laneInterruptEntry _ => true
  | .laneDmaComplete _ _ _ => true
  | .laneHwFault _ _ badWords => badWords.all (· < 65536)
  | .selftestVisit => true
  | .laneMigration _ => true
  | .laneMigrationSkip _ => true
  | .selftestComplete _ => true
  | .unitFault k phys => phys.val < k.count
  | .dryCtlWrite _ _ _ => true
  | .doorbellHit _ _ => true
  | .doorbellSweep _ _ => true
  | .descriptorFetch _ _ => true
  | .indexPageWrite _ => true
  | .completionIrqTimeout _ _ => true
  | .nop _ _ => true
  | .hello _ _ => true
  | .fence _ _ => true
  | .fenceSatisfied _ _ => true
  | .commit _ _ _ => true
  | .claim _ _ _ => true
  | .release _ _ => true
  | .renew _ _ => true
  | .readState _ _ _ => true
  | .writeBulk _ _ _ => true
  | .readBulk _ _ _ => true
  | .sceneStore _ _ _ => true
  | .sceneRecall _ _ _ => true
  | .meterSubscribe _ _ _ => true
  | .meterPeriodDelivery _ _ => true
  | .clipPlay _ _ => true
  | .clipStop _ _ => true
  | .laneLoad _ _ _ => true
  | .laneLoadDone _ => true
  | .laneCtrlStart _ _ => true
  | .laneCtrlStop _ _ => true
  | .laneCtrlMsg _ _ _ => true
  | .laneCtrlZones _ _ => true
  | .streamOpen _ _ _ => true
  | .streamClose _ _ => true
  | .peerSet _ _ _ => true
  | .netTx _ _ _ => true
  | .netRxPost _ _ => true
  | .keyLoad _ _ => true
  | .logRead _ _ => true
  | .timeQuery _ _ => true
  | .barrowWatchdogExpiry _ => true
  | .outboundReadTimeout _ => true
  | .inboundHostRequest _ r => r.ok
  | .pcieLinkDown _ => true
  | .functionLevelReset _ => true
  | .hostPortEnable _ _ _ => true
  | .ringEnable _ _ _ _ _ => true
  | .ringTeardown _ _ _ _ => true
  | .readId _ => true
  | .readStatus _ => true
  | .read _ _ len _ _ => 1 ≤ len
  | .write _ _ data _ => data.length ≤ 64
  | .mode _ _ => true
  | .recoveryRead _ _ => true
  | .recoveryWrite _ _ _ => true
  | .resetEnable _ => true
  | .portReset _ => true
  | .spiUnknownOpcode _ _ => true
  | .spiCsRise _ => true
  | .matrixGrant _ r => r.ok
  | .qosWrite _ _ _ => true
  | .bankOwnerWrite _ _ _ => true
  | .bankHandoverDone _ => true
  | .patrolScrub found => found.all fun x => x.unc || !x.addrChk
  | .memoryTrainingDone gib => gib.elim true fun g => g = 2 || g = 4
  | .linkChange _ _ _ _ => true
  | .frameReceive _ f => 14 ≤ f.bytes.length
  | .frameDeparture _ _ => true
  | .listenerLost _ => true
  | .prpSupervisionSend _ => true
  | .prpEntryAgeout _ _ => true
  | .pdelayReqSend _ => true
  | .syncSend _ _ => true
  | .gptpSyncTimeout _ => true
  | .crfOffsetReport _ => true
  | .rootLock => true
  | .rootLoss => true
  | .refMeasurement _ _ => true
  | .refLost _ => true
  | .refDisqualify _ => true
  | .refQualify _ => true
  | .referenceEvaluation => true
  | .jamnow _ _ => true
  | .timeLocked => true
  | .buildoutRemoved => true
  | .smoulderValid => true
  | .smoulderLearn => true
  | .smoulderSave => true
  | .tdmStartGo _ _ => true
  | .tdmStartPin => true
  | .tdmStartReached => true
  | .tdmSlaveFrame _ f => f.words.length ≤ 32 ∧ 1 ≤ f.pos ∧ f.pos ≤ 12
  | .tdmStop _ _ _ => true
  | .tdmSwap _ _ _ => true
  | .tdmSwapApply _ => true
  | .tdmRestart _ _ _ _ => true
  | .tdmClockLost _ => true
  | .tdmRateWindow _ _ => true
  | .dacCodeWrite _ _ _ => true
  | .dacCfgWrite _ _ _ => true
  | .hitEnable _ _ => true
  | .hitchPairSend => true
  | .seekTimeout => true
  | .hitchPair _ _ _ _ => true
  | .hitchRenewSend => true
  | .hitchRenew _ => true
  | .hitchAck _ _ _ _ => true
  | .driveLeaseEnd => true
  | .leaseExpiryTakeover => true
  | .heldTimeout => true
  | .giveupTrigger _ => true
  | .giveUp => true
  | .hitchGiveup _ _ => true
  | .handoverStart => true
  | .hitchHandover _ => true
  | .hitchHandack _ _ => true
  | .hitchFwd _ _ desc _ => desc.length = 64
  | .hitchFwdreply _ _ _ => true
  | .hitchFwdcpl _ _ => true
  | .hitchHfault _ => true
  | .hitchJrnl _ => true
  | .hitchJnack _ => true
  | .hitchCkpt _ _ data _ => data.length = 1024
  | .hitchSeal _ _ _ _ => true
  | .hitchCkreq _ _ => true
  | .checkpointPeriod => true
  | .hitCtlGiveup _ => true
  | .hitCtlHandover _ => true
  | .resync _ => true
  | .zeroiseVolatile _ _ => true
  | .zeroiseSigners _ _ => true
  | .antiRollbackAdvance _ _ => true
  | .antiRollbackProgrammed => true
  | .rngRead => true
  | .rngrst _ => true
  | .trngHealthFail _ => true
  | .debugChallenge _ => true
  | .debugResponse sig _ => sig.length = 64
  | .debugLock => true
  | .peaIxdataWrite _ _ => true
  | .peaIxdataRead => true
  | .peaCommit _ _ => true
  | .peaSectorWriteDone retries => retries < 256
  | .wearLevelSwap _ _ => true
  | .ixdataAccess _ _ _ => true
  | .powerOn => true
  | .brownOut _ => true
  | .resetPin => true
  | .stokerWatchdog => true
  | .thermalTrip => true
  | .thermalRelease => true
  | .hostResetSections _ _ => true
  | .hostResetCore _ _ => true
  | .hostResetFullChip _ _ => true
  | .jtagReset => true
  | .tapReset => true
  | .fuseLoadDone _ _ _ => true
  | .fuseLoadRetry => true
  | .sectionRelease => true
  | .firmwareVerifyDone => true
  | .bootPush _ => true
  | .pushCheckDone => true
  | .sectionHoldWrite _ _ => true
  | .voteScrub upsets => upsets.all fun u => u.off < 2 ^ 20
  | .sequenceClear _ _ _ => true
  | .csnReadLatch => true
  | .mixEnable _ _ => true
  | .mixStartCompileDone _ => true
  | .mixDisable _ _ => true
  | .stripEnable _ _ => true
  | .stripDisable _ _ => true
  | .registerWrite _ _ _ => true
  | .suppliesGood => true
  | .resetPinRelease => true
  | .pcieLinkUp _ _ _ => true
  | .newActiveAckTimeout => true
  | .dieTemperatureWarning _ => true
  | .announceSend _ _ => true

end Sys2Proof
end

