-- ==== Sys2Proof/Tests/Slice0.lean ====
section
/-! SUPPORT. The model's own tests: each check of WellFormed refuses an ill-formed command; for every statement with
hypotheses, states and operands that meet the hypotheses of each of its clauses (`wit_…`); and small runs of one step whose results are
worked out from the spec (`test_…`). -/

namespace Sys2Proof.Tests

set_option Elab.async false
set_option linter.all false

open Sys2Proof Sys2Proof.Machine Sys2Proof.Safety

/-- Nothing met in the device's memories. -/
abbrev noHits : MemHits := ⟨[], [], false, []⟩

/-- A word in every memory with an error that ECC cannot correct. -/
abbrev badAt (a : Nat) : MemHits := ⟨[a], [], false, []⟩

/-! ### WellFormed refuses -/

theorem smoke_tables : (Instr.blockBoundary ⟨[⟨16, 0, 0, 0⟩], [], []⟩).wf = false ∧ (Instr.blockBoundary ⟨[⟨0, 12, 0, 0⟩], [], []⟩).wf = false ∧
    (Instr.blockBoundary ⟨[⟨0, 0, 32, 0⟩], [], []⟩).wf = false ∧ (Instr.blockBoundary ⟨[], [(3072, 0)], []⟩).wf = false ∧
    (Instr.blockBoundary ⟨[], [(0, 13)], []⟩).wf = false ∧ (Instr.blockBoundary ⟨[], [], [⟨0, [12]⟩]⟩).wf = false ∧
    (Instr.blockBoundary ⟨[], [], [⟨2 ^ 48, []⟩]⟩).wf = false ∧
    (Instr.tableDirectWrite 0 0 []).wf = false ∧ (Instr.compileComplete (.entry 3072) noHits).wf = false ∧
    (Instr.compileComplete (.xp 98304) noHits).wf = false ∧ (Instr.workingStoreEccError (.xp 98304)).wf = false ∧
    (Instr.workingStoreEccError (.zone 256)).wf = false ∧
    (Instr.rampEnd ⟨.entry 3072, .trim⟩).wf = false ∧ (Instr.rampEnd ⟨.xp 98304, .gain⟩).wf = false := by decide

theorem smoke_engines : (Instr.delayBurstComplete 0 131072 noHits).wf = false ∧ (Instr.clipDataFetchComplete 0 0 (2 ^ 32) noHits).wf = false ∧
    (Instr.servoUpdate [⟨256, [[], [], [], []], [], [], [], false⟩]).wf = false ∧
    (Instr.servoUpdate [⟨0, [[]], [], [], [], false⟩]).wf = false ∧
    (Instr.laneHwFault 0 0 [65536]).wf = false ∧ (Instr.unitFault .strip 17).wf = false ∧ (Instr.unitFault .output 9).wf = false := by decide

theorem smoke_ports : (Instr.inboundHostRequest 0 ⟨0, 0, 0, none, noHits⟩).wf = false ∧
    (Instr.inboundHostRequest 0 ⟨0, 0, 4, some [1], noHits⟩).wf = false ∧ (Instr.read 0 0 0 false noHits).wf = false ∧
    (Instr.write 0 0 (List.replicate 65 0) noHits).wf = false ∧
    (Instr.matrixGrant 0 ⟨[⟨0, false, false, 1, 0, .read 4⟩], 0, [], none, noHits, none⟩).wf = false ∧
    (Instr.matrixGrant 0 ⟨[⟨0, false, false, 0, 0, .read 513⟩], 0, [], none, noHits, none⟩).wf = false ∧
    (Instr.matrixGrant 0 ⟨[⟨0, false, false, 0, 4, .read 512⟩], 0, [], none, noHits, none⟩).wf = false ∧
    (Instr.matrixGrant 0 ⟨[⟨0, false, false, 0, 0x1200000000, .read 257⟩], 0, [], none, noHits, none⟩).wf = false ∧
    (Instr.matrixGrant 0 ⟨[⟨0, false, false, 0, 0, .read 4⟩, ⟨0, false, false, 0, 8, .read 4⟩], 0, [], none, noHits, none⟩).wf = false ∧
    (Instr.matrixGrant 0 ⟨[⟨0, false, false, 0, 0, .masked [0] [0]⟩], 0, [], none, noHits, none⟩).wf = false ∧
    (Instr.matrixGrant 0 ⟨[⟨0, false, false, 0, 0, .swap 2 0⟩], 0, [], none, noHits, none⟩).wf = false ∧
    (Instr.patrolScrub [⟨0, false, true⟩]).wf = false ∧ (Instr.memoryTrainingDone (some 3)).wf = false := by decide

theorem smoke_messages : (Instr.frameReceive 0 ⟨[], true, 0⟩).wf = false ∧
    (Instr.tdmSlaveFrame 0 ⟨List.replicate 33 0, true, true, 1⟩).wf = false ∧ (Instr.tdmSlaveFrame 0 ⟨[], true, true, 13⟩).wf = false ∧ (Instr.tdmSlaveFrame 0 ⟨[], true, true, 0⟩).wf = false ∧
    (Instr.hitchFwd 0 0 [] []).wf = false ∧
    (Instr.hitchCkpt 0 0 [] 0).wf = false ∧ (Instr.debugResponse [] 0).wf = false ∧ (Instr.peaSectorWriteDone 256).wf = false ∧
    (Instr.voteScrub [⟨2 ^ 20, 0, 0⟩]).wf = false := by decide

/-! ### States for tests -/

/-- A device at work: every section released, 4 GiB of memory trained, the root locked. -/
def awake : State := State.rwSet { State.reset with
  ctl := { Ctl.reset with phase := 3, inrst := 0, stage := 5, scope := 0 }
  mem := { MemSt.reset with trained := true, size := 2 }, tim := { Tim.reset with lock := true } } rSecRst 0

/-- The Stoker's port of the matrix. -/
abbrev stk : WrSrc := .matrix 4

/-! ### Witnesses: core, resets, boot -/

theorem wit_EmptyQueueIdles : awake.pending = [] := rfl

theorem wit_EveryStepKeepsTheInvariant : Inv State.reset ∧ step { State.reset with pending := [.tapReset] } = .next State.reset :=
  ⟨⟨by decide, by decide, by decide, by decide, by decide, by decide, by decide⟩, rfl⟩

theorem wit_PowerAndPinResets : Rail.dac ≠ .core ∧ railBit .core = 3 := by decide

/-- The debug scope STOKER is unlocked. -/
def stokerScope : State := { awake with sec := { Sec.reset with scope := 4 } }

theorem wit_ResetsThatNeedTheControlSection : awake.awake ∧ awake.ctl.stage = 5 ∧ awake.ctl.scope ≠ 2 ∧
    (stokerScope.awake ∧ bit stokerScope.sec.scope 2 ∧ stokerScope.ctl.scope ≠ 2) ∧
    (awake.windowOn 3 ∧ wbits 0x5A400000#32 24 8 = 0x5A ∧ wbits 0x5A400000#32 22 2 = 1) ∧
    (wbits 0x5A800000#32 24 8 = 0x5A ∧ wbits 0x5A800000#32 22 2 = 2) ∧
    (wbits 0x5A000200#32 24 8 = 0x5A ∧ wbits 0x5A000200#32 22 2 = 0 ∧ wbits 0x5A000200#32 0 10 ≠ 0 ∧ awake.ctl.scope = 0) := by
  decide +kernel

/-- A device whose power-up has reached a phase. -/
def atPhase (n : Nat) : State := { State.reset with ctl := { Ctl.reset with phase := n } }

theorem wit_PowerUpSteps : (atPhase 0).ctl.phase = 0 ∧
    ((atPhase 1).ctl.phase = 1 ∧ (atPhase 1).ctl.pinLow = false ∧ (atPhase 1).ctl.hot = false ∧
      ((atPhase 1).rw (wCtl + 0x0028)).getLsbD 31 = false) ∧ (atPhase 2).ctl.phase = 2 := by decide +kernel

/-- A release under way: boot stage, sections in reset, sections to release without software. -/
def releasing (stage inrst auto : Nat) : State := { awake with ctl := { awake.ctl with stage := stage, inrst := inrst, auto := auto } }

theorem wit_SectionsLeaveResetInOrder :
    ((releasing 5 0x200 0x200).awake ∧ bit (releasing 5 0x200 0x200).ctl.auto 9 ∧
      (∀ k < 9, bit (releasing 5 0x200 0x200).ctl.auto k = false) ∧ (releasing 5 0x200 0x200).releasable 9) ∧
    ((releasing 0 0x3FF 0).ctl.auto = 0 ∧ bit (releasing 0 0x3FF 0).ctl.inrst 0) ∧
    (bit (releasing 1 0x3FE 0).ctl.inrst 1 ∧ bit (releasing 1 0x3FE 0).ctl.inrst 0 = false ∧ (releasing 1 0x3FE 0).mem.trained) ∧
    (bit (releasing 1 0x3FC 0).ctl.inrst 1 = false ∧ bit (releasing 1 0x3FC 0).ctl.inrst 2) ∧
    (bit (releasing 4 0x200 0).ctl.inrst 9 ∧ (∀ k < 9, 3 ≤ k → bit (releasing 4 0x200 0).ctl.inrst k = false) ∧
      (releasing 4 0x200 0).releasable 9) ∧
    (bit (releasing 4 0x3F8 0).ctl.inrst 3 ∧ (releasing 4 0x3F8 0).releasable 3) := by decide +kernel

/-- Memory is not trained yet. -/
def untrained : State := { releasing 1 0x3FE 0 with mem := MemSt.reset }

/-- Cells of a firmware image at an address: magic, format, code size 64, every other byte 0. -/
def fwCells (a : Nat) : List Host.Cell := [(a, 0x53#8), (a + 1, 0x4B#8), (a + 2, 0x57#8), (a + 3, 0x53#8), (a + 4, 1#8), (a + 8, 64#8)]

/-- Boot stage 2 with an image in one slot, or none. -/
def slots (cells : List Host.Cell) : State := { releasing 2 0x3F8 0 with pea := { Pea.reset with mem := ⟨cells, none⟩ } }

/-- A pushed image of n bytes under check. -/
def pushed (n : Nat) : State := { releasing 2 0x3F8 0 with
  ctl := { awake.ctl with stage := 2, inrst := 0x3F8, pushLen := some n }, mem := { awake.mem with pool := ⟨fwCells 0, none⟩ } }

theorem wit_TrainingAndBoot : untrained.awake ∧ bit untrained.ctl.inrst 0 = false ∧ untrained.mem.trained = false ∧
    ((slots []).awake ∧ (slots []).ctl.stage = 2 ∧ (slots []).ctl.pushLen = none ∧ (slots []).slotOrder = [0, 1] ∧
      (slots []).fwCheck ((slots []).slotImg 0) ≠ 0 ∧ (slots []).fwCheck ((slots []).slotImg 1) ≠ 0) ∧
    ((slots (fwCells 0x80000)).slotOrder = [0, 1] ∧ (slots (fwCells 0x80000)).fwCheck ((slots (fwCells 0x80000)).slotImg 0) ≠ 0) ∧
    (releasing 3 0x3F8 0).ctl.stage = 3 ∧ ((pushed 0).ctl.pushLen = some 0 ∧ (pushed 0).fwCheck ((pushed 0).mem.pool.getN 0 0) ≠ 0) ∧
    (pushed 524289).ctl.pushLen = some 524289 := by decide +kernel

/-- An image with the header of `fwCells` passes every check but those of the uninterpreted cryptography (R404). -/
theorem fwCheck_accepts (s : State) (m : Mem) (a n : Nat) (hn : 256 ≤ n) (hr : s.sec.rb = 0)
    (hm : leNat (((m.getN a n).drop 0).take 4) = 0x53574B53) (hf : leNat (((m.getN a n).drop 4).take 2) = 1)
    (hx : leNat (((m.getN a n).drop 6).take 1) = 0) (hc : leNat (((m.getN a n).drop 8).take 4) = 64)
    (h1 : Config.sha256 (((m.getN a n).drop 0x40).take 64) = Config.rootKeyHash)
    (h2 : Config.ecdsaOk (((m.getN a n).drop 0x40).take 64) (Config.sha256 ((m.getN a n).take (0x80 + 64)))
      (((m.getN a n).drop (0x80 + 64)).take 64) = true) : s.fwCheck (m.getN a n) = 0 := by
  have len : ∀ n a, (m.getN a n).length = n := by
    intro n
    induction n with
    | zero => exact fun _ => rfl
    | succ n ih => exact fun a => congrArg (· + 1) (ih (a + 1))
  have hl := len n a
  unfold State.fwCheck
  simp only [hm, hf, hx, hc, hl, h1, h2, hr]
  rw [if_neg (by omega)]
  simp

theorem wit_TrainingAndBoot_accepts :
    (let s := slots (fwCells 0)
     s.slotOrder = [0, 1] ∧ s.sec.rb = 0 ∧ leNat ((s.slotImg 0).take 4) = 0x53574B53 ∧ leNat (((s.slotImg 0).drop 4).take 2) = 1 ∧
       leNat (((s.slotImg 0).drop 6).take 1) = 0 ∧ leNat (((s.slotImg 0).drop 8).take 4) = 64) ∧
    (let s := slots (fwCells 0x80000)
     s.slotOrder = [0, 1] ∧ s.fwCheck (s.slotImg 0) ≠ 0 ∧ leNat ((s.slotImg 1).take 4) = 0x53574B53 ∧
       leNat (((s.slotImg 1).drop 4).take 2) = 1 ∧ leNat (((s.slotImg 1).drop 6).take 1) = 0 ∧ leNat (((s.slotImg 1).drop 8).take 4) = 64) ∧
    (let b := (pushed 256).mem.pool.getN 0 256
     leNat (b.take 4) = 0x53574B53 ∧ leNat ((b.drop 4).take 2) = 1 ∧ leNat ((b.drop 6).take 1) = 0 ∧ leNat ((b.drop 8).take 4) = 64) := by
  decide +kernel

/-- HOLD bits of CTL_SECRST set. -/
def holding (s : State) (w : Word) : State := s.rwSet rSecRst w

theorem wit_HoldsAndSensors : awake.reaches stk rSecRst ∧ awake.rwBits rSecRst 0 10 = 0 ∧ wbits 0x200#32 0 10 ≠ 0 ∧ awake.ctl.scope = 0 ∧
    (let s := holding (releasing 5 0x200 0) 0x200#32
     s.reaches stk rSecRst ∧ s.rwBits rSecRst 0 10 = 2 ^ 9 ∧ wbits 0#32 0 10 = 0 ∧ s.holdOk 9) ∧
    (let s := holding (releasing 5 0x28 0) 0x20#32
     s.reaches stk rSecRst ∧ s.rwBits rSecRst 0 10 = 2 ^ 5 ∧ s.holdOk 5 = false) ∧
    awake.up secTime ∧ (12499#16).toInt < 12500 ∧ 12500 ≤ (12500#16).toInt := by decide +kernel
/-! ### Witnesses: pipeline, table engine, entries -/

/-- The Mix section enabled and active, its tables placed apart at 16 MiB and 32 MiB. -/
def mixing : State :=
  let s := (((awake.rwSet rMixCtl 0x80000000#32).rwSet (wMix + 0x0100) 0x1000#32).rwSet (wMix + 0x0104) 0x2000#32)
  { s with mix := { Mix.reset with act := true, compiled := true }, tim := { s.tim with nsc := 4800 } }

/-- `mixing` with one entry, one record. -/
def withEnt (e : Ent) : State := { mixing with mix := { mixing.mix with ents := [e] } }
def withXp (x : Xp) : State := { mixing with mix := { mixing.mix with xps := [x] } }

/-- A live entry with a fade-out that ended at index 0. -/
def fading (n : Nat) : Ent := { Ent.blank n with live := true, ramps := [⟨.active, 0, 1, 0, 1, (134217728, 1), (0, 0), [], none⟩] }

/-- A clip of 10 samples from index 0, not looped, and a tone program without end. -/
def clipA (nsamp : Nat) : Clip := ⟨0, 0, nsamp, false, 0, 0, 0, [], 0, 0, 0, 1, []⟩
def toneA (out : List (Nat × Nat × Nat × Int × Int)) : Clip := ⟨0, 0, 0, false, 0, 0, 0, List.replicate 64 0, 0, 0, 0, 1, out⟩

/-- Player or generator p plays. -/
def playing (p : Nat) (c : Clip) : State := { mixing with mix := { mixing.mix with
  players := mixing.mix.players.set p { Player.idle with cur := some c } } }

theorem wit_BlockBoundaryBeginsTheNextBlock : awake.up secTime ∧ awake.tim.jamNow = false ∧ awake.up secMix ∧ awake.mixEn = false ∧
    State.reset.up secTime = false ∧ State.reset.up secMix = false ∧ State.reset.acDrives = false ∧
    (let s : State := { awake with ctl := { awake.ctl with inrst := 2 }, byp := { Bypass.reset with latch := true } }
     s.up secTime = false ∧ s.acDrives) := by decide +kernel

theorem wit_DirectWriteStoresItsBytes : awake.masterOn 4 ∧ awake.inBulk 0xDFFFFFFF 1 ∧ awake.inBulk 0xDFFFFFFF 2 = false ∧
    awake.journals = false ∧ (let s : State := { awake with twin := { Twin.reset with st := 3, paired := true } }
      s.journals ∧ s.masterOn 4) := by
  decide +kernel

/-- One stale item, and one under re-fetch. -/
def staleOne (it : Item) : State := { mixing with mix := { mixing.mix with stale := [it], nEnt := 63, nXp := 1023, nZn := 15 } }
def fetchOne (it : Item) : State := { mixing with mix := { mixing.mix with fetching := [it] } }

theorem wit_TableEngineWorks : ((staleOne (.entry 5)).mixEn ∧ Item.entry 5 ∉ (staleOne (.entry 5)).mix.deferred ∧
      (staleOne (.entry 5)).mix.room (.entry 5) ∧ (staleOne (.zone 255)).mix.room (.zone 255)) ∧
    (Item.entry 5 ∈ (fetchOne (.entry 5)).mix.fetching ∧
      badIn noHits.bad ((fetchOne (.entry 5)).itemAt (.entry 5)).1 ((fetchOne (.entry 5)).itemAt (.entry 5)).2 = false ∧
      badIn (badAt 0x1000BFF).bad ((fetchOne (.entry 5)).itemAt (.entry 5)).1 ((fetchOne (.entry 5)).itemAt (.entry 5)).2) ∧ (mixing.mix.act ∧ itemCounts (.xp 98303)) ∧
    (let s : State := { mixing with mix := Mix.reset }
     s.mayCompile ∧ badIn (badAt 0x117FFFF).bad (s.entAddr 3071) 512) := by decide +kernel

/-- A zone and a deferred entry marked before the last entry there is room for. -/
def staleTwo : State := { staleOne (.entry 5) with mix := { (staleOne (.entry 5)).mix with
  stale := [.zone 1, .entry 4, .entry 5, .entry 6], deferred := [.entry 4] } }
theorem wit_TableEngineWorks_order : staleTwo.mixEn ∧ staleTwo.mix.stale = [.zone 1, .entry 4] ++ .entry 5 :: [.entry 6] ∧
    (∀ j ∈ [Item.zone 1, .entry 4], itemIsZone j ∨ j ∈ staleTwo.mix.deferred) ∧ itemIsZone (.entry 5) = false ∧
    Item.entry 5 ∉ staleTwo.mix.deferred ∧ staleTwo.mix.room (.entry 5) ∧ Item.entry 4 ∈ staleTwo.mix.stale ∧ Item.entry 4 ∈ staleTwo.mix.deferred ∧
    (staleTwo.mix.refetch.fetching = [.entry 5] ∧ staleTwo.mix.refetch.stale = [.zone 1, .entry 4, .entry 6]) := by decide

theorem wit_EventsInsideAnEntry : (withEnt (fading 0)).mix.ents.any (fun e => e.idx = 0) ∧
    (withXp (Xp.blank 98303)).mix.xps.any (fun x => x.idx = 98303) ∧
    (((withEnt (fading 3071)).ent 3071).live ∧
      ((withEnt (fading 3071)).ent 3071).faded (domCeil ((withEnt (fading 3071)).ent 3071).dom
        (stageIndex (withEnt (fading 3071)).tim.nsc 3071))) ∧
    ((withEnt (fading 1535)).mix.ents.any (fun x => x.idx = 1535) ∧ ((withEnt (fading 1535)).ent 1535).live) ∧
    (let g : Gate := ⟨1, 0, 0, 0, true⟩
     g.st = 1 ∧ g.left = 0 ∧ g.below) ∧
    (let s := withXp { Xp.blank 7 with since := 39 }
     s.mix.xps.any (fun y => y.idx = 7) ∧ (s.xp 7).since = 39 ∧ s.sinceNext (s.xp 7) = 40) := by decide +kernel

theorem wit_PlayersEnd : (playing 63 (clipA 4800)).mix.players.length = 80 ∧
    (((playing 63 (clipA 4800)).player 63).cur = some (clipA 4800) ∧ (clipA 4800).overAt (domCeil (clipA 4800).dom 4800)) ∧
    (clipA 4801).overAt (domCeil (clipA 4801).dom 4800) = false ∧
    (((playing 79 (toneA [])).player (64 + 15)).cur = some (toneA []) ∧ (toneA []).overAt (domCeil (toneA []).dom 4800) = false) ∧
    (toneA [(4788, 1, 0, 134217728, 0)]).overAt (domCeil (toneA [(4788, 1, 0, 134217728, 0)]).dom 4800) ∧
    (let s := playing 63 (clipA 4800)
     ((s.player 63).cur.toList ++ (s.player 63).old ++ s.scheduled 63).find? (fun c => c.csn = (1#48).toNat) = some (clipA 4800)) ∧
    (∀ c ∈ (mixing.player 63).cur.toList ++ (mixing.player 63).old ++ mixing.scheduled 63, c.csn ≠ (1#48).toNat) ∧
    (hitsFail noHits = false ∧ hitsFail (badAt 0)) := by decide +kernel

/-- An active twin unit, paired, that drives under a lease. -/
def active : State :=
  let s := mixing.rwSet rHitCfg (0xC00088B5#32)
  { s with twin := { Twin.reset with st := 3, paired := true, ver := 2, acked := true, lease := 4992, pready := true, sync := 2 } }

theorem wit_WatchdogAndLeaseEvents :
    (let s : State := { active with mix := { active.mix with missStrip := 3 } }
     3 ≤ s.mix.missStrip ∧ s.rwBit rHitCfg 31 ∧ s.twin.paired) ∧
    (let s : State := { mixing with mix := { mixing.mix with missMix := 3 } }
     3 ≤ s.mix.missMix ∧ (s.rwBit rHitCfg 31 && s.twin.paired) = false) ∧ (mixing.mix.missStrip < 3 ∧ mixing.mix.missMix < 3 ∧ mixing.up secMem ∧ mixing.up secTime) ∧
    (let s : State := { active with ctl := { active.ctl with inrst := 1 } }
     s.awake ∧ s.up secMem = false ∧ s.rwBit rHitCfg 31 ∧ s.twin.paired) := by
  decide +kernel

/-! ### Witnesses: registers -/

theorem wit_RegisterWritesAndClears : State.reset.reaches stk (wMix + 0x0100) = false ∧
    (awake.reaches stk (wMix + 0x0FFC) ∧ regKind (wMix + 0x0FFC) = .none) ∧
    (awake.reaches stk (wMix + 0x0100) ∧ regKind (wMix + 0x0100) = .rw 0x0FFFFFFF#32 0 ∧ awake.mixEn = false) ∧
    (mixing.reaches stk (wMix + 0x0100) ∧ mixing.mixEn) ∧ (awake.reaches stk cBadField ∧ regKind cBadField = .ctr) ∧
    (awake.reaches stk rRstCause ∧ regKind rRstCause = .sc ∧ rRstCause / 0x10000 ≠ 3 ∧ inArr rRstCause (wMem + 0x0120) 8 = false) := by
  decide +kernel

theorem wit_ClearingLosesNoLaterEvent : (255 : Nat) < 256 ∧ (List.replicate 254 (0 : Nat)).length < 256 ∧
    (∀ p ∈ (Sc.mk 1 [(0, 0)]).bits, since (Sc.mk 1 [(0, 0)]).seq p.2 + (List.replicate 254 (0 : Nat)).length < 256) := by decide +kernel

/-- One pending commit. -/
def pendOp : Op := { Op.mk0 .commit 0 0 0 9600 with csn := 1 }
def pendingOne : State := { mixing with mix := { mixing.mix with ops := [pendOp] } }

theorem wit_MixAndStripSwitches :
    (let s := (awake.rwSet (wMix + 0x0100) 0x1000#32).rwSet (wMix + 0x0104) 0x2000#32
     s.reaches stk rMixCtl ∧ (0x80000000#32).getLsbD 31 ∧ s.mixEn = false ∧ s.mix.act = false ∧ s.ctErr = false ∧ s.xpErr = false) ∧
    (let s := mixing.rwSet rMixCtl 0
     s.mixEn = false ∧ s.mix.act) ∧
    mixing.mixEn ∧ (awake.ctErr ∧ awake.xpErr) ∧ mixing.mix.ops = [] ∧ (pendingOne.mixEn ∧ pendingOne.mix.ops ≠ []) ∧
    (awake.reaches stk rStpCtl ∧ awake.mix.act = false) ∧
    (let s := mixing.rwSet rStpCtl 0x80000000#32
     s.reaches stk rStpCtl ∧ s.rwBit rStpCtl 31 ∧ s.mix.act) ∧
    (awake.up secMem ∧ awake.up secMix ∧ awake.cap (wMix + 0x0140) = 0) := by decide +kernel

theorem wit_QuotasAndBanks :
    (∀ pt : Fin 8, ∃ m r, regKind (wMem + 0x0100 + 4 * pt) = .rw m r ∧ awake.reaches stk (wMem + 0x0100 + 4 * pt)) ∧
    qosOk 0 0x00322000#32 ∧ qosOk 0 0x00410100#32 = false ∧ qosOk 4 256#32 ∧ qosOk 4 255#32 = false ∧
    awake.reaches stk (wMem + 0x0400 + 4 * 31) ∧
    (let s : State := { awake with mem := { awake.mem with hand := awake.mem.hand.set 31 [4] } }
     s.up secMem ∧ s.mem.hand.getD 31 [] = [4]) := by
  refine ⟨fun pt => ?_, by decide +kernel⟩
  match pt with
  | 0 | 1 | 2 | 3 => exact ⟨_, _, rfl, by decide +kernel⟩
  | 4 | 5 | 6 | 7 => exact ⟨_, _, rfl, by decide +kernel⟩

/-! ### Witnesses: host ports, stream ports, lanes, clocks -/

/-- Host h's pages and rings lie in the pool SRAM; port and rings still disabled. -/
def hosted (h : Nat) : State :=
  let p (s : State) (off v : Nat) := (s.rwSet (rHst h + off) (BitVec.ofNat 32 v)).rwSet (rHst h + off + 4) 1#32
  p (p (p (p (p (p awake 0x008 0) 0x010 0x40) 0x100 0x1000) 0x170 0x1400) 0x200 0x2000) 0x270 0x2100

/-- The same with the port, submission ring k and completion ring k enabled, the one completing into the other. -/
def ringed (h k : Nat) : State :=
  (((hosted h).rwSet (rHst h) 0x83000000#32).rwSet (rSqCfg h k) (0x80004000#32 ||| BitVec.ofNat 32 k)).rwSet (rCqCfg h k) 0xC0014000#32

theorem wit_HostPortsAndRings :
    (∀ h : Fin 4, (hosted h).reaches stk (rHst h) ∧ (hosted h).hstEn h = false ∧ (hosted h).setupOk h) ∧
    ((awake).reaches stk (rHst 3) ∧ awake.hstEn 3 = false ∧ awake.setupOk 3 = false) ∧
    (∀ k : Fin 8, k ∈ [(0 : Fin 8), 7] → (hosted 3).reaches stk (rSqCfg 3 k) ∧ (hosted 3).sqEn 3 k = false ∧
      (0x80004007#32).getLsbD 31 ∧ (hosted 3).sqRules 3 k (0x80004007#32 &&& 0x8FFFF007#32) ∧
      (hosted 0).reaches stk (rCqCfg 0 k) ∧ (hosted 0).cqEn 0 k = false ∧ (hosted 0).cqRules 0 k (0x80004000#32 &&& 0xEFFFF3FF#32) ∧
      wbits (0x80004000#32) 24 4 ≠ 15) ∧
    (∀ sel : RingSel, sel ∈ [RingSel.port, .sq 7, .cq 7] → (ringed 1 7).reaches stk (ringReg 1 sel) ∧ (ringed 1 7).rwBit (ringReg 1 sel) 31) ∧
    (ringed 1 7).sqEn 1 7 ∧ (ringed 1 7).cqEn 1 7 ∧
    ((0#32).getLsbD 31 = false ∧ (0x83000000#32).getLsbD 31 ∧ ∀ k : Fin 8, (hosted 3).sqEn 3 k = false ∧ (hosted 3).cqEn 3 k = false) ∧
    (let s := (ringed 1 7).rwSet (rHst 1) 0x03000000#32
     s.reaches stk (rHst 1) ∧ s.hstEn 1 = false ∧ s.setupOk 1 ∧ s.sqEn 1 7 ∧ s.cqEn 1 7 ∧ s.sqEn 1 0 = false ∧ s.cqEn 1 0 = false) ∧
    (let s : State := { (hosted 3).rwSet (rHst 3) 0x83000000#32 with mem := { awake.mem with pool := ⟨[(14, 7#8), (30, 9#8)], none⟩ } }
     s.hstEn 3 ∧ s.targetRange (s.dbBase 3) 64 = .pool ∧ leNat (s.poolRead (s.dbBase 3 + 14) 2) = 7 ∧
      leNat (s.poolRead (s.dbBase 3 + 30) 2) = 9 ∧ s.sqEn 3 7 = false ∧ s.sqRules 3 7 (0x80004007#32 &&& 0x8FFFF007#32) ∧
      s.cqEn 3 7 = false ∧ s.cqRules 3 7 (0x80004000#32 &&& 0xEFFFF3FF#32)) ∧
    (let s := ((hosted 1).rwSet (rHst 1) 0x83000000#32).rwSet (rHst 1 + 12) 0#32
     s.hstEn 1 ∧ s.targetRange (s.dbBase 1) 64 = .bulk ∧ s.sqRules 1 7 (0x80004007#32 &&& 0x8FFFF007#32)) := by decide +kernel

/-- `awake` with one TDM port as given, its configuration word c. -/
def tdmAt (n : Fin 16) (c : Word) (p : Tdm) : State :=
  let s := awake.rwSet (rTdm n) c
  s.portSet n p

/-- A slave TDM port of 8 slots of 16 bits at 48 kHz (bit 31). -/
abbrev slaveCfg : Word := 0x80000008#32

/-- DAC channel 7 enabled, in direct mode or not. -/
def dacOn (direct : Bool) : State := awake.rwSet (rDacCfg 7) (if direct then 0xC0000000#32 else 0x80000000#32)

/-- DAC channel 7 named in the bypass's configuration and driven by it. -/
def dacBypassed : State :=
  let s := (dacOn true).rwSet rAcCfg 0x8000#32
  { s with byp := { s.byp with up := true } }

theorem wit_StreamPortControls :
    (awake.reaches stk (rTdm 15 + 8) ∧ wbits (3#32) 0 3 ∉ [1, 2, 4] ∧ wbits (0#32) 0 3 ∉ [1, 2, 4] ∧ wbits (1#32) 0 3 = 1 ∧
      (awake.port 15).st = 0) ∧
    ((tdmAt 15 slaveCfg { Tdm.reset with st := 3 }).reaches stk (rTdm 15 + 8) ∧ wbits (2#32) 0 3 = 2 ∧
      ((tdmAt 15 slaveCfg { Tdm.reset with st := 3 }).port 15).st = 3) ∧
    (awake.reaches stk (rDacCode 7) ∧ awake.rwBit (rDacCfg 7) 31 = false ∧ (dacOn false).reaches stk (rDacCode 7) ∧
      (dacOn false).rwBit (rDacCfg 7) 30 = false) ∧
    ((dacOn true).rwBit (rDacCfg 7) 31 ∧ (dacOn true).rwBit (rDacCfg 7) 30 ∧ (dacOn true).muzzled (16 + 7) = false ∧
      (dacOn true).acDrives = false) ∧
    (dacBypassed.reaches stk (rDacCode 7) ∧ dacBypassed.acDrives ∧ dacBypassed.acDac 7) ∧
    (let s := dacBypassed.rwSet rAcCfg 0x4000#32
     s.rwBit (rDacCfg 7) 31 ∧ s.rwBit (rDacCfg 7) 30 ∧ s.muzzled (16 + 7) = false ∧ s.acDrives ∧ s.acDac 7 = false) ∧
    (awake.reaches stk (rDacCfg 7) ∧ (dacOn true).reaches stk (rDacCfg 7) ∧ awake.rwBit (rDacCfg 7) 31 = false ∧
      (0x80000000#32).getLsbD 31 ∧ (0x80000000#32).getLsbD 30 = false) := by decide +kernel

theorem wit_TdmRestartClearsASlavePort :
    (let s := tdmAt 15 slaveCfg { Tdm.reset with st := 2 }
     s.reaches stk (rTdm 15 + 8) ∧ wbits (4#32) 0 3 = 4 ∧ cfgSlave (s.tdmCfg 15) ∧ 2 ≤ (s.port 15).st ∧ s.acDrives = false) ∧
    ((tdmAt 15 slaveCfg { Tdm.reset with st := 5, swp := true }).port 15).swp ∧
    (let s := tdmAt 15 slaveCfg { Tdm.reset with st := 1 }
     s.reaches stk (rTdm 15 + 8) ∧ (s.port 15).st < 2) ∧
    (let s := tdmAt 15 8#32 { Tdm.reset with st := 3 }
     s.reaches stk (rTdm 15 + 8) ∧ cfgSlave (s.tdmCfg 15) = false) := by decide +kernel

/-- Port 15 named for a start at index g, by GO or by the pin. -/
def starts (n : Fin 16) (g : Nat) (p : Tdm) : State :=
  (((tdmAt n 8#32 p).rwSet (wStr + 0x3000) (BitVec.ofNat 32 (2 ^ n.val))).rwSet (wStr + 0x3004)
    (BitVec.ofNat 32 g)).rwSet rTdmStart 2#32

theorem wit_TdmStarts :
    (let s := starts 15 13 Tdm.reset
     s.reaches stk rTdmStart ∧ (1#32).getLsbD 0 ∧ (s.up secStr ∧ s.rwBit rTdmStart 1) ∧ s.rwBit (wStr + 0x3000) 14 = false ∧
      s.rwBit (wStr + 0x3000) 15 ∧ (s.port 15).st = 0 ∧ cfgOk (s.tdmCfg 15) (s.rw (rTdm 15 + 4)) ∧
      (s.rw (wStr + 0x3008)).toNat * 2 ^ 32 + (s.rw (wStr + 0x3004)).toNat = 13 ∧ (13 : Nat) ≤ s.tim.nsc + 2147483648 ∧
      ¬ cdiv 13 12 * 12 < s.tim.nsc + 12) ∧
    (let s := starts 0 2147483660 Tdm.reset
     s.rwBit (wStr + 0x3000) 0 ∧ s.rwBit rTdmStart 2 = false ∧
      (s.tim.nsc / 12 + 1) * 12 + 2147483647 < (s.rw (wStr + 0x3008)).toNat * 2 ^ 32 + (s.rw (wStr + 0x3004)).toNat) ∧
    ((starts 15 0 { Tdm.reset with st := 3 }).port 15).st ≠ 0 ∧ cfgOk 1#32 0 = false ∧
    (let s := starts 15 0 { Tdm.reset with st := 1, start := 0 }
     s.up secStr ∧ (s.port 15).st = 1 ∧ (s.port 15).start ≤ s.tim.nsc ∧ (s.port 14).st ≠ 1) := by decide +kernel

/-- A word of CLK_CTL in effect, and JAMNOW with another. -/
def clocked (w : Word) : State := awake.rwSet rClkCtl w

theorem wit_LaneAndClockControls :
    (∀ d : Fin 4, awake.reaches stk (rDry d + 0x0100) ∧ awake.rwBit (rDry d + 0x0100) 0 = false) ∧
    (let s := awake.rwSet (rDry 3 + 0x0100) 3#32
     s.reaches stk (rDry 3 + 0x0100) ∧ s.rwBit (rDry 3 + 0x0100) 0 ∧ (2#32).getLsbD 0 = false) ∧
    (awake.reaches stk rClkCtl ∧ wbits (0x08200000#32) 24 4 ≤ 8 ∧ awake.auditOk) ∧
    (let s : State := { awake with pea := { awake.pea with spare := [] } }
     s.reaches stk rClkCtl ∧ s.auditOk = false ∧ 0x08200000#32 &&& 0x8FD00000#32 ≠ s.rw rClkCtl ∧
      s.rw rClkCtl &&& 0x8FD00000#32 = s.rw rClkCtl) := by decide +kernel

/-! ### Witnesses: security, Peatstore, indirect pairs, voting -/

/-- `awake` with a running firmware of slot A whose RBIDX is 127, and security fields as given. -/
def secured (f : Sec → Sec) : State := { awake with sec := f { awake.sec with fw := ⟨0, 127, 1, []⟩ } }
/-- `awake` with the Peatstore as given. -/
def storing (f : Pea → Pea) : State := { awake with pea := f awake.pea }

theorem wit_KeysRollbackAndEntropy : awake.reaches stk rZeroise ∧ (3#32).getLsbD 0 ∧ (3#32).getLsbD 1 ∧
    (let s := secured id
     s.reaches stk (wCtl + 0x0610) ∧ s.sec.rbTo.getD s.sec.rb < wbits (127#32) 0 7 ∧ s.sec.fw.src ≠ 3 ∧
      wbits (127#32) 0 7 ≤ s.sec.fw.rbidx ∧ s.auditOk ∧ wbits (0#32) 0 7 ≤ s.sec.rbTo.getD s.sec.rb ∧ s.sec.rngOk) ∧
    awake.sec.fw.src = 3 ∧ (secured fun x => { x with fw := ⟨1, 126, 1, []⟩ }).sec.fw.rbidx < wbits (127#32) 0 7 ∧
    (let s := secured fun x => { x with rbTo := some 127, rngOk := false }
     s.awake ∧ s.sec.rbTo = some 127 ∧ s.sec.rngOk = false) := by decide +kernel

theorem wit_DebugPortChallenges :
    (let s := { awake with sec := (secured id).sec }.rwSet rSecCfg 0x40000000#32
     s.awake ∧ s.auditOk ∧ s.rwBit rSecCfg 30 ∧ s.sec.perm = false ∧ s.sec.rngOk ∧ s.sec.fails < 3) ∧
    (awake.awake ∧ awake.auditOk ∧ (awake.rwSet rSecCfg 0#32).rwBit rSecCfg 30 = false) ∧ 3 ≤ (secured fun x => { x with fails := 3 }).sec.fails ∧
    (let s := secured fun x => { x with chal := some (7, List.replicate 32 0), fw := ⟨3, 0, 0, []⟩ }
     s.sec.chal = some (7, List.replicate 32 0) ∧ ∀ dg sig, s.debugKey dg sig = none) ∧
    (∀ dg sig, Config.ecdsaOk [] dg sig → ((secured id).debugKey dg sig).isSome) := by
  refine ⟨by decide +kernel, by decide +kernel, by decide +kernel, ⟨by decide +kernel, fun dg sig => ?_⟩, fun dg sig h => ?_⟩
  · rfl
  · unfold State.debugKey
    rw [if_pos ⟨by decide +kernel, h⟩]
    rfl

theorem wit_PeatstoreWritesWholeSectors :
    (let s := awake.rwSet aPea (BitVec.ofNat 32 (8191 * 4096 + 0xFF8))
     s.reaches stk (aPea + 4) ∧ s.pea.busy = none ∧ s.peaOpen ((s.rw aPea).toNat / 4096) ∧ (s.rw aPea).toNat % 4096 ≠ 0xFFC ∧
      s.pea.buf = none) ∧
    (let s := (storing fun p => { p with buf := some (8191, [(0, 5#32)]) }).rwSet aPea (BitVec.ofNat 32 (8191 * 4096 + 4))
     s.pea.buf = some ((s.rw aPea).toNat / 4096, [(0, 5#32)])) ∧
    (let s := storing fun p => { p with busy := some (8191, List.replicate 4096 0) }
     s.reaches stk (aPea + 4) ∧ s.pea.busy.isSome ∧ s.awake) ∧
    (let s := awake.rwSet aPea (BitVec.ofNat 32 (5471 * 4096))
     s.pea.busy = none ∧ s.peaOpen ((s.rw aPea).toNat / 4096) = false) ∧
    (let s := storing fun p => { p with buf := some (8191, [(0, 5#32)]) }
     s.reaches stk (wCtl + 0x0708) ∧ (1#32).getLsbD 0 ∧ s.pea.busy = none ∧ s.hasFree (regionOf 8191)) ∧
    (let s := storing fun p => { p with buf := some (0, [(0, 5#32)]), spare := [] }
     s.reaches stk (wCtl + 0x0708) ∧ s.pea.busy = none ∧ s.hasFree (regionOf 0) = false) ∧
    (let s := storing fun p => { p with busy := some (8191, List.replicate 4096 1) }
     s.awake ∧ (List.replicate 4096 (1 : Byte)).length = 4096 ∧ regionOf 8191 ≠ 2 ∧ s.pea.retired.length = 6 ∧
      (s.poolOf (regionOf 8191)).length = 176) ∧
    (let s := storing fun p => { p with wear := [(8703, 1000001)] }
     s.awake ∧ s.wearOf (s.physOf 8191) + 1000000 < s.wearOf 8703 ∧ 8703 ∈ s.poolOf (regionOf 8191)) := by decide +kernel

theorem wit_IndirectPairsStepAndReadBack : (∀ p : IxPair, p ∈ [IxPair.tim, .str, .dac] → awake.reaches stk (ixData p)) ∧
    (let s := (awake.rwSet aTim 0xA5#32).rwSet aStr 0x11DFC#32
     (s.rw aTim).toNat ≤ 0xA5 ∧ s.net.ports.length = 4 ∧ 0x10000 ≤ (s.rw aStr).toNat ∧ (s.rw aStr).toNat < 0x12000 ∧
      (s.rw aStr).toNat % 4 = 0 ∧ ((s.rw aStr).toNat - 0x10000) % 0x800 < 1536) ∧
    (let s := (dacOn true).rwSet aDac 15#32
     s.reaches stk (ixData .dac) ∧ (s.rw aDac).toNat / 2 = 7 ∧ s.rwBit (rDacCfg 7) 31 ∧ s.rwBit (rDacCfg 7) 30 ∧
      s.muzzled (16 + 7) = false ∧ s.acDrives = false) := by decide +kernel

theorem wit_VotedFieldsSurviveAnUpset :
    (∀ o ∈ votedOffs, copyAt awake.regs.voteB o &&& votedMask o = copyAt awake.regs.rw o &&& votedMask o ∧
      copyAt awake.regs.voteC o &&& votedMask o = copyAt awake.regs.rw o &&& votedMask o) ∧
    (let u : VoteUpset := ⟨rSecRst, 0, 1#32⟩
     u.off ∈ votedOffs ∧ awake.windowUp u.off ∧ u.flip &&& votedMask u.off ≠ 0) ∧
    ((1 : Nat) % 16 ≠ 0 ∧ (15 : Nat) % 16 ≠ 0 ∧ (1 : Nat) % 16 ≠ 15 % 16 ∧ awake.windowUp (rRefCfg 8)) := by decide +kernel

/-! ### Witnesses: targets, acceptance, completion -/

theorem wit_TargetsExtendToTheIndexNearTheNsc : (0 : Nat) < 32 ∧
    (let o : Op := Op.mk0 .commit 0 0 0 0
     o.writes ∧ o.next = false ∧ ({ o with next := true } : Op).next ∧ (4800 : Int) + 2147483647 < extend 48 4800 (4800 + 2147483648) ∧
      (4800 : Int) + 36 ≤ extend 48 4800 4836 ∧ extend 48 4800 (4800 + 2147483647) ≤ (4800 : Int) + 2147483647 ∧
      (4800 : Int) + 24 ≤ extend 32 4800 4824 ∧ extend 32 4800 4835 < (4800 : Int) + 36 ∧ extend 32 4800 4823 < (4800 : Int) + 24 ∧
      extend 32 4800 (4800 + 2147483648) < (4800 : Int) + 24) := by decide +kernel

/-- 64 bytes of a descriptor: opcode, ring number, then given bytes from 0x10. -/
def descBytes (opc q : Nat) (body : List Byte) : List Byte :=
  [BitVec.ofNat 8 opc, 0, BitVec.ofNat 8 q, 0] ++ List.replicate 12 0 ++ fit 48 0 body

/-- A state of the Mix section whose host h has descriptors and a version. -/
def withDescs (s : State) (h : Fin 4) (ver : Nat) (ds : List Desc) : State := s.hostSet h { s.host h with ver := ver, descs := ds }

/-- A descriptor of ring 7 that waits for acceptance with operation o. -/
def asking (o : Op) : Desc := ⟨7, 9, descBytes 0x10 7 [], true, false, some o⟩

/-- A commit of one word of template 4095, a claim of entry 3071, and the state where they wait on ring 7 of host 3. -/
def oneWord : Op := { Op.mk0 .commit 3 7 9 9600 with recs := [⟨0, 0x1BC, 4095, 0xFFFFFFFF#32, 1#32⟩] }
def oneClaim : Op := { Op.mk0 .claim 3 7 9 0 with recs := [⟨0, 1, 3071, 0, 0⟩], args := [0] }
def asked (o : Op) : State := withDescs mixing 3 3 [asking o]

theorem wit_AcceptanceAssignsTheNextCsn :
    (let o := { oneWord with stage := true }
     let s := asked o
     s.up secHost ∧ (s.hst 3).firstReq 7 = some (asking o, o) ∧ s.mix.act ∧ s.batch o.host o.ring = none ∧
      o.recs.all CRec.formOk ∧ s.staged + o.recs.length ≤ 16384) ∧
    (mixing.up secHost ∧ (mixing.hst 3).firstReq 7 = none) ∧
    (let s := asked oneWord
     (s.hst 3).firstReq 7 = some (asking oneWord, oneWord) ∧ oneWord.stage = false ∧ s.batch oneWord.host oneWord.ring = none ∧
      s.mix.act ∧ s.twin.st ≠ 4 ∧ (s.acceptStatus 3 false (s.tim.nsc + 11) oneWord).1 = stOk) ∧
    (let o := { oneWord with next := true }
     let s := asked o
     (s.hst 3).firstReq 7 = some (asking o, o) ∧ o.next ∧ s.mix.ops.length < 256 ∧ o.kind = .commit ∧ s.twin.paired = false ∧
      (∀ x ∈ o.recs, x.op = 0 ∧ 3072 ≤ x.idx ∧ x.idx ≤ 4095 ∧ x.off % 4 = 0 ∧ x.off ≤ 0x1BC) ∧ s.mix.claims = []) ∧
    (let o : Op := { Op.mk0 .release 3 7 9 0 with args := [0] }
     let s := asked o
     (s.hst 3).firstReq 7 = some (asking o, o) ∧ o.stage = false ∧ o.kind = .release ∧ o.args.headD 0 = 0 ∧ s.mix.ops.length < 256) ∧
    ((asked oneClaim).acceptStatus 3 false 4811 oneClaim).1 = stOk ∧ oneClaim.kind = .claim ∧
    ((asked { oneWord with recs := [] }).acceptStatus 3 false 4800 { oneWord with recs := [] }).1 ≠ stOk ∧
    (withDescs awake 3 3 [asking oneWord]).mix.act = false := by decide +kernel

/-- A commit pending with CSN 1, both parts written back. -/
def doneOp : Op := { pendOp with part1 := true, part2 := true, late := true }
/-- An entry, a record that waits with a change of CSN 1 over one block. -/
def waitEnt (n : Nat) : Ent := { Ent.blank n with live := true, wait := some ⟨4800, 1, 1, 0⟩ }
def waitXp (n : Nat) : Xp := { Xp.blank n with wait := some ⟨4800, 1, 1, 0⟩ }
/-- An entry whose filter crossfade still runs. -/
def dualEnt (n : Nat) : Ent := { Ent.blank n with live := true, ramps := [⟨.filter 0, 4776, 100, 0, 1, (0, 0), (0, 0), [], none⟩] }
/-- A record that moves, with k old terms. -/
def movingXp (n k : Nat) : Xp := { Xp.blank n with ramps := [⟨.move, 4776, 100, 0, 1, (0, 0), (0, 0), List.replicate k (0, 0), none⟩] }

theorem wit_CompletionAndWaitingChanges :
    (let s : State := { mixing with mix := { mixing.mix with ops := [doneOp] } }
     s.opOf 1 = some doneOp ∧ doneOp.writes ∧ doneOp.fwd = none ∧ s.opReady doneOp ∧ doneOp.failed = false ∧ doneOp.ring ≠ 8 ∧ doneOp.lost = false ∧
      doneOp.late) ∧
    (pendingOne.opOf 1 = some pendOp ∧ pendOp.writes ∧ pendOp.fwd = none ∧ pendingOne.opReady pendOp = false) ∧
    (let s := withEnt (waitEnt 1535)
     s.mix.ents.filter (fun e => (e.waitAt (stageIndex s.tim.nsc e.idx)).isSome) = [s.ent 1535] ∧ (s.ent 1535).wait = some ⟨4800, 1, 1, 0⟩ ∧
      s.holders 1535 (stageIndex s.tim.nsc 1535) < slotsOf 1535 ∧
      (s.ent 1535).dualAt (domCeil (s.ent 1535).dom (stageIndex s.tim.nsc 1535)) = false) ∧
    (let s : State := { mixing with mix := { mixing.mix with ents := ((List.range 24).map fun i => dualEnt (1440 + i)) ++ [waitEnt 1535] } }
     s.mix.ents.filter (fun e => (e.waitAt (stageIndex s.tim.nsc e.idx)).isSome) = [s.ent 1535] ∧ slotsOf 1535 ≤ s.holders 1535 (stageIndex s.tim.nsc 1535)) ∧
    (let s := withXp (waitXp 98303)
     s.mix.xps.filter (fun x => (x.waitAt (s.busDom (XpR.dst x.img)) (s.tim.nsc - 24)).isSome) = [s.xp 98303] ∧ (s.xp 98303).wait = some ⟨4800, 1, 1, 0⟩ ∧
      s.secondTerms (s.tim.nsc - 24) < 16384) ∧
    (let s : State := { mixing with mix := { mixing.mix with xps := [movingXp 0 16384, waitXp 98303] } }
     s.mix.xps.filter (fun x => (x.waitAt (s.busDom (XpR.dst x.img)) (s.tim.nsc - 24)).isSome) = [s.xp 98303] ∧ 16384 ≤ s.secondTerms (s.tim.nsc - 24)) := by decide +kernel

/-! ### Witnesses: rings and descriptors -/

/-- `ringed 1 7` with the submission ring, the completion ring and the port as given. -/
def ringAt (h k : Nat) (q : Sq) (c : Cq) (f : HostPort → HostPort) : State :=
  let s := ringed h k
  s.hstPut h (f (((s.hst h).sqPut k q).cqPut k c))

theorem wit_DoorbellAndIndexPages :
    (let s := ringAt 1 7 ⟨0, 0, none, false⟩ ⟨0, 0, none, 0, false, false⟩ id
     s.up secHost ∧ s.hstEn 1 ∧ s.targetRange (s.dbBase 1) 64 = .pool ∧ (s.poolRead (s.dbBase 1) 64).length = 64 ∧ s.sqEn 1 0 = false ∧
      s.sqEn 1 7 ∧ s.cqEn 1 7 ∧ (0 + 65536 - ((s.hst 1).sqAt 7).ci) % 65536 ≤ s.sqSize 1 7 ∧
      (((s.hst 1).cqAt 7).pi + 65536 - 0) % 65536 ≤ s.cqSize 1 7 ∧ (s.hst 1).dirty = false) ∧
    (let s := ringAt 1 7 ⟨1, 1, none, false⟩ ⟨16, 0, none, 0, false, false⟩ id
     s.sqSize 1 7 < (0 + 65536 - ((s.hst 1).sqAt 7).ci) % 65536 ∧ ((s.hst 1).sqAt 7).bad ≠ some 0 ∧
      (((s.hst 1).cqAt 7).pi + 65536 - 0) % 65536 ≤ s.cqSize 1 7) ∧
    (let s := (ringed 1 7).rwSet (rHst 1 + 0x00C) 0#32
     s.hstEn 1 ∧ s.targetRange (s.dbBase 1) 64 ≠ .pool ∧ (s.devRead 1 ⟨[], noHits⟩ (s.dbBase 1) 64).1.isSome) ∧
    (let s := ringAt 1 7 ⟨1, 0, none, false⟩ Cq.zero id
     (upTo 8).find? (fun i => s.mayFetch 1 (((s.hst 1).next + i) % 8)) = some 7 ∧ (s.devRead 1 ⟨[], noHits⟩ (s.sqBase 1 7) 64).1.isSome) ∧
    (let s := (ringAt 1 7 ⟨1, 0, none, false⟩ Cq.zero id).rwSet (rHst 1 + 0x174) 0xFF#32
     (upTo 8).find? (fun i => s.mayFetch 1 (((s.hst 1).next + i) % 8)) = some 7 ∧ (s.devRead 1 ⟨[], noHits⟩ (s.sqBase 1 7) 64).1 = none) ∧
    (let s := ringAt 1 7 Sq.zero Cq.zero fun x => { x with dirty := true, updseq := 4294967295 }
     (s.hst 1).dirty ∧ s.targetRange (s.ixBase 1) 64 = .pool) ∧
    (∀ h : Fin 4, h ∈ [(1 : Fin 4), 3] → ∀ dirty : Bool,
     let s := (ringAt h 7 Sq.zero ⟨1, 0, none, 1, false, false⟩ fun x => { x with dirty := dirty, link := true }).rwSet (rCqCfg h 7) 0xC0024001#32
     s.cqEn h 7 ∧ s.rwBit (rCqCfg h 7) 30 ∧ s.rwBits (rCqCfg h 7) 0 10 ≠ 0 ∧ ((s.hst h).cqAt 7).unsig ≠ 0 ∧ (s.hst h).dirty = dirty ∧
      (s.hst h).link ∧ ((s.hst h).msix.get (16 * s.rwBits (rCqCfg h 7) 24 4 + 12)).getLsbD 0 = false) := by decide +kernel

theorem wit_DoorbellAndIndexPages_pages :
    (let s := (ringAt 1 7 ⟨5, 5, some 0, false⟩ ⟨0, 0, some 0, 0, false, false⟩ id).rwSet (rHst 1 + 0x00C) 0#32
     s.hstEn 1 ∧ s.targetRange (s.dbBase 1) 64 = .bulk ∧ ((s.hst 1).sqAt 7).bad = some 0 ∧ ((s.hst 1).cqAt 7).bad = some 0 ∧ s.cqEn 1 7 ∧
      s.cqEn 1 0 = false ∧ badIn [63] 0 64 ∧ badIn [64] 0 64 = false) ∧
    (let s := ringAt 1 7 Sq.zero Cq.zero id
     s.cqEn 1 7 ∧ s.cqSize 1 7 < (((s.hst 1).cqAt 7).pi + 65536 - 1) % 65536) ∧
    (let s := (ringed 1 7).rwSet (rHst 1 + 0x00C) 0x80#32
     s.targetRange (s.dbBase 1) 64 = .host 0 ∧ s.linkOf 0 = false ∧ s.journals = false ∧
      (hostRead ⟨(upTo 64).map fun i => (s.dbBase 1 + i, 1#8), noHits⟩ (s.dbBase 1) 64).isSome ∧
      hostRead ⟨[], noHits⟩ (s.dbBase 1) 64 = none ∧ (let t := s.hostSet 0 { s.host 0 with link := true }
        t.targetRange (t.dbBase 1) 64 = .host 0 ∧ t.linkOf 0)) ∧
    (let s := (ringAt 1 7 ⟨1, 0, none, false⟩ Cq.zero fun x =>
        { x with next := 7, ver := 1, link := true, dirty := true }).rwSet (rHst 1 + 0x014) 0xC0#32
     let s : State := { s with mem := { s.mem with pool := Mem.zero.setN 0x1400 (descBytes 1 7 []) } }
     (s.hst 1).next = 7 ∧ (s.hst 1).inflight < 64 ∧ s.sqEn 1 7 ∧ (s.hst 1).fenced 7 = false ∧ s.cqEn 1 (s.cqOf 1 7) ∧
      s.cqUsed 1 (s.cqOf 1 7) < s.cqSize 1 (s.cqOf 1 7) ∧ s.targetRange (s.sqBase 1 7) 64 = .pool ∧
      s.poolRead (s.sqBase 1 7) 64 = descBytes 1 7 [] ∧ s.descStatus 1 ⟨7, 0, descBytes 1 7 [], false, false, none⟩ = 0 ∧
      (s.hst 1).dirty ∧ s.targetRange (s.ixBase 1) 64 = .host 1 ∧ s.linkOf 1 ∧ s.ixBase 1 % 64 = 0 ∧
      (s.rwSet (rHst 1 + 0x014) 0#32).targetRange ((s.rwSet (rHst 1 + 0x014) 0#32).ixBase 1) 64 = .bulk) ∧
    (let s := ringAt 1 7 ⟨1, 0, none, false⟩ Cq.zero fun x => { x with descs := List.replicate 64 (asking oneWord) }
     64 ≤ (s.hst 1).inflight ∧ ∀ r < 8, awake.mayFetch 1 r = false) := by decide +kernel

/-- Host 3 with ring 7 at work and the descriptors given. -/
def session (ver : Nat) (ds : List Desc) : State :=
  let s := ringed 3 7
  withDescs s 3 ver ds
def fetchedDesc (opc : Nat) (body : List Byte) : Desc := ⟨7, 9, descBytes opc 7 body, false, false, none⟩

theorem wit_CompletionRecordsArePosted :
    (let d := fetchedDesc 1 []
     let s := session 3 [d]
     (s.hst 3).descs = [d] ∧ s.cqEn 3 (s.cqOf 3 d.ring) ∧
      s.targetRange (s.cqBase 3 7 + 16 * (((s.hst 3).cqAt 7).pi % s.cqSize 3 7)) 16 = .pool) ∧
    (let d := fetchedDesc 1 []
     let s := withDescs awake 3 3 [d]
     (s.hst 3).descs = [d] ∧ s.cqEn 3 (s.cqOf 3 d.ring) = false) ∧
    (let d := fetchedDesc 1 []
     let s := session 3 [d]
     let s := s.hstPut 3 ((s.hst 3).cqPut 7 { Cq.zero with bad := some 17 })
     (s.hst 3).descs = [d] ∧ s.cqEn 3 (s.cqOf 3 d.ring) ∧ ((s.hst 3).cqAt (s.cqOf 3 d.ring)).bad.isSome) := by decide +kernel

/-- The claim 1 of host 3. -/
def claim1 : Claim := ⟨1, 3, false, [(3071, 1)], 500, true⟩
/-- A FENCE on rings 0 to 7 whose INDEX of ring 7 is i. -/
def fenceOn (i : Nat) (begun : Bool) : Desc :=
  ⟨7, 9, descBytes 3 7 ([0x80#8] ++ List.replicate 29 0 ++ natLe 2 i), begun, false, none⟩

theorem wit_SessionDescriptors :
    (session 3 [fetchedDesc 1 []]).next 3 7 0x01 = some (fetchedDesc 1 []) ∧
    (let s := session 0 [fetchedDesc 2 [7]]
     s.next 3 7 0x02 = some (fetchedDesc 2 [7]) ∧ (s.hst 3).ver = 0 ∧ (fetchedDesc 2 [7]).f 0x10 1 < 8 ∧ 2 ^ 2 ≤ (fetchedDesc 2 [7]).f 0x10 1 ∧
      (fetchedDesc 2 [7]).f 0x10 1 < 2 ^ (2 + 1)) ∧
    ((session 0 [fetchedDesc 2 []]).next 3 7 0x02 = some (fetchedDesc 2 []) ∧ (fetchedDesc 2 []).f 0x10 1 = 0) ∧
    ((session 3 [fetchedDesc 2 [4]]).next 3 7 0x02 = some (fetchedDesc 2 [4]) ∧ ((session 3 [fetchedDesc 2 [4]]).hst 3).ver ≠ 0) ∧
    (let s := session 3 [fenceOn 17 false]
     s.next 3 7 0x03 = some (fenceOn 17 false) ∧ s.fenceBad 3 (fenceOn 17 false)) ∧
    (let s := session 3 [fenceOn 0 false]
     s.next 3 7 0x03 = some (fenceOn 0 false) ∧ s.fenceBad 3 (fenceOn 0 false) = false ∧ s.fenceDone 3 (fenceOn 0 false)) ∧
    (let s := session 3 [fenceOn 16 false]
     s.next 3 7 0x03 = some (fenceOn 16 false) ∧ s.fenceBad 3 (fenceOn 16 false) = false ∧ s.fenceDone 3 (fenceOn 16 false) = false) ∧
    (∀ i ∈ [0, 16], let s := session 3 [fenceOn i true]
     (s.hst 3).descs.find? (fun e => e.ring = 7 && e.opc = 3 && e.begun) = some (fenceOn i true) ∧ s.up secHost ∧
      s.fenceDone 3 (fenceOn i true) = decide (i = 0)) ∧
    (∀ c ∈ [(0 : Byte), 1], let s := session 2 [fetchedDesc 0x13 [c]]
     let s : State := { s with mix := { s.mix with claims := [claim1] } }
     s.next 3 7 0x13 = some (fetchedDesc 0x13 [c]) ∧
      ((fetchedDesc 0x13 [c]).f 0x10 6 = 0 ∨ ∃ k ∈ s.mix.claims, k.host = 3 ∧ k.partner = false ∧ k.csn = (fetchedDesc 0x13 [c]).f 0x10 6)) ∧
    (let s := session 2 [fetchedDesc 0x13 [2]]
     s.next 3 7 0x13 = some (fetchedDesc 0x13 [2]) ∧ (fetchedDesc 0x13 [2]).f 0x10 6 ≠ 0 ∧ s.mix.claims = []) := by decide +kernel

/-- A list of n bytes at 0x100000 of bulk memory: COMMIT (one record, target 9600), CLAIM, READ_STATE. -/
def at1M : List Byte := natLe 8 0x100000
def commitDesc : Desc := fetchedDesc 0x10 (at1M ++ [1, 0, 0, 0] ++ natLe 4 0 ++ natLe 8 9600)
def claimDesc : Desc := fetchedDesc 0x11 (at1M ++ [1])
def readDesc : Desc := fetchedDesc 0x14 (at1M ++ [1, 0, 0, 0] ++ natLe 4 1000 ++ at1M)

theorem wit_SequencedDescriptorsWait :
    (∀ p ∈ [(0x10, commitDesc, 16), (0x11, claimDesc, 8), (0x14, readDesc, 8)],
      (session 2 [p.2.1]).next 3 7 p.1 = some p.2.1 ∧ ((session 2 [p.2.1]).devRead 3 ⟨[], noHits⟩ (p.2.1.f 0x10 8) p.2.2).1.isSome) ∧
    (mkOp 2 3 commitDesc (List.replicate 16 0)).toOption.isSome ∧
    (session 1 [claimDesc]).next 3 7 0x11 = none ∧
    (let d := fetchedDesc 0x10 (natLe 8 0xFF00000000 ++ [1, 0, 0, 0] ++ natLe 4 0 ++ natLe 8 9600)
     let s := session 2 [d]
     s.next 3 7 0x10 = some d ∧ (s.devRead 3 ⟨[], noHits⟩ (d.f 0x10 8) 16).1 = none) ∧
    (∀ p ∈ [(0x12, fetchedDesc 0x12 []), (0x31, fetchedDesc 0x31 []), (0x32, fetchedDesc 0x32 [])],
      (session 3 [p.2]).next 3 7 p.1 = some p.2) ∧
    (let d := fetchedDesc 0x29 (List.replicate 8 0 ++ natLe 2 1023)
     let s := session 3 [d]
     s.next 3 7 0x29 = some d ∧ d.f 0x18 2 ≠ 0xFFFF ∧ s.sceneImg (d.f 0x18 2) = none ∧ s.sceneLost (d.f 0x18 2) [] = false) ∧
    (let d := fetchedDesc 0x29 (List.replicate 8 0 ++ natLe 2 1023)
     let s := session 3 [d]
     let img (c : Byte) : List Byte := [1, 0, 0, 0] ++ List.replicate 28 0 ++ natLe 4 64 ++ [c] ++ List.replicate 27 0
     let s : State := { s with pea := { s.pea with scenes := [(1023, ⟨[5472], 64⟩)], mem := Mem.zero.setN (5472 * 4096) (img 0) } }
     s.next 3 7 0x29 = some d ∧ s.sceneLost 1023 [] = false ∧ (s.sceneImg 1023).isSome ∧ (s.sceneImg 1023).any sceneOk = false) ∧
    (session 3 [commitDesc]).targetRange (commitDesc.f 0x10 8) 16 = .bulk ∧ badIn [] (commitDesc.f 0x10 8) 16 = false ∧
    (let d := fetchedDesc 0x10 (natLe 8 (poolBase + 0x4000) ++ [1, 0, 0, 0] ++ natLe 4 0 ++ natLe 8 9600)
     (session 3 [d]).next 3 7 0x10 = some d ∧ (session 3 [d]).targetRange (d.f 0x10 8) 16 = .pool) ∧
    commitDesc.opc = 0x10 := by decide +kernel

theorem wit_SequencedDescriptorsWait_badarg : mkOp 2 3 claimDesc (natLe 4 1 ++ natLe 4 0) = .error stBadArg := rfl

/-! ### Witnesses: descriptors that are not sequenced -/

/-- A pool address, and a session whose pool SRAM holds given bytes from offset 0x4000 on. -/
def pool (o : Nat) : List Byte := natLe 8 (poolBase + o)
def fed (s : State) (bs : List Byte) : State := { s with mem := { s.mem with pool := s.mem.pool.setN 0x4000 bs } }

theorem wit_BulkCopiesMoveTheirBytes :
    (∀ o ∈ [0x20, 0x21],
      (let d := fetchedDesc o (pool 0x4000 ++ pool 0x4004 ++ natLe 4 4)
       let s := session 1 [d]
       s.next 3 7 o = some d ∧ s.targetRange (d.f 0x10 8) (d.f 0x20 4) = .pool ∧ s.targetRange (d.f 0x18 8) (d.f 0x20 4) = .pool ∧
        d.f 0x10 8 + d.f 0x20 4 ≤ d.f 0x18 8) ∧
      (let d := fetchedDesc o (pool 0x800000 ++ pool 0x7FFFFC ++ natLe 4 8)
       let s := session 1 [d]
       s.next 3 7 o = some d ∧ s.targetRange (if o = 0x20 then d.f 0x18 8 else d.f 0x10 8) (d.f 0x20 4) = .none)) := by decide +kernel

/-- One range of entries as a list. -/
def range1 (a b : Nat) : List Byte := natLe 4 a ++ natLe 4 b
def sceneDesc : Desc := fetchedDesc 0x28 (pool 0x4000 ++ [1, 0] ++ natLe 2 1023)
def meterDesc (n period : Nat) : Desc := fetchedDesc 0x30 (pool 0x4000 ++ [BitVec.ofNat 8 n, 7, 7, 0] ++ natLe 2 period)
/-- Completion ring 7 of host 3 for meters, its submission ring completing elsewhere. -/
def metered (s : State) : State := (s.rwSet (rSqCfg 3 7) 0x80004000#32).rwSet (rCqCfg 3 7) 0xE0014000#32
def subbed (pi : Nat) : State :=
  let s := metered (session 3 [])
  let x := s.hst 3
  { s.hstPut 3 { x.cqPut 7 ⟨pi, 0, none, 0, false, false⟩ with
    subs := x.subs.set 7 (some ⟨[0], 4, 7, [⟨true, true, 0, 0, 0, 0, 0, false, false⟩]⟩) } with tim := { s.tim with nsc := 72 } }

theorem wit_ScenesAndMeters :
    (let s := fed (session 3 [sceneDesc]) (range1 0 4096)
     s.next 3 7 0x28 = some sceneDesc ∧ (s.devRead 3 ⟨[], noHits⟩ (sceneDesc.f 0x10 8) 8).1 = some (range1 0 4096) ∧
      rangesOf 3 1 (range1 0 4096) = some [(0, 4096)]) ∧
    (let s := fed (session 3 [sceneDesc]) (range1 4095 4095)
     s.next 3 7 0x28 = some sceneDesc ∧ (s.devRead 3 ⟨[], noHits⟩ (sceneDesc.f 0x10 8) 8).1 = some (range1 4095 4095) ∧
      rangesOf 3 1 (range1 4095 4095) = some [(4095, 4095)] ∧ sceneDesc.f 0x1A 2 ≠ 0xFFFF ∧ 1 ≤ s.freeScene.length ∧ s.hasFree 1) ∧
    ({ awake with pea := { awake.pea with spare := [] } } : State).hasFree 1 = false ∧
    ((session 3 [meterDesc 0 4]).next 3 7 0x30 = some (meterDesc 0 4) ∧ (meterDesc 0 4).f 0x18 1 = 0) ∧
    (let s := session 3 [meterDesc 1 4]
     s.next 3 7 0x30 = some (meterDesc 1 4) ∧ (meterDesc 1 4).f 0x18 1 ≠ 0 ∧ s.rwBit (rCqCfg 3 7) 29 = false) ∧
    (let s := fed (metered (session 3 [meterDesc 1 4])) (range1 3071 3071)
     s.next 3 7 0x30 = some (meterDesc 1 4) ∧ s.rwBit (rCqCfg 3 7) 29 ∧ (s.devRead 3 ⟨[], noHits⟩ ((meterDesc 1 4).f 0x10 8) 8).1 = some (range1 3071 3071) ∧
      rangesOf 3 1 (range1 3071 3071) = some [(3071, 3071)] ∧ rateOver [(1, 4)] = false ∧ rateOver [(3072, 4)] ∧ s.otherSubs 3 7 = []) ∧
    (let s := subbed 15
     s.up secHost ∧ ((s.hst 3).subs.getD 7 none).isSome ∧ (s.tim.nsc / 12 - 3 + 1) % 4 = 0 ∧ s.cqEn 3 7 ∧ s.cqUsed 3 7 + 1 ≤ s.cqSize 3 7) ∧
    (subbed 16).cqSize 3 7 < (subbed 16).cqUsed 3 7 + 1 := by decide +kernel

/-- The smallest lane image: 16 bytes of program. -/
def image : List Byte :=
  natLe 4 0x4C524D49 ++ natLe 2 1 ++ [0, 0] ++ natLe 4 1 ++ natLe 4 0 ++ natLe 4 16 ++ natLe 4 0 ++ List.replicate (144 - 24) 0
def loadDesc (n : Nat) : Desc := fetchedDesc 0x38 (pool 0x4000 ++ [63, 0, 0, 0] ++ natLe 4 n)
/-- A LANE_CTRL for lane 63: operation, words from 0x12 on, then from 0x20 on. -/
def ctrlDesc (op : Nat) (a b : List Byte) : Desc := fetchedDesc 0x39 ([63, BitVec.ofNat 8 op] ++ fit 14 0 a ++ b)
def laned (x : Lane) (d : Desc) : State := (session 3 [d]).laneSet 63 x

theorem wit_LaneImagesAndControl :
    (let s := fed (laned Lane.empty (loadDesc 144)) image
     s.next 3 7 0x38 = some (loadDesc 144) ∧ s.drayUp 63 ∧ (s.lane 63).load = none ∧ (s.lane 63).busy = false ∧
      s.targetRange (poolBase + 0x4000) 144 = .pool ∧ laneImgOk (s.poolRead (poolBase + 0x4000) 144) 144 ∧ s.auditOk) ∧
    badIn (badAt (poolBase + 0x408F)).bad (poolBase + 0x4000) 144 ∧
    ((laned { Lane.empty with st := .faulted } (loadDesc 144)).lane 63).busy ∧ (loadDesc 127).f 0x1C 4 < 128 ∧
    (let s := laned Lane.empty (loadDesc 128)
     s.next 3 7 0x38 = some (loadDesc 128) ∧ laneImgOk (s.poolRead (poolBase + 0x4000) 128) 128 = false) ∧
    ({ awake with pea := { awake.pea with spare := [] } } : State).auditOk = false ∧
    (let s := awake.laneSet 63 { Lane.empty with load := some (⟨3, 7, 9⟩, image) }
     (s.lane 63).load = some (⟨3, 7, 9⟩, image) ∧ (s.lane 63).busy = false) ∧
    (let d := ctrlDesc 0 (natLe 2 1023 ++ [1, 1] ++ natLe 2 1023) []
     let s := laned { Lane.empty with st := .loaded } d
     s.next 3 7 0x39 = some d ∧ s.drayUp 63 ∧ d.f 0x11 1 = 0 ∧ (s.lane 63).st = .loaded ∧ (s.lane 63).start = none ∧
      d.f 0x12 2 + d.f 0x14 1 ≤ 1024 ∧ d.f 0x16 2 + d.f 0x15 1 ≤ 1024 ∧ s.outTaken 63 (d.f 0x16 2) (d.f 0x15 1) = false) ∧
    (let d := ctrlDesc 0 (natLe 2 1023 ++ [2, 1]) []
     (laned { Lane.empty with st := .loaded } d).next 3 7 0x39 = some d ∧ 1024 < d.f 0x12 2 + d.f 0x14 1) ∧
    (let d := ctrlDesc 1 [] []
     let s := laned { Lane.empty with st := .halted } d
     s.next 3 7 0x39 = some d ∧ d.f 0x11 1 = 1 ∧ (s.lane 63).st = .halted ∧ (s.lane 63).stop = none ∧
      ((laned Lane.empty d).lane 63).st ≠ .halted) ∧
    (let d := ctrlDesc 2 [] (pool 0x4000)
     (∀ full : Bool, let s := laned { Lane.empty with st := .running, full := full } d
      s.next 3 7 0x39 = some d ∧ d.f 0x11 1 = 2 ∧ (s.lane 63).st = .running ∧ (s.lane 63).full = full ∧
        (s.devRead 3 ⟨[], noHits⟩ (d.f 0x20 8) 64).1.isSome) ∧ ((laned Lane.empty d).lane 63).st ≠ .running) ∧
    (let d := ctrlDesc 3 (List.replicate 7 0 ++ [16]) (List.replicate 8 0 ++ List.replicate 16 255)
     let s := laned { Lane.empty with st := .running, libid := 2 } d
     let zs := ((d.bytes.drop 0x28).take (d.f 0x19 1)).map (·.toNat)
     s.next 3 7 0x39 = some d ∧ d.f 0x11 1 = 3 ∧ zs = List.replicate 16 255 ∧ (s.lane 63).zonesTo = none ∧ s.micsOf zs ≤ 32 ∧
      zs.any (s.zoneTaken 63) = false ∧ ((laned { Lane.empty with st := .running, libid := 1 } d).lane 63).libid ≠ 2) := by decide +kernel

/-- Records: an AAF stream of nch channels from base on, by port 3 (41: the most without jumbo frames). -/
def streamRec (nch base : Nat) : List Byte := [0, 0, 0, 3, BitVec.ofNat 8 nch, 0] ++ natLe 2 base ++ List.replicate 30 0 ++ [1#8] ++ List.replicate 9 0 ++ natLe 2 0xFFFF ++ List.replicate 14 0
def openDesc (dir : Byte) : Desc := fetchedDesc 0x40 (pool 0x4000 ++ natLe 2 64 ++ [dir, 255])
def closeDesc (dir : Byte) : Desc := fetchedDesc 0x41 (List.replicate 10 0 ++ [dir, 255])
def peerDesc : Desc := fetchedDesc 0x42 (pool 0x4000 ++ natLe 2 16383 ++ natLe 2 1)
def txDesc (n port : Nat) : Desc := fetchedDesc 0x43 (pool 0x4000 ++ natLe 2 n ++ [BitVec.ofNat 8 port, 0, 0, 7])
def rxDesc : Desc := fetchedDesc 0x44 (pool 0x4000 ++ natLe 2 1568 ++ [3])
/-- The same with TTL 0, out of its range. -/
def streamTtl0 : List Byte := (streamRec 41 983).set 0x26 0
def talking : Talker := ⟨255, streamRec 1 0, true, none, none, [], 0, [], 0⟩

theorem wit_StreamsPeersAndFrames :
    (∀ dir ∈ [(0 : Byte), 1],
      let s := fed (session 3 [openDesc dir]) (streamRec 41 983)
      s.up secStr ∧ s.next 3 7 0x40 = some (openDesc dir) ∧ (s.devRead 3 ⟨[], noHits⟩ ((openDesc dir).f 0x10 8) 64).1 = some (streamRec 41 983) ∧
        (openDesc dir).f 0x1A 1 ≤ 1 ∧ s.streamCheck (dir = 1) 255 (streamRec 41 983) = stOk ∧
        s.streamCheck (dir = 1) 255 (streamRec 41 984) ≠ stOk ∧
        s.streamCheck (dir = 1) 255 streamTtl0 ≠ stOk) ∧
    (let s := session 3 [closeDesc 0]
     let s : State := { s with net := { s.net with talkers := [talking] } }
     s.up secStr ∧ s.next 3 7 0x41 = some (closeDesc 0) ∧ (closeDesc 0).f 0x1A 1 = 0 ∧
      s.net.talkers.any (fun t => t.idx = (closeDesc 0).f 0x1B 1 && t.closing.isNone)) ∧
    ((session 3 [closeDesc 1]).next 3 7 0x41 = some (closeDesc 1) ∧ (closeDesc 1).f 0x1A 1 = 1) ∧
    (let s := session 3 [peerDesc]
     s.up secStr ∧ s.journals = false ∧ s.next 3 7 0x42 = some peerDesc ∧ s.peerOn = false ∧ (s.rwSet rPeerBase 0x40010000#32).peerOn ∧
      (s.devRead 3 ⟨[], noHits⟩ (peerDesc.f 0x10 8) 64).1.isSome) ∧
    (∀ n ∈ [60, 1514],
      let s := session 3 [txDesc n 3]
      let s := (s.rwSet (rPort 3) 0x80000000#32).nportSet 3 { Port.reset with link := true }
      s.next 3 7 0x43 = some (txDesc n 3) ∧ s.portFieldOk 3 ∧ n ≤ s.txMax 3 false ∧ (s.devRead 3 ⟨[], noHits⟩ ((txDesc n 3).f 0x10 8) n).1.isSome ∧
        vlanTag ((s.devRead 3 ⟨[], noHits⟩ ((txDesc n 3).f 0x10 8) n).1.getD []) = false ∧ s.portUp 3 ∧ (txDesc n 3).f 0x1D 1 ≤ 7 ∧ s.net.ports.length = 4) ∧
    ((session 3 [txDesc 60 4]).next 3 7 0x43 = some (txDesc 60 4) ∧ (session 3 []).portFieldOk 4 = false ∧ (session 3 []).txMax 3 true < 1519 ∧
      (session 3 [txDesc 59 3]).next 3 7 0x43 = some (txDesc 59 3)) ∧
    (∀ k ∈ [255, 256],
      let s := session 3 [rxDesc]
      let s := s.hstPut 3 { s.hst 3 with rxq := (s.hst 3).rxq.set 3 (List.replicate k ⟨⟨3, 7, 8⟩, 0, 0⟩) }
      s.next 3 7 0x44 = some rxDesc ∧ rxDesc.f 0x1A 1 ≤ 3 ∧ (s.hst 3).rxq.length = 4 ∧ ((s.hst 3).rxq.getD 3 []).length = k) := by
  decide +kernel

def keyDesc (k n : Nat) : Desc := fetchedDesc 0x50 ([BitVec.ofNat 8 k, BitVec.ofNat 8 n, 0, 0] ++ natLe 4 5 ++ List.replicate 8 0 ++ List.replicate n 1)
def logDesc (n : Nat) : Desc := fetchedDesc 0x51 (natLe 8 0 ++ natLe 4 65535 ++ natLe 4 n ++ pool 0x4000)

theorem wit_KeysLogAndTime :
    (∀ p ∈ [(0x00, 16), (0x83, 32), (0x00, 0), (0xC4, 0)],
      let s := session 3 [keyDesc p.1 p.2]
      s.next 3 7 0x50 = some (keyDesc p.1 p.2) ∧ keyLenOk p.1 p.2 ∧ (p.2 = 0 ∨ s.keyRefused p.1 (List.replicate p.2 1) = false) ∧ s.auditOk) ∧
    (∀ p ∈ [(0xC0, 16), (0xC0, 32)],
      let s := session 3 [keyDesc p.1 p.2]
      s.next 3 7 0x50 = some (keyDesc p.1 p.2) ∧ (keyLenOk p.1 p.2 = false ∨ (p.2 ≠ 0 ∧ (s.rwSet rSecCfg 0#32).keyRefused p.1 (List.replicate p.2 1)))) ∧
    (let s : State := { session 3 [keyDesc 0 0] with pea := { awake.pea with spare := [] } }
     s.next 3 7 0x50 = some (keyDesc 0 0) ∧ keyLenOk 0 0 ∧ s.auditOk = false ∧ keyVolatile 0 ∧ keyVolatile 0xC0 = false) ∧
    (∀ n ∈ [15, 16], (session 3 [logDesc n]).next 3 7 0x51 = some (logDesc n) ∧ (logDesc n).f 0x1C 4 = n ∧
      (session 3 [logDesc n]).targetRange ((logDesc n).f 0x20 8) n = .pool) ∧
    (let d := fetchedDesc 0x52 (pool 0x4000)
     (session 3 [d]).next 3 7 0x52 = some d ∧ (session 3 [d]).targetRange (d.f 0x10 8) 64 = .pool) := by decide +kernel

/-! ### Witnesses: links, SPI ports, the matrix -/

/-- Host h with a link, or with other fields. -/
def withHost (s : State) (h : Fin 4) (f : HostPort → HostPort) : State := s.hostSet h (f (s.host h))

theorem wit_HostPortsComeAndGo :
    (∀ h ∈ [(0 : Fin 4), 1], let s := withHost (ringed h 7) h fun x => { x with link := true }
      s.linkOf h ∧ s.up secHost ∧ s.hstEn h ∧ s.masterOn h) ∧
    (let s := (ringed 1 7).rwSet (rHst 1) 0x80010000#32
     s.up secHost ∧ s.hstEn 1 ∧ s.rwBits (rHst 1) 16 10 ≠ 0 ∧ s.hstEn 3 = false) ∧
    (awake.up secHost ∧ awake.rwBits (rHst 3) 16 10 = 0 ∧ awake.ctl.pcie2 ∧ awake.linkOf 1 = false) ∧
    ({ awake with ctl := { awake.ctl with pcie2 := false } } : State).ctl.pcie2 = false ∧
    (let r : InbReq := ⟨1, 0x7FFFFF, 1, none, noHits⟩
     r.bar = 1 ∧ r.hits = noHits ∧ 1 ≤ r.len ∧ r.off % 512 + r.len ≤ 512 ∧ r.off + r.len ≤ 0x800000 ∧
      ([7#8] : List Byte).length = r.len) := by decide +kernel

/-- The SPI port 1 with fields as given. -/
def spi1 (f : HostPort → HostPort) : State := withHost awake 3 f

theorem wit_SpiReadTransactions :
    awake.awake ∧ awake.cap 0 = 0 ∧ State.reset.awake = false ∧ awake.windowOn 3 ∧ (withHost awake 1 fun x => { x with link := true }).windowOn 1 ∧
    ((awake.host 3).wbuf = [] ∧ awake.masterOn 3 ∧ State.reset.masterOn 3 = false ∧ awake.targetRange (poolBase + 0x7FFFC0) 64 = .pool ∧
      awake.pathA 3 (poolBase + 0x7FFFC0) 64 ∧ awake.targetRange (poolBase + 0x7FFFC1) 64 = .none ∧ awake.mem.busy.length = 2) ∧
    (let s : State := { awake with mem := { awake.mem with owner := List.replicate 32 2 } }
     s.masterOn 3 ∧ s.targetRange poolBase 64 = .pool ∧ s.pathA 3 poolBase 64 = false ∧ poolBase / 8 ≤ (poolBase + 63) / 8 ∧ poolBase + 63 < poolBase + 64 ∧
      badIn (badAt (poolBase + 63)).bad poolBase 64) := by decide +kernel

theorem wit_SpiWritesModesAndResets :
    (awake.up secHost ∧ (awake.host 3).wbuf.length < 4) ∧ 4 ≤ ((spi1 fun x => { x with wbuf := List.replicate 4 (0, [0, 0, 0, 0], noHits) }).host 3).wbuf.length ∧
    ((awake.host 3).wbuf = [] ∧ (awake.host 3).armed ≠ 2 ∧ ((spi1 fun x => { x with armed := 2 }).host 3).armed = 2) ∧
    ((0x00#8).toNat ∉ spiOpcodes ∧ (0x9F#8).toNat ∈ spiOpcodes ∧ (awake.host 3).dtr = false ∧
      ((spi1 fun x => { x with dtr := true }).host 3).dtr) := by decide +kernel

/-- A lone head of master m at a point. -/
def headOf (m : Fin 14) (a : Nat) (op : MtxOp) : MtxHead := ⟨m, false, false, 5, BitVec.ofNat 40 a, op⟩

theorem wit_MatrixServesTheHeadItPicks :
    (pick 0 13 9 true [headOf 13 0 (.read 1), headOf 0 0 (.read 1)]).isSome ∧
    (awake.mem.heads = List.replicate 8 [] ∧ (headOf 0 0 (.read 1)).master = 0 ∧
      ∀ m ∈ [(4 : Fin 14), 10, 12, 13], awake.mayIssueTx m ∧ awake.withheld m = false) ∧
    (∀ x ∈ [headOf 12 0x1FF (.read 1)], awake.masterOn x.master ∧ mayReach x.master (awake.targetOf x.addr.toNat) ∧
      awake.pointOf x.master x.addr.toNat (opLen x.op) = some 0 ∧ awake.targetRange x.addr.toNat 1 = .bulk) ∧
    (let x := headOf 4 (poolBase + 0x7FFFFF) (.write [7])
     awake.masterOn x.master ∧ mayReach x.master (awake.targetOf x.addr.toNat) ∧
      awake.pointOf x.master x.addr.toNat (opLen x.op) = some (2 : Fin 8).val ∧ awake.targetRange x.addr.toNat 1 = .pool) ∧
    (∀ m ∈ [(4 : Fin 14), 10, 13], let x := headOf m (poolBase + 0x7FFFF8) (.swap 8 5)
     ({ awake with sec := { awake.sec with scope := 2 } } : State).masterOn x.master ∧ mayReach x.master .pool ∧ awake.pointOf x.master x.addr.toNat (opLen x.op) = some (2 : Fin 8).val ∧
      awake.targetRange x.addr.toNat 8 = .pool ∧ x.addr.toNat % 8 = 0) ∧
    (awake.targetOf (poolBase + 0x800000) = .none ∧ mayReach 4 .none) ∧ awake.up secMem ∧ awake.mem.trained ∧ (awake.rwSet (wMem + 0x0800) 0#32).rwBit (wMem + 0x0800) 8 = false ∧
    (let s := awake.rwSet (wMem + 0x0800) 0x100#32
     s.up secMem ∧ s.mem.trained ∧ s.rwBit (wMem + 0x0800) 8 ∧ s.targetRange 0 8 = .bulk) := by decide +kernel

/-! ### Witnesses: network, references, serial audio slaves -/

/-- Port 3 enabled, gPTP and peer delay on, with a link. -/
def netUp (f : Port → Port) : State := (awake.rwSet (rPort 3) 0x86000000#32).nportSet 3 (f { Port.reset with link := true })

/-- A plain frame of n bytes of an EtherType; a PRP frame of port 0 with sequence number 5. -/
def plain (n et : Nat) : List Byte := List.replicate 12 2 ++ natBe 2 et ++ List.replicate (n - 14) 0
def redundant : List Byte := addRct 0 5 (plain 60 0x1234)
def hostFrame : TxFrame := ⟨11, plain 60 0x1234, none, none, .host ⟨1, 7, 9⟩ none⟩
/-- Both E0 and E1 up in PRP mode, sequence number 5 of the source already seen. -/
def prpUp : State :=
  let s := ((awake.rwSet (rPort 0) 0x80000000#32).rwSet (rPort 1) 0x80000000#32).rwSet (wStr + 0x0100) 0x80000000#32
  { s with net := { s.net with ports := [{ Port.reset with link := true }, { Port.reset with link := true }, Port.reset, Port.reset]
                               dups := [[⟨beNat (List.replicate 6 2), [5]⟩], []] } }
/-- Rule 15 steers EtherType 0x1234 to queue 3 of host 3, which has a buffer in pool SRAM. -/
def steered : State :=
  let s := (((netUp id).rwSet (rPort 3) 0x80000000#32).rwSet (wStr + 0x0140 + 60) 0xBC001234#32).rwSet (rHst 3) 0x83000000#32
  withHost s 3 fun x => { x with rxq := [[], [], [], [⟨⟨3, 7, 9⟩, poolBase, 1568⟩]] }

theorem wit_LinksAndFrames :
    (awake.up secStr ∧ awake.net.ports.length = 4 ∧ awake.portEn 3 = false ∧ awake.portUp 3 = false) ∧
    ((netUp id).portEn 3 ∧ (netUp id).portUp 3 ∧ (false && (netUp id).portEn 3) ≠ ((netUp id).nport 3).link) ∧
    (let s := netUp fun x => { x with txq := [hostFrame] }
     s.portUp 3 ∧ (s.nport 3).txq = [hostFrame] ∧ hostFrame.q < 12 ∧ (s.nport 0).txq = [] ∧ (s.nport 1).txq = [] ∧ (s.nport 2).txq = []) ∧
    (let f : RxFrame := ⟨redundant, true, 0⟩
     prpUp.portUp 1 ∧ beNat ((f.bytes.drop 12).take 2) ≠ 0x88F7 ∧ prpUp.prpOn (1 / 2) ∧ prpUp.net.dups.length = 2 ∧ rctOf f.bytes = some 5 ∧
      (prpUp.net.dups.getD (1 / 2) []).find? (fun e => e.src = beNat ((f.bytes.drop 6).take 6)) = some ⟨beNat (List.replicate 6 2), [5]⟩) ∧
    (let f := plain 1514 0x1234
     let s := (netUp id).rwSet (rPort 3) 0x80000000#32
     s.portUp 3 ∧ s.prpOn (3 / 2) = false ∧ s.rwBit (rPort 3) 24 = false ∧ s.rwBit rHitCfg 31 = false ∧ etherOf f = (none, 0x1234, 14) ∧
      f.length ≤ 14 + s.clientMax 3 ∧ s.steerRule (etherOf f) = none) ∧
    (let f := plain 1514 0x1234
     steered.portUp 3 ∧ steered.steerRule (etherOf f) = some 0xBC001234#32 ∧ wbits 0xBC001234#32 28 2 = 3 ∧ wbits 0xBC001234#32 26 2 = 3 ∧
      steered.hstEn 3 ∧ (steered.hst 3).rxq.length = 4 ∧ f.length + 32 ≤ 1568 ∧ (steered.hst 3).descs = [] ∧
      steered.targetRange poolBase (f.length + 32) = .pool) ∧
    (prpUp.up secStr ∧ prpUp.net.prpSeq.length = 2 ∧ prpUp.prpOn 0 ∧ prpUp.prpOn 1 = false) := by decide +kernel

/-- A CRF listener of index 255 that runs. -/
def crfL (l : List Int) : Listener := ⟨255, [2#8] ++ List.replicate 63 0, false, true, 2, none, none, [], [], none, 4800, 0, l⟩
def listening (l : List Int) : State := { awake with net := { awake.net with listeners := [crfL l] } }

theorem wit_GptpAndListenerEvents :
    (let s := (netUp id).rwSet (wStr + 0x010C) 0x00010100#32
     s.net.ports.length = 4 ∧ s.net.doms.length = 2 ∧ s.ptpUp 3 ∧ s.rwBit (rPort 3) 25 ∧ s.isGm 1 ∧ s.up secStr ∧ s.tim.refs.length = 9) ∧
    (awake.ptpUp 3 = false ∧ (netUp id).isGm 1 = false) ∧
    (let s := listening [5, 7]
     s.up secStr ∧ s.net.listeners = [crfL [5, 7]] ∧ Rec.fmt (crfL [5, 7]).recd = 2 ∧ s.refGone 8 = false) ∧ (crfL []).crfs = [] := by decide +kernel

/-- Reference r enabled with quality 0x80 and a threshold of 1 ppm, in a state of R327. -/
def refd (r : Fin 9) (f : Ref → Ref) : State :=
  let s := awake.rwSet (rRefCfg r) 0x80800640#32
  s.refSet r (f { s.ref r with st := 4, qual := 0x80, seen := true, beyond := false })

theorem wit_ReferencesQualifyAndRecover :
    (awake.tim.refs.length = 9 ∧ awake.measured 7 = false ∧ (refd 8 id).measured 8 = false) ∧
    ((refd 7 id).measured 7 ∧ (refd 7 id).refGone 7) ∧
    (let s := (refd 3 id).rwSet (rRefCfg 3) 0x80800FF0#32
     let m : RefMeas := ⟨true, 25500000, 0⟩
     s.measured 3 ∧ m.present ∧ s.refGone 3 = false ∧ s.refQual 3 ≠ 0 ∧ s.xinModel = 0 ∧ s.refThr 3 = 25500000 ∧ (m.fofs.natAbs : Int) ≤ s.refThr 3 ∧
      ¬ ((25500001 : Int) ≤ s.refThr 3) ∧ (refd 3 fun x => { x with st := 2 }).refThr 3 = 10000000) ∧
    (let s := refd 0 fun x => { x with qual := 0, st := 1 }
     s.measured 0 ∧ s.refQual 0 = 0 ∧ (s.ref 0).st ≠ 2) ∧
    (let s := (refd 3 id).rwSet (rRefCfg 3) 0x80000640#32
     s.measured 3 ∧ s.refGone 3 = false ∧ s.refQual 3 = 0) ∧
    (let s := refd 7 fun x => { x with beyond := true }
     s.measured 7 ∧ (s.ref 7).beyond ∧ (s.ref 7).st ≠ 2) ∧
    (let s := refd 7 id
     s.measured 7 ∧ (s.ref 7).beyond = false ∧ (s.ref 7).st ≠ 3) ∧
    (let s := refd 3 fun x => { x with st := 3, fofs := 5000001 }
     s.measured 3 ∧ (s.ref 3).st = 3 ∧ (s.ref 3).beyond = false ∧ s.refQual 3 ≠ 0 ∧ s.refGone 3 = false ∧ s.refThr 3 / 2 < ((s.ref 3).fofs.natAbs : Int)) ∧
    (let s := (refd 3 id).rwSet (rRefCfg 3) 0x80800FF0#32
     let s : State := { s with tim := { s.tim with sel := 3 } }
     let m : RefMeas := ⟨true, 0, 100000000⟩
     s.measured 3 ∧ s.refGone 3 = false ∧ s.phLim < ((((s.begin.measure 3 m).ref 3).ofs - (s.ref 3).ofs).natAbs : Int) ∧ s.tim.sel = 3 ∧
      (m.fofs.natAbs : Int) ≤ s.refThr 3 ∧ (s.ref 3).seen ∧ (s.ref 3).beyond = false ∧ (s.ref 3).st = 4 ∧ s.refQual 3 ≠ 0) ∧
    (let s := (refd 3 fun x => { x with beyond := true, st := 5 }).rwSet (rRefCfg 3) 0x80800FF0#32
     s.phLim < ((((s.begin.measure 3 ⟨true, 0, 100000000⟩).ref 3).ofs - s.tim.boNs).natAbs : Int) ∧ (s.ref 3).beyond ∧ (s.ref 3).st = 5 ∧ (s.ref 3).st ≠ 3) ∧
    (let s := refd 3 fun x => { x with st := 3 }
     s.measured 3 ∧ (⟨false, 0, 0⟩ : RefMeas).present = false ∧ s.refGone 3 = false ∧ (s.ref 3).st = 3 ∧ (s.ref 3).beyond = false ∧
      s.refQual 3 ≠ 0 ∧ ¬ s.refThr 3 / 2 < ((s.ref 3).fofs.natAbs : Int)) := by decide +kernel

theorem wit_SelectionFollowsTheBestReference :
    ((refd 7 id).best = some 7 ∧ (refd 7 id).up secTime ∧ (refd 7 id).tim.nsc % 480 = 0 ∧ (refd 7 id).rwBit rClkCtl 31 = false ∧
      (refd 7 id).tim.tst = 0 ∧ (refd 7 id).tim.sel = 15 ∧ (refd 7 id).tim.switching = false ∧
      ∀ r < 8, 2 ≤ r → (refd 7 id).refEn r → (refd 7 id).refQual r = 0 → ((refd 7 id).ref r).st = 2) ∧
    (let s := (refd 7 fun x => { x with st := 3 }).rwSet (rRefCfg 7) 0x80000000#32
     s.up secTime ∧ s.tim.nsc % 480 = 0 ∧ s.tim.refs.length = 9 ∧ s.refEn 7 ∧ s.refQual 7 = 0 ∧ (s.ref 7).st = 3) ∧
    (State.reset.up secTime = false ∧ ({ awake with tim := { awake.tim with nsc := 481 } } : State).tim.nsc % 480 ≠ 0) ∧
    (let s := (refd 7 id).rwSet rClkCtl 0x87000000#32
     s.rwBit rClkCtl 31 ∧ s.rwBits rClkCtl 24 4 = 7 ∧ s.eligible 7 ∧ s.tim.sel ≠ 7) := by decide +kernel

theorem wit_SelectionFollowsTheBestReference_events :
    (let s : State := { refd 7 id with tim := { (refd 7 id).tim with sel := 7, tst := 2, lrn := (1, -4050, -4050) } }
     s.tim.sel ≤ 7 ∧ s.eligible s.tim.sel ∧ (s.rwSet rClkCtl 0#32).rwBit rClkCtl 23 = false ∧ s.learnDue ∧ s.tim.mins < 65535 * 60 ∧
      -4050 ≤ rdiv s.tim.lrn.2.2 s.tim.lrn.1 ∧ rdiv s.tim.lrn.2.2 s.tim.lrn.1 < 12550 ∧ s.removing = false ∧ s.tim.steady ∧ s.tim.steer.natAbs ≤ 200000000 ∧ s.inPhase) ∧
    (let s : State := { awake.rwSet (rRefCfg 8) 0#32 with tim := { awake.tim with hoValid := true } }
     s.best = none ∧ s.tim.hoValid ∧ s.tim.tst ≠ 3 ∧ s.rwBit rClkCtl 31 = false ∧ s.tim.switching = false) ∧
    (awake.learnDue = false ∧ awake.stokerRuns ∧ awake.up secTime ∧ awake.hasFree 3 ∧ ({ awake with pea := { awake.pea with spare := [] } } : State).hasFree 3 = false ∧ State.reset.stokerRuns = false) := by decide +kernel

/-- A RUNNING slave port 15 with four frames in each buffer. -/
def slaving (f : Tdm → Tdm) : State :=
  tdmAt 15 slaveCfg (f { Tdm.reset with st := 3, rxBuf := List.replicate 4 [], txBuf := List.replicate 4 [] })

theorem wit_SlavePortsFollowTheirClock :
    (∀ n ∈ [2, 6], let s := slaving fun p => { p with rxBuf := List.replicate (n + 1) [], txBuf := List.replicate n [], tick := 11 }
     s.up secStr ∧ cfgSlave (s.tdmCfg 15) ∧ (s.port 15).st = 3 ∧ 2 ≤ (s.port 15).rxBuf.length ∧ (s.port 15).rxBuf.length ≤ 7 ∧
      1 ≤ (s.port 15).txBuf.length ∧ (s.port 15).txBuf.length ≤ 6 ∧ (s.port 15).tick < domSpb (cfgFrate (s.tdmCfg 15)) ∧
      s.framePos ⟨[], true, true, 12⟩ (domDiv (cfgFrate (s.tdmCfg 15))) = (s.port 15).tick + 1) ∧
    (let s := tdmAt 15 8#32 { Tdm.reset with st := 3, swp := true }
     cfgSlave (s.tdmCfg 15) = false ∧ (s.port 15).st = 3 ∧ (s.port 15).swp) ∧
    ((slaving id).port 15).swp = false ∧ ((slaving fun p => { p with swp := true }).port 15).swp ∧
    (cfgSlave ((tdmAt 15 8#32 Tdm.reset).tdmCfg 15) = false ∧ ((slaving fun p => { p with st := 1 }).port 15).st < 2 ∧
      10000 < (10001 : Int).natAbs) := by decide +kernel

/-! ### Witnesses: twin operation -/

/-- HIT_CFG of a home unit with HANDOVER by itself (REVERT) and RESUME; of its partner. -/
abbrev homeCfg : Word := 0xF00088B5#32
abbrev awayCfg : Word := 0xB00088B5#32
/-- A unit with twin operation enabled and fields as given. -/
def twin (cfg : Word) (f : Twin → Twin) : State :=
  let s := mixing.rwSet rHitCfg cfg
  { s with twin := f { Twin.reset with st := 1 } }
def paired (st : Nat) (f : Twin → Twin) : State := twin homeCfg fun t => f { t with st := st, paired := true, ver := 2 }
/-- Pair 0 in PRP mode, a peer table whose entry 0 is VALID, a checkpoint store of its own. -/
def mayTwin : State :=
  let s := ((mixing.rwSet (wStr + 0x0100) 0x80000000#32).rwSet (wStr + 0x0108) 0x40010000#32).rwSet (wStr + 0x404C) 0x18000#32
  { s with net := { s.net with peers := [(0, List.replicate 6 0 ++ [1] ++ List.replicate 57 0)] } }

theorem wit_TwinRolesAndDrive :
    (mayTwin.reaches stk rHitCfg ∧ mayTwin.hitEn = false ∧ homeCfg.getLsbD 31 ∧ mayTwin.hitMayEnable (homeCfg &&& 0xF800FFFF#32) ∧ mayTwin.auditOk) ∧
    (mixing.reaches stk rHitCfg ∧ mixing.hitEn = false ∧ mixing.hitMayEnable (homeCfg &&& 0xF800FFFF#32) = false) ∧
    (let s := twin homeCfg id
     s.reaches stk rHitCfg ∧ s.hitEn ∧ (0#32).getLsbD 31 = false ∧ s.auditOk ∧ s.twin.paired = false ∧ s.hitHome ∧ s.twin.st = 1) ∧
    (paired 3 id).twin.paired ∧ (0#8).toNat % 4 = 0 ∧ (3#8).toNat % 4 ≠ 0 ∧ (2#3).toNat = 2 ∧ (5#3).toNat ≠ 2 ∧ (5#3).toNat ≠ 3 ∧
    (∀ home : Bool, let s := twin (if home then homeCfg else awayCfg) fun t => { t with st := 2 }
     s.hitEn ∧ s.twin.st = 2 ∧ s.hitHome = home) ∧
    (let s := paired 3 fun t => { t with rseq := 4294967295 }
     s.twin.st = 3 ∧ s.twin.paired ∧ s.tim.nsc % 48 = 0 ∧ s.twin.rseq = (4294967295#32).toNat ∧ s.twin.acked = false) ∧
    ((paired 4 id).twin.st = 4 ∧ (paired 4 id).twin.paired ∧ (twin homeCfg id).twin.st ≠ 4) ∧
    (let s := paired 3 fun t => { t with lease := 4812 }
     s.twin.st = 3 ∧ s.twin.drive = true ∧ s.twin.free = false ∧ s.twin.lease ≤ s.tim.nsc + 12) ∧
    ¬(paired 3 fun t => { t with lease := 4813 }).twin.lease ≤ mixing.tim.nsc + 12 ∧
    ((twin homeCfg id).hitEn ∧ (twin homeCfg id).twin.paired = false ∧ (paired 3 fun t => { t with free := true }).twin.free ∧
      (twin homeCfg fun t => { t with st := 5 }).twin.st = 5 ∧ (twin homeCfg fun t => { t with st := 5 }).hitEn) ∧
    (let s : State := { mayTwin with twin := { Twin.reset with st := 1 } }.rwSet rHitCfg homeCfg
     s.hitEn ∧ (s.peer (s.rwBits (wStr + 0x4008) 0 14)).isSome ∧ ∀ e, s.peer (s.rwBits (wStr + 0x4008) 0 14) = some e → 6 ≤ e.length) := by decide +kernel

theorem wit_GiveUpTakeoverAndHandover :
    ((7 : Fin 8) ≠ 0 ∧ (paired 3 id).hitEn ∧ mixing.hitEn = false ∧ (paired 3 fun t => { t with cready := true }).twin.cready) ∧
    (mixing.up secStr ∧ wbits (1#32) 0 3 = 1 ∧ wbits (3#32) 0 3 ≠ 1 ∧ wbits (3#32) 0 3 ≠ 2 ∧ wbits (3#32) 0 3 ≠ 4 ∧ wbits (4#32) 0 3 = 4 ∧
      wbits (2#32) 0 3 = 2) ∧
    (let s := paired 4 fun t => { t with sync := 2 }
     s.up secStr ∧ s.twin.st = 4 ∧ s.twin.paired ∧ s.twin.cfgmm = false ∧ s.hitHome ∧ s.twin.hand = none ∧ s.rwBit rHitCfg 29 ∧ s.ready) ∧
    ((twin 0xC00088B5#32 id).rwBit rHitCfg 29 = false ∧ (paired 4 id).ready = false) ∧
    (let s := paired 3 fun t => { t with cready := true, due := true }
     s.twin.st = 3 ∧ s.twin.cready = true ∧ s.twin.due = true) ∧
    (∀ g ∈ [4775, 4776], decide ((BitVec.ofNat 64 g).toNat + 36 < (paired 4 id).tim.nsc + 12) = decide (g = 4775)) ∧
    (∀ a ∈ [4572, 4573], let s := paired 4 fun t => { t with ackAt := some a }
     s.twin.ackAt = some a ∧ s.twin.st = 4 ∧ s.twin.paired ∧ (a + 240 ≤ s.tim.nsc + 12 ↔ a = 4572)) ∧ (paired 4 id).twin.ackAt = none ∧
    ((paired 3 id).tim.nsc + 60 ≤ (4860#64).toNat ∧ (4847#64).toNat < (paired 3 id).tim.nsc + 48) ∧
    (∀ a : Bool, let s := paired 4 fun t => { t with hand := some (4896, a) }
     s.twin.hand = some ((4896#64).toNat, a) ∧ s.twin.st = 4 ∧ ∃ g b, s.twin.hand = some (g, b) ∧ g ≠ (4944#64).toNat) := by
  refine ⟨by decide +kernel, by decide +kernel, by decide +kernel, by decide +kernel, by decide +kernel, by decide +kernel, by decide +kernel,
    by decide +kernel, by decide +kernel, fun a => ⟨rfl, rfl, 4896, a, rfl, by decide⟩⟩

/-- A CLAIM as a standby forwards it, one that is refused, and what a standby keeps of an operation it forwarded. -/
def fwdClaim : List Byte := descBytes 0x11 7 (at1M ++ [1])
def fwdKept (csn : Option Nat) : Fwd := ⟨4294967295, ⟨3, 7, 9⟩, oneClaim, csn, none⟩

theorem wit_ForwardingJournalAndCheckpoints_fwd : ∃ o, mkOp 3 3 ⟨8, 0, fwdClaim, true, false, none⟩ (range1 3071 3071) = .ok o ∧
    (paired 3 id).twin.st = 3 ∧ (paired 3 id).twin.paired ∧ (paired 3 id).mix.act ∧
    (∀ x, ((paired 3 id).acceptStatus 3 true x { o with ring := 8, fwd := some 0, width := 48 }).1 = stOk) ∧
    (∀ x, (({ paired 3 id with mix := { (paired 3 id).mix with claims := [claim1] } } : State).acceptStatus 3 true x
      { o with ring := 8, fwd := some 0, width := 48 }).1 ≠ stOk) ∧
    ({ paired 3 id with mix := Mix.reset } : State).mix.act = false := by
  refine ⟨_, rfl, rfl, rfl, rfl, fun x => ?_, fun x => ?_, rfl⟩
  · rfl
  · intro h
    cases h

theorem wit_ForwardingJournalAndCheckpoints :
    (∀ c ∈ [none, some 5], let s := paired 4 fun t => { t with fwds := [fwdKept c], lastCsn := 5 }
     s.twin.fwds.find? (fun f => f.id = (4294967295#32).toNat) = some (fwdKept c) ∧ (fwdKept c).status = none ∧ (fwdKept c).csn = c ∧
      5 ≤ s.twin.lastCsn ∧ (fwdKept c).op.kind ≠ .readState ∧ s.twin.st ≠ 5) ∧
    (let f : Fwd := { fwdKept none with op := Op.mk0 .readState 3 7 9 0 }
     let s := paired 4 fun t => { t with fwds := [f], jbase := [.op 1 5 7 4836 [] []] }
     s.twin.fwds.find? (fun f => f.id = (4294967295#32).toNat) = some f ∧ f.op.kind = .readState ∧ s.jTarget (5#48).toNat = some 4836) ∧ (1#16) ≠ 0 ∧ (paired 4 id).twin.fwds = [] ∧
    (let s := paired 3 id
     let s : State := { s with mix := { s.mix with claims := [{ claim1 with partner := true }] } }
     s.twin.st = 3 ∧ s.claimsOf 3 true ≠ [] ∧ s.journals ∧ s.rwBits (wStr + 0x4004) 0 8 ≠ 0 ∧
      (s.rwSet (wStr + 0x4004) 0x03C01400#32).rwBits (wStr + 0x4004) 0 8 = 0 ∧ (3615 : Nat) < 3616 + s.mix.ops.length) ∧
    ((paired 3 id).claimsOf 3 true = [] ∧ mixing.journals = false ∧ mixing.replicates = false) ∧
    (let s := paired 4 fun t => { t with sealed := true, jnext := 281474976710655 }
     s.replicates ∧ s.twin.sealed ∧ s.twin.sealMsg = none ∧ s.twin.ahead = [] ∧ (281474976710655#48).toNat = s.twin.jnext ∧
      jBefore s.twin.jnext (65534#48).toNat ∧ ((65534#48).toNat + 2 ^ 48 - s.twin.jnext) % 2 ^ 48 < 65536) ∧
    (crc32 [] = (0#32).toNat ∧ crc32 [] ≠ (1#32).toNat ∧ 4096 ≤ (4096#32).toNat ∧ (4095#32).toNat < 4096) ∧
    (let s := paired 4 id
     s.replicates ∧ (3615 : Nat) < 3616 ∧ 3615 ∉ s.twin.chunks ∧ s.twin.ahead = [] ∧ s.twin.sealed = false ∧ s.twin.sealMsg = none) := by
  decide +kernel

/-! ### Witnesses: zones, all-call, lanes, units -/

/-- Zones processed; a zone record EN and SERVO with four microphones, its fields as given. -/
def zoned (f : Zone → Zone) : State :=
  let s := mixing.rwSet (wMix + 0x018C) 0x40003000#32
  { s with mix := { s.mix with zones := [f { Zone.blank 255 with img := (Mem.zero.set 0 3).set 1 4 }] } }
def servedBy (s : State) (l : Fin 64) : State := s.laneSet l { Lane.empty with st := .running, libid := 2, zones := [255] }

theorem wit_ZoneServoStates :
    mixing.zonesRun = false ∧
    (let s := zoned fun z => { z with st := .converging, conv := 200, fails := [false, false, false, true] }
     s.zonesRun ∧ ∃ y, s.zone 255 = some y ∧ y.idx = 255 ∧ y.st = .converging ∧ 200 ≤ y.conv ∧ y.mayFreeze = false ∧ 3 < Zn.nmic y.img ∧
      y.fails.getD 3 false ∧ y.fails.getD 2 false = false) ∧
    (∃ y, (zoned fun z => { z with st := .tracking, conv := 199, noMic := 4000 }).zone 255 = some y ∧ y.mayFreeze ∧ y.st ≠ .converging ∧ y.conv < 200) ∧
    (∃ y, (zoned fun z => { z with st := .frozen, frozen := 240000 }).zone 255 = some y ∧ y.st = .frozen ∧ Zn.freezeMax y.img ≤ 250 * y.frozen ∧
      250 * 239999 < Zn.freezeMax y.img) ∧
    ({ mixing with tim := { mixing.tim with nsc := 4812 } } : State).tim.nsc % 480 ≠ 0 ∧
    (let s := servedBy (zoned fun z => { z with st := .tracking }) 63
     s.tim.nsc % 480 = 0 ∧ s.zonesRun ∧ (∀ l : Fin 64, (s.lane l).zonesTo = none) ∧ (s.serverOf 255).isSome ∧
      ∃ z, s.mix.zones = [z] ∧ z.idx = 255 ∧ Zn.en z.img ∧ Zn.servo z.img ∧ z.st = .tracking ∧ z.done = false) ∧
    (let m : ZoneMeas := ⟨255, [], [], List.replicate 7 19, List.replicate 7 (-5999), false⟩
     m.zone = 255 ∧ m.missed = false ∧ -6000 < m.refLev.getD 6 (-14400) ∧ m.erle.getD 6 0 < 20) ∧
    (∃ z, (zoned fun z => { z with done := true }).mix.zones = [z] ∧ z.done) := by
  refine ⟨by decide +kernel, ⟨by decide +kernel, _, rfl, by decide +kernel⟩, ⟨_, rfl, by decide +kernel⟩, ⟨_, rfl, by decide +kernel⟩,
    by decide +kernel, ⟨by decide +kernel, by decide +kernel, by decide +kernel, by decide +kernel, _, rfl, by decide +kernel⟩, by decide +kernel,
    _, rfl, by decide +kernel⟩

theorem wit_AllCallStartsAndStops : awake.awake ∧ (1#32).getLsbD 0 ∧ (2#32).getLsbD 1 ∧ (3#32).getLsbD 0 ∧ (3#32).getLsbD 1 ∧
    (2#32).getLsbD 0 = false ∧ awake.acActive = false ∧ awake.windowOn 3 ∧ awake.reaches stk (wCtl + 0x0404) ∧
    (withHost awake 1 fun x => { x with link := true }).windowOn 1 ∧
    (∀ u : Bool, let s : State := { awake with byp := { Bypass.reset with up := u, weight := if u then 228 else 12 } }
     s.awake ∧ s.byp.turns = [] ∧ s.byp.up = u ∧ (u → 228 ≤ s.byp.weight) ∧ (u = false → s.byp.weight ≤ 12)) ∧
    (awake.reaches (.matrix 4) (wCtl + 0x0404) ∧ awake.masterOn 4 ∧ awake.byp.turns = []) ∧
    (let s : State := { awake with byp := { Bypass.reset with up := true, turns := [(12, false)] } }
     s.byp.turns ≠ [] ∧ (∀ q ∈ s.byp.turns, q.1 ≤ 12) ∧ s.byp.weight < 228) := by decide +kernel

/-- Dray 3 runs, lane 63 as given. -/
def running (f : Lane → Lane) : State :=
  let s := awake.rwSet (rDry 3 + 0x0100) 1#32
  s.laneSet 63 (f { Lane.empty with st := .running, ready := true })
/-- Register fields of a lane. -/
def onRegs (f : LRegs → LRegs) (x : Lane) : Lane := { x with r := f x.r }
/-- A 32-bit field of a bundle at pc 0 in slot 0 (the ALU). -/
def aluAt0 (w : Nat) (x : Lane) : Lane := { x with prog := Mem.zero.setN 0 (natLe 16 w) }
/-- add d15, d0, d1. -/
def addD : Nat := 2 ^ 26 + 15 * 2 ^ 22 + 0 * 2 ^ 18 + 1 * 2 ^ 14
/-- A DMA descriptor at 0x100 of data memory: from, to, bytes, flags. -/
def dmaAt (src dst n fl : Nat) (x : Lane) : Lane :=
  { x with dq := [0x100], data := Mem.zero.setN 0x100 (natLe 8 src ++ natLe 8 dst ++ natLe 4 n ++ natLe 1 fl) }

theorem wit_LanesRunBlockByBlock :
    (awake.dryOn 3 = false ∧ awake.mayIssue 63 = false ∧ (awake.lane 63).dq = []) ∧
    (let s := running id
     s.dryOn 3 ∧ (63 : Fin 64).val / 16 = (3 : Fin 4) ∧ (s.lane 63).st = .running ∧ (s.lane 63).late = false ∧ (s.lane 62).st ≠ .running ∧ s.mayIssue 63 ∧
      (s.lane 63).ready ∧ (s.lane 63).synced = false) ∧
    (let s := running fun x => { x with late := true }
     (s.lane 63).late ∧ (s.lane 63).r.srBit 2 = false ∧
      ((running fun x => onRegs (fun r => { r with sr := 4#32 }) { x with late := true }).lane 63).r.srBit 2) ∧
    (let s := running (onRegs fun r => { r with pc := 4096 })
     s.mayIssue 63 ∧ bundleExc (s.lane 63) = some exRange ∧ (s.lane 63).r.srBit 3 = false) ∧
    (let s := running (onRegs fun r => { r with pc := 4095 })
     s.mayIssue 63 ∧ (s.lane 63).r.pc < 4096 ∧ (s.lane 63).r.srBit 1 = false ∧ (s.lane 63).r.br = none ∧ (s.lane 63).r.pend = [] ∧
      bundle (s.lane 63) 4095 = 0) ∧
    (let s := running (aluAt0 addD)
     let b := bundle (s.lane 63) 0
     s.mayIssue 63 ∧ (s.lane 63).r.pend = [] ∧ b < 2 ^ 32 ∧ bits b 26 6 = 1 ∧ bit b 13 = false ∧ bits b 22 4 = 15) ∧
    (let s := running fun x => { x with exc := some (3, 4095) }
     s.dryOn 3 ∧ (s.lane 63).st = .running ∧ (s.lane 63).faulted = false ∧ (s.lane 63).exc = some (3, 4095)) ∧
    (let s := running fun x => onRegs (fun r => { r with sr := 0x30001#32 }) { x with dmaIrq := true, msgIrq := true }
     (s.lane 63).exc = none ∧ (s.lane 63).r.br = none ∧ (s.lane 63).r.srBit 0 ∧ (s.lane 63).dmaIrq ∧ (s.lane 63).r.srBit 17 ∧
      (s.lane 63).msgIrq ∧ (s.lane 63).r.srBit 16) ∧
    ((running id).lane 63).r.srBit 0 = false ∧
    (let s := running (dmaAt poolBase (2 ^ 63 + 0x1FFF8) 8 2)
     let d := (s.lane 63).data
     (s.lane 63).dq = [0x100] ∧ s.dryOn 3 ∧ d.le 0x110 4 % 8 = 0 ∧ bit (d.le 0x100 8) 63 = false ∧ bit (d.le 0x108 8) 63 ∧ d.le 0x110 4 = 8 ∧ inData (d.le 0x108 8 % 2 ^ 32) 8 ∧
      s.targetRange (d.le 0x100 8 % 2 ^ 40) 8 = .pool ∧ 0x100 + 0x15 < d.le 0x108 8 % 2 ^ 32 ∧ bit (d.get 0x114).toNat 1) ∧
    (let s := running (dmaAt poolBase (poolBase + 8) 8 0)
     bit ((s.lane 63).data.le 0x100 8) 63 = false ∧ bit ((s.lane 63).data.le 0x108 8) 63 = false) := by decide +kernel

/-- Units of kind k as given; lane 16 of Dray 3 due for test. -/
def unitsAt (k : Nat) (f : Units → Units) : State := awake.unitsSet k (f (awake.unitsOf k))
def dueLane (p : Nat) : State := awake.draySet 3 { awake.dray 3 with mig := some p }

theorem wit_SparesTakeOverAndAreTested :
    (awake.ctl.units.length = 7 ∧ State.reset.up 9 = false ∧ awake.up 9 ∧ bit (awake.unitsOf 6).retired 16 = false ∧
      awake.loadOf 6 16 = none ∧ awake.loadOf 6 15 = some 15) ∧
    (bit ((unitsAt 6 fun u => { u with retired := 65536 }).unitsOf 6).retired 16 ∧ unitCount (unitKind .strip) ≤ (17 : Fin 34)) ∧
    (awake.awake ∧ bit (awake.unitsOf (unitKind .column)).retired 33 = false ∧ (33 : Fin 34) < unitCount (unitKind .column) ∧
      awake.loadOf (unitKind .column) 33 = none ∧ awake.loadOf (unitKind .column) 31 = some 31 ∧ (unitKind .column, 31) ∉ awake.ctl.faulted) ∧
    (let s := awake.rwSet (wCtl + 0x002C) 0x80000000#32
     s.stokerRuns ∧ s.rwBit (wCtl + 0x002C) 31 ∧ s.ctl.test = none ∧ s.migrating = false ∧ s.rotNext.isSome) ∧
    (State.reset.stokerRuns = false ∧ (dueLane 15).migrating ∧ (awake.dray 3).mig = none) ∧
    (let s := dueLane 15
     (s.dray 3).mig = some 15 ∧ (s.dray 3).migN < 4000 ∧ s.loadOf 6 15 = some 15 ∧ s.spares 6 = [16] ∧ s.mayMigrate (16 * 3 + 15) ∧
      (s.laneSet 63 { Lane.empty with st := .running }).mayMigrate 63 = false) ∧
    ((awake.draySet 3 { awake.dray 3 with mig := some 15, migN := 4000 }).dray 3).migN = 4000 ∧
    (∀ p ∈ [(0, 16), (6, 16)], let s := { awake with ctl := { awake.ctl with test := some p } }
     s.ctl.test = some p ∧ p.1 < 7 ∧ s.loadOf p.1 p.2 = none) ∧ awake.ctl.test = none := by decide +kernel

/-! ### Behaviour: results worked out in the spec -/

/-- What a next state shows (false after a refusal). -/
def after (o : Host.Outcome State Fault Refusal) (p : State → Bool) : Bool :=
  match o with
  | .next t => p t
  | _ => false

/-- The hardware behind a channel (spec/00_scope.md, worked example): S1000 on engine 10, O700 and B330 on output engine 5. -/
theorem test_engines_of_entries : engineOf 1000 = 10 ∧ engineOf (2048 + 700) = 16 + 5 ∧ engineOf (1536 + 330) = 16 + 5 := by decide

/-- CRC-32 of the IEEE 802.3 polynomial, by its usual check string (R81). -/
theorem test_crc32_check : crc32 [0x31, 0x32, 0x33, 0x34, 0x35, 0x36, 0x37, 0x38, 0x39] = 0xCBF43926 := by decide +kernel

/-- Clearing CLK_STAT and MIX_LATE (spec/16_registers.md, worked example). -/
theorem test_clear_keeps_later_events :
    (Sc.mk 0x42 [(21, 0x42), (22, 0x41), (23, 0x40)]).clear 0x41 = ⟨0x42, [(21, 0x42)]⟩ ∧ (Ctr.mk 0x19 7).clear 0x17 = ⟨0x19, 2⟩ := by
  decide

/-- A rejected write (spec/16_registers.md, worked example): H1 writes MIX_ZNBASE while the Mix section runs. -/
theorem test_rejected_write_is_captured : after (exec (.registerWrite (.matrix 1) 0x5018C#20 0x10400#32) mixing) (fun t =>
    t.rw 0x5018C = mixing.rw 0x5018C && t.regWord 0x50 = 0x01804000#32 && t.regWord 0x54 = 0x5018C#32 && t.regWord 0x58 = 0x10400#32) := by
  decide +kernel

/-- A tie (spec/09_sharing.md, worked example): with the pointer at 7 master 10 comes before master 2, and the pointer moves to 11. -/
theorem test_tie_goes_to_the_next_master : after (exec (.matrixGrant 1 ⟨[headOf 2 512 (.read 4), headOf 10 512 (.read 4)], 5, [], none, noHits, none⟩)
    { awake with mem := { awake.mem with ptr := [0, 7, 0, 0, 0, 0, 0, 0] } }) (fun t => t.mem.ptr.getD 1 0 = 11) := by decide +kernel

/-- Convergent rounding on store (spec/07_drays_and_lanes.md, worked example). -/
theorem test_store_rounds_to_even : accWord (5 * 2 ^ 30) 31 = 2 ∧ accWord (7 * 2 ^ 30) 31 = 4 ∧ accWord (-5 * 2 ^ 30) 31 = -2 ∧
    accWord (2 ^ 55) 31 = 16777216 ∧ accWord (2 ^ 63) 31 = 2147483647 ∧ accSat (2 ^ 63) 31 ∧ accSat (2 ^ 55) 31 = false := by decide

/-- Five commits on one fader (spec/03_coherent_state.md, worked example): the effective targets of CSN 500, 503 and 504. -/
theorem test_effective_targets : target 2400010 false 2400120 = some (2400120, false) ∧
    target 2400095 false 2400110 = some (2400119, true) ∧ target 2400100 true 0 = some (2400124, false) := by decide

/-- Encoding an entry (spec/02_channel_table.md, worked example): the channel table at 0x00_1000_0000 holds S1000 at 0x00_1007_D000,
the crosspoint table begins at 0x00_1020_0000. -/
theorem test_table_addresses : let s := (awake.rwSet (wMix + 0x0100) 0x00010000#32).rwSet (wMix + 0x0104) 0x00010200#32
    s.entAddr 1000 = 0x1007D000 ∧ s.xpAddr 0 = 0x10200000 ∧ s.ctErr = false ∧ s.xpErr = false := by decide +kernel

/-- A crosspoint gain beyond the limit (spec/02_channel_table.md, worked example): +25.6 dB is used as +24 dB. -/
theorem test_gain_is_clamped : (XpR.flds.map fun f => f.ok (Mem.zero.putLe 4 2 0x0A00)).all id = false ∧
    (XpR.flds.map fun f => f.ok (Mem.zero.putLe 4 2 2400)).all id := by decide +kernel

/-- A direct write of four bytes is read back by a bulk memory read, and no other byte is (R54, R260). -/
theorem test_direct_write_reads_back : after (exec (.tableDirectWrite 4 0x20000000#40 [1, 2, 3, 4]) awake) (fun t =>
    t.mem.bulk.getN 0x1FFFFFFF 6 = [0, 1, 2, 3, 4, 0]) := by decide +kernel

/-- READ_ID of H2 (R248): the status byte, then the identification word with its low byte first. -/
theorem test_read_id : after (exec (.readId 0) awake) (fun t => t.out = [.spi 0 [0xA5, 0xB1, 0x00, 0x36, 0x15]]) := by decide +kernel

/-- A NOP of a ring at work completes OK in slot 0 of its completion ring (R224). -/
theorem test_nop_completes : after (exec (.nop 3 7) (session 3 [fetchedDesc 1 []])) (fun t =>
    ((t.hst 3).cqAt 0).pi = 0 && (t.hst 3).descs = [] && ((t.hst 3).cqAt 7).pi = 1 && (t.poolRead (t.cqBase 3 7) 16) = List.replicate 16 0) := by
  decide +kernel

/-- add d15, d0, d1 with 0x7FFFFFFF and 1: the sum wraps, N and V are set (R185). -/
theorem test_lane_add_overflows : after (exec (.bundleIssue 63 0) (running fun x => onRegs (fun r => { r with d := (r.d.set 0 0x7FFFFFFF#32).set 1 1#32 })
    (aluAt0 addD x))) (fun t => (t.lane 63).r.dAt 15 = 0x80000000#32 && (t.lane 63).r.srBit 8 && (t.lane 63).r.srBit 9 && !(t.lane 63).r.srBit 7) := by
  decide +kernel

/-- A start of P15 in master mode with NEXT (R354): from NSC 0 it is armed for the second boundary. -/
theorem test_tdm_start_next : after (exec (.tdmStartGo stk 5#32) (starts 15 13 Tdm.reset)) (fun t =>
    (t.port 15).st = 1 && (t.port 15).start = 24) := by decide +kernel

end Sys2Proof.Tests
end

section
/-! PROOF. The Mix watchdog and the lease of a claim (R22, R85). -/

namespace Sys2Proof.Arch

open Sys2Proof.Machine Sys2Proof.Safety


/-- The condition of MIX_WATCHDOG, in the words of R22 and R26. -/
theorem mixLate_iff (s : State) : s.mixLate = true ↔ 3 ≤ s.mix.missStrip ∨ 3 ≤ s.mix.missMix ∨
    (s.awake ∧ (s.up secMem = false ∨ s.up secTime = false)) := by
  simp [State.mixLate, or_assoc]

/-- A give-up cause in a unit with twin operation enabled: HIT_STAT and the twin's state alone change (R387). -/
theorem giveCause_of_enabled (s : State) (c : Nat) (h : s.rwBit rHitCfg 31) :
    ∃ t, t.cause = c ∧ s.giveCause c = { s.scSet rHitStat 22 with twin := t } := by
  unfold State.giveCause
  rw [if_pos h]
  exact ⟨_, rfl, rfl⟩

/-- A health fault that is no give-up cause sets its bit and does nothing else (R447). -/
theorem health_of_no_cause (s : State) (b : Nat) (h22 : b ≠ 22) (h18 : b ≠ 18) : s.health b = s.scSet rHealth b := by
  unfold State.health
  dsimp only
  rw [if_neg h22, if_neg h18]

/-- Settles O18: the watchdog's condition splits its three outcomes. -/
theorem watchdogAndLeaseEvents : Obligations.WatchdogAndLeaseEvents := by
  intro s late
  have hl : s.begin.mixLate = true ↔ late := mixLate_iff s
  have run : exec .mixWatchdog s = .next s.begin.mixDog := rfl
  rw [run, State.mixDog]
  refine ⟨fun h hc hp => ?_, fun h hc => ?_, fun h => ?_, fun csn => rfl⟩
  · have hc' : s.begin.rwBit rHitCfg 31 := hc
    obtain ⟨t, ht, hg⟩ := giveCause_of_enabled s.begin 4 hc'
    have hboth : (s.begin.rwBit rHitCfg 31 && s.begin.twin.paired) = true := by
      rw [hc', State.begin_twin, hp]; rfl
    rw [if_pos (hl.2 h), if_pos hboth, hg]
    refine ⟨_, rfl, ?_, ht, rfl⟩
    rw [State.scBit_withTwin, State.scBit_scSet, if_pos ⟨rfl, rfl⟩]
  · have hboth : ¬ (s.begin.rwBit rHitCfg 31 && s.begin.twin.paired) = true := by
      show ¬ (s.rwBit rHitCfg 31 && s.twin.paired) = true
      simp [hc]
    rw [if_pos (hl.2 h), if_neg hboth, health_of_no_cause _ 23 (by decide) (by decide)]
    rfl
  · rw [if_neg (mt hl.1 h)]
    rfl
end Sys2Proof.Arch
end

section
/-! PROOF. The release of sections (R26, R427, R433). -/

namespace Sys2Proof.Arch

open Sys2Proof.Machine Sys2Proof.Safety


/-- Bit j of the word that holds only bit i. -/
theorem getLsbD_fld_one (i j : Nat) (hi : i < 32) : (fld i 1 1).getLsbD j = decide (j = i) := by
  unfold fld
  rw [show (1 % 2 ^ 1 : Nat) = 1 from rfl, Nat.one_mul, BitVec.getLsbD_ofNat, Nat.testBit_two_pow]
  by_cases h : j = i
  · subst h; simp [hi]
  · simp [h, Ne.symm h]

/-- The hardware changes one bit of an RW word and no other. -/
theorem rwBit_rwPutBit (s : State) (off i j : Nat) (v : Bool) (hi : i < 32) :
    (s.rwPutBit off i v).rwBit off j = if j = i then v else s.rwBit off j := by
  unfold State.rwPutBit State.rwBit
  dsimp only
  rw [State.rw_rwSet, if_pos rfl]
  cases v
  · rw [if_neg Bool.false_ne_true, BitVec.getLsbD_and, BitVec.getLsbD_not, getLsbD_fld_one i j hi]
    by_cases h : j = i
    · simp [h]
    · have hw : (s.rw off).getLsbD j = true → j < 32 := BitVec.lt_of_getLsbD
      cases hb : (s.rw off).getLsbD j <;> simp_all
  · rw [if_pos rfl, BitVec.getLsbD_or, getLsbD_fld_one i j hi]
    by_cases h : j = i <;> simp [h]

/-- A section that leaves reset: INRST, the sections still to be released, its HOLD bit, and the stage as it was. -/
theorem release_ctl (s : State) (n : Nat) : (s.release n).ctl = { s.ctl with
    inrst := if bit s.ctl.inrst n then s.ctl.inrst - 2 ^ n else s.ctl.inrst
    auto := if bit s.ctl.auto n then s.ctl.auto - 2 ^ n else s.ctl.auto } := by
  unfold State.release
  dsimp only
  split <;> rfl

theorem release_regs (s : State) (n : Nat) : (s.release n).regs = (s.rwPutBit rSecRst n false).regs := by
  unfold State.release
  dsimp only
  split <;> rfl

/-- A released section is no longer held (R434). -/
theorem release_hold (s : State) (n : Nat) (hn : n < 10) : (s.release n).rwBit rSecRst n = false := by
  have e : (s.release n).rwBit rSecRst n = (s.rwPutBit rSecRst n false).rwBit rSecRst n := by
    unfold State.rwBit State.rw
    rw [release_regs]
  rw [e, rwBit_rwPutBit s rSecRst n n false (by omega), if_pos rfl]

/-- The lowest of the ten sections with a property is the first one found. -/
theorem find_section {p : Nat → Bool} {n : Nat} (hn : n < 10) (hp : p n) (low : ∀ k < n, p k = false) :
    (upTo 10).find? p = some n :=
  List.find?_range_eq_some.2 ⟨hp, List.mem_range.2 hn, fun k hk => by rw [low k hk]; rfl⟩

theorem bit_zero (n : Nat) : bit 0 n = false := by simp [bit]

/-- No section is left by a section reset. -/
theorem find_auto_none (s : State) (h0 : s.ctl.auto = 0) :
    ((upTo 10).find? fun n => bit s.ctl.auto n && s.releasable n) = none := by
  simp [h0, bit_zero]

theorem releaseNext_auto (s : State) (ha : s.awake) {n : Nat} (hn : n < 10) (hb : bit s.ctl.auto n) (hr : s.releasable n)
    (low : ∀ k < n, bit s.ctl.auto k = false) : s.releaseNext = s.release n := by
  have found := find_section (p := fun k => bit s.ctl.auto k && s.releasable k) hn (by simp [hb, hr])
    fun k hk => by simp [low k hk]
  unfold State.releaseNext
  rw [found, ha]
  rfl

section Boot

variable (s : State) (ha : s.awake) (h0 : s.ctl.auto = 0)
include ha h0

/-- The boot begins with the Memory section (R433). -/
theorem releaseNext_memory (hs : s.ctl.stage = 0) (hb : bit s.ctl.inrst 0) : s.releaseNext = (s.release 0).stage 1 := by
  simp [State.releaseNext, find_auto_none s h0, ha, hs, hb]

/-- Time follows once memory is trained (R433, R278). -/
theorem releaseNext_time (hs : s.ctl.stage = 1) (hb : bit s.ctl.inrst 1) (hr : s.releasable 1) : s.releaseNext = s.release 1 := by
  simp [State.releaseNext, find_auto_none s h0, ha, hs, hb, hr]

/-- Then Host, with the choice of boot source (R433, R435). -/
theorem releaseNext_host (hs : s.ctl.stage = 1) (h1 : bit s.ctl.inrst 1 = false) (hb : bit s.ctl.inrst 2) :
    s.releaseNext = (s.release 2).stage (if s.ctl.boot then 2 else 3) := by
  simp [State.releaseNext, find_auto_none s h0, ha, hs, h1, hb]

/-- Once the firmware runs, each further section in ascending order (R433). -/
theorem releaseNext_further (hs : s.ctl.stage = 4) {n : Nat} (hn : n < 10) (h3 : 3 ≤ n) (hb : bit s.ctl.inrst n)
    (low : ∀ k, 3 ≤ k → k < n → bit s.ctl.inrst k = false) (hr : s.releasable n) : s.releaseNext =
      if n = 9 then ((s.release n).stage 5).ctlSet { ((s.release n).stage 5).ctl with scope := 0 } else s.release n := by
  have found := find_section (p := fun k => 3 ≤ k && bit s.ctl.inrst k) hn (by simp [h3, hb])
    fun k hk => by by_cases h : 3 ≤ k <;> simp [h, low k, hk]
  simp [State.releaseNext, find_auto_none s h0, ha, hs, found, hr]

end Boot

/-- Settles O10: the next release is that of one section, and the stage follows it. -/
theorem sectionsLeaveResetInOrder : Obligations.SectionsLeaveResetInOrder := by
  intro s ha
  have run : exec .sectionRelease s = .next s.begin.releaseNext := rfl
  rw [run]
  refine ⟨fun n hn hb low hr => ⟨_, congrArg _ (releaseNext_auto s.begin ha hn hb hr low), ?_, ?_, release_hold _ n hn, ?_⟩,
    fun h0 => ⟨fun hs hb => ⟨_, congrArg _ (releaseNext_memory s.begin ha h0 hs hb), ?_, rfl, release_hold _ 0 (by decide)⟩,
      fun hs hb hm ht => ⟨_, congrArg _ (releaseNext_time s.begin ha h0 hs hb ?_), ?_, ?_, release_hold _ 1 (by decide), rfl⟩,
      fun hs h1 hb => ⟨_, congrArg _ (releaseNext_host s.begin ha h0 hs h1 hb), ?_, rfl, release_hold _ 2 (by decide)⟩,
      fun hs n hn h3 hb low hr => ⟨_, congrArg _ (releaseNext_further s.begin ha h0 hs hn h3 hb low hr), ?_⟩⟩⟩
  · rw [release_ctl]; rfl
  · rw [release_ctl]; simp [hb]
  · rw [release_ctl]; rfl
  · rw [State.stage, State.ctlSet_ctl, release_ctl]; simp [hb]
  · simp [State.releasable, needsOf, hm, ht]
  · rw [release_ctl]; simp [hb]
  · rw [release_ctl]; exact hs
  · rw [State.stage, State.ctlSet_ctl, release_ctl]; simp [hb]
  · have held := release_hold s.begin n hn
    by_cases h9 : n = 9
    · subst h9
      simp only [if_true]
      exact ⟨by rw [State.stage, State.ctlSet_ctl, State.ctlSet_ctl, release_ctl]; simp [hb], rfl, held, rfl⟩
    · simp only [if_neg h9]
      rw [release_ctl]
      exact ⟨by simp [hb], hs, held, rfl⟩

end Sys2Proof.Arch
end

section
/-! SUPPORT. What keeps the RW words of the register file: accesses of engines, and for HOLD the reset of sections. -/

namespace Sys2Proof.Arch
open Sys2Proof.Machine Sys2Proof.Laws


/-- Where the register file is as it was, so is every RW word. -/
theorem rw_of_regs {s t : State} (h : t.regs = s.regs) : t.rw = s.rw := by
  funext o
  unfold State.rw
  rw [h]

/-- An operation that does not touch the register file keeps every RW word. -/
theorem rw_of_does {M : List Fd} {s t : State} (h : Does M s t) (hM : Fd.regs ∉ M) : t.rw = s.rw :=
  rw_of_regs (h.frame .regs hM)

theorem rw_foldl {α : Type} {f : State → α → State} (hf : ∀ s x, (f s x).rw = s.rw) (l : List α) (s : State) :
    (l.foldl f s).rw = s.rw := by
  induction l generalizing s with
  | nil => rfl
  | cons x r ih => exact (ih _).trans (hf s x)

theorem rw_ite {c : Prop} [Decidable c] {s t u : State} (ht : t.rw = s.rw) (hu : u.rw = s.rw) : (if c then t else u).rw = s.rw := by
  split
  · exact ht
  · exact hu

/-! ### Accesses of engines keep the RW words -/

theorem rw_countN (s : State) (off n : Nat) : (s.countN off n).rw = s.rw := by
  induction n generalizing s with
  | zero => rfl
  | succ n ih => exact ih _

theorem rw_foreign (s : State) (m a n : Nat) : (s.foreign m a n).rw = s.rw := by
  unfold State.foreign
  split <;> rfl

theorem rw_foreigns (s : State) (m a n : Nat) : (s.foreigns m a n).rw = s.rw := by
  unfold State.foreigns
  apply rw_foldl
  intro s p
  exact rw_foreign s m p.1 p.2

theorem rw_collided (s : State) (m a n : Nat) (w : Bool) (h : MemHits) : (s.collided m a n w h).rw = s.rw := by
  unfold State.collided
  apply rw_foldl
  intro s p
  rfl

theorem rw_decerrs (s : State) (m a n size : Nat) (write : Bool) : (s.decerrs m a n size write).rw = s.rw := by
  unfold State.decerrs
  apply rw_foldl
  intro s p
  rfl

theorem rw_hostWrites (s : State) (h a : Nat) (bs : List Byte) : (s.hostWrites h a bs).rw = s.rw := by
  unfold State.hostWrites
  apply rw_foldl
  intro s p
  rfl

theorem rw_retireSector (s : State) (k : Nat) : (s.retireSector k).rw = s.rw := by
  unfold State.retireSector
  dsimp only
  have moved : (s.moveSector k).rw = s.rw := rw_of_does (moveSector_does s k (Does.refl [.pea] _) (List.Subset.refl _)) (by decide)
  rw [rw_of_does (audit_does _ _ _ _ _ (Does.refl [.pea, .sec] _) (List.Subset.refl _)) (by decide), ← moved]
  rfl

theorem rw_eccFixed (s : State) (t : Target) (a n : Nat) (h : MemHits) : (s.eccFixed t a n h).rw = s.rw := by
  unfold State.eccFixed
  dsimp only
  split
  · exact rw_countN s _ _
  split
  · rfl
  split
  · exact rw_retireSector _ _
  · rfl

theorem rw_observe (s : State) (m a n : Nat) (hold : Bool) : (s.observe m a n hold).rw = s.rw := by
  unfold State.observe
  refine rw_ite rfl ?_
  lift_lets
  intro hit all tm _ marked counted
  have h1 : marked.rw = s.rw := rw_of_regs rfl
  clear_value marked
  have h2 : counted.rw = s.rw := rw_ite ((State.rw_count marked _).trans h1) h1
  clear_value counted
  exact rw_ite ((State.rw_count counted _).trans h2) h2

theorem rw_twinDirect (s : State) (a : Nat) (bs : List Byte) : (s.twinDirect a bs).rw = s.rw := by
  unfold State.twinDirect
  split
  · rfl
  split
  · exact rw_of_does (jput_does s _ (Does.refl [.out, .mem, .twin] _) (List.Subset.refl _)) (by decide)
  split
  · exact rw_of_does (askAll_does (s.count (wStr + 0x4074)) (Does.refl [.out, .twin] _) (List.Subset.refl _)) (by decide) |>.trans rfl
  · rfl

theorem rw_bulkWrite (s : State) (m a : Nat) (bs : List Byte) (hold : Bool) : (s.bulkWrite m a bs hold).rw = s.rw := by
  unfold State.bulkWrite
  dsimp only
  split
  · rfl
  · exact (rw_twinDirect _ a bs).trans (rw_observe _ m a _ hold)

theorem rw_devWrite (s : State) (m a : Nat) (bs : List Byte) (hold : Bool) : (s.devWrite m a bs hold).2.rw = s.rw := by
  unfold State.devWrite
  split
  · rfl
  split
  · exact rw_bulkWrite s m a bs hold
  · exact rw_foreigns s m a _
  · split
    · exact rw_hostWrites s _ a bs
    · exact rw_decerrs s m a _ _ _
  all_goals exact rw_decerrs s m a _ _ _

/-! ### A section's reset keeps the HOLD bits -/

theorem rw_dmaRead (s : State) (l : Nat) (x : Dma) (hits : MemHits) : (s.dmaRead l x hits).2.rw = s.rw := by
  unfold State.dmaRead
  split
  · rfl
  · apply rw_foldl
    intro s p
    refine (rw_eccFixed _ _ _ _ _).trans (rw_ite ?_ rfl)
    exact (rw_collided _ _ _ _ _ _).trans (rw_foreign s _ _ _)

theorem rw_dmaStore (s : State) (l : Nat) (x : Dma) (bs : List Byte) : (s.dmaStore l x bs).rw = s.rw := by
  unfold State.dmaStore
  split
  · exact rw_of_regs rfl
  · exact rw_devWrite s _ _ _ _

theorem rw_dmaCut (s : State) (l : Nat) : (s.dmaCut l).rw = s.rw := by
  unfold State.dmaCut
  dsimp only
  split
  · rfl
  refine rw_ite rfl ?_
  refine (rw_dmaStore _ _ _ _).trans ?_
  exact (rw_of_regs (State.fresh_regs _)).trans (rw_dmaRead s l _ _)

/-- Every section's window lies outside the Control window (R427). -/
theorem winOf_pos (n : Nat) : 0 < winOf n := by
  unfold winOf
  split
  · omega
  split
  · omega
  split <;> omega

/-- HOLD is a Control register, which no section's reset touches (R427, R434). -/
theorem resetSec_hold (keep : Bool) (s : State) (n : Nat) : (s.resetSec keep n).rw rSecRst = s.rw rSecRst := by
  have wiped : (s.wipe fun o => o / 0x10000 = winOf n).rw rSecRst = s.rw rSecRst := by
    have h : rSecRst / 0x10000 ≠ winOf n := Nat.ne_of_lt (winOf_pos n)
    rw [State.rw_wipe, if_neg (by simpa using h)]
  unfold State.resetSec
  dsimp only
  generalize (s.wipe fun o => o / 0x10000 = winOf n) = s1 at wiped ⊢
  rw [← wiped]
  split
  · have lost : s1.lostMem.2.rw = s1.rw := rw_of_regs rfl
    cases keep
    · exact (congrFun (rw_of_regs (s := s1.lostMem.2) rfl) _).trans (congrFun lost _)
    · exact congrFun (rw_of_regs rfl) _
  · exact congrFun (rw_of_regs rfl) _
  · have gone : ((upTo 4).foldl State.hostGone s1).rw = s1.rw := rw_foldl (fun s h =>
      rw_of_does (hostGone_does s h (Does.refl [.out, .mem, .mix, .hosts, .net, .twin] s) (List.Subset.refl _)) (by decide)) _ s1
    generalize (upTo 4).foldl State.hostGone s1 = s2 at gone ⊢
    rw [← gone]
    refine congrFun ((rw_foldl (fun s h => ?_) _ _).trans (rw_of_regs rfl)) _
    exact rw_of_does (irqOut_does s h (Does.refl [.out] s) (List.Subset.refl _)) (by decide)
  · have pins (u : State) : u.streamPins.rw = u.rw :=
      rw_of_does (streamPins_does u (Does.refl [.out] u) (List.Subset.refl _)) (by decide)
    have refs (u : State) : u.loseGone.rw = u.rw :=
      rw_of_does (loseGone_does u (Does.refl [.tim] u) (List.Subset.refl _)) (by decide)
    rw [pins, refs, State.rw_rwSet, if_neg (by decide)]
    exact congrFun (rw_of_regs rfl) _
  · exact congrFun (rw_of_does (dropDrive_does s1 (Does.refl [.twin] s1) (List.Subset.refl _)) (by decide)) _
  · have gone : ((upTo 4).foldl State.dropOps s1).rw = s1.rw := rw_foldl (fun s h =>
      rw_of_does (dropOps_does s h (Does.refl [.hosts] s) (List.Subset.refl _)) (by decide)) _ s1
    generalize (upTo 4).foldl State.dropOps s1 = s2 at gone ⊢
    rw [← gone, ← rw_of_does (dropDrive_does s2 (Does.refl [.twin] s2) (List.Subset.refl _)) (by decide)]
    exact congrFun (rw_of_regs rfl) _
  · have cut : ((drayLanes (n - 6)).foldl State.dmaCut s1).rw = s1.rw := rw_foldl (fun s l => rw_dmaCut s l) _ s1
    generalize (drayLanes (n - 6)).foldl State.dmaCut s1 = s2 at cut ⊢
    rw [← cut]
    refine congrFun ((rw_foldl (fun s l => ?_) _ _).trans (rw_of_regs rfl)) _
    exact rw_of_regs (State.laneSet_regs s l _)

end Sys2Proof.Arch
end

section
/-! PROOF. The HOLD bits of CTL_SECRST and the die sensor (R13, R427, R434, R447). -/

namespace Sys2Proof.Arch
open Sys2Proof.Machine Sys2Proof.Safety Sys2Proof.Laws


/-! ### The ten HOLD bits as a number -/

theorem bit_eq_testBit (v i : Nat) : bit v i = v.testBit i := by
  rw [bit, Nat.testBit_eq_decide_div_mod_eq]

/-- A bit of a word's field is the word's bit. -/
theorem bit_wbits_zero (w : Word) (k n : Nat) (h : n < k) : bit (wbits w 0 k) n = w.getLsbD n := by
  rw [bit_eq_testBit, wbits, bits, Nat.pow_zero, Nat.div_one, Nat.testBit_mod_two_pow, decide_eq_true h, Bool.true_and]
  rfl

theorem sum_of_bits (v k : Nat) : (List.range k).foldl (fun m n => if bit v n then m + 2 ^ n else m) 0 = v % 2 ^ k := by
  induction k with
  | zero => rw [Nat.pow_zero, Nat.mod_one]; rfl
  | succ k ih =>
    rw [List.range_succ, List.foldl_append, ih, List.foldl_cons, List.foldl_nil, Nat.mod_pow_succ]
    have h2 : v / 2 ^ k % 2 < 2 := Nat.mod_lt _ (by decide)
    by_cases h : v / 2 ^ k % 2 = 1
    · simp [bit, h]
    · have h0 : v / 2 ^ k % 2 = 0 := by omega
      simp [bit, h0]

theorem wbits_lt (w : Word) (lo n : Nat) : wbits w lo n < 2 ^ n := Nat.mod_lt _ (Nat.two_pow_pos n)

theorem wbits_or_zero (a b : Word) (k : Nat) : wbits (a ||| b) 0 k = wbits a 0 k ||| wbits b 0 k := by
  unfold wbits bits
  rw [BitVec.toNat_or, Nat.pow_zero, Nat.div_one, Nat.div_one, Nat.div_one, Nat.or_mod_two_pow]

theorem wbits_fld_zero (k v : Nat) (hk : k ≤ 32) (hv : v < 2 ^ k) : wbits (fld 0 k v) 0 k = v := by
  have h32 : v < 2 ^ 32 := Nat.lt_of_lt_of_le hv (Nat.pow_le_pow_right (by decide) hk)
  unfold wbits bits fld
  rw [Nat.pow_zero, Nat.div_one, Nat.mul_one, BitVec.toNat_ofNat, Nat.mod_eq_of_lt hv, Nat.mod_eq_of_lt h32, Nat.mod_eq_of_lt hv]

/-! ### Sections of a mask reset -/

theorem resetMask_ctl (s : State) (keep : Bool) (m : Nat) :
    (s.resetMask keep m).ctl = { s.ctl with inrst := s.ctl.inrst ||| m } := by
  have kept : (((upTo 10).filter fun n => bit m n).foldl (State.resetSec keep) s).ctl = s.ctl :=
    ((Does.refl _ s).foldl fun u n hu => resetSec_does keep u n hu (List.Subset.refl _)).frame .ctl (by decide)
  unfold State.resetMask
  dsimp only
  rw [State.ctlSet_ctl, kept]

theorem resetMask_hold (s : State) (keep : Bool) (m : Nat) : (s.resetMask keep m).rw rSecRst = s.rw rSecRst := by
  have kept (l : List Nat) (u : State) : (l.foldl (State.resetSec keep) u).rw rSecRst = u.rw rSecRst := by
    induction l generalizing u with
    | nil => rfl
    | cons n r ih => exact (ih _).trans (resetSec_hold keep u n)
  unfold State.resetMask
  exact (congrFun (rw_of_regs rfl) _).trans (kept _ s)

/-- With no reset under way the named sections and all that need them enter reset, and HOLD keeps those to be held (R427, R434). -/
theorem sectionsReset_hold (s : State) (m held : Nat) (keep : Bool) (h0 : s.ctl.scope = 0) :
    (s.sectionsReset m held keep).ctl.inrst = s.ctl.inrst ||| closure m ∧
    (s.sectionsReset m held keep).rw rSecRst = s.rw rSecRst ||| fld 0 10 held := by
  unfold State.sectionsReset
  rw [if_neg (by simp [h0])]
  dsimp only
  constructor
  · rw [State.ctlSet_ctl, State.rwSet_ctl, resetMask_ctl]
  · rw [← resetMask_hold s keep (closure m)]
    exact (congrFun (rw_of_regs rfl) _).trans ((State.rw_rwSet _ _ _ _).trans (if_pos rfl))

/-! ### Writes of CTL_SECRST -/

/-- A section that is held and is to be released, but may not be: the write is then recorded (R434, R460). -/
def refusedRelease (s : State) (w : Word) : Bool := (upTo 10).any fun n => s.rwBit rSecRst n && !w.getLsbD n && !s.holdOk n

theorem regPut_secRst (s : State) (src : WrSrc) (w : Word) : s.regPut src rSecRst w =
    if refusedRelease s w then (s.secHold w true).reject src rSecRst w 1 else s.secHold w true := by
  unfold State.regPut refusedRelease
  rw [if_pos rfl]

theorem bit_rwBits (s : State) (off k n : Nat) (h : n < k) : bit (s.rwBits off 0 k) n = s.rwBit off n := bit_wbits_zero _ _ _ h

/-- Sections that CTL_SECRST has held and a write holds no longer. -/
theorem released_none (now : Nat) : ((upTo 10).filter fun n => bit 0 n && !bit now n) = [] := by simp [bit_zero]

theorem released_one : ∀ n < 10, ((upTo 10).filter fun k => bit (2 ^ n) k && !bit 0 k) = [n] := by decide

theorem bit_two_pow (n k : Nat) : bit (2 ^ n) k = decide (n = k) := by
  rw [bit_eq_testBit, Nat.testBit_two_pow]

/-- HOLD bits set where none was (R434). -/
theorem secHold_set (s : State) (w : Word) (keep : Bool) (h0 : s.rwBits rSecRst 0 10 = 0) (hw : wbits w 0 10 ≠ 0) :
    s.secHold w keep = s.sectionsReset (wbits w 0 10) (wbits w 0 10) keep := by
  have new : (upTo 10).foldl (fun m n => if bit (wbits w 0 10) n && !bit 0 n then m + 2 ^ n else m) 0 = wbits w 0 10 := by
    simp only [bit_zero, Bool.not_false, Bool.and_true]
    exact (sum_of_bits _ 10).trans (Nat.mod_eq_of_lt (wbits_lt w 0 10))
  unfold State.secHold
  dsimp only
  rw [h0, released_none, new, if_neg hw, List.foldl_nil]

/-- No bit of a word of zeros is set anew. -/
theorem set_none (old : Nat) : ((upTo 10).foldl (fun m n => if bit 0 n && !bit old n then m + 2 ^ n else m) 0) = 0 := by
  simp only [bit_zero, Bool.false_and, Bool.false_eq_true, if_false]
  rfl

/-- The only HOLD bit cleared (R434). -/
theorem secHold_clear (s : State) (w : Word) (keep : Bool) (n : Nat) (hn : n < 10) (h0 : s.rwBits rSecRst 0 10 = 2 ^ n)
    (hw : wbits w 0 10 = 0) : s.secHold w keep =
      if s.holdOk n then s.release n else (s.scSet rSecStat 23).capSet rSecStat (fld 18 4 n) := by
  unfold State.secHold
  dsimp only
  rw [h0, hw, released_one n hn, set_none, if_pos rfl, List.foldl_cons, List.foldl_nil]

/-- The only held section is refused its release exactly where it may not leave reset (R434). -/
theorem refusedRelease_one (s : State) (w : Word) (n : Nat) (hn : n < 10) (h0 : s.rwBits rSecRst 0 10 = 2 ^ n)
    (hw : wbits w 0 10 = 0) : refusedRelease s w = !s.holdOk n := by
  have held : ∀ k < 10, s.rwBit rSecRst k = decide (n = k) := fun k hk => by
    rw [← bit_rwBits s _ 10 k hk, h0, bit_two_pow]
  have clear : ∀ k < 10, w.getLsbD k = false := fun k hk => by
    rw [← bit_wbits_zero w 10 k hk, hw, bit_zero]
  rw [Bool.eq_iff_iff, refusedRelease, List.any_eq_true]
  constructor
  · rintro ⟨k, hk, h⟩
    have hk : k < 10 := List.mem_range.1 hk
    rw [held k hk] at h
    simp only [Bool.and_eq_true, decide_eq_true_eq] at h
    obtain ⟨⟨rfl, -⟩, h⟩ := h
    exact h
  · intro h
    refine ⟨n, List.mem_range.2 hn, ?_⟩
    rw [held n hn, clear n hn, h]
    simp

/-- An ignored write is recorded in CTL_CFGREJ and its two companions alone (R460). -/
theorem reject_frame (s : State) (src : WrSrc) (off : Nat) (w : Word) (reason : Nat) :
    (s.reject src off w reason).rw = s.rw ∧ (∀ o b, s.scBit o b → (s.reject src off w reason).scBit o b) ∧
    (∀ o < 0x50, (s.reject src off w reason).cap o = s.cap o) ∧ (s.reject src off w reason).scBit (wCtl + 0x0050) 23 := by
  have sc : (s.reject src off w reason).scBit = (s.scSet (wCtl + 0x0050) 23).scBit := rfl
  unfold State.reject at sc ⊢
  dsimp only at sc ⊢
  refine ⟨?_, fun o b h => ?_, fun o ho => ?_, ?_⟩
  · rw [State.rw_capSet, State.rw_capSet, State.rw_capSet, State.rw_scSet]
  · rw [sc, State.scBit_scSet, h, ite_self]
  · rw [State.cap_capSet, if_neg (by simp only [wCtl]; omega), State.cap_capSet, if_neg (by simp only [wCtl]; omega), State.cap_capSet, if_neg (by simp only [wCtl]; omega)]
    rfl
  · rw [sc, State.scBit_scSet, if_pos ⟨rfl, rfl⟩]

theorem exec_sectionHoldWrite (s : State) (src : WrSrc) (w : Word) (h : s.reaches src rSecRst) :
    exec (.sectionHoldWrite src w) s = .next (s.begin.regPut src rSecRst w) := by
  have h' : s.begin.reaches src rSecRst = true := h
  show Host.Outcome.next (s.begin.regWrite src rSecRst w) = _
  rw [State.regWrite, if_pos h']

/-- Settles O12. -/
theorem holdsAndSensors : Obligations.HoldsAndSensors := by
  intro s src w hr
  rw [exec_sectionHoldWrite s src w hr, regPut_secRst]
  refine ⟨fun h0 hw hs => ?_, fun n hn h0 hw => ?_, fun hup c => ?_, fun i => rfl⟩
  · have h0' : s.begin.rwBits rSecRst 0 10 = 0 := h0
    have hs' : s.begin.ctl.scope = 0 := hs
    have none : refusedRelease s.begin w = false := by
      refine List.any_eq_false.2 fun n hn => ?_
      rw [← bit_rwBits s.begin rSecRst 10 n (List.mem_range.1 hn), h0', bit_zero]
      simp
    obtain ⟨hc, hh⟩ := sectionsReset_hold s.begin (wbits w 0 10) (wbits w 0 10) true hs'
    refine ⟨_, rfl, ?_⟩
    rw [none, if_neg Bool.false_ne_true, secHold_set s.begin w true h0' hw]
    refine ⟨hc, ?_⟩
    rw [State.rwBits] at h0' ⊢
    rw [hh, wbits_or_zero, h0', Nat.zero_or, wbits_fld_zero 10 _ (by decide) (wbits_lt w 0 10)]
  · have h0' : s.begin.rwBits rSecRst 0 10 = 2 ^ n := h0
    rw [refusedRelease_one s.begin w n hn h0' hw, secHold_clear s.begin w true n hn h0' hw]
    refine ⟨fun ok => ?_, fun no => ?_⟩
    · have ok' : s.begin.holdOk n = true := ok
      rw [ok', if_neg (by decide), if_pos rfl]
      refine ⟨_, rfl, release_hold _ n hn, ?_⟩
      rw [release_ctl]
      rfl
    · have no' : s.begin.holdOk n = false := no
      rw [no', if_pos (by decide), if_neg Bool.false_ne_true]
      obtain ⟨hrw, hsc, hcap, hrej⟩ := reject_frame ((s.begin.scSet rSecStat 23).capSet rSecStat (fld 18 4 n)) src rSecRst w 1
      refine ⟨_, rfl, ?_, ?_, ?_, ?_, hrej⟩
      · rw [hrw, State.rw_capSet, State.rw_scSet, State.begin_rw]
      · rw [State.reject_ctl]; rfl
      · refine hsc _ _ ?_
        show (s.begin.scSet rSecStat 23).scBit rSecStat 23 = true
        rw [State.scBit_scSet, if_pos ⟨rfl, rfl⟩]
      · rw [hcap _ (by decide), State.cap_capSet, if_pos rfl]
  · have run : exec (.dieTemperatureWarning c) s = .next (s.begin.dieWarning c.toInt) := rfl
    have up : (!s.begin.up secTime) = false := by rw [State.begin_up, hup]; rfl
    rw [run, State.dieWarning, up, if_neg Bool.false_ne_true]
    dsimp only
    refine ⟨fun cold => ?_, fun hot => ?_⟩
    · rw [if_neg (by omega)]
      rfl
    · rw [if_pos hot]
      refine ⟨_, rfl, ?_, State.scBit_health _ 17, ?_⟩
      · rw [health_of_no_cause _ 17 (by decide) (by decide)]; rfl
      · rw [health_of_no_cause _ 17 (by decide) (by decide)]; rfl

end Sys2Proof.Arch
end

section
/-! PROOF. A direct write at the bulk-memory port (R24, R49, R55, R392). -/

namespace Sys2Proof.Arch
open Sys2Proof.Machine Sys2Proof.Safety Sys2Proof.Laws


/-- Two states that agree in every field are one. -/
theorem eq_of_same {s t : State} (h : ∀ f, Same s t f) : t = s := by
  cases s
  cases t
  simp only [State.mk.injEq]
  exact ⟨h .pending, h .freeCtr, h .sub, h .out, h .regs, h .ctl, h .mem, h .pea, h .sec, h .mix, h .tdm, h .dac, h .byp, h .tim,
    h .lanes, h .drays, h .hosts, h .net, h .twin, h .csnLatch⟩

/-- The state s with the fields of M as in t. -/
def graft (M : List Fd) (s t : State) : State where
  pending := if Fd.pending ∈ M then t.pending else s.pending
  freeCtr := if Fd.freeCtr ∈ M then t.freeCtr else s.freeCtr
  sub := if Fd.sub ∈ M then t.sub else s.sub
  out := if Fd.out ∈ M then t.out else s.out
  regs := if Fd.regs ∈ M then t.regs else s.regs
  ctl := if Fd.ctl ∈ M then t.ctl else s.ctl
  mem := if Fd.mem ∈ M then t.mem else s.mem
  pea := if Fd.pea ∈ M then t.pea else s.pea
  sec := if Fd.sec ∈ M then t.sec else s.sec
  mix := if Fd.mix ∈ M then t.mix else s.mix
  tdm := if Fd.tdm ∈ M then t.tdm else s.tdm
  dac := if Fd.dac ∈ M then t.dac else s.dac
  byp := if Fd.byp ∈ M then t.byp else s.byp
  tim := if Fd.tim ∈ M then t.tim else s.tim
  lanes := if Fd.lanes ∈ M then t.lanes else s.lanes
  drays := if Fd.drays ∈ M then t.drays else s.drays
  hosts := if Fd.hosts ∈ M then t.hosts else s.hosts
  net := if Fd.net ∈ M then t.net else s.net
  twin := if Fd.twin ∈ M then t.twin else s.twin
  csnLatch := if Fd.csnLatch ∈ M then t.csnLatch else s.csnLatch

/-- An operation that may change the fields of M gives the state with those fields as it leaves them, and no others changed. -/
theorem eq_graft {M : List Fd} {s t : State} (h : Does M s t) : t = graft M s t := by
  refine eq_of_same fun f => ?_
  by_cases hf : f ∈ M
  · cases f <;> exact (if_pos hf).symm
  · have kept := h.frame f hf
    cases f <;> exact Eq.trans kept (if_neg hf).symm

/-! ### The bulk-memory port -/

theorem fit_length {α : Type} (n : Nat) (d : α) (l : List α) : (fit n d l).length = n := by
  simp [fit]

/-- HIT_CKBASE's range error is a matter of the RW words and of the fitted memory (R400). -/
theorem ckErr_of_rw {s t : State} (h : t.rw = s.rw) (hz : t.mem.size = s.mem.size) : t.ckErr = s.ckErr := by
  have hb (o : Nat) : t.base o = s.base o := by simp only [State.base, State.rwBits, h]
  have hin (a n : Nat) : t.inBulk a n = s.inBulk a n := by unfold State.inBulk State.usable; rw [hz]
  simp only [State.ckErr, State.ckBase, State.hitsTables, State.ctBase, State.xpBase, State.mtrBase, State.znBase,
    State.peerBase, State.rwBit, hb, hin, h]

theorem sendJ_mem (s : State) (r : JRec) : (s.sendJ r).mem = s.mem :=
  (sendJ_does s r (Does.refl [.out, .twin] s) (List.Subset.refl _)).frame .mem (by decide)

/-- The journal store at HIT_CKBASE (R400), or where nothing is kept. -/
def offJournal (s : State) (a : Nat) : Prop := s.ckErr ∨ a < s.ckBase + 0x400000 ∨ s.ckBase + 0x800000 ≤ a

/-- A record kept changes bulk memory only, and there only the journal store. -/
theorem jkeep_mem (s : State) (r : JRec) : (s.jkeep r).mem = { s.mem with bulk := (s.jkeep r).mem.bulk } ∧
    ∀ a, offJournal s a → (s.jkeep r).mem.bulk.get a = s.mem.bulk.get a := by
  unfold State.jkeep
  split
  · exact ⟨rfl, fun a _ => rfl⟩
  · next no =>
    refine ⟨rfl, fun a ha => ?_⟩
    show Mem.get (Mem.setN _ _ _) a = _
    have hm := Nat.mod_lt (jsnOf r) (show 0 < 65536 by decide)
    rw [Mem.get_setN, fit_length, if_neg]
    rcases ha with ha | ha | ha
    · exact absurd ha no
    all_goals omega

theorem jput_mem (s : State) (mk : BitVec 48 → JRec) : (s.jput mk).mem = { s.mem with bulk := (s.jput mk).mem.bulk } ∧
    ∀ a, offJournal s a → (s.jput mk).mem.bulk.get a = s.mem.bulk.get a := by
  have hck (t : Twin) : (s.twinSet t).ckErr = s.ckErr := ckErr_of_rw (rw_of_regs rfl) rfl
  unfold State.jput
  dsimp only
  rw [sendJ_mem]
  refine ⟨(jkeep_mem _ _).1, fun a ha => (jkeep_mem _ _).2 a ?_⟩
  unfold offJournal at ha ⊢
  rw [hck]
  exact ha

/-- What the twin logic does about a direct write changes memory only where the unit journals (R392). -/
theorem twinDirect_mem (s : State) (b : Nat) (bs : List Byte) :
    (s.twinDirect b bs).mem = { s.mem with bulk := (s.twinDirect b bs).mem.bulk } ∧
    ∀ a, (s.journals = false ∨ offJournal s a) → (s.twinDirect b bs).mem.bulk.get a = s.mem.bulk.get a := by
  unfold State.twinDirect
  split
  · exact ⟨rfl, fun a _ => rfl⟩
  split
  · next on =>
    refine ⟨(jput_mem s _).1, fun a ha => (jput_mem s _).2 a (ha.resolve_left ?_)⟩
    rw [on]
    exact Bool.noConfusion
  split
  · have asked : (s.count (wStr + 0x4074)).askAll.mem = s.mem :=
      (askAll_does _ (Does.refl [.out, .twin] _) (List.Subset.refl _)).frame .mem (by decide)
    rw [asked]
    exact ⟨rfl, fun a _ => rfl⟩
  · exact ⟨rfl, fun a _ => rfl⟩

/-- The table cache observes a write: memory, the twin and the RW words stay as they are (R49). -/
theorem observe_mem (s : State) (m a n : Nat) (hold : Bool) : (s.observe m a n hold).mem = s.mem :=
  (observe_does s m a n hold (Does.refl [.regs, .mix] s) (List.Subset.refl _)).frame .mem (by decide)

theorem observe_journals (s : State) (m a n : Nat) (hold : Bool) : (s.observe m a n hold).journals = s.journals := by
  have h : (s.observe m a n hold).twin = s.twin :=
    (observe_does s m a n hold (Does.refl [.regs, .mix] s) (List.Subset.refl _)).frame .twin (by decide)
  unfold State.journals
  rw [h]

theorem offJournal_observe {s : State} {m b n : Nat} {hold : Bool} {a : Nat} (h : offJournal s a) :
    offJournal (s.observe m b n hold) a := by
  have hrw := rw_observe s m b n hold
  have hb : (s.observe m b n hold).ckBase = s.ckBase := by
    unfold State.ckBase State.base State.rwBits
    rw [hrw]
  unfold offJournal at h ⊢
  rw [hb, ckErr_of_rw hrw (congrArg MemSt.size (observe_mem s m b n hold))]
  exact h

/-- A write at the bulk-memory port stores its bytes; besides, the journal store alone may change (R49, R392). -/
theorem bulkWrite_mem (s : State) (m b : Nat) (bs : List Byte) (hold : Bool) :
    (s.bulkWrite m b bs hold).mem = { s.mem with bulk := (s.bulkWrite m b bs hold).mem.bulk } ∧
    ∀ a, (s.journals = false ∨ offJournal s a) →
      (s.bulkWrite m b bs hold).mem.bulk.get a = (s.mem.bulk.setN b bs).get a := by
  have off (a : Nat) (h : offJournal s a) : offJournal (s.engWrite b bs) a := by
    have hc : (s.engWrite b bs).ckErr = s.ckErr := ckErr_of_rw (rw_of_regs rfl) rfl
    unfold offJournal
    rw [hc]
    exact h
  unfold State.bulkWrite
  dsimp only
  split
  · exact ⟨rfl, fun a _ => rfl⟩
  · obtain ⟨hm, hg⟩ := twinDirect_mem ((s.engWrite b bs).observe m b bs.length hold) b bs
    rw [observe_mem] at hm hg
    refine ⟨hm, fun a ha => hg a ?_⟩
    rw [observe_journals]
    exact ha.imp id fun h => offJournal_observe (off a h)

theorem replWrite_mem (s : State) (a : Nat) (bs : List Byte) : (s.replWrite a bs).mem = (s.engWrite a bs).mem := by
  unfold State.replWrite
  dsimp only
  split <;> rfl

/-- Settles O14: a write of any master but the Hitch engine goes through the cache and the journal. -/
theorem directWriteStoresItsBytes : Obligations.DirectWriteStoresItsBytes := by
  intro s m addr data hon
  have run : exec (.tableDirectWrite m addr data) s = .next (s.begin.portWrite m addr.toNat data) := rfl
  have on : (!s.begin.masterOn m) = false := by
    show (!s.masterOn m) = false
    rw [hon]
    rfl
  have may : Does [.out, .regs, .mem, .mix, .twin] s (s.begin.portWrite m addr.toNat data) :=
    portWrite_does s.begin m addr.toNat data (begin_does s (Does.refl _ s) (by decide)) (by decide)
  rw [run]
  refine ⟨fun hin => ?_, fun hout => ?_⟩
  · have hin' : s.begin.inBulk addr.toNat data.length = true := hin
    have stored : (s.begin.portWrite m addr.toNat data).mem =
          { s.mem with bulk := (s.begin.portWrite m addr.toNat data).mem.bulk } ∧
        ∀ a, (s.journals = false ∨ offJournal s a) →
          (s.begin.portWrite m addr.toNat data).mem.bulk.get a = (s.mem.bulk.setN addr.toNat data).get a := by
      rw [State.portWrite, on, if_neg Bool.false_ne_true, hin', if_neg (by decide)]
      split
      · rw [replWrite_mem]
        exact ⟨rfl, fun a _ => rfl⟩
      · exact bulkWrite_mem s.begin m addr.toNat data false
    obtain ⟨hm, hg⟩ := stored
    refine ⟨_, rfl, fun a ha => (hg a ha).trans (Mem.get_setN _ _ _ _), ?_⟩
    rw [← hm]
    exact eq_graft may
  · have hout' : s.begin.inBulk addr.toNat data.length = false := hout
    rw [State.portWrite, on, if_neg Bool.false_ne_true, hout', if_pos (by decide)]
    refine ⟨_, rfl, rfl, ?_, ?_⟩
    · unfold State.decerr
      dsimp only
      rw [State.ctr_capSet, State.ctr_capSet, State.ctr_count, if_pos rfl]
      rfl
    · unfold State.decerr
      dsimp only
      rw [State.cap_capSet, if_neg (by decide), State.cap_capSet, if_pos rfl]

end Sys2Proof.Arch
end

section
/-! PROOF. The block boundary at which NSC wraps (R5, R14, R85). -/

namespace Sys2Proof.Arch
open Sys2Proof.Machine Sys2Proof.Safety Sys2Proof.Laws


/-- A claim whose lease has run out (R85). -/
def spentClaim : Claim := { csn := 1, host := 0, partner := false, ranges := [(0, 0)], lease := 100, expired := true }

/-- The last block before NSC wraps, with the Memory and Time sections out of reset and a claim whose lease has run out. -/
def lastBlock : State := { State.reset with
  ctl := { Ctl.reset with phase := 3, inrst := 0x3FC }, tim := { Tim.reset with nsc := 2 ^ 64 - 4 }
  mix := { Mix.reset with claims := [spentClaim] } }

/-- No words, no late entry and no missing clip data. -/
def quiet : BlockIn := ⟨[], [], []⟩

/-- 2^64 is no multiple of 12: after it NSC is 8, where no block begins (R5, R14), so the claim does not end. -/
theorem lastBlock_keeps_claim : (lastBlock.begin.boundary quiet).tim.nsc = 8 ∧
    (lastBlock.begin.boundary quiet).mix.claims = [spentClaim] := by decide +kernel

/-- Refutes O13: at the block in which NSC wraps, NSC becomes 8 and the claim whose lease has run out is left. -/
theorem not_blockBoundaryBeginsTheNextBlock : ¬ Obligations.BlockBoundaryBeginsTheNextBlock := by
  intro h
  obtain ⟨t, run, ends⟩ := (h lastBlock quiet).1 (by decide)
  have ht : lastBlock.begin.boundary quiet = t := Host.Outcome.next.inj run
  obtain ⟨-, gone, -⟩ := ends rfl
  rw [← ht, lastBlock_keeps_claim.2] at gone
  exact Bool.noConfusion (gone spentClaim List.mem_cons_self)

end Sys2Proof.Arch
end

section
/-! SUPPORT. Bursts that meet nothing wrong (R212, R260, R270 to R279). -/

namespace Sys2Proof.Arch
open Sys2Proof.Machine Sys2Proof.Laws


/-- Nothing is wrong with the words that a request meets. -/
abbrev clean : MemHits := ⟨[], [], false, []⟩

theorem splitAt_one (b a n : Nat) (h0 : 1 ≤ n) (h : a % b + n ≤ b) : splitAt b a (n + 1) n = [(a, n)] := by
  obtain ⟨k, rfl⟩ := Nat.exists_eq_succ_of_ne_zero (Nat.one_le_iff_ne_zero.1 h0)
  have hm : min (k + 1) (b - a % b) = k + 1 := by omega
  simp only [Nat.succ_eq_add_one] at h ⊢
  simp [splitAt, hm]

/-- A host's request within 512 bytes is one burst (R212, R260). -/
theorem hostPieces_one (s : State) (a n : Nat) (h0 : 1 ≤ n) (h : a % 512 + n ≤ 512) : s.hostPieces a n = [(a, n)] := by
  unfold State.hostPieces pieces
  rw [splitAt_one 512 a n h0 h, ite_self]

theorem badAt_of_none {h : MemHits} (hb : h.bad = []) (ha : h.adr = false) (t : Target) (a : Nat) : badAt h t a = [] := by
  simp [badAt, hb, ha]

/-- An address-check failure without a word of its own is bulk memory's alone (R278, R279). -/
theorem badAt_pool (h : MemHits) (a : Nat) : badAt h .pool a = h.bad := rfl

theorem badIn_nil (a n : Nat) : badIn [] a n = false := rfl

theorem eccFixed_clean (s : State) (t : Target) (a n : Nat) : s.eccFixed t a n clean = s := by
  unfold State.eccFixed
  simp [State.countN]

theorem collided_of_none {s : State} {m a n : Nat} {w : Bool} {h : MemHits} (hc : s.collisions m a n w h = []) :
    s.collided m a n w h = s := by
  rw [State.collided, hc, List.foldl_nil]

theorem collisions_clean (s : State) (m a n : Nat) (w : Bool) : s.collisions m a n w clean = [] := by
  unfold State.collisions
  split <;> rfl

theorem foreign_pathA {s : State} {m a n : Nat} (hp : s.pathA m a n) : s.foreign m a n = s := by
  simp [State.foreign, hp]

/-- A request in flight and then answered leaves the count of its master's transactions as it was (R270). -/
theorem fly_back (s : State) (m : Nat) : (s.fly m (· + 1)).fly m (· - 1) = s := by
  have h : (s.mem.flight.set m (s.mem.flight.getD m 0 + 1)).set m
      ((s.mem.flight.set m (s.mem.flight.getD m 0 + 1)).getD m 0 - 1) = s.mem.flight := by
    rw [List.set_set]
    apply List.ext_getElem (by simp)
    intro i h1 h2
    rw [List.getElem_set]
    split
    · next e => subst e; simp at h1; simp [h1]
    · rfl
  unfold State.fly
  dsimp only
  rw [h]

/-- A master's read of one burst of pool SRAM that meets nothing wrong. -/
theorem readHits_pool {s : State} {m a n : Nat} (ht : s.targetRange a n = .pool) :
    s.readHits m a n clean = (⟨.okay, s.poolRead a n⟩, s.foreign m a n) := by
  unfold State.readHits State.busRead
  simp [ht, State.readAt, badAt_of_none, badIn_nil, eccFixed_clean, collisions_clean, collided_of_none]

end Sys2Proof.Arch
end

section
/-! PROOF. What an SPI port answers (R24, R247 to R250, R260, R277). -/

namespace Sys2Proof.Arch
open Sys2Proof.Machine Sys2Proof.Safety Sys2Proof.Laws


theorem ctr_of_regs {s t : State} (h : t.regs = s.regs) : t.ctr = s.ctr := by
  funext o
  unfold State.ctr
  rw [h]

theorem scBit_of_regs {s t : State} (h : t.regs = s.regs) : t.scBit = s.scBit := by
  funext o b
  unfold State.scBit State.sc
  rw [h]

/-! ### A transaction at an SPI port begins -/

theorem begin_spiBegin (s : State) (i : Fin 2) : s.begin.spiBegin i = (s.spiBegin i).begin := by
  have hb : s.begin.mem = s.mem := rfl
  unfold State.spiBegin
  rw [hb]
  split <;> rfl

/-- Only the record that a transaction has begun since BUSY was raised changes (R277). -/
theorem spiBegin_eq (s : State) (i : Fin 2) : ∃ b, s.spiBegin i = { s with mem := { s.mem with begun := b } } := by
  unfold State.spiBegin
  split
  · exact ⟨_, rfl⟩
  · exact ⟨s.mem.begun, rfl⟩

/-- The identification register (R445). -/
theorem regWord_zero (s : State) : s.regWord 0 = s.cap 0 ||| 0x153600B1#32 := rfl

/-- The registers of the recovery window show nothing of the memory ports. -/
theorem recRead_begun (s : State) (b : List Bool) (off : Nat) :
    ({ s with mem := { s.mem with begun := b } } : State).recRead off = s.recRead off := by
  unfold State.recRead
  split
  · next h =>
    have h : off = 0 ∨ off = 4 ∨ off = 8 ∨ off = 12 ∨ off = 20 ∨ off = 1032 := by simpa [recReads] using h
    rcases h with rfl | rfl | rfl | rfl | rfl | rfl <;> rfl
  · rfl

/-- The five flags of the status byte (R249). -/
theorem statusByte_bits : ∀ a b c d e : Bool,
    let x : Byte := BitVec.ofNat 8 (b2n a + 2 * b2n b + 4 * b2n c + 8 * b2n d + 16 * b2n e)
    x.getLsbD 0 = a ∧ x.getLsbD 1 = b ∧ x.getLsbD 2 = c ∧ x.getLsbD 3 = d ∧ x.getLsbD 4 = e := by decide

/-- A port written back as it is. -/
theorem hostSet_host (s : State) (h : Fin 4) : s.hostSet h (s.host h) = s := by
  have e : s.hosts.set h s.hosts[h] = s.hosts := Vector.set_getElem_self h.isLt
  unfold State.hostSet State.host
  rw [e]

/-- An SPI port without buffered writes has nothing to send (R248). -/
theorem spiDrain_empty (s : State) (i : Fin 2) (h : (s.host (spiHost i)).wbuf = []) : s.spiDrain i = s := by
  have same : { s.host (spiHost i) with wbuf := [] } = s.host (spiHost i) := by rw [← h]
  unfold State.spiDrain
  dsimp only
  rw [same, hostSet_host, h, List.foldl_nil, ite_self]

/-! ### Reads of a host in one burst -/

theorem Resp_join_okay (r : Resp) : r.join .okay = r := by cases r <;> rfl

theorem hostRead_one (s : State) (m a n : Nat) (x : MemHits) (h0 : 1 ≤ n) (h : a % 512 + n ≤ 512) :
    s.hostRead m a n x = (((s.fly m (· + 1)).readHits m a n x).1, (((s.fly m (· + 1)).readHits m a n x).2).fly m (· - 1)) := by
  have one : (s.fly m (· + 1)).readAll m x [(a, n)] = (s.fly m (· + 1)).readHits m a n x := by
    simp only [State.readAll, Resp_join_okay, List.append_nil]
  unfold State.hostRead
  dsimp only
  rw [hostPieces_one s a n h0 h, one]

/-- A burst that leads nowhere is refused and counted (R24). -/
theorem readHits_none {s : State} {m a n : Nat} (x : MemHits) (ht : s.targetRange a n = .none) :
    s.readHits m a n x = (Ans.refused n, s.decerr m a false) := by
  have nowhere : s.busRead m a n = (Ans.refused n, s.decerr m a false) := by
    unfold State.busRead
    rw [ht]
    rfl
  unfold State.readHits
  dsimp only
  rw [nowhere]
  exact if_pos (.inl nofun)

/-- A request answered with DECERR is counted and captured, and nothing else (R24). -/
theorem ctr_decerr (s : State) (m a : Nat) (w : Bool) : (s.decerr m a w).ctr (wMem + 0x014C) = (s.ctr (wMem + 0x014C)).inc := by
  unfold State.decerr
  dsimp only
  rw [State.ctr_capSet, State.ctr_capSet, State.ctr_count, if_pos rfl]

theorem decerr_mem (s : State) (m a : Nat) (w : Bool) : (s.decerr m a w).mem = s.mem := by
  unfold State.decerr
  dsimp only
  rw [State.capSet_mem, State.capSet_mem, State.count_mem]

theorem decerr_out (s : State) (m a : Nat) (w : Bool) : (s.decerr m a w).out = s.out := by
  unfold State.decerr
  dsimp only
  rw [State.capSet_out, State.capSet_out, State.count_out]

/-- An uncorrectable error is a health fault and counted (R279). -/
theorem uncErr_reported (s : State) (m a : Nat) (scrub adr : Bool) : (s.uncErr m a scrub adr).scBit rHealth 22 ∧
    (s.uncErr m a scrub adr).ctr (wMem + 0x0810) = (s.ctr (wMem + 0x0810)).inc := by
  unfold State.uncErr
  dsimp only
  refine ⟨State.scBit_health _ _, ?_⟩
  rw [State.ctr_health, State.ctr_capSet, State.ctr_capSet, State.ctr_count, if_pos rfl]

theorem ctr_foreign {s : State} (m a n o : Nat) (ho : o ≠ wMem + 0x0484) : (s.foreign m a n).ctr o = s.ctr o := by
  unfold State.foreign
  split
  · rfl
  · dsimp only
    rw [State.ctr_capSet, State.ctr_count, if_neg ho]

theorem ctr_countN {s : State} (off k o : Nat) (ho : o ≠ off) : (s.countN off k).ctr o = s.ctr o := by
  induction k generalizing s with
  | zero => rfl
  | succ k ih =>
    rw [State.countN, ih, State.ctr_count, if_neg ho]

/-- A burst of pool SRAM with an uncorrectable word (R260, R279). -/
theorem readHits_unc {s : State} {m a n : Nat} {x : MemHits} (ht : s.targetRange a n = .pool) (hb : badIn x.bad a n) :
    ∃ bs t, s.readHits m a n x = (⟨.uncerr, bs⟩, t) ∧ t.out = s.out ∧ t.scBit rHealth 22 ∧
      t.ctr (wMem + 0x0810) = (s.ctr (wMem + 0x0810)).inc := by
  have read : s.busRead m a n = (⟨.okay, s.poolRead a n⟩, s.foreign m a n) := by
    unfold State.busRead
    rw [ht]
    rfl
  have kept : (s.foreign m a n).out = s.out :=
    (foreign_does s m a n (Does.refl [.regs] s) (List.Subset.refl _)).frame .out (by decide)
  have lost : ((s.foreign m a n).eccLost .pool m (firstBad x.bad a n) x.adr).out = s.out := by
    rw [← kept]
    exact (uncErr_does _ m _ false x.adr (Does.refl [.regs, .twin] _) (List.Subset.refl _)).frame .out (by decide)
  obtain ⟨hs, hc⟩ := uncErr_reported (s.foreign m a n) m (firstBad x.bad a n) false x.adr
  unfold State.readHits
  dsimp only
  rw [read, ht, badAt_pool, hb, if_neg (by simp), if_pos rfl]
  refine ⟨_, _, rfl, lost, hs, hc.trans ?_⟩
  rw [ctr_foreign m a n _ (by decide)]

/-- The collisions of a request are a matter of the memory ports (R276). -/
theorem collisions_of_mem {s t : State} (h : t.mem = s.mem) (m a n : Nat) (w : Bool) (x : MemHits) :
    t.collisions m a n w x = s.collisions m a n w x := by
  have size : t.usable = s.usable := by
    unfold State.usable
    rw [h]
  have range : t.targetRange a n = s.targetRange a n := by
    unfold State.targetRange State.crosses State.bounds State.targetOf
    rw [size]
  have path : t.pathA m a n = s.pathA m a n := by
    unfold State.pathA State.ownerFor
    rw [h]
  unfold State.collisions
  rw [range, path]

/-- The one collision of a host's read of a burst on path B: counted, and its words undefined (R276, R277). -/
theorem readHits_collide {s : State} {m a n : Nat} {x : MemHits} (ht : s.targetRange a n = .pool) (hb : x.bad = [])
    {c : Nat × Fin 14 × Bool} (hc : s.collisions m a n false x = [c]) :
    ∃ bs t, s.readHits m a n x = (⟨.collide, bs⟩, t) ∧ t.out = s.out ∧ t.mem = s.mem ∧
      t.ctr (wMem + 0x0488) = (s.ctr (wMem + 0x0488)).inc := by
  have read : s.busRead m a n = (⟨.okay, s.poolRead a n⟩, s.foreign m a n) := by
    unfold State.busRead
    rw [ht]
    rfl
  have may : Does [.regs, .pea, .sec] s ((s.foreign m a n).eccFixed .pool a n x) :=
    eccFixed_does _ _ _ _ _ (foreign_does s m a n (Does.refl _ s) (by decide)) (by decide)
  have fixed : ((s.foreign m a n).eccFixed .pool a n x).ctr (wMem + 0x0488) = s.ctr (wMem + 0x0488) := by
    unfold State.eccFixed
    dsimp only
    rw [if_pos (by decide), ctr_countN _ _ _ (by decide), ctr_foreign _ _ _ _ (by decide)]
  unfold State.readHits
  dsimp only
  rw [read, ht, badAt_pool, hb, badIn_nil, if_neg (by simp), if_neg Bool.false_ne_true, hc, if_neg (by simp)]
  dsimp only
  generalize (s.foreign m a n).eccFixed .pool a n x = u at may fixed ⊢
  have one : u.collided m a n false x = u.collide m c.2.1 0 c.1 := by
    unfold State.collided
    rw [collisions_of_mem (may.frame .mem (by decide)), hc]
    rfl
  rw [one]
  refine ⟨_, _, rfl, may.frame .out (by decide), may.frame .mem (by decide), ?_⟩
  refine (congrFun (ctr_of_regs (s := u.collide m c.2.1 0 c.1) rfl) _).trans ?_
  rw [← fixed]
  unfold State.collide
  rw [State.ctr_capSet, State.ctr_count, if_pos rfl]

theorem targetRange_fly (s : State) (m : Nat) (f : Nat → Nat) (a n : Nat) : (s.fly m f).targetRange a n = s.targetRange a n := rfl

theorem fly_out (s : State) (m : Nat) (f : Nat → Nat) : (s.fly m f).out = s.out := rfl

theorem ctr_fly (s : State) (m : Nat) (f : Nat → Nat) : (s.fly m f).ctr = s.ctr := ctr_of_regs rfl

theorem scBit_fly (s : State) (m : Nat) (f : Nat → Nat) : (s.fly m f).scBit = s.scBit := scBit_of_regs rfl

/-- A change of the register file or the outputs between does not matter to what is in flight. -/
theorem mem_fly_back {s t : State} (m : Nat) (h : t.mem = (s.fly m (· + 1)).mem) : (t.fly m (· - 1)).mem = s.mem := by
  have e : (t.fly m (· - 1)).mem = ((s.fly m (· + 1)).fly m (· - 1)).mem := by
    unfold State.fly at h ⊢
    dsimp only at h ⊢
    rw [h]
  rw [e, fly_back]

section Burst

variable (s : State) (m a n : Nat) (h0 : 1 ≤ n) (h : a % 512 + n ≤ 512)
include h0 h

/-- A burst of pool SRAM on path A answers its bytes and changes nothing (R260, R273). -/
theorem hostRead_pathA (ht : s.targetRange a n = .pool) (hp : s.pathA m a n) :
    s.hostRead m a n clean = (⟨.okay, s.poolRead a n⟩, s) := by
  have hp' : (s.fly m (· + 1)).pathA m a n = true := hp
  rw [hostRead_one s m a n clean h0 h, readHits_pool ((targetRange_fly s m _ a n).trans ht), foreign_pathA hp', fly_back]
  rfl

theorem hostRead_refused (x : MemHits) (ht : s.targetRange a n = .none) : ∃ t, s.hostRead m a n x = (Ans.refused n, t) ∧
    t.out = s.out ∧ t.mem = s.mem ∧ t.ctr (wMem + 0x014C) = (s.ctr (wMem + 0x014C)).inc := by
  rw [hostRead_one s m a n x h0 h, readHits_none x ((targetRange_fly s m _ a n).trans ht)]
  refine ⟨_, rfl, ?_, ?_, ?_⟩
  · rw [fly_out, decerr_out, fly_out]
  · exact mem_fly_back m (decerr_mem _ m a false)
  · rw [ctr_fly, ctr_decerr, ctr_fly]

theorem hostRead_unc (x : MemHits) (ht : s.targetRange a n = .pool) (hb : badIn x.bad a n) : ∃ bs t,
    s.hostRead m a n x = (⟨.uncerr, bs⟩, t) ∧ t.out = s.out ∧ t.scBit rHealth 22 ∧
      t.ctr (wMem + 0x0810) = (s.ctr (wMem + 0x0810)).inc := by
  obtain ⟨bs, t, hr, ho, hs, hc⟩ := readHits_unc (m := m) ((targetRange_fly s m (· + 1) a n).trans ht) hb
  rw [hostRead_one s m a n x h0 h, hr]
  refine ⟨bs, _, rfl, ?_, ?_, ?_⟩
  · rw [fly_out, ho, fly_out]
  · rw [scBit_fly, hs]
  · rw [ctr_fly, hc, ctr_fly]

theorem hostRead_collide (x : MemHits) (ht : s.targetRange a n = .pool) (hb : x.bad = []) {c : Nat × Fin 14 × Bool}
    (hc : s.collisions m a n false x = [c]) : ∃ bs t, s.hostRead m a n x = (⟨.collide, bs⟩, t) ∧ t.out = s.out ∧ t.mem = s.mem ∧
      t.ctr (wMem + 0x0488) = (s.ctr (wMem + 0x0488)).inc := by
  have hc' : (s.fly m (· + 1)).collisions m a n false x = [c] := hc
  obtain ⟨bs, t, hr, ho, hm, hk⟩ := readHits_collide ((targetRange_fly s m (· + 1) a n).trans ht) hb hc'
  rw [hostRead_one s m a n x h0 h, hr]
  refine ⟨bs, _, rfl, ?_, mem_fly_back m hm, ?_⟩
  · rw [fly_out, ho, fly_out]
  · rw [ctr_fly, hk, ctr_fly]

end Burst

/-! ### Answers of an SPI port -/

section Spi

variable (s : State) (i : Fin 2)

theorem spiBegin_awake : (s.spiBegin i).awake = s.awake := by
  obtain ⟨b, hb⟩ := spiBegin_eq s i
  rw [hb]
  rfl

theorem spiBegin_masterOn (m : Nat) : (s.spiBegin i).masterOn m = s.masterOn m := by
  obtain ⟨b, hb⟩ := spiBegin_eq s i
  rw [hb]
  rfl

/-- READ ID answers the identification word, but in reset (R248). -/
theorem spiId_answer : s.begin.spiId i = { s.spiBegin i with
    out := [.spi i (if s.awake then 0xA5#8 :: wordBytes (s.regWord 0) else [0xE1#8, 0xFF#8])] } := by
  have word : (s.spiBegin i).begin.regWord 0 = s.regWord 0 := by
    obtain ⟨b, hb⟩ := spiBegin_eq s i
    rw [hb]
    rfl
  unfold State.spiId
  dsimp only
  rw [begin_spiBegin, word, State.begin_awake, spiBegin_awake]
  rfl

/-- READ STATUS answers the status byte, but in reset (R249). -/
theorem spiReadStatus_answer : s.begin.spiReadStatus i = { s.spiBegin i with
    out := [.spi i (if s.awake then [0xA5#8, s.spiStatus i] else [0xE1#8, 0xFF#8])] } := by
  have status : (s.spiBegin i).begin.spiStatus i = s.spiStatus i := by
    obtain ⟨b, hb⟩ := spiBegin_eq s i
    rw [hb]
    rfl
  unfold State.spiReadStatus
  dsimp only
  rw [begin_spiBegin, status, State.begin_awake, spiBegin_awake]
  rfl

theorem spiBegin_recRead (off : Nat) : (s.spiBegin i).begin.recRead off = s.recRead off := by
  obtain ⟨b, hb⟩ := spiBegin_eq s i
  rw [hb]
  exact recRead_begun s.begin b off

/-- A recovery window that answers (R250, R442): at an SPI port, and over PCIe. -/
theorem recoveryRead_spi (off : Nat) (on : s.windowOn (spiHost i)) : s.begin.recoveryRead (spiHost i) off =
    { s.spiBegin i with out := [.spi i (0xA5#8 :: wordBytes (s.recRead off))] } := by
  have on' : (s.spiBegin i).begin.windowOn (spiHost i) = true := by
    obtain ⟨b, hb⟩ := spiBegin_eq s i
    rw [hb]
    exact on
  have num : (spiHost i).val - 2 = i.val := by simp [spiHost]
  have port : (⟨(spiHost i).val - 2, num ▸ i.isLt⟩ : Fin 2) = i := Fin.ext num
  have spi : 2 ≤ (spiHost i).val := by simp [spiHost]
  unfold State.recoveryRead
  rw [dif_pos spi]
  dsimp only
  rw [port, num, begin_spiBegin, on', if_pos rfl, spiBegin_recRead]
  rfl

theorem recoveryRead_pcie (k : Fin 4) (hk : k.val < 2) (off : Nat) (on : s.windowOn k) : s.begin.recoveryRead k off =
    { s with out := [.pcie k true (wordBytes (s.recRead off))] } := by
  have on' : s.begin.windowOn k = true := on
  have same : s.begin.recRead off = s.recRead off := recRead_begun s.begin s.mem.begun off
  unfold State.recoveryRead
  rw [dif_neg (by omega), if_pos on', same]
  rfl

/-! ### READ -/

theorem spiBegin_drain (hw : (s.host (spiHost i)).wbuf = []) : (s.begin.spiBegin i).spiDrain i = (s.spiBegin i).begin := by
  have hw' : ((s.spiBegin i).begin.host (spiHost i)).wbuf = [] := by
    obtain ⟨b, hb⟩ := spiBegin_eq s i
    rw [hb]
    exact hw
  rw [begin_spiBegin, spiDrain_empty _ i hw']

variable (a n : Nat) (late : Bool) (x : MemHits)

/-- READ without data in time, or with the matrix out of reach (R248). -/
theorem spiRead_late (hw : (s.host (spiHost i)).wbuf = []) (h : s.masterOn (2 + i.val) = false ∨ late) :
    s.begin.spiRead i a n late x = { s.spiBegin i with out := [.spi i [0xE1#8, 0xFF#8]] } := by
  have h' : (!(s.spiBegin i).begin.masterOn (2 + i.val)) = true ∨ late = true := by
    have e : (s.spiBegin i).begin.masterOn (2 + i.val) = s.masterOn (2 + i.val) := spiBegin_masterOn s i _
    rw [e]
    exact h.imp (fun k => by rw [k]; rfl) id
  unfold State.spiRead
  dsimp only
  rw [spiBegin_drain s i hw, if_pos h']
  rfl

/-- READ answers what the matrix answers (R248, R277). -/
theorem spiRead_answer (hw : (s.host (spiHost i)).wbuf = []) (on : s.masterOn (2 + i.val)) {r : Ans × State}
    (hr : (s.spiBegin i).begin.hostRead (2 + i.val) a (min n 64) x = r) : s.begin.spiRead i a n false x =
      if r.1.resp = .decerr then r.2.emit (.spi i [0xE0#8, 0xFF#8])
      else if r.1.resp = .uncerr then r.2.emit (.spi i [0xE2#8, 0xFF#8])
      else (if r.1.resp = .collide then r.2.raiseBusy (2 + i.val) else r.2).emit
        (.spi i (0xA5#8 :: r.1.bytes ++ List.replicate (n - 64) 0xFF#8)) := by
  have on' : ¬ ((!(s.spiBegin i).begin.masterOn (2 + i.val)) = true ∨ false = true) := by
    have e : (s.spiBegin i).begin.masterOn (2 + i.val) = true := (spiBegin_masterOn s i _).trans on
    rw [e]
    decide
  unfold State.spiRead
  dsimp only
  rw [spiBegin_drain s i hw, if_neg on', hr]

end Spi

/-- A raised BUSY is shown at an SPI port's pin (R277). -/
theorem raiseBusy_spi (s : State) (i : Fin 2) : s.raiseBusy (2 + i.val) =
    { s with mem := { s.mem with busy := s.mem.busy.set i true, begun := s.mem.begun.set i false } } := by
  have spi : 2 + i.val = 2 ∨ 2 + i.val = 3 := by omega
  have num : 2 + i.val - 2 = i.val := by omega
  unfold State.raiseBusy
  rw [if_pos spi, num]

/-- Settles O46. -/
theorem spiReadTransactions : Obligations.SpiReadTransactions := by
  intro s i g h
  have runId : exec (.readId i) s = .next (s.begin.spiId i) := rfl
  have runStatus : exec (.readStatus i) s = .next (s.begin.spiReadStatus i) := rfl
  refine ⟨fun on => ?_, fun h0 => ?_, fun off => ⟨?_, ?_⟩, fun on => ⟨s.spiStatus i, ?_, ?_⟩, fun off on => ?_, fun k off hk on => ?_,
    fun a n late m hw h0 hin => ?_⟩
  · rw [runId, spiId_answer, on, if_pos rfl]
  · rw [regWord_zero, h0]
    rfl
  · rw [runId, spiId_answer, off, if_neg Bool.false_ne_true]
  · rw [runStatus, spiReadStatus_answer, off, if_neg Bool.false_ne_true]
  · rw [runStatus, spiReadStatus_answer, on, if_pos rfl]
  · obtain ⟨h0, h1, h2, h3, h4⟩ := statusByte_bits (s.up secHost && decide ((s.host h).wbuf.length < 4)) (s.irqLevel h)
      (s.scBit (rHstStat h) 10) (decide ((s.host h).ver ≠ 0)) (s.scBit (rHstStat h) 14)
    have e : s.spiStatus i = BitVec.ofNat 8 (b2n (s.up secHost && decide ((s.host h).wbuf.length < 4)) + 2 * b2n (s.irqLevel h) +
      4 * b2n (s.scBit (rHstStat h) 10) + 8 * b2n (decide ((s.host h).ver ≠ 0)) + 16 * b2n (s.scBit (rHstStat h) 14)) := rfl
    rw [e, h0, h1, h2, h3, h4]
    simp
  · exact congrArg _ (recoveryRead_spi s i off.toNat on)
  · exact congrArg _ (recoveryRead_pcie s k hk off.toNat on)
  · intro k
    have hk0 : 1 ≤ k := Nat.le_min.2 ⟨h0, by decide⟩
    have run : exec (.read i a n late m) s = .next (s.begin.spiRead i a.toNat n late m) := rfl
    obtain ⟨b, hb⟩ := spiBegin_eq s i
    have range : (s.spiBegin i).begin.targetRange a.toNat k = s.targetRange a.toNat k := by
      rw [hb]
      rfl
    rw [run]
    refine ⟨fun off => ?_, fun on hl hm ht hp => ?_, fun on hl ht => ?_, fun on hl hbad ht => ?_,
      fun on hl hbad w am hcoll hlo hhi ht hp hlen => ?_⟩
    · exact congrArg _ (spiRead_late s i a.toNat n late m hw off)
    · subst hl hm
      have path : (s.spiBegin i).begin.pathA (2 + i.val) a.toNat k = true := by
        rw [hb]
        exact hp
      have bytes : (s.spiBegin i).begin.poolRead a.toNat k = s.poolRead a.toNat k := by
        rw [hb]
        rfl
      rw [spiRead_answer s i a.toNat n _ hw on (hostRead_pathA _ _ _ _ hk0 hin (range.trans ht) path), bytes]
      rfl
    · subst hl
      obtain ⟨t, hr, ho, hm, hc⟩ := hostRead_refused (s.spiBegin i).begin (2 + i.val) a.toNat k hk0 hin m (range.trans ht)
      rw [spiRead_answer s i a.toNat n m hw on hr, if_pos rfl]
      refine ⟨_, rfl, ?_, ?_, hm⟩
      · rw [State.emit_out, ho]
        rfl
      · refine hc.trans ?_
        rw [hb]
        rfl
    · subst hl
      obtain ⟨bs, t, hr, ho, hs, hc⟩ := hostRead_unc (s.spiBegin i).begin (2 + i.val) a.toNat k hk0 hin m (range.trans ht) hbad
      rw [spiRead_answer s i a.toNat n m hw on hr, if_neg nofun, if_pos rfl]
      refine ⟨_, rfl, ?_, hs, ?_⟩
      · rw [State.emit_out, ho]
        rfl
      · refine hc.trans ?_
        rw [hb]
        rfl
    · subst hl
      have met : (s.spiBegin i).begin.collisions (2 + i.val) a.toNat k false m = [(w, am, true)] := by
        have path : (s.spiBegin i).begin.pathA (2 + i.val) a.toNat k = false := by
          rw [hb]
          exact hp
        unfold State.collisions
        rw [range, ht, path, hcoll]
        simp [hlo, hhi]
      obtain ⟨bs, t, hr, ho, hm, hc⟩ := hostRead_collide (s.spiBegin i).begin (2 + i.val) a.toNat k hk0 hin m (range.trans ht) hbad met
      rw [spiRead_answer s i a.toNat n m hw on hr, if_neg nofun, if_neg nofun, if_pos rfl, raiseBusy_spi]
      have hmem : t.mem = { s.mem with begun := b } := by
        rw [hm, hb]
        rfl
      refine ⟨_, rfl, ?_, ?_, ?_⟩
      · show (t.mem.busy.set i true).getD i false = true
        rw [hmem]
        have hi : i.val < s.mem.busy.length := by rw [hlen]; exact i.isLt
        simp [hi]
      · show t.mem.pool = s.mem.pool
        rw [hmem]
      · refine Eq.trans ?_ (hc.trans ?_)
        · exact congrFun (ctr_of_regs rfl) _
        · rw [hb]
          rfl

end Sys2Proof.Arch
end

section
/-! PROOF. Arbitration, grants and the patrol scrub (R264 to R272, R279). -/

namespace Sys2Proof.Arch
open Sys2Proof.Machine Sys2Proof.Safety Sys2Proof.Laws


/-! ### The head picked (R265 to R267) -/

theorem headAge_le (now : Nat) (h : MtxHead) : headAge now h ≤ 1023 := Nat.min_le_left _ _

/-- The order of R265 to R267 between two heads: x is at least as good as y. -/
def Ahead (pt ptr now : Nat) (prec : Bool) (x y : MtxHead) : Prop :=
  (prec → headHigh pt y → headHigh pt x) ∧
    ((prec = false ∨ headHigh pt y = headHigh pt x) → headAge now y ≤ headAge now x ∧
      (headAge now y = headAge now x → ptrDist ptr x.master ≤ ptrDist ptr y.master))

theorem Ahead.refl (pt ptr now : Nat) (prec : Bool) (x : MtxHead) : Ahead pt ptr now prec x x :=
  ⟨fun _ => id, fun _ => ⟨Nat.le_refl _, fun _ => Nat.le_refl _⟩⟩

/-- Between heads of one class, or without precedence, age decides and then the distance from the pointer. -/
theorem ahead_of_same {pt ptr now : Nat} {prec : Bool} {x y : MtxHead} (same : prec = false ∨ headHigh pt x = headHigh pt y)
    (age : headAge now y ≤ headAge now x) (dist : headAge now y = headAge now x → ptrDist ptr x.master ≤ ptrDist ptr y.master) :
    Ahead pt ptr now prec x y := by
  refine ⟨fun hp hy => ?_, fun _ => ⟨age, dist⟩⟩
  rcases same with h | h
  · rw [hp] at h
    exact absurd h (by decide)
  · rw [h, hy]

/-- Under precedence a head of the high class is ahead of one that is not. -/
theorem ahead_of_high {pt ptr now : Nat} {prec : Bool} {x y : MtxHead} (hp : prec = true) (hx : headHigh pt x = true)
    (hy : headHigh pt y = false) : Ahead pt ptr now prec x y := by
  refine ⟨fun _ _ => hx, fun h => ?_⟩
  rw [hp, hx, hy] at h
  exact absurd h (by decide)

theorem Ahead.trans {pt ptr now : Nat} {prec : Bool} {x y z : MtxHead} (h : Ahead pt ptr now prec x y) (k : Ahead pt ptr now prec y z) :
    Ahead pt ptr now prec x z := by
  obtain ⟨h1, h2⟩ := h
  obtain ⟨k1, k2⟩ := k
  refine ⟨fun hp hz => h1 hp (k1 hp hz), fun hc => ?_⟩
  have classes : (prec = false ∨ headHigh pt y = headHigh pt x) ∧ (prec = false ∨ headHigh pt z = headHigh pt y) := by
    revert h1 k1 hc
    cases prec <;> cases headHigh pt x <;> cases headHigh pt y <;> cases headHigh pt z <;> decide
  obtain ⟨a1, d1⟩ := h2 classes.1
  obtain ⟨a2, d2⟩ := k2 classes.2
  exact ⟨Nat.le_trans a2 a1, fun e => Nat.le_trans (d1 (by omega)) (d2 (by omega))⟩

theorem ahead_of_before {pt ptr now : Nat} {prec : Bool} {x y : MtxHead} (h : headBefore pt ptr now prec x y) :
    Ahead pt ptr now prec x y := by
  unfold headBefore at h
  split at h
  · next diff =>
    simp only [Bool.and_eq_true, bne_iff_ne, ne_eq] at diff
    exact ahead_of_high diff.1 h (by simpa [h] using diff.2)
  · next same =>
    have same' : prec = false ∨ headHigh pt x = headHigh pt y := by
      cases prec <;> simp_all
    split at h
    · have lt := of_decide_eq_true h
      exact ahead_of_same same' (Nat.le_of_lt lt) fun e => absurd e (Nat.ne_of_lt lt)
    · next e =>
      exact ahead_of_same same' (Nat.le_of_eq (Decidable.not_not.1 e).symm) fun _ => Nat.le_of_lt (of_decide_eq_true h)

theorem ahead_of_not_before {pt ptr now : Nat} {prec : Bool} {x y : MtxHead} (h : headBefore pt ptr now prec x y = false) :
    Ahead pt ptr now prec y x := by
  unfold headBefore at h
  split at h
  · next diff =>
    simp only [Bool.and_eq_true, bne_iff_ne, ne_eq] at diff
    exact ahead_of_high diff.1 (by simpa [h] using diff.2) h
  · next same =>
    have same' : prec = false ∨ headHigh pt y = headHigh pt x := by
      cases prec <;> simp_all
    split at h
    · next ne =>
      have lt : ¬ headAge now y < headAge now x := of_decide_eq_false h
      exact ahead_of_same same' (by omega) fun e => absurd e ne
    · next e =>
      have le : ¬ ptrDist ptr x.master < ptrDist ptr y.master := of_decide_eq_false h
      exact ahead_of_same same' (Nat.le_of_eq (Decidable.not_not.1 e)) fun _ => by omega

/-- Where a head waits, one is picked. -/
theorem pick_none {pt ptr now : Nat} {prec : Bool} {hs : List MtxHead} (h : pick pt ptr now prec hs = none) : hs = [] := by
  cases hs with
  | nil => rfl
  | cons a r =>
    simp only [pick] at h
    split at h
    · cases h
    · split at h <;> cases h

/-- The head picked waits there, and is at least as good as each of the others. -/
theorem pick_ahead {pt ptr now : Nat} {prec : Bool} {hs : List MtxHead} {x : MtxHead} (h : pick pt ptr now prec hs = some x) :
    x ∈ hs ∧ ∀ y ∈ hs, Ahead pt ptr now prec x y := by
  induction hs generalizing x with
  | nil => cases h
  | cons a r ih =>
    simp only [pick] at h
    cases hr : pick pt ptr now prec r with
    | none =>
      rw [hr] at h
      obtain rfl := Option.some.inj h
      rw [pick_none hr]
      exact ⟨List.mem_singleton_self _, fun y hy => List.mem_singleton.1 hy ▸ Ahead.refl ..⟩
    | some b =>
      obtain ⟨hb, best⟩ := ih hr
      rw [hr] at h
      dsimp only at h
      split at h
      · next before =>
        obtain rfl := Option.some.inj h
        exact ⟨List.mem_cons_of_mem _ hb, List.forall_mem_cons.2 ⟨ahead_of_before before, best⟩⟩
      · next before =>
        obtain rfl := Option.some.inj h
        have ahead := ahead_of_not_before (Bool.eq_false_iff.2 before)
        exact ⟨List.mem_cons_self, List.forall_mem_cons.2 ⟨Ahead.refl .., fun y hy => ahead.trans (best y hy)⟩⟩

/-! ### A lone head (R264 to R270) -/

/-- No head waits at any point. -/
def NoHeads (s : State) : Prop := s.mem.heads = List.replicate 8 []

theorem NoHeads.eq {s : State} (h : NoHeads s) : s.mem.heads = List.replicate 8 [] := h

theorem NoHeads.at {s : State} (h : NoHeads s) (pt : Nat) : s.mem.heads.getD pt [] = [] := by
  rw [h, List.getD_eq_getElem?_getD, List.getElem?_replicate]
  split <;> rfl

theorem NoHeads.behind {s : State} (h : NoHeads s) (x : MtxHead) : s.behind x = false := by
  unfold State.behind
  rw [h]
  rfl

/-- Without heads there is nothing to grant. -/
theorem arbitrate_idle (s : State) (pt : Fin 8) (r : MtxReq) (hn : NoHeads s) (hr : r.heads = []) (hd : r.done = []) :
    s.arbitrate pt r = s := by
  unfold State.arbitrate
  dsimp only
  rw [hr, hd, List.foldl_nil, List.foldl_nil, List.foldl_nil, hn.at]
  rfl

/-- A head that is not shown to this point waits nowhere. -/
theorem present_elsewhere {s : State} {pt : Nat} {x : MtxHead} (h : s.pointOf x.master x.addr.toNat (opLen x.op) ≠ some pt) :
    s.present pt x = s := by
  unfold State.present
  dsimp only
  rw [if_neg]
  simp [h]

/-- The heads that the arbitration of a point may pick (R274). -/
def eligible (u : State) (pt : Nat) : List MtxHead :=
  (u.mem.heads.getD pt []).filter fun h => u.masterOn h.master.val && !((pt = 2 || pt = 3) && u.withheld h.master)

/-- The arbitration of one head where u is the state before the pick, and nothing is there to pick. -/
theorem arbitrate_none {s u : State} {pt : Nat} {r : MtxReq} {x : MtxHead} (hr : r.heads = [x]) (hd : r.done = [])
    (hu : (s.defaulted x).present pt x = u) (he : eligible u pt = []) : s.arbitrate pt r = u := by
  unfold eligible at he
  unfold State.arbitrate
  dsimp only
  rw [hr, hd, List.foldl_nil, List.foldl_cons, List.foldl_nil, List.foldl_cons, List.foldl_nil, hu, he]
  rfl

/-- The arbitration of one head where u is the state before the pick, and that head alone is there to pick. -/
theorem arbitrate_one {s u : State} {pt : Nat} {r : MtxReq} {x : MtxHead} (hr : r.heads = [x]) (hd : r.done = [])
    (hu : (s.defaulted x).present pt x = u) (he : eligible u pt = [x]) : s.arbitrate pt r = u.granted pt r x := by
  unfold eligible at he
  unfold State.arbitrate
  dsimp only
  rw [hr, hd, List.foldl_nil, List.foldl_cons, List.foldl_nil, List.foldl_cons, List.foldl_nil, hu, he]
  rfl

/-- A head that leads nowhere is answered at once, and none waits (R24, R258, R259). -/
theorem arbitrate_nowhere {s : State} {pt : Nat} {r : MtxReq} {x : MtxHead} (hn : NoHeads s) (hr : r.heads = [x])
    (hd : r.done = []) (on : s.masterOn x.master) (reach : mayReach x.master (s.targetOf x.addr.toNat))
    (ht : s.targetOf x.addr.toNat = .none) :
    s.arbitrate pt r = (s.decerr x.master x.addr.toNat (opWrites x.op)).emit (.data .decerr (List.replicate (opLen x.op) 0)) := by
  have answered : s.defaulted x =
      (s.decerr x.master x.addr.toNat (opWrites x.op)).emit (.data .decerr (List.replicate (opLen x.op) 0)) := by
    unfold State.defaulted
    rw [if_pos]
    rw [ht] at reach
    simp [on, reach, ht]
  rw [← answered]
  have hm : (s.defaulted x).mem = s.mem := by
    rw [answered, State.emit_mem, decerr_mem]
  have nowhere : (s.defaulted x).targetOf x.addr.toNat = .none := by
    rw [← ht]
    unfold State.targetOf State.usable
    rw [hm]
  have unseen : (s.defaulted x).present pt x = s.defaulted x := by
    refine present_elsewhere fun h => ?_
    unfold State.pointOf at h
    rw [nowhere] at h
    cases h
  have idle : NoHeads (s.defaulted x) := by
    unfold NoHeads
    rw [hm]
    exact hn
  refine arbitrate_none hr hd unseen ?_
  rw [eligible, idle.at, List.filter_nil]

/-- The heads of a point, replaced. -/
def withHeads (s : State) (pt : Nat) (l : List MtxHead) : State := { s with mem := { s.mem with heads := s.mem.heads.set pt l } }

/-- The pointer past the head's master, and the head gone from its point (R265, R267). -/
def chosen (s : State) (pt : Nat) (r : MtxReq) (h : MtxHead) : State :=
  let used := s.precUsed pt r.now
  let used := if s.precedence pt r.now && headHigh pt h then r.now :: used else used
  { s with mem := { s.mem with
    ptr := s.mem.ptr.set pt ((h.master.val + 1) % 14), precs := s.mem.precs.set pt used
    heads := s.mem.heads.set pt ((s.mem.heads.getD pt []).erase h) } }

/-- The state in which a granted head's burst begins: chosen, its wait noted, its transaction in flight. -/
def taken (s : State) (pt : Nat) (r : MtxReq) (h : MtxHead) : State :=
  (((chosen s pt r h).waited pt h.master (r.now - h.since)).fly h.master (· + 1)).keepA pt h

theorem granted_uncut {s : State} {pt : Nat} {r : MtxReq} {h : MtxHead} (hc : r.cut = none) :
    s.granted pt r h = (taken s pt r h).burst pt r h := by
  unfold State.granted
  rw [hc]
  rfl

theorem waited_mem (s : State) (pt m wait : Nat) : ∃ w, (s.waited pt m wait).mem = { s.mem with waits := w } := by
  unfold State.waited
  dsimp only
  split
  · exact ⟨_, rfl⟩
  · exact ⟨_, rfl⟩

theorem keepA_mem (s : State) (pt : Nat) (h : MtxHead) : ∃ p, (s.keepA pt h).mem = { s.mem with prevA := p } := by
  unfold State.keepA
  split
  · exact ⟨_, rfl⟩
  · exact ⟨_, rfl⟩

/-- What a grant changes of the memories' state before the burst (R265, R267, R270, R272, R282). -/
theorem taken_mem (s : State) (pt : Nat) (r : MtxReq) (h : MtxHead) : ∃ used w p, (taken s pt r h).mem = { s.mem with
    ptr := s.mem.ptr.set pt ((h.master + 1) % 14), precs := used, waits := w, prevA := p
    heads := s.mem.heads.set pt ((s.mem.heads.getD pt []).erase h)
    flight := s.mem.flight.set h.master (s.mem.flight.getD h.master 0 + 1) } := by
  obtain ⟨w, hw⟩ := waited_mem (chosen s pt r h) pt h.master (r.now - h.since)
  obtain ⟨p, hp⟩ := keepA_mem (((chosen s pt r h).waited pt h.master (r.now - h.since)).fly h.master (· + 1)) pt h
  refine ⟨(chosen s pt r h).mem.precs, w, p, ?_⟩
  rw [taken, hp, State.fly, hw]
  rfl

theorem taken_out (s : State) (pt : Nat) (r : MtxReq) (h : MtxHead) : (taken s pt r h).out = s.out := by
  have kept : Does [.regs, .mem] (chosen s pt r h) (taken s pt r h) :=
    keepA_does _ _ _ (fly_does _ _ _ (waited_does _ _ _ _ (Does.refl _ _) (by decide)) (by decide)) (by decide)
  exact kept.frame .out (by decide)

/-- A lone head that may be presented, and a burst of it that nothing meets. -/
structure Lone (s : State) (pt : Fin 8) (r : MtxReq) (x : MtxHead) : Prop where
  idle : NoHeads s
  heads : r.heads = [x]
  done : r.done = []
  uncut : r.cut = none
  alone : r.meets = none
  sound : r.hits = clean
  on : s.masterOn x.master
  reach : mayReach x.master (s.targetOf x.addr.toNat)
  may : s.mayIssueTx x.master
  free : s.withheld x.master = false
  here : s.pointOf x.master x.addr.toNat (opLen x.op) = some pt.val

/-- A lone head that may be presented is granted at once (R264, R267, R270). -/
theorem arbitrate_alone {s : State} {pt : Fin 8} {r : MtxReq} {x : MtxHead} (h : Lone s pt r x) :
    s.arbitrate pt r = (taken (withHeads s pt [x]) pt r x).burst pt r x := by
  obtain ⟨hn, hr, hd, hc, -, -, on, reach, may, free, here⟩ := h
  have led : s.targetOf x.addr.toNat ≠ .none := by
    intro h
    unfold State.pointOf at here
    rw [h] at here
    cases here
  have undefaulted : s.defaulted x = s := by
    unfold State.defaulted
    rw [if_neg]
    simp [led]
  have presented : (s.defaulted x).present pt x = withHeads s pt [x] := by
    rw [undefaulted]
    unfold State.present
    dsimp only
    rw [hn.at, if_pos]
    · rfl
    · simp [on, reach, here, may, free, hn.behind]
  have waits : (withHeads s pt [x]).mem.heads.getD pt [] = [x] := by
    show (s.mem.heads.set pt [x]).getD pt [] = [x]
    rw [hn, List.getD_eq_getElem?_getD, List.getElem?_set_self (by simp)]
    rfl
  have on' : (withHeads s pt [x]).masterOn x.master = true := on
  have free' : (withHeads s pt [x]).withheld x.master = false := free
  refine (arbitrate_one hr hd presented ?_).trans (granted_uncut hc)
  rw [eligible, waits, List.filter_cons_of_pos (by simp [on', free']), List.filter_nil]

/-! ### What a burst that meets nothing wrong does (R260, R272) -/

theorem eccOp_clean (s : State) (m : Fin 14) (a : Nat) (op : MtxOp) (b : Bool) : s.eccOp m a clean op b = s.runOp m a op b := by
  have nothing (t : Target) : badAt clean t a = [] := badAt_of_none rfl rfl t a
  have whole (n : Nat) : (lostParts a n []).isEmpty := by
    simp [lostParts, badIn_nil]
  unfold State.eccOp
  dsimp only
  rw [nothing]
  split
  · rfl
  · cases op <;> simp [whole, badIn_nil, eccFixed_clean]

/-- A burst that meets no access of the other port and no bad word answers what its operation does. -/
theorem burst_okay {s t : State} {pt : Nat} {r : MtxReq} {x : MtxHead} {bs : List Byte} (hm : r.meets = none)
    (hh : r.hits = clean) (run : s.runOp x.master x.addr.toNat x.op false = (⟨.okay, bs⟩, t)) :
    s.burst pt r x = t.emit (.data .okay bs) := by
  have whole : mtxBreaks r pt x.op = false := by
    simp [mtxBreaks, hm]
  unfold State.burst
  rw [hh, whole, eccOp_clean, run, hm]
  rfl

/-- Targets depend on the memory fitted alone (R23). -/
theorem targetRange_of_size {s t : State} (h : t.mem.size = s.mem.size) (a n : Nat) : t.targetRange a n = s.targetRange a n := by
  unfold State.targetRange State.crosses State.bounds State.targetOf State.usable
  rw [h]

/-- A write of an engine to pool SRAM stores its bytes there; memory changes in nothing else. -/
theorem devWrite_pool {s : State} {m a : Nat} {bs : List Byte} (h0 : bs ≠ []) (ht : s.targetRange a bs.length = .pool) :
    ∃ t, s.devWrite m a bs false = (true, t) ∧ t.mem = { s.mem with pool := s.mem.pool.setN (a - poolBase) bs } ∧ t.out = s.out := by
  have routed := foreigns_does s m a bs.length (Does.refl [.regs] s) (List.Subset.refl _)
  refine ⟨(s.foreigns m a bs.length).poolWrite a bs, ?_, ?_, routed.frame .out (by decide)⟩
  · unfold State.devWrite
    rw [if_neg (by simpa using h0), ht]
  · have kept : (s.foreigns m a bs.length).mem = s.mem := routed.frame .mem (by decide)
    unfold State.poolWrite
    rw [kept]

/-- Bytes written read back. -/
theorem getN_setN (m : Mem) (a : Nat) (bs : List Byte) : (m.setN a bs).getN a bs.length = bs := by
  induction bs generalizing m a with
  | nil => rfl
  | cons b r ih =>
    have first : ((m.set a b).setN (a + 1) r).get a = b := by
      rw [Mem.get_setN, if_neg (by omega), Mem.get_set, if_pos rfl]
    rw [Mem.setN, List.length_cons, Mem.getN, first, ih]

theorem natLe_length (n v : Nat) : (natLe n v).length = n := by
  induction n generalizing v with
  | zero => rfl
  | succ n ih => rw [natLe, List.length_cons, ih]

/-- An atomic exchange of an aligned word of pool SRAM answers the old bytes and stores the new ones (R272). -/
theorem runOp_swap {s : State} {m : Fin 14} {a n v : Nat} (hn : n = 4 ∨ n = 8) (hal : a % n = 0)
    (hm : m = 4 ∨ m = 10 ∨ m = 13) (ht : s.targetRange a n = .pool) :
    ∃ t, s.runOp m a (.swap n v) false = (⟨.okay, s.poolRead a n⟩, t) ∧
      t.mem = { s.mem with pool := s.mem.pool.setN (a - poolBase) (natLe n v) } ∧ t.out = s.out := by
  have some_bytes : natLe n v ≠ [] := by
    intro h
    have := natLe_length n v
    rw [h] at this
    rcases hn with rfl | rfl <;> cases this
  have masters : m.val = 4 ∨ m.val = 10 ∨ m.val = 13 := by
    rcases hm with rfl | rfl | rfl <;> decide
  have modify : opModify m a (s.poolRead a n) (.swap n v) = some (natLe n v) := if_pos ⟨masters, hn, hal⟩
  obtain ⟨t, hw, tm, kept⟩ := devWrite_pool (s := s) (m := m) (a := a) some_bytes (by rw [natLe_length, ht])
  refine ⟨t, ?_, tm, kept⟩
  simp [State.runOp, opLen, ht, modify, hw]

/-- A lone head granted: the pointer is past its master, it waits no more, and its transaction is in flight. -/
def Moved (s : State) (pt : Nat) (x : MtxHead) (t : State) : Prop :=
  t.mem.ptr = s.mem.ptr.set pt ((x.master + 1) % 14) ∧ t.mem.heads.getD pt [] = [] ∧
    t.mem.flight = s.mem.flight.set x.master (s.mem.flight.getD x.master 0 + 1)

/-- What is left of s when a lone head of it is granted and its burst begins, and what is not: `Moved`. -/
theorem taken_alone {s : State} {pt : Fin 8} {r : MtxReq} {x : MtxHead} (hn : NoHeads s) :
    ∃ u, taken (withHeads s pt [x]) pt r x = u ∧ u.out = s.out ∧
      u.mem.size = s.mem.size ∧ u.mem.bulk = s.mem.bulk ∧ u.mem.pool = s.mem.pool ∧ Moved s pt x u := by
  obtain ⟨used, w, p, h⟩ := taken_mem (withHeads s pt [x]) pt r x
  refine ⟨_, rfl, taken_out _ pt r x, ?_⟩
  unfold Moved
  rw [h]
  refine ⟨rfl, rfl, rfl, rfl, ?_, rfl⟩
  simp [withHeads, NoHeads.eq hn]

/-- The reads, pool writes and exchanges of a lone head: what it answers, and what it leaves. -/
theorem lone_served {s : State} {pt : Fin 8} {r : MtxReq} {x : MtxHead} (ho : s.out = []) (h : Lone s pt r x) :
    let a := x.addr.toNat
    (∀ n, x.op = .read n → s.targetRange a n = .bulk →
      (s.arbitrate pt r).out = [.data .okay (s.mem.bulk.getN a n)] ∧ (s.arbitrate pt r).mem.bulk = s.mem.bulk ∧
        (s.arbitrate pt r).mem.pool = s.mem.pool ∧ Moved s pt x (s.arbitrate pt r)) ∧
    (∀ d, x.op = .write d → d ≠ [] → s.targetRange a d.length = .pool →
      (s.arbitrate pt r).out = [.data .okay []] ∧ (s.arbitrate pt r).mem.bulk = s.mem.bulk ∧
        (s.arbitrate pt r).mem.pool = s.mem.pool.setN (a - poolBase) d ∧ Moved s pt x (s.arbitrate pt r)) ∧
    (∀ n v, x.op = .swap n v → (n = 4 ∨ n = 8) → a % n = 0 → (x.master = 4 ∨ x.master = 10 ∨ x.master = 13) →
      s.targetRange a n = .pool → (s.arbitrate pt r).out = [.data .okay (s.poolRead a n)] ∧
        (s.arbitrate pt r).mem.pool = s.mem.pool.setN (a - poolBase) (natLe n v) ∧ Moved s pt x (s.arbitrate pt r)) := by
  intro a
  obtain ⟨u, hu, uo, uz, ub, up, moved⟩ := taken_alone (pt := pt) (r := r) (x := x) h.idle
  rw [ho] at uo
  rw [arbitrate_alone h, hu]
  obtain ⟨mp, mh, mf⟩ := moved
  refine ⟨fun n op ht => ?_, fun d op h0 ht => ?_, fun n v op hn hal hma ht => ?_⟩
  · have run : u.runOp x.master a x.op false = (⟨.okay, s.mem.bulk.getN a n⟩, u) := by
      rw [op, State.runOp, State.busRead, targetRange_of_size uz, ht, State.readAt, ub]
    rw [burst_okay h.alone h.sound run]
    refine ⟨?_, ub, up, mp, mh, mf⟩
    rw [State.emit_out, uo]
    rfl
  · obtain ⟨t, hw, tm, kept⟩ := devWrite_pool (m := x.master) h0 ((targetRange_of_size uz a d.length).trans ht)
    have run : u.runOp x.master a x.op false = (⟨.okay, []⟩, t) := by
      rw [op, State.runOp, State.busWrite, targetRange_of_size uz, ht, if_neg (by decide), hw]
      rfl
    rw [burst_okay h.alone h.sound run]
    unfold Moved
    rw [State.emit_mem, tm, State.emit_out, kept, uo, up]
    exact ⟨rfl, ub, rfl, mp, mh, mf⟩
  · obtain ⟨t, hrun, tm, kept⟩ := runOp_swap (v := v) hn hal hma ((targetRange_of_size uz a n).trans ht)
    have run : u.runOp x.master a x.op false = (⟨.okay, s.poolRead a n⟩, t) := by
      rw [op, hrun, State.poolRead, up]
      rfl
    rw [burst_okay h.alone h.sound run]
    unfold Moved
    rw [State.emit_mem, tm, State.emit_out, kept, uo, up]
    exact ⟨rfl, rfl, mp, mh, mf⟩

/-! ### The patrol scrub (R279, R288) -/

theorem patrol_one {s : State} {y : ScrubHit} (up : s.up secMem) (tr : s.mem.trained) (on : s.rwBit (wMem + 0x0800) 8)
    (ht : s.targetRange y.addr.toNat 8 = .bulk) : s.patrol [y] =
      if y.unc || y.addrChk then s.uncErr 10 y.addr.toNat true y.addrChk else s.count (wMem + 0x080C) := by
  unfold State.patrol
  rw [if_pos (by simp [up, tr, on]), List.foldl_cons, List.foldl_nil, State.scrubHit, if_neg (by simp [ht])]

theorem patrol_off {s : State} (y : ScrubHit) (h : s.up secMem = false ∨ s.mem.trained = false ∨ s.rwBit (wMem + 0x0800) 8 = false) :
    s.patrol [y] = s := by
  unfold State.patrol
  rw [if_neg]
  rcases h with h | h | h <;> simp [h]

/-- Settles O48: the pick by induction on the heads, a lone head by what its grant and its burst change. -/
theorem matrixServesTheHeadItPicks : Obligations.MatrixServesTheHeadItPicks := by
  refine ⟨fun _ _ _ _ _ _ => pick_ahead, headAge_le, fun s pt r x hn => ?_, fun s y => ⟨fun h => ?_, fun up tr on ht => ?_⟩⟩
  · have run : exec (.matrixGrant pt r) s = .next (s.begin.arbitrate pt r) := rfl
    have hn' : NoHeads s.begin := hn
    rw [run]
    refine ⟨fun hr hd => congrArg _ (arbitrate_idle _ pt r hn' hr hd), fun hr on reach hh hm hc hd may free => ⟨fun here => ?_, fun ht => ?_⟩⟩
    · obtain ⟨read, write, swap⟩ := lone_served (s := s.begin) rfl ⟨hn', hr, hd, hc, hm, hh, on, reach, may, free, here⟩
      refine ⟨fun n op ht => ⟨_, rfl, read n op ht⟩, fun d op h0 ht => ?_, fun n v op hn hal hma ht => ?_⟩
      · obtain ⟨out, bulk, pool, moved⟩ := write d op h0 ht
        refine ⟨_, rfl, out, ?_, bulk, moved, fun b hb => ?_⟩
        · rw [State.poolRead, pool, getN_setN]
        · rw [pool, Mem.get_setN, if_neg (by omega)]
          rfl
      · obtain ⟨out, pool, moved⟩ := swap n v op hn hal hma ht
        refine ⟨_, rfl, out, ?_, moved⟩
        have back := getN_setN s.mem.pool (x.addr.toNat - poolBase) (natLe n v)
        rw [natLe_length] at back
        rw [State.poolRead, pool]
        exact back
    · rw [arbitrate_nowhere hn' hr hd on reach ht]
      refine ⟨_, rfl, ?_, (congrFun (ctr_of_regs (State.emit_regs _ _)) _).trans (ctr_decerr s.begin _ _ _), (State.emit_mem _ _).trans (decerr_mem s.begin _ _ _)⟩
      rw [State.emit_out, decerr_out]
      rfl
  · exact congrArg _ (patrol_off (s := s.begin) y h)
  · have found := patrol_one (s := s.begin) (y := y) up tr on ht
    have run : exec (.patrolScrub [y]) s = .next (s.begin.patrol [y]) := rfl
    rw [run, found]
    refine ⟨fun hu ha => ?_, fun h => ?_⟩
    · rw [hu, ha]
      rfl
    · rw [if_pos (by simpa using h)]
      have does := uncErr_does s.begin 10 y.addr.toNat true y.addrChk (Does.refl [.regs, .twin] s.begin) (List.Subset.refl _)
      obtain ⟨shown, counted⟩ := uncErr_reported s.begin 10 y.addr.toNat true y.addrChk
      refine ⟨_, rfl, shown, counted, does.frame .mem (by decide), eq_graft does⟩

end Sys2Proof.Arch
end

section
/-! PROOF. Links, requests of hosts, and host faults (R87, R210 to R213, R234, R252). -/

namespace Sys2Proof.Arch
open Sys2Proof.Machine Sys2Proof.Safety Sys2Proof.Laws


/-! ### What the completions of a host fault leave alone -/

/-- The claims and the staged batches, the status bits, and what HST_STAT captures are as they were. -/
structure Kept (s t : State) : Prop where
  claims : t.mix.claims = s.mix.claims
  batches : t.mix.batches = s.mix.batches
  sc : t.sc = s.sc
  cap : ∀ h, t.cap (rHstStat h) = s.cap (rHstStat h)

theorem Kept.refl (s : State) : Kept s s := ⟨rfl, rfl, rfl, fun _ => rfl⟩

theorem Kept.trans {s t u : State} (h : Kept s t) (k : Kept t u) : Kept s u :=
  ⟨k.claims.trans h.claims, k.batches.trans h.batches, k.sc.trans h.sc, fun i => (k.cap i).trans (h.cap i)⟩

theorem kept_of_regs {s t : State} (hc : t.mix.claims = s.mix.claims) (hb : t.mix.batches = s.mix.batches) (hr : t.regs = s.regs) :
    Kept s t := by
  refine ⟨hc, hb, ?_, fun h => ?_⟩
  · funext o
    rw [State.sc, State.sc, hr]
  · rw [State.cap, State.cap, hr]

theorem kept_of_frame {s t : State} (hm : t.mix = s.mix) (hr : t.regs = s.regs) : Kept s t :=
  kept_of_regs (congrArg Mix.claims hm) (congrArg Mix.batches hm) hr

theorem kept_of_does {M : List Fd} {s t : State} (h : Does M s t) (hm : Fd.mix ∉ M) (hr : Fd.regs ∉ M) : Kept s t :=
  kept_of_frame (h.frame .mix hm) (h.frame .regs hr)

theorem kept_foldl {α : Type} {f : State → α → State} (hf : ∀ s x, Kept s (f s x)) (l : List α) (s : State) : Kept s (l.foldl f s) := by
  induction l generalizing s with
  | nil => exact Kept.refl s
  | cons x r ih => exact (hf s x).trans (ih _)

theorem kept_ite {c : Prop} [Decidable c] {s t u : State} (ht : Kept s t) (hu : Kept s u) : Kept s (if c then t else u) := by
  split
  · exact ht
  · exact hu

theorem kept_count (s : State) (off : Nat) : Kept s (s.count off) := ⟨rfl, rfl, rfl, fun _ => rfl⟩

/-- HST_STAT lies outside the Memory window. -/
theorem kept_capSet (s : State) (off : Nat) (w : Word) (ho : off < wHost) : Kept s (s.capSet off w) := by
  refine ⟨rfl, rfl, rfl, fun h => ?_⟩
  have at_ : rHstStat h = wHost + 0x1000 + 0x400 * h + 4 := rfl
  rw [State.cap_capSet, if_neg (by omega)]

theorem kept_hstPut (s : State) (h : Nat) (x : HostPort) : Kept s (s.hstPut h x) := kept_of_frame rfl rfl

/-- A request on path B changes a counter and a captured word, or nothing (R275). -/
theorem foreign_cases (s : State) (m a n : Nat) :
    s.foreign m a n = s ∨ ∃ w, s.foreign m a n = (s.count (wMem + 0x0484)).capSet (wMem + 0x048C) w := by
  unfold State.foreign
  split
  · exact Or.inl rfl
  · exact Or.inr ⟨_, rfl⟩

theorem kept_foreign (s : State) (m a n : Nat) : Kept s (s.foreign m a n) := by
  obtain h | ⟨w, h⟩ := foreign_cases s m a n
  · rw [h]
    exact Kept.refl s
  · rw [h]
    exact (kept_count s _).trans (kept_capSet _ _ w (by decide))

theorem kept_decerr (s : State) (m a : Nat) (w : Bool) : Kept s (s.decerr m a w) := by
  have counted := kept_count s (wMem + 0x014C)
  have address := counted.trans (kept_capSet _ (wMem + 0x0144) (fld 0 32 a) (by decide))
  exact address.trans (kept_capSet _ (wMem + 0x0148) _ (by decide))

theorem kept_decerrs (s : State) (m a n size : Nat) (w : Bool) : Kept s (s.decerrs m a n size w) := by
  unfold State.decerrs
  exact kept_foldl (fun s p => kept_decerr s _ _ _) _ s

/-- The table cache's marks and the operations under way are none of it. -/
theorem kept_marks (s : State) (stale deferred : List Item) (ops : List Op) :
    Kept s { s with mix := { s.mix with stale := stale, deferred := deferred, ops := ops } } := kept_of_regs rfl rfl rfl

theorem kept_observe (s : State) (m a n : Nat) (hold : Bool) : Kept s (s.observe m a n hold) := by
  unfold State.observe
  refine kept_ite (Kept.refl s) ?_
  lift_lets
  intro hit all tm _ marked counted
  have h1 : Kept s marked := kept_marks s _ _ _
  clear_value marked
  have h2 : Kept s counted := kept_ite (h1.trans (kept_count marked _)) h1
  clear_value counted
  exact kept_ite (h2.trans (kept_count counted _)) h2

theorem kept_twinDirect (s : State) (a : Nat) (bs : List Byte) : Kept s (s.twinDirect a bs) := by
  unfold State.twinDirect
  split
  · exact Kept.refl s
  split
  · exact kept_of_does (jput_does s _ (Does.refl [.out, .mem, .twin] _) (List.Subset.refl _)) (by decide) (by decide)
  split
  · exact (kept_count s _).trans (kept_of_does (askAll_does _ (Does.refl [.out, .twin] _) (List.Subset.refl _)) (by decide) (by decide))
  · exact Kept.refl s

theorem kept_engWrite (s : State) (a : Nat) (bs : List Byte) : Kept s (s.engWrite a bs) := kept_of_frame rfl rfl

theorem kept_bulkWrite (s : State) (m a : Nat) (bs : List Byte) (hold : Bool) : Kept s (s.bulkWrite m a bs hold) := by
  unfold State.bulkWrite
  dsimp only
  split
  · exact kept_engWrite s a bs
  · exact ((kept_engWrite s a bs).trans (kept_observe _ m a _ hold)).trans (kept_twinDirect _ a bs)

theorem kept_hostWrites (s : State) (h a : Nat) (bs : List Byte) : Kept s (s.hostWrites h a bs) := by
  unfold State.hostWrites
  exact kept_foldl (fun s p => kept_of_frame (State.emit_mix _ _) (State.emit_regs _ _)) _ s

theorem kept_devWrite (s : State) (m a : Nat) (bs : List Byte) (hold : Bool) : Kept s (s.devWrite m a bs hold).2 := by
  unfold State.devWrite
  split
  · exact Kept.refl s
  split
  · exact kept_bulkWrite s m a bs hold
  · have routed : Kept s (s.foreigns m a bs.length) := kept_foldl (fun s p => kept_foreign s _ _ _) _ s
    exact routed.trans (kept_of_frame rfl rfl)
  · split
    · exact kept_hostWrites s _ a bs
    · exact kept_decerrs s m a _ _ _
  all_goals exact kept_decerrs s m a _ _ _

theorem kept_cqRecord (s : State) (h c : Nat) (bs : List Byte) (irq counts : Bool) : Kept s (s.cqRecord h c bs irq counts) := by
  unfold State.cqRecord
  refine kept_ite (kept_hstPut s h _) ?_
  unfold State.cqStore
  exact (kept_devWrite s _ _ _ _).trans (kept_hstPut _ h _)

theorem kept_post (s : State) (t : Ticket) (status delay csn : Nat) : Kept s (s.post t status delay csn) := by
  unfold State.post
  dsimp only
  split
  · exact Kept.refl s
  · have taken := kept_hstPut s t.host { s.hst t.host with descs := (s.hst t.host).descs.filter fun e => !e.is t }
    exact kept_ite (taken.trans (kept_cqRecord _ _ _ _ _ _)) taken

theorem kept_abortDescs (s : State) (h : Nat) : Kept s (s.abortDescs h) := by
  unfold State.abortDescs
  exact kept_foldl (fun s d => kept_ite (kept_post s _ _ _ _) (Kept.refl s)) _ s

/-! ### A host fault (R87, R252) -/

theorem hFin_val (g : Fin 4) : hFin g = g := Fin.ext (Nat.mod_eq_of_lt g.isLt)

theorem hst_val (s : State) (g : Fin 4) : s.hst g = s.host g := by
  rw [State.hst, hFin_val]

theorem linkOf_val (s : State) (g : Fin 4) : s.linkOf g = (s.hst g).link := by
  rw [hst_val, State.linkOf, dif_pos g.isLt]
  rfl

theorem hst_hstPut (s : State) (h : Nat) (x : HostPort) : (s.hstPut h x).hst h = x := by
  unfold State.hst State.hstPut State.host State.hostSet
  simp

theorem hst_of_hosts {s t : State} (h : t.hosts = s.hosts) (g : Nat) : t.hst g = s.hst g := by
  rw [State.hst, State.hst, State.host, State.host, h]

/-- A field of a captured word that is replaced reads as what replaces it. -/
theorem wbits_replaced (w : Word) (lo n v : Nat) (h : lo + n ≤ 32) (hv : v < 2 ^ n) :
    wbits ((w &&& ~~~(fld lo n (2 ^ n - 1))) ||| fld lo n v) lo n = v := by
  have bitF (u i : Nat) (hi : i < n) (hu : u < 2 ^ n) : (fld lo n u).getLsbD (lo + i) = u.testBit i := by
    rw [fld, BitVec.getLsbD_ofNat, Nat.mod_eq_of_lt hu, Nat.testBit_mul_two_pow]
    simp [show lo + i < 32 by omega]
  have ones : 2 ^ n - 1 < 2 ^ n := Nat.sub_lt (Nat.two_pow_pos n) Nat.one_pos
  apply Nat.eq_of_testBit_eq
  intro i
  unfold wbits bits
  rw [Nat.testBit_mod_two_pow, Nat.testBit_div_two_pow, Nat.add_comm i lo]
  show (_ && ((w &&& ~~~(fld lo n (2 ^ n - 1))) ||| fld lo n v).getLsbD (lo + i)) = _
  by_cases hi : i < n
  · rw [BitVec.getLsbD_or, BitVec.getLsbD_and, BitVec.getLsbD_not, bitF v i hi hv, bitF _ i hi ones, Nat.testBit_two_pow_sub_one]
    simp [hi]
  · rw [Nat.testBit_lt_two_pow (Nat.lt_of_lt_of_le hv (Nat.pow_le_pow_right (by decide) (by omega)))]
    simp [hi]

/-- A host fault of cause c recorded, the host's claims released and its staged batches gone. -/
def recorded (s : State) (h c : Nat) : State :=
  let t := ((s.capFld (rHstStat h) 11 3 c).hstEvent h 14).faultClaims h
  { t with mix := { t.mix with batches := t.mix.batches.filter fun b => b.host ≠ h } }

/-- Then its descriptors gone: all of them lost, or those that a fault ends completed. -/
def ended (s : State) (h c : Nat) (lost : Bool) : State :=
  let s := recorded s h c
  if lost then s.hstPut h { s.hst h with descs := [], held := [] } else s.abortDescs h

/-- Then its frames gone, its version 0 and its receive queues empty. -/
def emptied (s : State) (h c : Nat) (lost : Bool) : State :=
  let s := ended s h c lost
  State.hstPut { s with net := s.net.dropHost h } h
    { s.hst h with ver := 0, rxq := [[], [], [], []], subs := List.replicate 8 none }

/-- One pair of rings disabled. -/
def ringOff (h : Nat) (s : State) (k : Nat) : State := (s.rwPutBit (rSqCfg h k) 31 false).rwPutBit (rCqCfg h k) 31 false

/-- Then the port and its rings disabled. -/
def ringsOff (s : State) (h : Nat) : State := (upTo 8).foldl (ringOff h) (s.rwPutBit (rHst h) 31 false)

theorem hostFault_aborts (s : State) (h c : Nat) : s.hostFault h c false = emptied s h c false := rfl

theorem hostFault_loses (s : State) (h c : Nat) : s.hostFault h c true =
    (ringsOff (emptied s h c true) h).hstPut h { (ringsOff (emptied s h c true) h).hst h with
      sq := Vector.replicate 8 Sq.zero, cq := Vector.replicate 8 Cq.zero, dirty := false } := rfl

/-- The claims of a host are released but for those of its partner (R87, R391). -/
theorem faultClaims_released (s : State) (h : Nat) : ∀ k ∈ (s.faultClaims h).mix.claims, k.host = h → k.partner := by
  have filtered (l : List Claim) : ∀ k ∈ l.filter (fun c => !(decide (c.host = h) && !c.partner)), k.host = h → k.partner := by
    intro k hk hh
    simpa [hh] using (List.mem_filter.1 hk).2
  unfold State.faultClaims
  dsimp only
  split
  · exact filtered _
  split
  · next no =>
    intro k hk hh
    refine Decidable.byContradiction fun hp => ?_
    have own : k ∈ s.claimsOf h false := List.mem_filter.2 ⟨hk, by simp [hh, hp]⟩
    rw [List.isEmpty_iff.1 no] at own
    cases own
  · have kept : (((s.takeCsn.dropClaims fun c => decide (c.host = h) && !c.partner)).jRelease h false).mix =
        (s.takeCsn.dropClaims fun c => decide (c.host = h) && !c.partner).mix :=
      (jRelease_does _ h false (Does.refl [.out, .mem, .twin] _) (List.Subset.refl _)).frame .mix (by decide)
    rw [kept]
    exact filtered _

theorem hstEvent_regs (s : State) (h b : Nat) : (s.hstEvent h b).regs = (s.scSet (rHstStat h) b).regs := by
  unfold State.hstEvent
  dsimp only
  split
  · exact (msix_does _ _ _ (Does.refl [.out, .hosts] _) (List.Subset.refl _)).frame .regs (by decide)
  · exact (irqOut_does _ h (Does.refl [.out] _) (List.Subset.refl _)).frame .regs (by decide)

/-- What is recorded of a fault, and what it ends at once. -/
structure Faulted (h c : Nat) (t : State) : Prop where
  claims : ∀ k ∈ t.mix.claims, k.host = h → k.partner
  batches : ∀ b ∈ t.mix.batches, b.host ≠ h
  bit : t.scBit (rHstStat h) 14
  cause : wbits (t.cap (rHstStat h)) 11 3 = c

theorem Faulted.kept {h c : Nat} {s t : State} (f : Faulted h c s) (k : Kept s t) : Faulted h c t := by
  obtain ⟨claims, batches, hb, hc⟩ := f
  refine ⟨by rwa [k.claims], by rwa [k.batches], ?_, by rwa [k.cap]⟩
  rwa [State.scBit, k.sc]

theorem recorded_faulted (s : State) (h c : Nat) (hc : c < 8) : Faulted h c (recorded s h c) := by
  have regs : (recorded s h c).regs = ((s.capFld (rHstStat h) 11 3 c).scSet (rHstStat h) 14).regs := by
    rw [← hstEvent_regs]
    exact (faultClaims_does _ h (Does.refl [.out, .mem, .mix, .twin] _) (List.Subset.refl _)).frame .regs (by decide)
  refine ⟨faultClaims_released _ h, fun b hb => by simpa using (List.mem_filter.1 hb).2, ?_, ?_⟩
  · rw [scBit_of_regs regs, State.scBit_scSet]
    simp
  · have cap : (recorded s h c).cap (rHstStat h) = (s.capFld (rHstStat h) 11 3 c).cap (rHstStat h) := by
      rw [State.cap, regs]
      rfl
    rw [cap, State.capFld, State.cap_capSet, if_pos rfl, wbits_replaced _ 11 3 c (by decide) hc]

theorem emptied_faulted (s : State) (h c : Nat) (lost : Bool) (hc : c < 8) : Faulted h c (emptied s h c lost) := by
  have keeps : Kept (recorded s h c) (ended s h c lost) := by
    cases lost
    · exact kept_abortDescs _ h
    · exact kept_hstPut _ h _
  exact (recorded_faulted s h c hc).kept (keeps.trans (kept_of_frame rfl rfl))

theorem emptied_host (s : State) (h c : Nat) (lost : Bool) : (emptied s h c lost).hst h =
    { (ended s h c lost).hst h with ver := 0, rxq := [[], [], [], []], subs := List.replicate 8 none } := hst_hstPut _ h _

theorem ended_descs (s : State) (h c : Nat) : ((ended s h c true).hst h).descs = [] :=
  congrArg HostPort.descs (hst_hstPut (recorded s h c) h _)

/-! ### The port and its rings disabled -/

theorem kept_rwPutBit (s : State) (off i : Nat) (v : Bool) : Kept s (s.rwPutBit off i v) := ⟨rfl, rfl, rfl, fun _ => rfl⟩

theorem kept_ringsOff (s : State) (h : Nat) : Kept s (ringsOff s h) :=
  (kept_rwPutBit s _ _ _).trans (kept_foldl (fun s _ => (kept_rwPutBit s _ _ _).trans (kept_rwPutBit _ _ _ _)) _ _)

theorem ringsOff_hst (s : State) (h g : Nat) : (ringsOff s h).hst g = s.hst g := by
  have one (l : List Nat) (s : State) : (l.foldl (ringOff h) s).hosts = s.hosts := by
    induction l generalizing s with
    | nil => rfl
    | cons k r ih => exact (ih _).trans rfl
  exact hst_of_hosts (one _ _) g

/-- An EN bit that is 0 stays 0 when EN bits are cleared. -/
theorem rwBit_cleared {s : State} {o : Nat} (off : Nat) (h : s.rwBit o 31 = false) : (s.rwPutBit off 31 false).rwBit o 31 = false := by
  by_cases e : o = off
  · rw [e, rwBit_rwPutBit _ _ _ _ _ (by decide), if_pos rfl]
  · have same : (s.rwPutBit off 31 false).rw o = s.rw o := by
      unfold State.rwPutBit
      dsimp only
      rw [State.rw_rwSet, if_neg e]
    rw [State.rwBit, same]
    exact h

theorem rwBit_put (s : State) (off : Nat) : (s.rwPutBit off 31 false).rwBit off 31 = false := by
  rw [rwBit_rwPutBit _ _ _ _ _ (by decide), if_pos rfl]

theorem ringOff_cleared {s : State} {h k o : Nat} (hs : s.rwBit o 31 = false) : (ringOff h s k).rwBit o 31 = false :=
  rwBit_cleared _ (rwBit_cleared _ hs)

theorem ringOffs_cleared {h o : Nat} (l : List Nat) {s : State} (hs : s.rwBit o 31 = false) :
    (l.foldl (ringOff h) s).rwBit o 31 = false := by
  induction l generalizing s with
  | nil => exact hs
  | cons k r ih => exact ih (ringOff_cleared hs)

theorem ringOffs_off {h k : Nat} (l : List Nat) (s : State) (hk : k ∈ l) :
    (l.foldl (ringOff h) s).rwBit (rSqCfg h k) 31 = false ∧ (l.foldl (ringOff h) s).rwBit (rCqCfg h k) 31 = false := by
  induction l generalizing s with
  | nil => cases hk
  | cons a r ih =>
    rcases List.mem_cons.1 hk with e | hr
    · subst e
      exact ⟨ringOffs_cleared r (rwBit_cleared _ (rwBit_put s _)), ringOffs_cleared r (rwBit_put _ _)⟩
    · exact ih _ hr

theorem mem_upTo {n k : Nat} (h : k < n) : k ∈ upTo n := by
  simp [upTo, h]

theorem ringsOff_off (s : State) (h : Nat) : (ringsOff s h).hstEn h = false ∧
    ∀ k : Fin 8, (ringsOff s h).sqEn h k = false ∧ (ringsOff s h).cqEn h k = false :=
  ⟨ringOffs_cleared (upTo 8) (rwBit_put s (rHst h)), fun k => ringOffs_off (upTo 8) _ (mem_upTo k.isLt)⟩

theorem hstEn_hstPut (s : State) (h g : Nat) (x : HostPort) : (s.hstPut h x).hstEn g = s.hstEn g := rfl

theorem sqEn_hstPut (s : State) (h g k : Nat) (x : HostPort) : (s.hstPut h x).sqEn g k = s.sqEn g k := rfl

theorem cqEn_hstPut (s : State) (h g k : Nat) (x : HostPort) : (s.hstPut h x).cqEn g k = s.cqEn g k := rfl

/-- What a host fault leaves of a host's port (R87, R252). -/
theorem hostFault_ends (s : State) (h c : Nat) (lost : Bool) (hc : c < 8) : Faulted h c (s.hostFault h c lost) ∧
    ((s.hostFault h c lost).hst h).ver = 0 ∧ ((s.hostFault h c lost).hst h).rxq = [[], [], [], []] ∧
    (lost → (s.hostFault h c lost).hstEn h = false ∧ ((s.hostFault h c lost).hst h).descs = [] ∧
      ∀ k : Fin 8, (s.hostFault h c lost).sqEn h k = false ∧ (s.hostFault h c lost).cqEn h k = false) := by
  cases lost
  · rw [hostFault_aborts, emptied_host]
    exact ⟨emptied_faulted s h c false hc, rfl, rfl, nofun⟩
  · rw [hostFault_loses]
    obtain ⟨port, rings⟩ := ringsOff_off (emptied s h c true) h
    refine ⟨(emptied_faulted s h c true hc).kept ((kept_ringsOff _ h).trans (kept_hstPut _ h _)), ?_⟩
    rw [hst_hstPut, ringsOff_hst, emptied_host, hstEn_hstPut]
    refine ⟨rfl, rfl, fun _ => ⟨port, ended_descs s h c, fun k => ?_⟩⟩
    rw [sqEn_hstPut, cqEn_hstPut]
    exact rings k

/-! ### Links (R210, R432) -/

theorem linkOf_host (s : State) (h : Nat) (hh : h < 4) : s.linkOf h = (s.hst h).link := linkOf_val s ⟨h, hh⟩

/-- A host fault leaves the link as it is. -/
theorem hstEvent_link (s : State) (h b : Nat) : ((s.hstEvent h b).hst h).link = (s.hst h).link := by
  unfold State.hstEvent
  dsimp only
  generalize hs : s.scSet (rHstStat h) b = u
  have same : u.hst h = s.hst h := by
    rw [← hs]
    exact hst_of_hosts rfl h
  rw [← same]
  split
  · unfold State.msix
    dsimp only
    split
    · rfl
    split
    · rw [hst_hstPut]
    · exact congrArg HostPort.link (hst_of_hosts rfl h)
  · unfold State.irqOut
    split
    · rw [hst_hstPut]
    · rw [hst_of_hosts (State.emit_hosts _ _), hst_hstPut]

theorem recorded_link (s : State) (h c : Nat) : ((recorded s h c).hst h).link = (s.hst h).link := by
  have told : ((s.capFld (rHstStat h) 11 3 c).hstEvent h 14).hst h = (recorded s h c).hst h :=
    (hst_of_hosts ((faultClaims_does _ h (Does.refl [.out, .mem, .mix, .twin] _) (List.Subset.refl _)).frame .hosts (by decide)) h).symm
  rw [← told, hstEvent_link]
  exact congrArg HostPort.link (hst_of_hosts (State.capFld_hosts _ _ _ _ _) h)

theorem hostFault_link (s : State) (h c : Nat) : ((s.hostFault h c true).hst h).link = (s.hst h).link := by
  have lost : (ended s h c true).hst h = { (recorded s h c).hst h with descs := [], held := [] } := hst_hstPut _ h _
  rw [hostFault_loses, hst_hstPut, ringsOff_hst, emptied_host, lost]
  exact recorded_link s h c

theorem linkDown_link (s : State) (h : Nat) (hh : h < 4) : (s.linkDown h).linkOf h = false := by
  unfold State.linkDown
  split
  · next off => simpa using off
  · generalize hu : (s.hstPut h { s.hst h with link := false, width := 0, speed := 0 }).dropHeads [h] = u
    have down : (u.hst h).link = false := by
      rw [← hu]
      exact congrArg HostPort.link (hst_hstPut s h _)
    dsimp only
    rw [linkOf_host _ h hh]
    split
    · rw [hostFault_link, down]
    · exact down

/-! ### Requests of hosts (R211, R212) -/

/-- Pool SRAM in BAR2, whose index is 1. -/
theorem targetRange_pool (s : State) {o n : Nat} (h : o + n ≤ 0x800000) (h1 : 1 ≤ n) : s.targetRange (poolBase + o) n = .pool := by
  have small : s.usable ≤ 0xE0000000 := by
    unfold State.usable
    split
    · decide
    split <;> decide
  have base : poolBase = 0x100000000 := rfl
  have outside : ∀ b ∈ s.bounds, b ≤ poolBase ∨ poolBase + 0x800000 ≤ b :=
    List.forall_mem_cons.2 ⟨Or.inl (by omega), by decide⟩
  have whole : s.crosses (poolBase + o) n = false := by
    refine List.any_eq_false.2 fun b hb => ?_
    have := outside b hb
    rw [decide_eq_true_iff]
    omega
  unfold State.targetRange State.targetOf
  rw [whole, if_neg (by decide), if_neg (by omega), if_pos (by omega)]

/-- A request on path B changes registers alone, and which is a matter of the memories' state (R275). -/
theorem foreign_eq (s : State) (m a n : Nat) : s.foreign m a n = { s with regs := (s.foreign m a n).regs } :=
  eq_graft (foreign_does s m a n (Does.refl [.regs] s) (List.Subset.refl _))

theorem foreign_fly (s : State) (m a n k : Nat) (f : Nat → Nat) : (s.fly k f).foreign m a n = (s.foreign m a n).fly k f := by
  have same : (s.fly k f).pathA m a n = s.pathA m a n := rfl
  unfold State.foreign
  rw [same]
  split
  · rfl
  · rfl

theorem foreign_begin_regs (s : State) (m a n : Nat) : (s.begin.foreign m a n).regs = (s.foreign m a n).regs := by
  have same : s.begin.pathA m a n = s.pathA m a n := rfl
  unfold State.foreign
  rw [same]
  split
  · rfl
  · rfl

/-- A host's read of one burst of pool SRAM that meets nothing wrong. -/
theorem hostRead_pool {s : State} {m a n : Nat} (h1 : 1 ≤ n) (hn : a % 512 + n ≤ 512) (ht : s.targetRange a n = .pool) :
    s.hostRead m a n clean = (⟨.okay, s.poolRead a n⟩, s.foreign m a n) := by
  rw [hostRead_one s m a n clean h1 hn, readHits_pool ((targetRange_fly s m _ a n).trans ht), foreign_fly, fly_back]
  rfl

theorem foreigns_one {s : State} {m a n : Nat} (h1 : 1 ≤ n) (hn : a % 512 + n ≤ 512) : s.foreigns m a n = s.foreign m a n := by
  rw [State.foreigns, splitAt_one 512 a n h1 hn, List.foldl_cons, List.foldl_nil]

/-- A write of one burst of pool SRAM that meets nothing wrong. -/
theorem writeHits_pool {s : State} {m a : Nat} {src : WrSrc} {bs : List Byte} (h1 : 1 ≤ bs.length) (hn : a % 512 + bs.length ≤ 512)
    (ht : s.targetRange a bs.length = .pool) :
    s.writeHits m src a bs clean = (.okay, (s.foreign m a bs.length).poolWrite a bs) := by
  have some_bytes : bs.isEmpty = false := by
    cases bs with
    | nil => cases h1
    | cons => rfl
  have whole : lostParts a bs.length [] = [] := by
    simp [lostParts, badIn_nil]
  have stored : s.busWrite m src a bs = (.okay, (s.foreign m a bs.length).poolWrite a bs) := by
    rw [State.busWrite, ht, if_neg (by decide), State.devWrite, some_bytes, if_neg (by decide), ht, foreigns_one h1 hn]
    rfl
  unfold State.writeHits
  simp [ht, badAt_pool, whole, eccFixed_clean, collisions_clean, collided_of_none, stored]

section
variable {s : State} {p : Fin 4} {o n : Nat} (on : s.masterOn p) (h1 : 1 ≤ n) (hn : o % 512 + n ≤ 512) (ho : o + n ≤ 0x800000)
include on h1 hn ho

theorem inbMatrix_read : s.inbMatrix p (poolBase + o) n none clean =
    (s.foreign p (poolBase + o) n).emit (.pcie p true (s.mem.pool.getN o n)) := by
  have base : poolBase = 0x100000000 := rfl
  unfold State.inbMatrix
  dsimp only
  rw [on, if_neg (by decide), hostRead_pool h1 (by omega) (targetRange_pool s ho h1), if_neg nofun, if_neg nofun, State.poolRead,
    Nat.add_sub_cancel_left]

theorem inbMatrix_write {bs : List Byte} (hb : bs.length = n) : s.inbMatrix p (poolBase + o) n (some bs) clean =
    (s.foreign p (poolBase + o) n).poolWrite (poolBase + o) bs := by
  have base : poolBase = 0x100000000 := rfl
  subst hb
  have room : (poolBase + o) % 512 + bs.length ≤ 512 := by omega
  have one : s.writeAll p (.matrix ⟨p, by omega⟩) clean bs [(poolBase + o, bs.length)] =
      (.okay, (s.foreign p (poolBase + o) bs.length).poolWrite (poolBase + o) bs) := by
    rw [State.writeAll, List.take_length, writeHits_pool h1 room (targetRange_pool s ho h1)]
    rfl
  unfold State.inbMatrix
  dsimp only
  rw [on, if_neg (by decide), hostPieces_one s _ _ h1 room]
  rw [one, if_neg nofun]

end

theorem rw_decerr (s : State) (m a : Nat) (w : Bool) : (s.decerr m a w).rw = s.rw := by
  unfold State.decerr
  dsimp only
  rw [State.rw_capSet, State.rw_capSet, State.rw_count]

/-- A read of a host window that times out is counted and captured as DECERR (R24, R213). -/
theorem readTimeout_refused {s : State} {h : Nat} (up : s.linkOf h) : (s.readTimeout h).out = s.out ++ [.data .decerr []] ∧
    (s.readTimeout h).ctr (wMem + 0x014C) = (s.ctr (wMem + 0x014C)).inc ∧ (s.readTimeout h).rw = s.rw := by
  have refused : ∃ m a, s.readTimeout h =
      (State.decerr { s with freeCtr := s.freeCtr + 1 + 1 } m a false).emit (.data .decerr []) := by
    unfold State.readTimeout
    rw [up, if_neg (by decide)]
    exact ⟨_, _, rfl⟩
  obtain ⟨m, a, ht⟩ := refused
  rw [ht, State.emit_out, decerr_out, ctr_of_regs (State.emit_regs _ _), ctr_decerr, rw_of_regs (State.emit_regs _ _), rw_decerr]
  exact ⟨rfl, rfl, rfl⟩

/-- A link that goes down is a host fault of cause 0 with the section out of reset (R87). -/
theorem linkDown_fault {s : State} {h : Nat} (link : s.linkOf h) (up : s.up secHost) : ∃ u, s.linkDown h = State.hostFault u h 0 true := by
  refine ⟨(s.hstPut h { s.hst h with link := false, width := 0, speed := 0 }).dropHeads [h], ?_⟩
  have up' : ((s.hstPut h { s.hst h with link := false, width := 0, speed := 0 }).dropHeads [h]).up secHost = true := up
  unfold State.linkDown
  rw [link, if_neg (by decide)]
  exact if_pos up'

/-- The commands by which a host's port ends, their faults' causes, and whether the port is lost (R87, R234, R252). -/
theorem host_ends {s : State} {h : Fin 2} {c : Instr} {g : Fin 4} {lost : Bool} {cause : Nat} (up : s.up secHost)
    (hc : (c = .pcieLinkDown h ∧ g = ⟨h.val, by omega⟩ ∧ s.linkOf h ∧ lost = true ∧ cause = 0) ∨
      (c = .functionLevelReset h ∧ g = ⟨h.val, by omega⟩ ∧ s.linkOf h ∧ lost = true ∧ cause = 1) ∨
      (c = .barrowWatchdogExpiry g ∧ s.hstEn g ∧ s.rwBits (rHst g) 16 10 ≠ 0 ∧ lost = false ∧ cause = 4)) :
    cause < 8 ∧ ∃ u, exec c s = .next (State.hostFault u g cause lost) := by
  have up' : s.begin.up secHost = true := up
  obtain ⟨rfl, rfl, link, rfl, rfl⟩ | ⟨rfl, rfl, link, rfl, rfl⟩ | ⟨rfl, en, running, rfl, rfl⟩ := hc
  · obtain ⟨u, hu⟩ := linkDown_fault (s := s.begin) (h := h) link up
    have run : exec (.pcieLinkDown h) s = .next (s.begin.linkDown h) := rfl
    rw [run, hu]
    exact ⟨by decide, u, rfl⟩
  · have link' : s.begin.linkOf h = true := link
    have fault : s.begin.functionReset h = State.hostFault s.begin h 1 true := if_pos (by rw [link', up']; rfl)
    have run : exec (.functionLevelReset h) s = .next (s.begin.functionReset h) := rfl
    rw [run, fault]
    exact ⟨by decide, s.begin, rfl⟩
  · have en' : s.begin.hstEn g = true := en
    have running' : s.begin.rwBits (rHst g) 16 10 ≠ 0 := running
    have fault : s.begin.watchdog g = State.hostFault s.begin g 4 false := if_neg (by simp [up', en', running'])
    have run : exec (.barrowWatchdogExpiry g) s = .next (s.begin.watchdog g) := rfl
    rw [run, fault]
    exact ⟨by decide, s.begin, rfl⟩

theorem watchdog_idle {s : State} {g : Nat} (h : s.up secHost = false ∨ s.hstEn g = false ∨ s.rwBits (rHst g) 16 10 = 0) :
    s.watchdog g = s := by
  refine if_pos ?_
  rcases h with h | h | h <;> simp [h]

theorem linkDown_idle {s : State} {h : Nat} (off : s.linkOf h = false) : s.linkDown h = s := by
  unfold State.linkDown
  rw [off]
  rfl

theorem functionReset_idle {s : State} {h : Nat} (off : s.linkOf h = false ∨ s.up secHost = false) : s.functionReset h = s := by
  refine if_neg ?_
  rcases off with off | off <;> simp [off]

theorem linkUp_shown {s : State} {h gen : Nat} {x2 : Bool} (up : s.up secHost) (strap : h = 0 ∨ s.ctl.pcie2) :
    s.linkUp h x2 gen = s.hstPut h { s.hst h with link := true, width := if x2 then 2 else 1, speed := gen } := by
  refine if_pos ?_
  rcases strap with strap | strap <;> simp [up, strap]

theorem linkUp_none {s : State} {gen : Nat} {x2 : Bool} (strap : s.ctl.pcie2 = false) : s.linkUp (1 : Fin 2) x2 gen = s := by
  refine if_neg ?_
  simp [strap]

/-- Without a link a port takes no request. -/
theorem inbound_idle {s : State} {p : Fin 4} (off : s.linkOf p = false) (r : InbReq) : s.inbound p r = s := by
  rw [linkOf_val, hst_val] at off
  refine if_pos ?_
  rw [off]
  rfl

/-- A read of the first word of the configuration space gives the IDs (R210). -/
theorem inbound_id {s : State} {p : Fin 4} (link : (s.host p).link) : s.inbound p ⟨3, 0, 4, none, clean⟩ =
    s.emit (.pcie p true (wordBytes (fld 16 16 0x1536 ||| fld 0 16 Config.vendor))) := by
  have whole (w : Word) : ((wordBytes w).drop 0).take 4 = wordBytes w :=
    List.take_of_length_le (Nat.le_of_eq (natLe_length 4 w.toNat))
  have read : s.cfgRead p 0 4 = s.emit (.pcie p true (((wordBytes (fld 16 16 0x1536 ||| fld 0 16 Config.vendor)).drop 0).take 4)) := rfl
  unfold State.inbound
  rw [link, if_neg (by decide), if_pos rfl, if_neg (by decide), read, whole]

/-- A request in BAR2, whose index is 1, is one for pool SRAM (R211). -/
theorem inbound_bar {s : State} {p : Fin 4} {r : InbReq} (link : (s.host p).link) (hb : r.bar = 1) :
    s.inbound p r = s.inbMatrix p (poolBase + r.off) r.len r.wr r.hits := by
  unfold State.inbound
  rw [link, hb, if_neg (by decide), if_neg (by decide), if_pos rfl]

/-- Settles O45: each command is a host fault, or one request at pool SRAM, or changes nothing. -/
theorem hostPortsComeAndGo : Obligations.HostPortsComeAndGo := by
  intro s h p
  have down : exec (.pcieLinkDown h) s = .next (s.begin.linkDown h) := rfl
  have reset : exec (.functionLevelReset h) s = .next (s.begin.functionReset h) := rfl
  have watch (g : Fin 4) : exec (.barrowWatchdogExpiry g) s = .next (s.begin.watchdog g) := rfl
  have trains (i : Fin 2) (x2 : Bool) (gen : Fin 3) : exec (.pcieLinkUp i x2 gen) s = .next (s.begin.linkUp i x2 gen) := rfl
  have asks (r : InbReq) : exec (.inboundHostRequest h r) s = .next (s.begin.inbound p r) := rfl
  have waits : exec (.outboundReadTimeout h) s = .next (s.begin.readTimeout h) := rfl
  refine ⟨fun c g lost cause up hc => ?_, ⟨_, down, linkDown_link s.begin h (by omega)⟩, fun off => ?_, fun off => ?_,
    fun g off => ?_, fun x2 gen => ⟨fun up strap => ?_, fun strap => ?_⟩, fun link => ?_, fun off r => ?_,
    fun r link on hb hits h1 hn ho => ⟨fun hw => ?_, fun bs hw hl => ?_⟩, fun up => ?_⟩
  · obtain ⟨small, u, run⟩ := host_ends up hc
    obtain ⟨⟨claims, batches, shown, captured⟩, ver, rxq, gone⟩ := hostFault_ends u g cause lost small
    exact ⟨_, run, ver, rxq, claims, batches, shown, captured, gone⟩
  · rw [down, linkDown_idle (s := s.begin) off]
    rfl
  · rw [reset, functionReset_idle (s := s.begin) off]
    rfl
  · rw [watch, watchdog_idle (s := s.begin) off]
    rfl
  · have strap' : h.val = 0 ∨ s.begin.ctl.pcie2 = true := strap.imp (congrArg Fin.val) id
    rw [trains, linkUp_shown (s := s.begin) up strap']
    rfl
  · rw [trains, linkUp_none (s := s.begin) strap]
    rfl
  · have link' : (s.begin.host p).link = true := link
    rw [asks, inbound_id link']
    rfl
  · rw [asks, inbound_idle (s := s.begin) off]
    rfl
  · rw [asks, inbound_bar (s := s.begin) link hb, hw, hits, inbMatrix_read (s := s.begin) on h1 hn ho, foreign_eq, foreign_begin_regs]
    rfl
  · rw [asks, inbound_bar (s := s.begin) link hb, hw, hits, inbMatrix_write (s := s.begin) on h1 hn ho hl, foreign_eq,
      foreign_begin_regs, State.poolWrite, Nat.add_sub_cancel_left]
    rfl
  · obtain ⟨out, counted, words⟩ := readTimeout_refused (s := s.begin) (h := h) up
    have may : Does [.out, .freeCtr, .regs] s (s.begin.readTimeout h) :=
      readTimeout_does _ _ (begin_does s (Does.refl _ s) (by decide)) (by decide)
    exact ⟨_, waits, out, counted, congrFun words, eq_graft may⟩

end Sys2Proof.Arch
end

section
/-! PROOF. The end of clips and tone programs, and the arrival of clip data (R137, R139, R141, R279). -/

namespace Sys2Proof.Arch
open Sys2Proof.Machine Sys2Proof.Safety Sys2Proof.Laws


/-! ### What an engine's transfer in bulk memory finds (R279) -/

theorem found_clean {s : State} {m a : Nat} {h : MemHits} (ok : hitsFail h = false) (cor : h.cor = []) : s.found m a h = s := by
  unfold State.found
  rw [cor, ok]
  rfl

theorem found_mix (s : State) (m a : Nat) (h : MemHits) : (s.found m a h).mix = s.mix :=
  (found_does s m a h (Does.refl [.regs, .twin] s) (List.Subset.refl _)).frame .mix (by decide)

/-- An uncorrectable error in a transfer is a health fault and counted. -/
theorem found_reported {s : State} {m a : Nat} {h : MemHits} (fails : hitsFail h) : (s.found m a h).scBit rHealth 22 ∧
    (s.found m a h).ctr (wMem + 0x0810) = (s.ctr (wMem + 0x0810)).inc := by
  have run : s.found m a h = (s.countN (wMem + 0x080C) h.cor.length).uncErr m (h.bad.headD a) false h.adr := if_pos fails
  obtain ⟨shown, counted⟩ := uncErr_reported (s.countN (wMem + 0x080C) h.cor.length) m (h.bad.headD a) false h.adr
  rw [run, counted, ctr_countN _ _ _ (by decide)]
  exact ⟨shown, rfl⟩

theorem ctr_uncErr {s : State} (m a : Nat) (scrub adr : Bool) {o : Nat} (ho : o ≠ wMem + 0x0810) :
    (s.uncErr m a scrub adr).ctr o = s.ctr o := by
  unfold State.uncErr
  dsimp only
  rw [State.ctr_health, State.ctr_capSet, State.ctr_capSet, State.ctr_count, if_neg ho]

/-- A transfer counts in no counter but those of its corrected and its uncorrectable words. -/
theorem ctr_found {s : State} (m a : Nat) (h : MemHits) {o : Nat} (hc : o ≠ wMem + 0x080C) (hu : o ≠ wMem + 0x0810) :
    (s.found m a h).ctr o = s.ctr o := by
  unfold State.found
  dsimp only
  split
  · rw [ctr_uncErr _ _ _ _ hu, ctr_countN _ _ _ hc]
  · exact ctr_countN _ _ _ hc

/-! ### The end of what a player plays (R137, R141) -/

section
variable {s : State} {p : Nat} {c : Clip} (cur : (s.player p).cur = some c)
include cur

theorem playerOver_ends (done : c.overAt (domCeil c.dom s.tim.nsc)) :
    s.playerOver p = s.playerSet p { s.player p with cur := none } := by
  unfold State.playerOver
  dsimp only
  rw [cur]
  exact if_pos done

theorem playerOver_plays (plays : c.overAt (domCeil c.dom s.tim.nsc) = false) : s.playerOver p = s := by
  unfold State.playerOver
  dsimp only
  rw [cur]
  exact if_neg (by simp [plays])

/-- What a command does that ends what a player plays. -/
theorem exec_playerOver {i : Instr} (run : exec i s = .next (s.begin.playerOver p)) :
    (c.overAt (domCeil c.dom s.tim.nsc) → exec i s = .next { s with
      out := [], mix := { s.mix with players := s.mix.players.set p { s.player p with cur := none } } }) ∧
    (c.overAt (domCeil c.dom s.tim.nsc) = false → exec i s = .next { s with out := [] }) := by
  refine ⟨fun done => ?_, fun plays => ?_⟩
  · rw [run, playerOver_ends (s := s.begin) cur done]
    rfl
  · rw [run, playerOver_plays (s := s.begin) cur plays]
    rfl

end

/-! ### The arrival of a burst of clip data (R136, R139) -/

/-- The clips that a player has a use for: the one that plays, those that fade out, those scheduled. -/
def clipsOf (s : State) (p : Nat) : List Clip := (s.player p).cur.toList ++ (s.player p).old ++ s.scheduled p

/-- A player that has a burst in the place of the one of the same clip and number. -/
def withBurst (x : Player) (b : Burst) : Player :=
  { x with bursts := (x.bursts.filter fun y => !(y.csn = b.csn && y.no = b.no)) ++ [b] }

section
variable {s : State} {p csn : Nat} (b : Nat) {m : MemHits}

theorem clipBurst_unknown (unknown : ∀ c ∈ clipsOf s p, c.csn ≠ csn) : s.clipBurst p csn b m = s := by
  have absent : (clipsOf s p).find? (fun c => c.csn = csn) = none := List.find?_eq_none.2 fun c hc => by simpa using unknown c hc
  rw [clipsOf] at absent
  unfold State.clipBurst
  dsimp only
  rw [absent]

variable {c : Clip} (known : (clipsOf s p).find? (fun c => c.csn = csn) = some c)
include known

theorem clipBurst_kept (ok : hitsFail m = false) (cor : m.cor = []) : s.clipBurst p csn b m =
    s.playerSet p (withBurst (s.player p) ⟨csn, b, some (s.mem.bulk.getN (c.addr + 64 * b) 64)⟩) := by
  have same : c.csn = csn := by simpa using List.find?_some known
  rw [clipsOf] at known
  unfold State.clipBurst
  dsimp only
  rw [known]
  dsimp only
  rw [ok, if_neg nofun, if_neg nofun, found_clean ok cor, Clip.fetch, same]
  rfl

theorem clipBurst_lost (fails : hitsFail m) : s.clipBurst p csn b m =
    ((s.playerSet p (withBurst (s.player p) ⟨csn, b, none⟩)).found 11 c.addr m).count cClipErr := by
  rw [clipsOf] at known
  unfold State.clipBurst
  dsimp only
  rw [known]
  dsimp only
  rw [if_pos fails, if_pos fails]
  rfl

/-- A burst with an uncorrectable error is marked as lost, counted and shown (R139). -/
theorem clipBurst_reports (fails : hitsFail m) (hp : p < s.mix.players.length) :
    (s.clipBurst p csn b m).player p = withBurst (s.player p) ⟨csn, b, none⟩ ∧
    (s.clipBurst p csn b m).ctr cClipErr = (s.ctr cClipErr).inc ∧
    (s.clipBurst p csn b m).ctr (wMem + 0x0810) = (s.ctr (wMem + 0x0810)).inc ∧ (s.clipBurst p csn b m).scBit rHealth 22 := by
  rw [clipBurst_lost b known fails]
  generalize hu : s.playerSet p (withBurst (s.player p) ⟨csn, b, none⟩) = u
  have stored : u.player p = withBurst (s.player p) ⟨csn, b, none⟩ := by
    rw [← hu, State.player_playerSet, if_pos ⟨rfl, hp⟩]
  have ctrs : u.ctr = s.ctr := by
    rw [← hu]
    exact ctr_of_regs rfl
  obtain ⟨shown, counted⟩ := found_reported (s := u) (m := 11) (a := c.addr) fails
  refine ⟨?_, ?_, ?_, ?_⟩
  · rw [← stored, State.player, State.count_mix, found_mix]
    rfl
  · rw [State.ctr_count, if_pos rfl, ctr_found _ _ _ (by decide) (by decide), ctrs]
  · rw [State.ctr_count, if_neg (by decide), counted, ctrs]
  · rw [State.scBit, State.sc_count]
    exact shown

end

/-- Settles O17: both ends are of one player, and a burst of clip data is kept, lost or of no clip. -/
theorem playersEnd : Obligations.PlayersEnd := by
  intro s len
  have arrives (p : Fin 64) (csn : BitVec 48) (b : Nat) (m : MemHits) :
      exec (.clipDataFetchComplete p csn b m) s = .next (s.begin.clipBurst p csn.toNat b m) := rfl
  refine ⟨fun p c cur => exec_playerOver cur rfl, fun g c cur => exec_playerOver cur rfl,
    fun p c csn b m known => ⟨fun ok cor => ?_, fun fails => ?_⟩, fun p csn b m unknown => ?_⟩
  · rw [arrives, clipBurst_kept (s := s.begin) b known ok cor]
    rfl
  · have hp : p.val < s.mix.players.length := by omega
    exact ⟨_, arrives p csn b m, clipBurst_reports (s := s.begin) b known fails hp⟩
  · rw [arrives, clipBurst_unknown (s := s.begin) b unknown]
    rfl

end Sys2Proof.Arch
end

section
/-! SUPPORT. Lanes, Drays and units read back after they are stored (R170, R437, R438). -/

namespace Sys2Proof.Arch
open Sys2Proof.Machine Sys2Proof.Laws


/-! ### Lanes and Drays -/

/-- A lane stored reads back, and no other lane changes. -/
theorem lane_laneSet (s : State) (l k : Nat) (x : Lane) : (s.laneSet l x).lane k = if k % 64 = l % 64 then x else s.lane k := by
  unfold State.lane
  simp only [State.laneSet_lanes, Vector.getElem_set, eq_comm (a := k % 64)]

theorem lane_laneSet_self (s : State) (l : Nat) (x : Lane) : (s.laneSet l x).lane l = x := by
  rw [lane_laneSet, if_pos rfl]

theorem lane_of_lanes {s t : State} (h : t.lanes = s.lanes) : t.lane = s.lane := by
  funext l
  unfold State.lane
  rw [h]

theorem dray_draySet_self (s : State) (d : Nat) (x : Dray) : (s.draySet d x).dray d = x := by
  unfold State.dray
  simp only [State.draySet_drays, Vector.getElem_set_self]

theorem dray_of_drays {s t : State} (h : t.drays = s.drays) : t.dray = s.dray := by
  funext d
  unfold State.dray
  rw [h]

/-! ### Units (R438) -/

theorem unitsOf_of_units {s t : State} (h : t.ctl.units = s.ctl.units) (k : Nat) : t.unitsOf k = s.unitsOf k := by
  unfold State.unitsOf
  rw [h]

theorem spares_of_units {s t : State} (h : t.ctl.units = s.ctl.units) (k : Nat) : t.spares k = s.spares k := by
  unfold State.spares
  rw [unitsOf_of_units h]

theorem unitsOf_unitsSet {s : State} {k : Nat} (u : Units) (hk : k < s.ctl.units.length) : (s.unitsSet k u).unitsOf k = u := by
  unfold State.unitsOf State.unitsSet
  rw [State.ctlSet_ctl, List.getD_eq_getElem?_getD, List.getElem?_set_self hk]
  rfl

theorem endTest_units (s : State) (k : Nat) : (s.endTest k).ctl.units = s.ctl.units := by
  unfold State.endTest
  split
  · split <;> rfl
  · rfl

/-- A bit put into a mask that lacks it, or that a mask has already, is there. -/
theorem bit_put (r p : Nat) : bit (if bit r p then r else r + 2 ^ p) p = true := by
  split
  · assumption
  · next clear =>
    rw [bit, Nat.add_div_right _ (Nat.two_pow_pos p)]
    rw [bit, decide_eq_true_iff] at clear
    rw [decide_eq_true_iff]
    omega

/-- A kind's record with a unit retired. -/
def withRetired (u : Units) (p : Nat) : Units := { u with retired := if bit u.retired p then u.retired else u.retired + 2 ^ p }

/-- Once the unit is retired its audit record changes the log alone. -/
theorem retireUnit_does_log (s : State) (k : Nat) (l : Option Nat) (p : Nat) :
    Does [.pea, .sec] (s.unitsSet k (withRetired (s.unitsOf k) p)) (s.retireUnit k l p) :=
  audit_does _ _ _ _ _ (Does.refl _ _) (List.Subset.refl _)

theorem retireUnit_regs (s : State) (k : Nat) (l : Option Nat) (p : Nat) : (s.retireUnit k l p).regs = s.regs :=
  (retireUnit_does_log s k l p).frame .regs (by decide)

/-- Of the Control section only the units' record changes. -/
theorem retireUnit_ctl (s : State) (k : Nat) (l : Option Nat) (p : Nat) :
    ∃ us, (s.retireUnit k l p).ctl = { s.ctl with units := us } :=
  ⟨_, (retireUnit_does_log s k l p).frame .ctl (by decide)⟩

/-- A unit retired shows as retired, and carries what it carried. -/
theorem retireUnit_retires {s : State} {k : Nat} (l : Option Nat) (p : Nat) (hk : k < s.ctl.units.length) :
    bit ((s.retireUnit k l p).unitsOf k).retired p ∧ ((s.retireUnit k l p).unitsOf k).map = (s.unitsOf k).map := by
  have ctl := (retireUnit_does_log s k l p).frame .ctl (by decide)
  rw [unitsOf_of_units (congrArg Ctl.units ctl), unitsOf_unitsSet _ hk]
  exact ⟨bit_put _ p, rfl⟩

end Sys2Proof.Arch
end

section
/-! PROOF. Clearing DRY_CTL.EN (R204). -/

namespace Sys2Proof.Arch
open Sys2Proof.Machine


/-- Every section out of reset, and Dray 0 enabled. -/
def drayEnabled : State := State.rwSet { State.reset with ctl := { Ctl.reset with phase := 3, inrst := 0 } } (rDry 0 + 0x0100) 1#32

/-- The disabled Dray still runs to the end of the block under way: its record says that EN was cleared in it. -/
theorem drayEnabled_closes : (drayEnabled.dray 0).closing = false ∧
    ((drayEnabled.begin.regWrite (.matrix 4) (rDry 0 + 0x0100) 0#32).dray 0).closing = true := by decide +kernel

/-- Refutes O27: a write of DRY_CTL that clears EN also marks the Dray as closing, which the statement's frame leaves out. -/
theorem not_laneAndClockControls : ¬ Obligations.LaneAndClockControls := by
  intro h
  obtain ⟨controls, -⟩ := h drayEnabled (.matrix 4) 0#32
  obtain ⟨t, run, -, frame, -⟩ := (controls 0 (by decide +kernel)).2 (by decide +kernel) (by decide)
  have ht : drayEnabled.begin.regWrite (.matrix 4) (rDry 0 + 0x0100) 0#32 = t := Host.Outcome.next.inj run
  have kept : t.drays = drayEnabled.drays := by rw [frame]
  obtain ⟨before, closes⟩ := drayEnabled_closes
  have same : t.dray 0 = drayEnabled.dray 0 := by rw [State.dray, State.dray, kept]
  rw [ht, same, before] at closes
  exact Bool.noConfusion closes

end Sys2Proof.Arch
end

section
/-! PROOF. Faults of units, the self-test rotation, migration and the end of a test (R200, R202, R437 to R441). -/

namespace Sys2Proof.Arch
open Sys2Proof.Machine Sys2Proof.Laws


/-! ### A fault of a unit (R202, R438, R439) -/

section
variable {s : State} {d p : Nat} (bw : List Nat) (works : bit (s.unitsOf (3 + d)).retired p = false)
include works

/-- A physical lane without a load is retired. -/
theorem laneFault_spare (free : s.loadOf (3 + d) p = none) :
    s.laneFault d p bw = ((s.count (cDry d 2)).endTest (3 + d)).retireUnit (3 + d) none p := by
  have free' : (s.count (cDry d 2)).loadOf (3 + d) p = none := free
  unfold State.laneFault
  dsimp only
  rw [works, if_neg Bool.false_ne_true, free']

/-- A physical lane with a load: its logical lane has faulted, and moves at the boundary. -/
theorem laneFault_load {i : Nat} (load : s.loadOf (3 + d) p = some i) : ∃ data,
    s.laneFault d p bw = ((s.count (cDry d 2)).releaseSems (16 * d + i)).laneSet (16 * d + i)
      { s.lane (16 * d + i) with faulted := true, out := none, dq := [], dmaIrq := false, data := data } := by
  have load' : (s.count (cDry d 2)).loadOf (3 + d) p = some i := load
  unfold State.laneFault
  dsimp only
  rw [works, if_neg Bool.false_ne_true, load']
  exact ⟨_, rfl⟩

/-- Either way the fault is counted (R209). -/
theorem laneFault_counts : (s.laneFault d p bw).ctr (cDry d 2) = (s.ctr (cDry d 2)).inc := by
  have counted : (s.count (cDry d 2)).ctr (cDry d 2) = (s.ctr (cDry d 2)).inc := by rw [State.ctr_count, if_pos rfl]
  rw [← counted]
  cases load : s.loadOf (3 + d) p with
  | none =>
    have tested : ((s.count (cDry d 2)).endTest (3 + d)).regs = (s.count (cDry d 2)).regs :=
      (endTest_does _ _ (Does.refl [.ctl] _) (List.Subset.refl _)).frame .regs (by decide)
    rw [laneFault_spare bw works load, ctr_of_regs ((retireUnit_regs _ _ _ _).trans tested)]
  | some i =>
    obtain ⟨data, struck⟩ := laneFault_load bw works load
    rw [struck]
    exact congrFun (ctr_of_regs rfl) _

end

theorem laneFault_retired {s : State} {d p : Nat} (bw : List Nat) (gone : bit (s.unitsOf (3 + d)).retired p) :
    s.laneFault d p bw = s := if_pos gone

section
variable {s : State} {k p : Nat}

theorem unitFault_idle (h : bit (s.unitsOf k).retired p ∨ unitCount k ≤ p) : s.unitFault k p = s := if_pos h

variable (works : bit (s.unitsOf k).retired p = false) (hp : p < unitCount k)
include works hp

/-- A unit with a load: the load moves at the boundary (R439). -/
theorem unitFault_load {i : Nat} (load : s.loadOf k p = some i) (new : (k, i) ∉ s.ctl.faulted) :
    s.unitFault k p = s.ctlSet { s.ctl with faulted := s.ctl.faulted ++ [(k, i)] } := by
  unfold State.unitFault
  rw [if_neg (by simp [works]; omega), load]
  exact if_neg new

theorem unitFault_spare (free : s.loadOf k p = none) : s.unitFault k p = (s.endTest k).retireUnit k none p := by
  unfold State.unitFault
  rw [if_neg (by simp [works]; omega), free]

end

theorem exec_unitFault {s : State} {k : UnitKind} {p : Fin 34} (awake : s.awake) :
    exec (.unitFault k p) s = .next (s.begin.unitFault (unitKind k) p) := congrArg Host.Outcome.next (if_pos awake)

/-! ### The rotation (R200, R438) -/

theorem stVisit_idle {s : State}
    (h : s.stokerRuns = false ∨ s.rwBit (wCtl + 0x002C) 31 = false ∨ s.ctl.test.isSome ∨ s.migrating ∨ s.rotNext = none) :
    s.stVisit = s := by
  unfold State.stVisit
  split
  · rfl
  · next goes =>
    simp only [Bool.or_eq_true, Bool.not_eq_true', not_or, Bool.not_eq_true, Bool.not_eq_false] at goes
    obtain ⟨⟨⟨runs, on⟩, untested⟩, still⟩ := goes
    have none_next : s.rotNext = none := by simpa [runs, on, untested, still] using h
    rw [none_next]

/-- The rotation may go on: the Stoker runs, the rotation is enabled, and nothing is under test or waits for its migration. -/
structure Rotates (s : State) : Prop where
  runs : s.stokerRuns
  on : s.rwBit (wCtl + 0x002C) 31
  untested : s.ctl.test = none
  still : s.migrating = false

section
variable {s : State} (free : Rotates s) {pos k p : Nat} (next : s.rotNext = some (pos, k, p))
include free next

/-- A lane that carries a load is marked for migration. -/
theorem stVisit_lane (lane : 3 ≤ k) (load : (s.loadOf k p).isSome) : s.stVisit =
    ((s.visit pos k p).ctlSet { (s.visit pos k p).ctl with test := none }).draySet (k - 3)
      { (s.visit pos k p).dray (k - 3) with mig := some p, migN := 0 } := by
  obtain ⟨runs, on, untested, still⟩ := free
  unfold State.stVisit
  rw [if_neg (by simp [runs, on, untested, still]), next]
  exact if_pos ⟨lane, load⟩

/-- Any other unit comes under test. -/
theorem stVisit_unit (other : k < 3 ∨ s.loadOf k p = none) : s.stVisit = s.visit pos k p := by
  obtain ⟨runs, on, untested, still⟩ := free
  unfold State.stVisit
  rw [if_neg (by simp [runs, on, untested, still]), next]
  refine if_neg fun ⟨lane, load⟩ => ?_
  rcases other with low | unloaded
  · omega
  · rw [unloaded] at load
    cases load

end

/-! ### Migration (R200) -/

theorem migrate_none {s : State} {d : Nat} (h : (s.dray d).mig = none) : s.migrate d = s := by
  unfold State.migrate
  dsimp only
  rw [h]

theorem migrateSkip_idle {s : State} {d : Nat} (h : (s.dray d).mig = none ∨ (s.dray d).migN < 4000) : s.migrateSkip d = s := by
  refine if_neg fun skip => ?_
  simp only [Bool.and_eq_true, decide_eq_true_eq] at skip
  rcases h with h | h
  · rw [h] at skip
    cases skip.1
  · omega

theorem migrateSkip_late {s : State} {d p : Nat} (h : (s.dray d).mig = some p) (late : 4000 ≤ (s.dray d).migN) :
    s.migrateSkip d = (s.draySet d { s.dray d with mig := none }).count (cDry d 3) :=
  if_pos (by simp [h, late])

section
variable {s : State} {d p i q : Nat} {rest : List Nat} (due : (s.dray d).mig = some p) (load : s.loadOf (3 + d) p = some i)
  (spare : s.spares (3 + d) = q :: rest)
include due load spare

/-- The lane is copied, and the lane that it leaves comes under test. -/
theorem migrate_copies (may : s.mayMigrate (16 * d + i)) :
    s.migrate d = (s.draySet d { s.dray d with mig := none }).ctlSet { s.ctl with test := some (3 + d, p) } := by
  unfold State.migrate
  dsimp only
  rw [due]
  dsimp only
  rw [load, spare]
  exact if_pos may

theorem migrate_waits (no : s.mayMigrate (16 * d + i) = false) : s.migrate d = s := by
  unfold State.migrate
  dsimp only
  rw [due]
  dsimp only
  rw [load, spare]
  exact if_neg (by simp [no])

end

/-- At the boundary the first spare takes a lane that has not faulted meanwhile. -/
theorem migrated_units {s t : State} {d i q : Nat} {rest : List Nat} (units : t.ctl.units = s.ctl.units) (lanes : t.lanes = s.lanes)
    (spare : s.spares (3 + d) = q :: rest) (sound : (s.lane (16 * d + i)).faulted = false) :
    (t.migrated d i).ctl.units = s.ctl.units.set (3 + d) { s.unitsOf (3 + d) with map := (s.unitsOf (3 + d)).map.set i (some q) } := by
  unfold State.migrated State.place State.unitsSet
  rw [spares_of_units units, spare, List.head?_cons]
  dsimp only
  rw [lane_of_lanes lanes, sound, if_neg Bool.false_ne_true, State.ctlSet_ctl, unitsOf_of_units units, units]

/-! ### The end of a test (R200, R208, R438, R447) -/

theorem stDone_none {s : State} (h : s.ctl.test = none) (pass : Bool) : s.stDone pass = s := by
  unfold State.stDone
  rw [h]

/-- The result of a lane's test, which its Dray shows, is in registers alone (R208). -/
theorem dryTested_ctl (s : State) (k p : Nat) (pass : Bool) : (s.dryTested k p pass).ctl = s.ctl :=
  (dryTested_does s k p pass (Does.refl [.regs] s) (List.Subset.refl _)).frame .ctl (by decide)

section
variable {s : State} {k p : Nat} (test : s.ctl.test = some (k, p)) (free : s.loadOf k p = none)
include test free

theorem stDone_pass : s.stDone true = (s.ctlSet { s.ctl with test := none, lastPass := true }).dryTested k p true := by
  unfold State.stDone
  rw [test]
  dsimp only
  rw [free]
  rfl

theorem stDone_fail : s.stDone false =
    (((s.ctlSet { s.ctl with test := none, lastPass := false }).dryTested k p false).retireUnit k none p).scSet rHealth 19 := by
  unfold State.stDone
  rw [test]
  dsimp only
  rw [free]
  exact health_of_no_cause _ 19 (by decide) (by decide)

/-- The test is over with its result; a unit that passes is a spare again, and one that fails is retired and shown. -/
theorem stDone_ends (pass : Bool) (hk : k < s.ctl.units.length) :
    (s.stDone pass).ctl.test = none ∧ (s.stDone pass).ctl.lastPass = pass ∧
    (pass → (s.stDone pass).ctl.units = s.ctl.units) ∧
    (pass = false → bit ((s.stDone pass).unitsOf k).retired p ∧ (s.stDone pass).scBit rHealth 19) := by
  cases pass with
  | true =>
    rw [stDone_pass test free, dryTested_ctl]
    exact ⟨rfl, rfl, fun _ => rfl, nofun⟩
  | false =>
    have shown := dryTested_ctl (s.ctlSet { s.ctl with test := none, lastPass := false }) k p false
    rw [stDone_fail test free]
    generalize (s.ctlSet { s.ctl with test := none, lastPass := false }).dryTested k p false = u at shown ⊢
    have known : k < u.ctl.units.length := by
      rw [shown]
      exact hk
    obtain ⟨us, ctl⟩ := retireUnit_ctl u k none p
    rw [State.scSet_ctl, unitsOf_of_units (congrArg Ctl.units (State.scSet_ctl _ _ _)), ctl, shown]
    refine ⟨rfl, rfl, nofun, fun _ => ⟨(retireUnit_retires none p known).1, ?_⟩⟩
    rw [State.scBit_scSet, if_pos ⟨rfl, rfl⟩]

end

/-- Settles O60: each command of a unit, of the rotation and of migration is one of its cases. -/
theorem sparesTakeOverAndAreTested : Obligations.SparesTakeOverAndAreTested := by
  intro s hlen
  have units : ∀ k < 7, k < s.begin.ctl.units.length := fun k hk => Nat.lt_of_lt_of_eq hk hlen.symm
  have visits : exec .selftestVisit s = .next s.begin.stVisit := rfl
  have migrates (d : Fin 4) : exec (.laneMigration d) s = .next (s.begin.migrate d) := rfl
  have skips (d : Fin 4) : exec (.laneMigrationSkip d) s = .next (s.begin.migrateSkip d) := rfl
  have ends (pass : Bool) : exec (.selftestComplete pass) s = .next (s.begin.stDone pass) := rfl
  refine ⟨fun d p bw => ⟨fun h => ?_, fun up works => ?_⟩,
    fun k p awake => ⟨fun h => ?_, fun works hp => ⟨fun i load new => ?_, fun free => ?_⟩⟩,
    fun h => ?_, fun pos k p runs on untested still next => ?_,
    fun d => ⟨fun none_due => ⟨?_, ?_⟩, fun p due => ⟨fun early => ?_, fun late => ?_,
      fun i q l load spare => ⟨fun may => ?_, fun no => ?_⟩⟩⟩,
    fun pass => ⟨fun h => ?_, fun k p test hk free => ?_⟩⟩
  · have run : exec (.laneHwFault d p bw) s = .next (if s.up (6 + d) then s.begin.laneFault d p bw else s.begin) := rfl
    rw [run]
    rcases h with down | gone
    · rw [down]
      rfl
    · rw [laneFault_retired (s := s.begin) bw gone, ite_self]
      rfl
  · have run : exec (.laneHwFault d p bw) s = .next (s.begin.laneFault d p bw) := congrArg Host.Outcome.next (if_pos up)
    refine ⟨_, run, laneFault_counts (s := s.begin) bw works, fun free => ?_, fun i load hi => ?_⟩
    · rw [laneFault_spare (s := s.begin) bw works free]
      refine (retireUnit_retires none _ ?_).1
      rw [endTest_units]
      exact units _ (by omega)
    · obtain ⟨data, struck⟩ := laneFault_load (s := s.begin) bw works load
      rw [struck, lane_laneSet_self]
      exact ⟨rfl, rfl, rfl⟩
  · rw [exec_unitFault awake, unitFault_idle (s := s.begin) h]
    rfl
  · rw [exec_unitFault awake, unitFault_load (s := s.begin) works hp load new]
    rfl
  · have known : unitKind k < (s.begin.endTest (unitKind k)).ctl.units.length := by
      rw [endTest_units]
      exact units _ (by cases k <;> decide)
    obtain ⟨retired, map⟩ := retireUnit_retires none p known
    rw [exec_unitFault awake, unitFault_spare (s := s.begin) works hp free]
    refine ⟨_, rfl, retired, ?_⟩
    rw [map, unitsOf_of_units (endTest_units s.begin _)]
    rfl
  · rw [visits, stVisit_idle (s := s.begin) h]
    rfl
  · have free : Rotates s.begin := ⟨runs, on, untested, still⟩
    rw [visits]
    by_cases lane : 3 ≤ k ∧ (s.loadOf k p).isSome
    · obtain ⟨low, load⟩ := lane
      rw [stVisit_lane free next low load]
      refine ⟨_, rfl, rfl, rfl, rfl, fun _ _ => ⟨rfl, ?_⟩, fun other => ?_, rfl⟩
      · rw [dray_draySet_self]
      · rcases other with h | h
        · omega
        · rw [h] at load
          cases load
    · have other : k < 3 ∨ s.loadOf k p = none := by
        by_cases low : 3 ≤ k
        · exact .inr (by simpa [low] using lane)
        · exact .inl (by omega)
      rw [stVisit_unit free next other]
      exact ⟨_, rfl, rfl, rfl, rfl, fun low load => absurd ⟨low, load⟩ lane, fun _ => ⟨rfl, rfl⟩, rfl⟩
  · rw [migrates, migrate_none (s := s.begin) none_due]
    rfl
  · rw [skips, migrateSkip_idle (s := s.begin) (.inl none_due)]
    rfl
  · rw [skips, migrateSkip_idle (s := s.begin) (.inr early)]
    rfl
  · rw [skips, migrateSkip_late (s := s.begin) due late]
    refine ⟨_, rfl, ?_, ?_, rfl⟩
    · rw [dray_of_drays (State.count_drays _ _), dray_draySet_self]
    · rw [State.ctr_count, if_pos rfl]
      rfl
  · rw [migrates, migrate_copies (s := s.begin) due load spare may]
    refine ⟨_, rfl, ?_, rfl, rfl, fun sound => migrated_units rfl rfl spare sound⟩
    rw [dray_of_drays (State.ctlSet_drays _ _), dray_draySet_self]
  · rw [migrates, migrate_waits (s := s.begin) due load spare no]
    rfl
  · rw [ends, stDone_none (s := s.begin) h]
    rfl
  · exact ⟨_, ends pass, stDone_ends (s := s.begin) test free pass (units k hk)⟩

end Sys2Proof.Arch
end

section
/-! PROOF. The block cycle of a Dray: input copy and deadline (R173 to R176, R209). -/

namespace Sys2Proof.Arch
open Sys2Proof.Machine Sys2Proof.Laws


/-! ### Every lane of a Dray in turn -/

theorem lane_laneSet_other {s : State} {l k : Nat} (x : Lane) (hk : k < 64) (hl : l < 64) (ne : k ≠ l) :
    (s.laneSet l x).lane k = s.lane k := by
  rw [lane_laneSet, if_neg (by omega)]

/-- A step that changes one lane, which is then related to the lane before as R says while P holds, taken once for each lane of a
list, relates each lane of the list as R says and leaves the others. -/
theorem foldl_lane {g : State → Nat → State} {P : State → Prop} {R : Lane → Lane → Prop} (keeps : ∀ s l, P s → P (g s l))
    (own : ∀ s l, P s → R (s.lane l) ((g s l).lane l))
    (others : ∀ s l k, k < 64 → l < 64 → k ≠ l → (g s l).lane k = s.lane k) {ls : List Nat} (nodup : ls.Nodup)
    (small : ∀ l ∈ ls, l < 64) {s : State} (hs : P s) {k : Nat} (hk : k < 64) :
    (k ∈ ls → R (s.lane k) ((ls.foldl g s).lane k)) ∧ (k ∉ ls → (ls.foldl g s).lane k = s.lane k) := by
  induction ls generalizing s with
  | nil => exact ⟨nofun, fun _ => rfl⟩
  | cons l r ih =>
    obtain ⟨fresh, nodup⟩ := List.nodup_cons.1 nodup
    obtain ⟨hl, small⟩ := List.forall_mem_cons.1 small
    obtain ⟨later, left⟩ := ih nodup small (keeps s l hs)
    rw [List.foldl_cons]
    by_cases e : k = l
    · subst e
      refine ⟨fun _ => ?_, fun out => absurd List.mem_cons_self out⟩
      rw [left fresh]
      exact own s k hs
    · have same := others s l k hk hl e
      rw [same] at later left
      rw [List.mem_cons, or_iff_right e]
      exact ⟨later, left⟩

theorem mem_drayLanes (d k : Nat) : k ∈ drayLanes d ↔ k / 16 = d := by
  simp only [drayLanes, upTo, List.mem_map, List.mem_range]
  exact ⟨fun ⟨i, hi, e⟩ => by omega, fun h => ⟨k % 16, by omega, by omega⟩⟩

theorem drayLanes_nodup (d : Nat) : (drayLanes d).Nodup :=
  List.Pairwise.map (· + 16 * d) (fun _ _ ne h => ne (Nat.add_right_cancel h)) List.nodup_range

theorem drayLanes_small {d : Nat} (hd : d < 4) : ∀ l ∈ drayLanes d, l < 64 := fun l hl => by
  rw [mem_drayLanes] at hl
  omega

/-! ### The input copy (R173, R175, R176) -/

/-- What the input copy makes of a lane, where b names the input block. -/
structure InputCopied (b : Word) (x y : Lane) : Prop where
  ready : x.st = .running → (x.late = false ∨ x.r.srBit 2) →
    y.ready ∧ y.late = false ∧ y.r.srBit 2 = false ∧ y.r.blkn = b ∧ y.st = .running ∧ y.r.pc = x.r.pc
  defers : x.st = .running → x.late → x.r.srBit 2 = false → y = { x with waitIn := true }
  idle : x.st ≠ .running → y = x

/-- The number of the input block (R173). -/
def inputBlock (s : State) : Word := BitVec.ofInt 32 ((s.tim.nsc / 12 : Nat) - 3 : Int)

/-- One lane's part of the input copy. -/
def copyLane (s : State) (l : Nat) : State :=
  let x := s.lane l
  if x.st ≠ .running then s
  else if x.late && !x.r.srBit 2 then s.laneSet l { x with waitIn := true }
  else (s.laneSet l { x with late := false }).fillInputs l

theorem inputCopy_eq {s : State} {d : Nat} (on : s.dryOn d) : s.inputCopy d = (drayLanes d).foldl copyLane (s.takeInputs d) :=
  if_neg (by simp [on])

/-- A lane filled is ready, waits no more, and has its input block's number. -/
theorem fillInputs_lane (s : State) (l : Nat) : ∃ data, s.fillInputs l = s.laneSet l { s.lane l with
    data := data, ready := true, waitIn := false, restart := false
    r := { (s.lane l).r with sr := (s.lane l).r.sr &&& ~~~4#32, isr := (s.lane l).r.isr &&& ~~~4#32, blkn := inputBlock s } } :=
  ⟨_, rfl⟩

theorem copyLane_own (s : State) (l : Nat) : InputCopied (inputBlock s) (s.lane l) ((copyLane s l).lane l) := by
  unfold copyLane
  dsimp only
  split
  · next idle => exact ⟨fun h => absurd h idle, fun h => absurd h idle, fun _ => rfl⟩
  · next runs =>
    have runs := Decidable.not_not.1 runs
    split
    · next late =>
      simp only [Bool.and_eq_true, Bool.not_eq_true'] at late
      obtain ⟨late, waits⟩ := late
      refine ⟨fun _ h => ?_, fun _ _ _ => lane_laneSet_self _ _ _, fun h => absurd runs h⟩
      simp [late, waits] at h
    · next inTime =>
      refine ⟨fun _ _ => ?_, fun _ late waits => absurd (by simp [late, waits]) inTime, fun h => absurd runs h⟩
      obtain ⟨data, filled⟩ := fillInputs_lane (s.laneSet l { s.lane l with late := false }) l
      rw [filled, lane_laneSet_self, lane_laneSet_self]
      refine ⟨rfl, rfl, ?_, rfl, runs, rfl⟩
      simp [LRegs.srBit]

theorem copyLane_others (s : State) (l k : Nat) (hk : k < 64) (hl : l < 64) (ne : k ≠ l) : (copyLane s l).lane k = s.lane k := by
  unfold copyLane
  dsimp only
  split
  · rfl
  split
  · exact lane_laneSet_other _ hk hl ne
  · obtain ⟨data, filled⟩ := fillInputs_lane (s.laneSet l { s.lane l with late := false }) l
    rw [filled, lane_laneSet_other _ hk hl ne, lane_laneSet_other _ hk hl ne]

theorem copyLane_tim (s : State) (l : Nat) : (copyLane s l).tim = s.tim := by
  unfold copyLane
  dsimp only
  split
  · rfl
  split <;> rfl

/-- The input copy of a Dray that runs. -/
theorem inputCopy_lanes {s : State} {d k : Nat} (on : s.dryOn d) (hd : d < 4) (hk : k < 64) :
    (k / 16 = d → InputCopied (inputBlock s) (s.lane k) ((s.inputCopy d).lane k)) ∧
    (k / 16 ≠ d → (s.inputCopy d).lane k = s.lane k) := by
  have taken : (s.takeInputs d).lanes = s.lanes := rfl
  have each := foldl_lane (g := copyLane) (P := fun t => t.tim = s.tim) (R := InputCopied (inputBlock s))
    (fun t l ht => (copyLane_tim t l).trans ht)
    (fun t l ht => by
      have named : inputBlock t = inputBlock s := by rw [inputBlock, inputBlock, ht]
      exact named ▸ copyLane_own t l)
    copyLane_others (drayLanes_nodup d) (drayLanes_small hd) (s := s.takeInputs d) rfl hk
  rw [mem_drayLanes, lane_of_lanes taken] at each
  rw [inputCopy_eq on]
  exact each

/-! ### The deadline (R176) -/

/-- A lane that runs, had its inputs, and has not executed bsync. -/
def overruns (x : Lane) : Bool := decide (x.st = .running) && x.ready && !x.synced

/-- One lane's part of the deadline. -/
def deadlineLane (d : Nat) (s : State) (l : Nat) : State :=
  if overruns (s.lane l) then (s.laneSet l { s.lane l with late := true, out := none, waitIn := false }).count (cDry d 0) else s

theorem laneDeadline_eq {s : State} {d : Nat} (on : s.dryOn d) : s.laneDeadline d = (drayLanes d).foldl (deadlineLane d) s :=
  if_neg (by simp [on])

theorem deadlineLane_own (d : Nat) (s : State) (l : Nat) : (deadlineLane d s l).lane l =
    if overruns (s.lane l) then { s.lane l with late := true, out := none, waitIn := false } else s.lane l := by
  unfold deadlineLane
  split
  · rw [lane_of_lanes (State.count_lanes _ _), lane_laneSet_self]
  · rfl

theorem deadlineLane_others (d : Nat) (s : State) (l k : Nat) (hk : k < 64) (hl : l < 64) (ne : k ≠ l) :
    (deadlineLane d s l).lane k = s.lane k := by
  unfold deadlineLane
  split
  · rw [lane_of_lanes (State.count_lanes _ _), lane_laneSet_other _ hk hl ne]
  · rfl

theorem deadlineLane_ctr (d : Nat) (s : State) (l : Nat) : (deadlineLane d s l).ctr (cDry d 0) =
    if overruns (s.lane l) then (s.ctr (cDry d 0)).inc else s.ctr (cDry d 0) := by
  unfold deadlineLane
  split
  · rw [State.ctr_count, if_pos rfl]
    rfl
  · rfl

/-- Each overrun is counted once (R209). -/
theorem deadline_counts (d : Nat) {ls : List Nat} (nodup : ls.Nodup) (small : ∀ l ∈ ls, l < 64) (s : State) :
    (ls.foldl (deadlineLane d) s).ctr (cDry d 0) =
      (ls.filter fun l => overruns (s.lane l)).foldl (fun (c : Ctr) _ => c.inc) (s.ctr (cDry d 0)) := by
  induction ls generalizing s with
  | nil => rfl
  | cons l r ih =>
    obtain ⟨fresh, nodup⟩ := List.nodup_cons.1 nodup
    obtain ⟨hl, small⟩ := List.forall_mem_cons.1 small
    have same : (r.filter fun k => overruns ((deadlineLane d s l).lane k)) = r.filter fun k => overruns (s.lane k) :=
      List.filter_congr fun k hk => by
        rw [deadlineLane_others d s l k (small k hk) hl fun e => fresh (e ▸ hk)]
    rw [List.foldl_cons, ih nodup small, same, deadlineLane_ctr, List.filter_cons]
    split <;> rfl

theorem laneDeadline_lane {s : State} {d k : Nat} (on : s.dryOn d) (hd : d < 4) (hk : k < 64) : (s.laneDeadline d).lane k =
    if k / 16 = d ∧ overruns (s.lane k) then { s.lane k with late := true, out := none, waitIn := false } else s.lane k := by
  obtain ⟨inside, outside⟩ := foldl_lane (g := deadlineLane d) (P := fun _ => True)
    (R := fun x y => y = if overruns x then { x with late := true, out := none, waitIn := false } else x)
    (fun _ _ _ => trivial) (fun t l _ => deadlineLane_own d t l) (deadlineLane_others d) (drayLanes_nodup d)
    (drayLanes_small hd) (s := s) trivial hk
  rw [mem_drayLanes] at inside outside
  rw [laneDeadline_eq on]
  by_cases h : k / 16 = d
  · rw [inside h]
    simp only [h, true_and]
  · rw [outside h, if_neg fun both => h both.1]

/-- The commands of a Dray's block cycle. -/
theorem exec_blockCycle (s : State) (d : Fin 4) : exec (.drayInputCopyDone d) s = .next (s.begin.inputCopy d) ∧
    exec (.laneDeadline d) s = .next (s.begin.laneDeadline d) := ⟨rfl, rfl⟩

theorem blockCycle_off {s : State} {d : Nat} (off : s.dryOn d = false) : s.inputCopy d = s ∧ s.laneDeadline d = s :=
  ⟨if_pos (by simp [off]), if_pos (by simp [off])⟩

end Sys2Proof.Arch
end

section
/-! PROOF. Bundles: without operations, with an addition, with an exception (R181 to R191). -/

namespace Sys2Proof.Arch
open Sys2Proof.Machine Sys2Proof.Laws


/-! ### Words without operations -/

/-- Above its first word a bundle below 2^32 holds zeros. -/
theorem bits_high {b lo : Nat} (n : Nat) (h : b < 2 ^ 32) (hlo : 32 ≤ lo) : bits b lo n = 0 := by
  rw [bits, Nat.div_eq_of_lt (Nat.lt_of_lt_of_le h (Nat.pow_le_pow_right (by decide) hlo)), Nat.zero_mod]

theorem bits_low {b : Nat} (h : b < 2 ^ 32) : bits b 0 32 = b := by
  rw [bits, Nat.pow_zero, Nat.div_one, Nat.mod_eq_of_lt h]

theorem macExc_zero : macExc 0 = none := rfl

theorem lsExc_zero (r : LRegs) : lsExc r 0 = none := rfl

theorem mac_zero (c : Core) (o : LRegs) : c.mac o 0 = c := rfl

theorem ls_zero (c : Core) (o : LRegs) (m : LMem) : c.ls o m 0 = c := rfl

theorem aluExc_zero (r : LRegs) : aluExc r 0 = none := rfl

theorem alu_zero (c : Core) (o : LRegs) : c.alu o 0 = c := rfl

/-! ### The next bundle (R188, R190) -/

theorem age_none {r : LRegs} (flight : r.pend = []) : r.age = r := by
  have same : { r with pend := [] } = r := by rw [← flight]
  unfold LRegs.age
  rw [flight]
  exact same

/-- Without loops, a branch under way and writes in flight the next bundle is that of the next address. -/
theorem advance_straight {r : LRegs} (loops : r.srBit 1 = false) (branch : r.br = none) (flight : r.pend = []) :
    r.advance.age = { r with pc := r.pc + 1 } := by
  have advanced : r.advance = { r with pc := r.pc + 1 } := by
    unfold LRegs.advance LRegs.loopOn
    simp [loops, branch]
  rw [advanced]
  exact age_none flight

/-! ### The four slots -/

section
variable {c : Core}

/-- A bundle with an exception has no effect but that (R191). -/
theorem issue_raises {e : Nat} (exc : bundleExc c.lane = some e) : c.issue = { c with lane := c.lane.raise e c.lane.r.pc } := by
  unfold Core.issue
  dsimp only
  rw [exc]

/-- A bundle with nothing in the MAC and the load/store slots, whose ALU word raises no exception. -/
theorem bundleExc_alu {x : Lane} (low : x.r.pc < 4096) (small : bundle x x.r.pc < 2 ^ 32)
    (alu : aluExc x.r (bundle x x.r.pc) = none) : bundleExc x = none := by
  unfold bundleExc
  dsimp only
  rw [if_neg (by omega), bits_high _ small (by decide), bits_high _ small (by decide), bits_high _ small (by decide),
    bits_low small, macExc_zero, lsExc_zero, alu]
  rfl

/-- Such a bundle acts in the ALU alone; neither a dma that stalls nor a trap is at issue. -/
theorem issue_alu (low : c.lane.r.pc < 4096) (small : bundle c.lane c.lane.r.pc < 2 ^ 32)
    (sound : aluExc c.lane.r (bundle c.lane c.lane.r.pc) = none) (dma : bits (bundle c.lane c.lane.r.pc) 26 6 ≠ 0x20)
    (trap : bits (bundle c.lane c.lane.r.pc) 26 6 ≠ 0x1F) :
    c.issue = (c.r fun r => r.advance.age).alu c.lane.r (bundle c.lane c.lane.r.pc) := by
  have stall : dmaStall c.lane = false := by simp [dmaStall, dma]
  unfold Core.issue
  dsimp only
  rw [bundleExc_alu low small sound, stall, bits_high (lo := 96) _ small (by decide), bits_high (lo := 64) _ small (by decide),
    bits_high (lo := 32) _ small (by decide), bits_low small, mac_zero, ls_zero, ls_zero]
  exact if_neg trap

end

/-! ### An addition (R185) -/

theorem aluExc_add {w : Nat} (add : bits w 26 6 = 1) (r : LRegs) : aluExc r w = none := by
  unfold aluExc isJump
  rw [add]
  rfl

/-- The sum of the two registers that a word names. -/
def sumOf (r : LRegs) (w : Nat) : Word := r.dAt (bits w 18 4) + r.dAt (bits w 14 4)

/-- The flags C and V of their addition. -/
def carryOf (r : LRegs) (w : Nat) : Bool × Bool :=
  let x := r.dAt (bits w 18 4)
  let y := r.dAt (bits w 14 4)
  (decide (2 ^ 32 ≤ x.toNat + y.toNat), outN 32 (x.toInt + y.toInt))

/-- The registers after a bundle that adds and nothing else. -/
def added (r : LRegs) (w : Nat) : LRegs :=
  (LRegs.put { r with pc := r.pc + 1 } (.d (bits w 22 4)) (sumOf r w).toInt).flags (sumOf r w) (some (carryOf r w))

theorem alu_add {w : Nat} (add : bits w 26 6 = 1) (reg : bit w 13 = false) (c : Core) (r : LRegs) :
    (c.r fun _ => { r with pc := r.pc + 1 }).alu r w =
      { c with free := c.free + 1, lane := { c.lane with r := added r w } } := by
  unfold Core.alu
  dsimp only
  rw [add, reg]
  rfl

theorem dAt_put (r : LRegs) (n k : Nat) (v : Word) : (r.put (.d n) v.toInt).dAt k = if k % 16 = n % 16 then v else r.dAt k := by
  unfold LRegs.put LRegs.dAt
  simp only [BitVec.ofInt_toInt, Vector.getElem_set, eq_comm (a := k % 16)]

theorem flags_dAt (r : LRegs) (v : Word) (cv : Option (Bool × Bool)) : (r.flags v cv).dAt = r.dAt := by
  cases cv <;> rfl

theorem flags_pc (r : LRegs) (v : Word) (cv : Option (Bool × Bool)) : (r.flags v cv).pc = r.pc := by
  cases cv <;> rfl

/-- Bit j of a word that holds a flag at bit i alone. -/
theorem getLsbD_fld_b2n (i j : Nat) (b : Bool) (hi : i < 32) : (fld i 1 (b2n b)).getLsbD j = (decide (j = i) && b) := by
  cases b
  · have clear : fld i 1 (b2n false) = 0#32 := by simp [fld, b2n]
    rw [clear, BitVec.getLsbD_zero, Bool.and_false]
  · rw [b2n, if_pos rfl, getLsbD_fld_one i j hi, Bool.and_true]

/-- Bit Z says whether the result is 0. -/
theorem flags_zero (r : LRegs) (v : Word) (cv : Bool × Bool) : (r.flags v (some cv)).srBit 7 = decide (v = 0) := by
  have cleared : (~~~0x3C0#32).getLsbD 7 = false := by decide
  obtain ⟨cf, vf⟩ := cv
  unfold LRegs.flags LRegs.srBit
  dsimp only
  rw [BitVec.getLsbD_or, BitVec.getLsbD_or, BitVec.getLsbD_or, BitVec.getLsbD_or, BitVec.getLsbD_and, cleared,
    getLsbD_fld_b2n _ _ _ (by decide), getLsbD_fld_b2n _ _ _ (by decide), getLsbD_fld_b2n _ _ _ (by decide),
    getLsbD_fld_b2n _ _ _ (by decide)]
  simp

/-- The sum and bit Z are in place, and every other data register is as it was. -/
theorem added_effect (r : LRegs) (w : Nat) : (added r w).pc = r.pc + 1 ∧ (added r w).dAt (bits w 22 4) = sumOf r w ∧
    ((added r w).srBit 7 ↔ sumOf r w = 0) ∧ ∀ k < 16, k ≠ bits w 22 4 → (added r w).dAt k = r.dAt k := by
  have small : bits w 22 4 < 16 := Nat.mod_lt _ (by decide)
  unfold added
  rw [flags_pc, flags_dAt, flags_zero, dAt_put, if_pos rfl, decide_eq_true_iff]
  refine ⟨rfl, rfl, Iff.rfl, fun k hk ne => ?_⟩
  rw [dAt_put, if_neg (by omega)]
  rfl

/-! ### The lane's bundle -/

theorem draySet_dray (s : State) (d : Nat) : s.draySet d (s.dray d) = s := by
  have same : s.drays.set (d % 4) s.drays[d % 4] = s.drays := Vector.set_getElem_self (Nat.mod_lt d (by decide))
  unfold State.draySet State.dray
  rw [same]

/-- What a bundle of lane l works on. -/
def coreOf (s : State) (l : Nat) : Core := ⟨s.lane l, (s.dray (l / 16)).sram, (s.dray (l / 16)).sem, l % 16, s.freeCtr, 0⟩

/-- A bundle that changes its lane and uses free values, and neither ends the lane nor hands over a late block. -/
theorem issueBundle_lane {s : State} {l : Nat} {y : Lane} {f : Nat} (may : s.mayIssue l)
    (issue : (coreOf s l).issue = { coreOf s l with lane := y, free := f }) (runs : y.st ≠ .halted)
    (late : y.late = (s.lane l).late) :
    s.issueBundle l = { s.laneSet l y with freeCtr := f } := by
  unfold coreOf at issue
  unfold State.issueBundle
  dsimp only
  rw [issue, may, if_neg (by decide), if_neg runs, late, if_neg (by simp)]
  have same := draySet_dray { s with freeCtr := f } (l / 16)
  exact congrArg (fun t : State => t.laneSet l y) same

theorem countN_begin (s : State) (off n : Nat) : s.begin.countN off n = (s.countN off n).begin := by
  induction n generalizing s with
  | zero => rfl
  | succ n ih => exact ih (s.count off)

/-- The corrected errors are counted, and nothing else of the state changes (R177). -/
theorem laneCorrected_kept (s : State) (l cor : Nat) : Does [.regs] s (s.laneCorrected l cor) :=
  laneCorrected_does s l cor (Does.refl _ s) (List.Subset.refl _)

theorem laneCorrected_lane (s : State) (l cor : Nat) : (s.laneCorrected l cor).lane = s.lane :=
  lane_of_lanes ((laneCorrected_kept s l cor).frame .lanes (by decide))

theorem laneCorrected_mayIssue (s : State) (l cor k : Nat) : (s.laneCorrected l cor).mayIssue k = s.mayIssue k := by
  have kept := laneCorrected_kept s l cor
  have ctl : (s.laneCorrected l cor).ctl = s.ctl := kept.frame .ctl (by decide)
  have drays : (s.laneCorrected l cor).drays = s.drays := kept.frame .drays (by decide)
  have words : (s.laneCorrected l cor).rw = s.rw := rw_countN _ _ _
  unfold State.mayIssue State.dryOn State.up State.awake State.rwBit
  rw [laneCorrected_lane, ctl, dray_of_drays drays, words]

/-- The state in which a lane's bundle issues: corrected errors are counted. -/
theorem exec_bundleIssue {s : State} {l : Fin 64} (may : s.mayIssue l) (cor : Nat) :
    exec (.bundleIssue l cor) s = .next ((s.laneCorrected l cor).begin.issueBundle l) := by
  have run : exec (.bundleIssue l cor) s = .next ((s.begin.laneCorrected l cor).issueBundle l) :=
    congrArg Host.Outcome.next (if_pos may)
  rw [run, State.laneCorrected, countN_begin]
  rfl

theorem exec_bundleIssue_idle {s : State} {l : Fin 64} (no : s.mayIssue l = false) (cor : Nat) :
    exec (.bundleIssue l cor) s = .next { s with out := [] } := congrArg Host.Outcome.next (if_neg (by simp [no]))

/-- A bundle that changes the lane to y, and uses free values up to f. -/
theorem exec_bundleIssue_lane {s : State} {l : Fin 64} (may : s.mayIssue l) (cor : Nat) {y : Lane} {f : Nat}
    (issue : ∀ c : Core, c.lane = s.lane l → c.free = s.freeCtr → c.issue = { c with lane := y, free := f })
    (runs : y.st = .running) (late : y.late = (s.lane l).late) :
    exec (.bundleIssue l cor) s = .next { (s.laneCorrected l cor).laneSet l y with out := [], freeCtr := f } := by
  have lane : (s.laneCorrected l cor).begin.lane = s.lane := laneCorrected_lane s l cor
  have free : (s.laneCorrected l cor).begin.freeCtr = s.freeCtr := (laneCorrected_kept s l cor).frame .freeCtr (by decide)
  have may' : (s.laneCorrected l cor).begin.mayIssue l = true := (laneCorrected_mayIssue s l cor l).trans may
  rw [exec_bundleIssue may, issueBundle_lane may' (issue _ (congrFun lane l) free) (by rw [runs]; decide) (by rw [late, lane])]
  rfl

/-- A lane that may issue a bundle runs. -/
theorem mayIssue_running {s : State} {l : Nat} (may : s.mayIssue l) : (s.lane l).st = .running := by
  simp only [State.mayIssue, Bool.and_eq_true, decide_eq_true_eq] at may
  obtain ⟨⟨⟨⟨⟨-, runs⟩, -⟩, -⟩, -⟩, -⟩ := may
  exact runs

section
variable {s : State} {l : Fin 64} (may : s.mayIssue l) (cor : Nat)
include may

theorem exec_bundleIssue_raises {e : Nat} (exc : bundleExc (s.lane l) = some e) (outside : (s.lane l).r.srBit 3 = false) :
    exec (.bundleIssue l cor) s = .next { (s.laneCorrected l cor).laneSet l
      { s.lane l with exc := some (e, (s.lane l).r.pc % 4096) } with out := [] } := by
  have raised : (s.lane l).raise e (s.lane l).r.pc = { s.lane l with exc := some (e, (s.lane l).r.pc % 4096) } :=
    if_neg (by simp [outside])
  have free : (s.laneCorrected l cor).freeCtr = s.freeCtr := (laneCorrected_kept s l cor).frame .freeCtr (by decide)
  refine (exec_bundleIssue_lane may cor (f := s.freeCtr) (y := { s.lane l with exc := some (e, (s.lane l).r.pc % 4096) })
    (fun c lane hf => ?_) (mayIssue_running may) rfl).trans ?_
  · rw [issue_raises (lane ▸ exc), lane, raised, ← hf]
  · rw [← free]
    rfl

variable (low : (s.lane l).r.pc < 4096) (loops : (s.lane l).r.srBit 1 = false) (branch : (s.lane l).r.br = none)
  (flight : (s.lane l).r.pend = [])
include low loops branch flight

theorem exec_bundleIssue_nop (nop : bundle (s.lane l) (s.lane l).r.pc = 0) :
    exec (.bundleIssue l cor) s = .next { (s.laneCorrected l cor).laneSet l
      { s.lane l with r := { (s.lane l).r with pc := (s.lane l).r.pc + 1 } } with out := [] } := by
  have free : (s.laneCorrected l cor).freeCtr = s.freeCtr := (laneCorrected_kept s l cor).frame .freeCtr (by decide)
  refine (exec_bundleIssue_lane may cor (f := s.freeCtr)
    (y := { s.lane l with r := { (s.lane l).r with pc := (s.lane l).r.pc + 1 } }) (fun c lane hf => ?_)
    (mayIssue_running may) rfl).trans ?_
  · have nop' : bundle c.lane c.lane.r.pc = 0 := by rw [lane, nop]
    rw [issue_alu (lane ▸ low) (by rw [nop']; decide) (by rw [nop', aluExc_zero]) (by rw [nop']; decide) (by rw [nop']; decide),
      nop', alu_zero, Core.r, lane, advance_straight loops branch flight, ← hf]
  · rw [← free]
    rfl

theorem exec_bundleIssue_add (small : bundle (s.lane l) (s.lane l).r.pc < 2 ^ 32)
    (add : bits (bundle (s.lane l) (s.lane l).r.pc) 26 6 = 1) (reg : bit (bundle (s.lane l) (s.lane l).r.pc) 13 = false) :
    ∃ t, exec (.bundleIssue l cor) s = .next t ∧
      t.lane l = { s.lane l with r := added (s.lane l).r (bundle (s.lane l) (s.lane l).r.pc) } ∧
      t.drays = s.drays ∧ t.ctr = (s.laneCorrected l cor).ctr := by
  refine ⟨_, exec_bundleIssue_lane may cor (f := s.freeCtr + 1)
    (y := { s.lane l with r := added (s.lane l).r (bundle (s.lane l) (s.lane l).r.pc) }) (fun c lane hf => ?_)
    (mayIssue_running may) rfl,
    lane_laneSet_self (s.laneCorrected l cor) _ _, (laneCorrected_kept s l cor).frame .drays (by decide), ctr_of_regs rfl⟩
  have word : bundle c.lane c.lane.r.pc = bundle (s.lane l) (s.lane l).r.pc := by rw [lane]
  have straight : (c.r fun r => r.advance.age) = c.r fun _ => { (s.lane l).r with pc := (s.lane l).r.pc + 1 } := by
    rw [Core.r, Core.r, lane, advance_straight loops branch flight]
  rw [issue_alu (by rw [lane]; exact low) (by rw [word]; exact small) (by rw [word, aluExc_add add]) (by rw [word, add]; decide)
    (by rw [word, add]; decide), straight, word, lane, alu_add add reg, lane, hf]

end

end Sys2Proof.Arch
end

section
/-! PROOF. Interrupts and DMA of lanes (R191, R194, R195). -/

namespace Sys2Proof.Arch
open Sys2Proof.Machine Sys2Proof.Laws


/-! ### Interrupt entry (R191) -/

theorem put_sr (r : LRegs) (p : LReg) (v : Int) : (r.put p v).sr = r.sr := by cases p <;> rfl

theorem put_pend (r : LRegs) (p : LReg) (v : Int) : (r.put p v).pend = r.pend := by cases p <;> rfl

/-- Draining the writes in flight leaves none, and sr as it was. -/
theorem drain_sr_pend (r : LRegs) : r.drain.sr = r.sr ∧ r.drain.pend = [] := by
  have puts (ws : List LWr) (q : LRegs) : (ws.foldl (fun r w => r.put w.reg w.val) q).sr = q.sr ∧
      (ws.foldl (fun r w => r.put w.reg w.val) q).pend = q.pend := by
    induction ws generalizing q with
    | nil => exact ⟨rfl, rfl⟩
    | cons w ws ih =>
      obtain ⟨hs, hp⟩ := ih (q.put w.reg w.val)
      exact ⟨hs.trans (put_sr q _ _), hp.trans (put_pend q _ _)⟩
  exact puts r.pend { r with pend := [] }

/-- Registers at a vector's first bundle: pc and sr are saved, IE, LPEN and BW clear, and nothing is in flight. -/
def Entered (r q : LRegs) (next vec : Nat) : Prop :=
  q.pc = vec ∧ q.ipc = next % 4096 ∧ q.isr = r.sr ∧ q.srBit 0 = false ∧ q.srBit 1 = false ∧ q.srBit 2 = false ∧ q.pend = []

theorem enter_entered (r : LRegs) (next vec : Nat) (code : Option Nat) : Entered r (r.enter next vec code) next vec := by
  obtain ⟨sr, pend⟩ := drain_sr_pend r
  have clear (i : Nat) (hi : i < 3) : (r.enter next vec code).srBit i = false := by
    unfold LRegs.enter LRegs.srBit
    have : i = 0 ∨ i = 1 ∨ i = 2 := by omega
    cases code <;> rcases this with rfl | rfl | rfl <;> simp
  exact ⟨rfl, rfl, sr, clear 0 (by decide), clear 1 (by decide), clear 2 (by decide), pend⟩

theorem enter_code (r : LRegs) (next vec code : Nat) :
    (r.enter next vec (some code)).ecause = code ∧ (r.enter next vec (some code)).srBit 3 := by
  refine ⟨rfl, ?_⟩
  unfold LRegs.enter LRegs.srBit
  simp

section
variable {s : State} {l : Nat} (on : s.dryOn (l / 16)) (runs : (s.lane l).st = .running) (sound : (s.lane l).faulted = false)
include on runs sound

theorem interrupt_exception {code ipc : Nat} (exc : (s.lane l).exc = some (code, ipc)) : s.interrupt l =
    s.laneSet l { s.lane l with exc := none, r := (s.lane l).r.enter ipc 4 (some code) } := by
  unfold State.interrupt
  dsimp only
  rw [if_neg (by simp [on, runs, sound]), exc]

variable (quiet : (s.lane l).exc = none)
include quiet

theorem interrupt_masked (masked : (s.lane l).r.br.isSome ∨ (s.lane l).r.srBit 0 = false) : s.interrupt l = s := by
  unfold State.interrupt
  dsimp only
  rw [if_neg (by simp [on, runs, sound]), quiet]
  exact if_pos (by simpa using masked)

variable (straight : (s.lane l).r.br = none) (enabled : (s.lane l).r.srBit 0)
include straight enabled

theorem interrupt_dma (irq : (s.lane l).dmaIrq) (taken : (s.lane l).r.srBit 17) : s.interrupt l =
    s.laneSet l { s.lane l with dmaIrq := false, r := (s.lane l).r.enter (s.lane l).r.pc 8 none } := by
  unfold State.interrupt
  dsimp only
  rw [if_neg (by simp [on, runs, sound]), quiet]
  dsimp only
  rw [if_neg (by simp [straight, enabled])]
  exact if_pos (by simp [irq, taken])

theorem interrupt_message (dma : (s.lane l).dmaIrq = false ∨ (s.lane l).r.srBit 17 = false) (irq : (s.lane l).msgIrq)
    (taken : (s.lane l).r.srBit 16) : s.interrupt l =
    s.laneSet l { s.lane l with msgIrq := false, r := (s.lane l).r.enter (s.lane l).r.pc 12 none } := by
  have nodma : ¬ ((s.lane l).dmaIrq && (s.lane l).r.srBit 17) = true := by rcases dma with h | h <;> simp [h]
  unfold State.interrupt
  dsimp only
  rw [if_neg (by simp [on, runs, sound]), quiet]
  dsimp only
  rw [if_neg (by simp [straight, enabled]), if_neg nodma]
  exact if_pos (by simp [irq, taken])

end

/-! ### DMA (R194, R195) -/

/-- A lane whose front descriptor at a has ended with a STATUS. -/
def dmaEnded (x y : Lane) (a : Nat) (rest : List Nat) (status : Nat) : Lane := { y with
  dq := rest, data := y.data.set (a + 0x15) (BitVec.ofNat 8 status), dmaIrq := y.dmaIrq || bit (x.data.get (a + 0x14)).toNat 1 }

section
variable {s : State} {l a : Nat} {rest : List Nat} (queue : (s.lane l).dq = a :: rest) (hits : MemHits)
include queue

/-- A refused descriptor moves nothing. -/
theorem dmaDone_refused {status : Nat} (no : s.dmaRefused ((s.lane l).dma a) = some status) :
    s.dmaDone l hits = s.laneSet l (dmaEnded (s.lane l) (s.lane l) a rest status) := by
  unfold State.dmaDone
  dsimp only
  rw [queue]
  dsimp only
  rw [no]
  rfl

/-- A descriptor that is not refused and meets no bad word moves its bytes. -/
theorem dmaDone_moves (yes : s.dmaRefused ((s.lane l).dma a) = none)
    (sound : ((s.lane l).dma a).bad (s.targetRange ((s.lane l).dma a).src ((s.lane l).dma a).len) hits = []) :
    s.dmaDone l hits = (s.dmaMove l ((s.lane l).dma a) hits).laneSet l
      (dmaEnded (s.lane l) ((s.dmaMove l ((s.lane l).dma a) hits).lane l) a rest 1) := by
  unfold State.dmaDone
  dsimp only
  rw [queue]
  dsimp only
  rw [yes, sound]
  rfl

end

/-- A descriptor between two places of device memory is refused. -/
theorem dmaRefused_outside {s : State} {x : Dma} (src : x.srcLane = false) (dst : x.dstLane = false) : s.dmaRefused x = some 4 :=
  if_pos (by simp [src, dst])

theorem zeroBursts_nil (bs : List Byte) : zeroBursts [] bs = bs := by
  simp [zeroBursts, List.zipIdx_map_fst]

/-- What is read without a bad word is stored as it is. -/
theorem dmaMove_sound {s : State} {l : Nat} {x : Dma} {hits : MemHits} (sound : x.bad (s.targetRange x.src x.len) hits = []) :
    s.dmaMove l x hits = (s.dmaRead l x hits).2.dmaStore l x (s.dmaRead l x hits).1 := by
  unfold State.dmaMove
  dsimp only
  rw [sound]
  simp [zeroBursts_nil]

theorem getN_length (m : Mem) (a n : Nat) : (m.getN a n).length = n := by
  induction n generalizing a with
  | zero => rfl
  | succ n ih => rw [Mem.getN, List.length_cons, ih]

/-- Bytes stored in data memory: the lane's memory alone changes of the lane, and nothing of device memory. -/
theorem dmaStore_data {s : State} {l : Nat} {x : Dma} {bs : List Byte} (lane : x.dstLane) (inside : inData x.dst bs.length) :
    (s.dmaStore l x bs).lane l = { s.lane l with data := (s.lane l).data.setN x.dst bs } ∧ (s.dmaStore l x bs).mem = s.mem := by
  have data (d m : Mem) : ((⟨d, m⟩ : LMem).set x.dst bs) = ⟨d.setN x.dst bs, m⟩ := if_pos inside
  unfold State.dmaStore
  rw [if_pos lane]
  dsimp only
  rw [data, lane_of_lanes (State.draySet_lanes _ _ _), lane_laneSet_self]
  exact ⟨rfl, rfl⟩

/-- A byte outside a range of memory does not matter to what the range reads. -/
theorem getN_set_outside (m : Mem) {a c n : Nat} (b : Byte) (out : c < a ∨ a + n ≤ c) : (m.set c b).getN a n = m.getN a n := by
  induction n generalizing a with
  | zero => rfl
  | succ n ih => rw [Mem.getN, Mem.getN, ih (by omega), Mem.get_set, if_neg (by omega)]

/-- A descriptor from pool SRAM into data memory that meets no bad word (R194). -/
structure PoolToData (s : State) (x : Dma) (hits : MemHits) : Prop where
  source : x.srcLane = false
  lane : x.dstLane
  words : x.len % 8 = 0
  least : 8 ≤ x.len
  most : x.len ≤ 65536
  inside : inData x.dst x.len
  pool : s.targetRange x.src x.len = .pool
  sound : badIn hits.bad x.src x.len = false

namespace PoolToData

variable {s : State} {x : Dma} {hits : MemHits} (h : PoolToData s x hits)
include h

theorem accepted : s.dmaRefused x = none := by
  obtain ⟨source, lane, words, least, most, inside, pool, -⟩ := h
  unfold State.dmaRefused
  dsimp only
  rw [if_neg (by simp [source, lane, words, inside]; omega), if_neg (by simp [source, lane, pool])]

theorem bad_nil : x.bad (s.targetRange x.src x.len) hits = [] := by
  have missed := List.any_eq_false.1 h.sound
  unfold Dma.bad
  rw [h.source, if_neg Bool.false_ne_true, h.pool, badAt_pool]
  exact List.filter_eq_nil_iff.2 missed

/-- The bytes are read as they stand, and device memory is as it was. -/
theorem moves (l : Nat) : (s.dmaMove l x hits).lane l =
      { s.lane l with data := (s.lane l).data.setN x.dst (s.poolRead x.src x.len) } ∧ (s.dmaMove l x hits).mem = s.mem := by
  have bytes : (s.dmaRead l x hits).1 = s.poolRead x.src x.len := by
    unfold State.dmaRead
    dsimp only
    rw [h.source, if_neg Bool.false_ne_true, h.pool]
    rfl
  have read : Does [.regs, .pea, .sec] s (s.dmaRead l x hits).2 := dmaRead_does s l x hits (Does.refl _ s) (List.Subset.refl _)
  have fits : inData x.dst (s.poolRead x.src x.len).length := by
    rw [State.poolRead, getN_length]
    exact h.inside
  obtain ⟨lane, mem⟩ := dmaStore_data (s := (s.dmaRead l x hits).2) (l := l) h.lane fits
  have same : (s.dmaRead l x hits).2.lane = s.lane := lane_of_lanes (read.frame .lanes (by decide))
  rw [dmaMove_sound h.bad_nil, bytes, lane, mem, same]
  exact ⟨rfl, read.frame .mem (by decide)⟩

end PoolToData

/-- The descriptor at the front of a lane's queue has moved its bytes from pool SRAM into data memory. -/
theorem dmaDone_poolToData {s : State} {l a : Nat} {rest : List Nat} {hits : MemHits} (queue : (s.lane l).dq = a :: rest) {x : Dma}
    (hx : (s.lane l).dma a = x) (h : PoolToData s x hits) (apart : a + 0x15 < x.dst ∨ x.dst + x.len ≤ a + 0x15) :
    ((s.dmaDone l hits).lane l).dq = rest ∧ ((s.dmaDone l hits).lane l).data.getN x.dst x.len = s.poolRead x.src x.len ∧
    ((s.dmaDone l hits).lane l).data.get (a + 0x15) = 1 ∧
    (bit ((s.lane l).data.get (a + 0x14)).toNat 1 → ((s.dmaDone l hits).lane l).dmaIrq) ∧ (s.dmaDone l hits).mem = s.mem := by
  obtain ⟨lane, mem⟩ := h.moves l
  have length : (s.poolRead x.src x.len).length = x.len := getN_length _ _ _
  have bytes := getN_setN (s.lane l).data x.dst (s.poolRead x.src x.len)
  rw [length] at bytes
  subst hx
  rw [dmaDone_moves queue hits h.accepted h.bad_nil, lane_laneSet_self, lane]
  refine ⟨rfl, ?_, ?_, fun irq => ?_, mem⟩
  · exact (getN_set_outside _ _ apart).trans bytes
  · exact (Mem.get_set _ _ _ _).trans (if_pos rfl)
  · exact Bool.or_eq_true_iff.2 (.inr irq)

theorem exec_laneDmaComplete_idle {s : State} {l : Fin 64} (off : s.dryOn (l / 16) = false ∨ (s.lane l).dq = []) (m : MemHits)
    (cor : Nat) :
    exec (.laneDmaComplete l m cor) s = .next { s with out := [] } :=
  congrArg Host.Outcome.next (if_neg (by rcases off with h | h <;> simp [h]))

/-- The state in which the descriptor at the front of a lane's queue completes: corrected errors are counted. -/
theorem exec_laneDmaComplete {s : State} {l : Fin 64} (hits : MemHits) (cor : Nat) (on : s.dryOn (l / 16)) {a : Nat} {rest : List Nat}
    (queue : (s.lane l).dq = a :: rest) :
    exec (.laneDmaComplete l hits cor) s = .next ((s.begin.laneCorrected l cor).dmaDone l hits) :=
  congrArg Host.Outcome.next (if_pos (by simp [on, queue]))

end Sys2Proof.Arch
end

section
/-! PROOF. Lanes run block by block (R173 to R195): the obligation. -/

namespace Sys2Proof.Arch
open Sys2Proof.Machine Sys2Proof.Laws


/-- Settles O59: each command of a lane's block, by the case it is in. -/
theorem lanesRunBlockByBlock : Obligations.LanesRunBlockByBlock := by
  intro s l x stored
  refine ⟨fun d off => ?_, fun d on => ⟨?_, ?_⟩, fun no cor => exec_bundleIssue_idle no cor,
    fun may cor => ⟨fun e exc outside => exec_bundleIssue_raises may cor exc outside, fun low loops branch flight =>
      ⟨fun nop => exec_bundleIssue_nop may cor low loops branch flight nop, ?_⟩⟩,
    fun on runs sound => ?_, fun m cor off => exec_laneDmaComplete_idle off m cor, fun m cor a rest on queue => ?_⟩
  · obtain ⟨copies, ends⟩ := exec_blockCycle s d
    obtain ⟨same, same'⟩ := blockCycle_off (s := s.begin) off
    rw [copies, ends, same, same']
    exact ⟨rfl, rfl⟩
  · refine ⟨_, (exec_blockCycle s d).1, fun k => ?_⟩
    obtain ⟨inside, outside⟩ := inputCopy_lanes (s := s.begin) on d.isLt k.isLt
    refine ⟨fun hk runs inTime => (inside hk).ready runs inTime,
      fun hk runs late waits => (inside hk).defers runs late waits, fun h => ?_⟩
    by_cases hk : k.val / 16 = d
    · exact (inside hk).idle (h.resolve_left fun ne => ne hk)
    · exact outside hk
  · intro isOver
    refine ⟨_, (exec_blockCycle s d).2, ?_, fun k => laneDeadline_lane (s := s.begin) on d.isLt k.isLt⟩
    rw [laneDeadline_eq (s := s.begin) on]
    exact deadline_counts d (drayLanes_nodup d) (drayLanes_small d.isLt) s.begin
  · intro b v small add reg
    obtain ⟨pc, sum, zero, others⟩ := added_effect x.r b
    obtain ⟨t, run, lane, drays, ctr⟩ := exec_bundleIssue_add may cor low loops branch flight small add reg
    refine ⟨t, run, ?_⟩
    rw [lane]
    exact ⟨pc, sum, zero, others, rfl, drays, congrFun ctr _⟩
  · intro entered
    have run : exec (.laneInterruptEntry l) s = .next (s.begin.interrupt l) := rfl
    refine ⟨fun code ipc exc => ?_, fun quiet straight enabled => ⟨fun irq taken => ?_, fun dma irq taken => ?_⟩,
      fun quiet masked => ?_⟩
    · obtain ⟨cause, handler⟩ := enter_code x.r ipc 4 code
      rw [run, interrupt_exception (s := s.begin) on runs sound exc]
      refine ⟨_, rfl, ?_⟩
      simp only [entered]
      rw [lane_laneSet_self]
      exact ⟨enter_entered x.r ipc 4 (some code), rfl, cause, handler⟩
    · rw [run, interrupt_dma (s := s.begin) on runs sound quiet straight enabled irq taken]
      refine ⟨_, rfl, ?_⟩
      simp only [entered]
      rw [lane_laneSet_self]
      exact ⟨enter_entered x.r x.r.pc 8 none, rfl⟩
    · rw [run, interrupt_message (s := s.begin) on runs sound quiet straight enabled dma irq taken]
      refine ⟨_, rfl, ?_⟩
      simp only [entered]
      rw [lane_laneSet_self]
      exact ⟨enter_entered x.r x.r.pc 12 none, rfl⟩
    · rw [run, interrupt_masked (s := s.begin) on runs sound quiet masked]
      rfl
  · intro src dst n da
    have kept := laneCorrected_kept s.begin l cor
    have run := exec_laneDmaComplete m cor on queue
    have lane : (s.begin.laneCorrected l cor).lane l = x := congrFun (laneCorrected_lane s.begin l cor) l
    have mem : (s.begin.laneCorrected l cor).mem = s.mem := kept.frame .mem (by decide)
    generalize s.begin.laneCorrected l cor = u at run lane mem
    have queue' : (u.lane l).dq = a :: rest := by rw [lane, queue]
    refine ⟨fun fromPool toLane words least most inside pool apart whole => ?_, fun fromPool toDevice => ?_⟩
    · have fields : x.dma a = ⟨src % 2 ^ 40, da, n, false, true⟩ := by
        simp only [Lane.dma]
        rw [fromPool, toLane]
        rfl
      have good : PoolToData u (x.dma a) m := by
        rw [fields]
        exact ⟨rfl, rfl, words, least, most, inside, (targetRange_of_size (by rw [mem]) _ _).trans pool, whole⟩
      obtain ⟨front, bytes, status, irq, still⟩ := dmaDone_poolToData queue' (by rw [lane]) good (by rw [fields]; exact apart)
      have read : u.poolRead (src % 2 ^ 40) n = s.poolRead (src % 2 ^ 40) n := by rw [State.poolRead, mem, State.poolRead]
      rw [fields, read] at bytes
      rw [lane] at irq
      exact ⟨_, run, front, bytes, status, irq, still.trans mem⟩
    · have refused : u.dmaRefused ((u.lane l).dma a) = some 4 := by
        rw [lane]
        exact dmaRefused_outside fromPool toDevice
      rw [run, dmaDone_refused queue' m refused]
      refine ⟨_, rfl, ?_⟩
      rw [lane_laneSet_self, lane]
      exact ⟨rfl, rfl, mem⟩

end Sys2Proof.Arch
end

section
/-! PROOF. Memory training, the firmware slots and the host push (R278, R404, R435, R436). -/

namespace Sys2Proof.Arch
open Sys2Proof.Machine Sys2Proof.Safety Sys2Proof.Laws

/-! ### What a record of the audit log leaves alone (R410 to R412) -/

/-- From s to t the Control state stays, and of the security state all but the audit log's own fields. -/
def OnlyLogs (s t : State) : Prop := t.ctl = s.ctl ∧ ∃ n w, t.sec = { s.sec with logSeq := n, logWait := w }

theorem OnlyLogs.refl (s : State) : OnlyLogs s s := ⟨rfl, _, _, rfl⟩

theorem OnlyLogs.trans {a b c : State} (h : OnlyLogs a b) (k : OnlyLogs b c) : OnlyLogs a c := by
  obtain ⟨hc, n, w, hs⟩ := h
  obtain ⟨kc, n', w', ks⟩ := k
  exact ⟨kc.trans hc, n', w', by rw [ks, hs]⟩

theorem OnlyLogs.foldl {α : Type} {f : State → α → State} (hf : ∀ t x, OnlyLogs t (f t x)) (l : List α) (s : State) :
    OnlyLogs s (l.foldl f s) := by
  induction l generalizing s with
  | nil => exact .refl s
  | cons x r ih => exact (hf s x).trans (ih _)

theorem auditPut_eq (s : State) (r : Audit) : ∃ a bs,
    s.auditPut r = (s.peaWrite a bs).secSet { s.sec with logSeq := s.sec.logSeq + 1 } := ⟨_, _, rfl⟩

theorem auditPut_onlyLogs (s : State) (r : Audit) : OnlyLogs s (s.auditPut r) := by
  obtain ⟨a, bs, put⟩ := auditPut_eq s r
  have kept := (peaWrite_does s a bs (.refl [.pea] s) (List.Subset.refl _)).frame .ctl (by decide)
  rw [put]
  exact ⟨kept, _, _, rfl⟩

theorem audit_onlyLogs (s : State) (type origin result : Nat) (data : List Byte) :
    OnlyLogs s (s.audit type origin result data) := by
  unfold State.audit
  dsimp only
  split
  · exact OnlyLogs.trans ⟨rfl, _, _, rfl⟩ (.foldl auditPut_onlyLogs _ _)
  · exact ⟨rfl, _, _, rfl⟩

/-- An accepted image runs, and none of the images refused before it waits any longer (R404). -/
theorem boot_runs (s : State) (f : Fw) : (s.boot f).ctl = { s.ctl with stage := 4 } ∧
    ∃ n w, (s.boot f).sec = { s.sec with fw := f, refused := [], logSeq := n, logWait := w } :=
  OnlyLogs.trans (.foldl (fun _ _ => audit_onlyLogs _ _ _ _ _) _ _) (audit_onlyLogs _ _ _ _ _)

/-! ### The slots (R404, R435) -/

theorem slotOrder_cases (s : State) : s.slotOrder = [0, 1] ∨ s.slotOrder = [1, 0] := by
  unfold State.slotOrder
  dsimp only
  split
  · exact .inr rfl
  · exact .inl rfl

/-- A refused slot: its failure code, and its image kept for the log. -/
theorem slotFail_eq (s : State) (k v : Nat) : s.slotFail k v = s.secSet { s.sec with
    afail := if k = 0 then v else s.sec.afail
    bfail := if k = 0 then s.sec.bfail else v
    refused := s.sec.refused ++ [(k, fwOf k (s.slotImg k), v)] } := by
  unfold State.slotFail
  dsimp only
  by_cases h : k = 0
  · simp only [if_pos h]; rfl
  · simp only [if_neg h]; rfl

theorem slotImg_slotFail (s : State) (k v : Nat) : (s.slotFail k v).slotImg = s.slotImg := by
  rw [slotFail_eq]; rfl

theorem fwCheck_slotFail (s : State) (k v : Nat) : (s.slotFail k v).fwCheck = s.fwCheck := by
  rw [slotFail_eq]; rfl

/-- The slots are tried in their order (R404). -/
theorem verifySlots_order {s : State} (ha : s.awake) (hs : s.ctl.stage = 2) (hl : s.ctl.pushLen = none) {p q : Nat}
    (order : s.slotOrder = [p, q]) : s.verifySlots =
      if s.fwCheck (s.slotImg p) = 0 then s.boot (fwOf p (s.slotImg p))
      else if s.fwCheck (s.slotImg q) = 0 then (s.slotFail p (s.fwCheck (s.slotImg p))).boot (fwOf q (s.slotImg q))
      else ((s.slotFail p (s.fwCheck (s.slotImg p))).slotFail q (s.fwCheck (s.slotImg q))).stage 3 := by
  unfold State.verifySlots
  rw [if_neg (by simp [ha, hs, hl]), order]
  simp only [List.map_cons, List.map_nil, fwCheck_slotFail]

theorem exec_firmwareVerifyDone {s : State} (ha : s.awake) : exec .firmwareVerifyDone s = .next s.begin.verifySlots :=
  congrArg _ (if_pos ha)

/-! ### The push (R436) -/

theorem exec_bootPush {s : State} (ha : s.awake) (w : Word) : exec (.bootPush w) s = .next (s.begin.bootPush w) :=
  congrArg _ (if_pos ha)

theorem exec_pushCheckDone {s : State} (ha : s.awake) : exec .pushCheckDone s = .next s.begin.pushCheck :=
  congrArg _ (if_pos ha)

/-- The failure code of a pushed image of n bytes: one that is too long is not checked further. -/
def pushCode (s : State) (n : Nat) : Nat := if 524288 < n then 5 else s.fwCheck (s.mem.pool.getN 0 n)

/-- The check of a pushed image ends with its failure code in CTL_BOOTSTAT; the image runs, or the boot waits again. -/
theorem pushCheck_code {s : State} {n : Nat} (hn : s.ctl.pushLen = some n) {t : State}
    (ht : t = s.ctlSet { s.ctl with pushLen := none, pushErr := pushCode s n }) : s.pushCheck =
      if pushCode s n = 0 then t.boot (fwOf 2 (s.mem.pool.getN 0 n))
      else (t.refuse 2 (s.mem.pool.getN 0 n) (pushCode s n)).stage 3 := by
  subst ht
  unfold State.pushCheck
  rw [hn]
  rfl

/-- A pushed image that is accepted runs. -/
theorem pushCheck_accepted {s : State} {n : Nat} (hn : s.ctl.pushLen = some n) (ok : pushCode s n = 0) :
    s.pushCheck.sec.fw = fwOf 2 (s.mem.pool.getN 0 n) ∧
    s.pushCheck.ctl = { s.ctl with stage := 4, pushLen := none, pushErr := 0 } ∧ s.pushCheck.sec.refused = [] := by
  rw [pushCheck_code hn rfl, if_pos ok, ok]
  obtain ⟨hc, k, w, hs⟩ := boot_runs (s.ctlSet { s.ctl with pushLen := none, pushErr := 0 }) (fwOf 2 (s.mem.pool.getN 0 n))
  rw [hs]
  exact ⟨rfl, hc, rfl⟩

/-- A pushed image that is refused shows its failure code, and is kept for the log. -/
theorem pushCheck_refused {s : State} {n v : Nat} (hn : s.ctl.pushLen = some n) (hv : pushCode s n = v) (no : v ≠ 0) :
    s.pushCheck = { s with
      ctl := { s.ctl with stage := 3, pushLen := none, pushErr := v }
      sec := { s.sec with refused := s.sec.refused ++ [(2, fwOf 2 (s.mem.pool.getN 0 n), v)] } } := by
  subst hv
  rw [pushCheck_code hn rfl, if_neg no]
  rfl

/-- Settles O11: the order of the slots and the outcome of each check choose among the boot's continuations. -/
theorem trainingAndBoot : Obligations.TrainingAndBoot := by
  intro s ha
  refine ⟨fun out untrained => ?_, fun hs hl p q order => ?_, fun w hs => ?_, fun n hn => ?_⟩
  · have train (gib : Option Nat) : exec (.memoryTrainingDone gib) s = .next (s.begin.trained gib) := rfl
    have may : ¬ (bit s.begin.ctl.inrst 0 ∨ !s.begin.awake ∨ s.begin.mem.trained) := by
      simp [out, ha, untrained]
    simp only [train, State.trained, if_neg may]
    exact ⟨rfl, rfl, rfl⟩
  · rw [exec_firmwareVerifyDone ha, verifySlots_order (s := s.begin) ha hs hl order]
    have check : s.begin.fwCheck = s.fwCheck := rfl
    have img : s.begin.slotImg = s.slotImg := rfl
    rw [check, img]
    refine ⟨fun hp => ?_, fun hp hq => ?_, fun hp hq => ?_⟩
    · rw [if_pos hp]
      obtain ⟨hc, k, w, hsec⟩ := boot_runs s.begin (fwOf p (s.slotImg p))
      exact ⟨_, rfl, by rw [hsec], hc⟩
    · rw [if_neg hp, if_pos hq]
      obtain ⟨hc, k, w, hsec⟩ := boot_runs (s.begin.slotFail p (s.fwCheck (s.slotImg p))) (fwOf q (s.slotImg q))
      rw [slotFail_eq] at hc hsec ⊢
      refine ⟨_, rfl, by rw [hsec], hc, ?_⟩
      rw [hsec]
      by_cases h : p = 0
      · simp [h]
      · simp [h]
    · rw [if_neg hp, if_neg hq, slotFail_eq (s.begin.slotFail _ _), slotImg_slotFail, slotFail_eq, img]
      refine ⟨_, rfl, ?_, rfl⟩
      obtain ⟨rfl, rfl⟩ | ⟨rfl, rfl⟩ : p = 0 ∧ q = 1 ∨ p = 1 ∧ q = 0 := by
        simpa [order] using slotOrder_cases s
      · simp [State.stage]
      · simp [State.stage]
  · rw [exec_bootPush ha, State.bootPush, if_pos ⟨ha, hs⟩]
    rfl
  · rw [exec_pushCheckDone ha]
    have short (h : n ≤ 524288) : pushCode s.begin n = s.fwCheck (s.mem.pool.getN 0 n) := if_neg (Nat.not_lt.2 h)
    refine ⟨fun h ok => ⟨_, rfl, pushCheck_accepted (s := s.begin) hn ((short h).trans ok)⟩, fun h no => ?_, fun h => ?_⟩
    · rw [pushCheck_refused (s := s.begin) hn (short h) no]
      rfl
    · rw [pushCheck_refused (s := s.begin) hn (if_pos h) (by decide)]
      rfl

end Sys2Proof.Arch
end

section
/-! PROOF. The bank owners: a handover that ends moves the heads that wait at pool SRAM (R273, R274). -/

namespace Sys2Proof.Arch
open Sys2Proof.Machine Sys2Proof.Safety Sys2Proof.Laws

/-- The end of a handover gives the bank its new owner, and the heads that wait at pool SRAM the paths of the new owners (R274). -/
theorem exec_bankHandoverDone {s : State} {n : Fin 32} {o : Nat} {r : List Nat} (on : s.up secMem)
    (front : s.mem.hand.getD n [] = o :: r) : exec (.bankHandoverDone n) s = .next (State.reroute { s with
      out := [], mem := { s.mem with owner := s.mem.owner.set n o, hand := s.mem.hand.set n r } }) := by
  have front' : s.begin.mem.hand.getD n [] = o :: r := front
  have run : exec (.bankHandoverDone n) s = .next (if s.up secMem then s.begin.bankDone n else s.begin) := rfl
  rw [run, if_pos on, State.bankDone, front']
  rfl

/-- Dray DMA 0 waits to read the first word of pool SRAM. -/
def drayHead : MtxHead := ⟨5, false, false, 0, BitVec.ofNat 40 poolBase, .read 8⟩

/-- Every section released, and bank 0, which no master owns, being handed over to the Stoker while `drayHead` waits at path A. -/
def handingOver : State := { State.reset with
  ctl := { Ctl.reset with phase := 3, inrst := 0 }
  mem := { MemSt.reset with hand := MemSt.reset.hand.set 0 [4], heads := MemSt.reset.heads.set 2 [drayHead] } }

/-- Refutes O22: the statement leaves the waiting heads as they are when a handover ends, but bank 0 then belongs to the Stoker, so
that the head of Dray DMA 0 moves from path A (point 2) to path B (point 3), as R273 routes it. -/
theorem not_quotasAndBanks : ¬ Obligations.QuotasAndBanks := by
  intro h
  obtain ⟨-, -, handover⟩ := h handingOver (.matrix 4) 0
  have on : handingOver.up secMem := by decide
  have front : handingOver.mem.hand.getD (0 : Fin 32) [] = [4] := by decide
  have claimed := handover 0 4 [] on front
  rw [exec_bankHandoverDone on front] at claimed
  have atB := congrArg (fun t : State => t.mem.heads.getD 3 []) (Host.Outcome.next.inj claimed)
  exact absurd atB (by decide +kernel)

end Sys2Proof.Arch
end

section
/-! SUPPORT. Ethernet ports and gPTP domains read back after they are stored (R291, R306). -/

namespace Sys2Proof.Arch
open Sys2Proof.Machine

/-! ### Ports -/

theorem nport_nportSet_self {s : State} {p : Nat} (hp : p < s.net.ports.length) (x : Port) : (s.nportSet p x).nport p = x := by
  simp [State.nport, List.getD_eq_getElem?_getD, hp]

theorem nport_nportSet_ne {s : State} {p k : Nat} (x : Port) (h : k ≠ p) : (s.nportSet p x).nport k = s.nport k := by
  simp [State.nport, List.getD_eq_getElem?_getD, h.symm]

@[simp] theorem nportSet_nportSet (s : State) (p : Nat) (x y : Port) : (s.nportSet p x).nportSet p y = s.nportSet p y := by
  simp [State.nportSet, State.netSet]

/-- A port that is up stays so while its link does. -/
theorem portUp_nportSet {s : State} {p : Nat} (hp : p < s.net.ports.length) {x : Port} (link : x.link = (s.nport p).link) :
    (s.nportSet p x).portUp p = s.portUp p := by
  unfold State.portUp
  rw [nport_nportSet_self hp, link]
  rfl

theorem enqueue_up {s : State} {p : Nat} (up : s.portUp p) (f : TxFrame) :
    s.enqueue p f = s.nportSet p { s.nport p with txq := (s.nport p).txq ++ [f] } := if_pos up

theorem portUp_of_ptpUp {s : State} {p : Nat} (h : s.ptpUp p) : s.portUp p := (Bool.and_eq_true_iff.1 h).1

/-! ### Domains -/

theorem gptp_of_net {s t : State} (h : t.net = s.net) (d : Nat) : t.gptp d = s.gptp d := by
  unfold State.gptp
  rw [h]

theorem gptp_gptpSet_self {s : State} {d : Nat} (hd : d < s.net.doms.length) (g : Gptp) : (s.gptpSet d g).gptp d = g := by
  simp [State.gptp, State.gptpSet, List.getD_eq_getElem?_getD, hd]

@[simp] theorem gptpSet_gptpSet (s : State) (d : Nat) (g k : Gptp) : (s.gptpSet d g).gptpSet d k = s.gptpSet d k := by
  simp [State.gptpSet, State.netSet]

/-- A frame joins the queue of a port that is up, after a domain was stored. -/
theorem gptpSet_enqueue {s : State} {p d : Nat} (up : s.portUp p) (hp : p < s.net.ports.length) (hd : d < s.net.doms.length)
    (g : Gptp) (f : TxFrame) : ((s.gptpSet d g).enqueue p f).gptp d = g ∧
      (((s.gptpSet d g).enqueue p f).nport p).txq = (s.nport p).txq ++ [f] := by
  rw [enqueue_up (s := s.gptpSet d g) up, nport_nportSet_self (s := s.gptpSet d g) hp]
  exact ⟨gptp_gptpSet_self hd g, rfl⟩

/-! ### Events of the Stream section -/

theorem inStr_up {s : State} (up : s.up secStr) (f : State → State) : s.inStr f = f s := if_pos up

end Sys2Proof.Arch
end

section
/-! PROOF. gPTP messages, a domain without Sync, and the ends of listeners (R304 to R307, R329). -/

namespace Sys2Proof.Arch
open Sys2Proof.Machine Sys2Proof.Safety Sys2Proof.Laws

/-! ### Messages (R306, R307) -/

/-- A request with the next sequence number waits, and the exchange before it is forgotten. -/
theorem pdelaySend_on {s : State} {p : Nat} (hp : p < s.net.ports.length) (up : s.ptpUp p) (on : s.rwBit (rPort p) 25) :
    s.pdelaySend p = s.nportSet p { s.nport p with
      pdSeq := ((s.nport p).pdSeq + 1) % 65536, t1 := none, t24 := none
      txq := (s.nport p).txq ++ [⟨0, [], none, none, .own 2 [((s.nport p).pdSeq + 1) % 65536]⟩] } := by
  unfold State.pdelaySend
  rw [if_pos (by simp [up, on])]
  dsimp only
  rw [enqueue_up, nport_nportSet_self hp, nportSet_nportSet]
  exact (portUp_nportSet hp (by rfl)).trans (portUp_of_ptpUp up)

theorem and_ne_true {a b : Bool} (off : a = false ∨ b = false) : ¬ (a && b) = true := by
  rcases off with rfl | rfl
  · exact Bool.false_ne_true
  · rw [Bool.and_false]
    exact Bool.false_ne_true

theorem pdelaySend_off {s : State} {p : Nat} (off : s.ptpUp p = false ∨ s.rwBit (rPort p) 25 = false) : s.pdelaySend p = s :=
  if_neg (and_ne_true off)

/-- SYNC_SEND and ANNOUNCE_SEND are for the grandmaster of the domain, on a port that may send gPTP frames. -/
theorem syncSend_gm {s : State} {p d : Nat} (up : s.ptpUp p) (gm : s.isGm d) : s.syncSend p d =
    (s.gptpSet d { s.gptp d with gm := true, syncSeq := ((s.gptp d).syncSeq + 1) % 65536 }).enqueue p
      ⟨0, [], none, none, .own 0 [s.domNum d, (s.gptp d).syncSeq]⟩ := if_pos (by simp [up, gm])

theorem announceSend_gm {s : State} {p d : Nat} (up : s.ptpUp p) (gm : s.isGm d) : s.announceSend p d =
    (s.gptpSet d { s.gptp d with gm := true, annSeq := ((s.gptp d).annSeq + 1) % 65536 }).enqueue p
      ⟨0, [], none, none, .own 11 [s.domNum d, (s.gptp d).annSeq]⟩ := if_pos (by simp [up, gm])

theorem syncSend_off {s : State} {p d : Nat} (off : s.ptpUp p = false ∨ s.isGm d = false) : s.syncSend p d = s :=
  if_neg (and_ne_true off)

theorem announceSend_off {s : State} {p d : Nat} (off : s.ptpUp p = false ∨ s.isGm d = false) : s.announceSend p d = s :=
  if_neg (and_ne_true off)

/-! ### The loss of references whose input is gone (R329) -/

/-- A reference as a loss leaves it. -/
def lostRef (x : Ref) : Ref := { x with st := if x.st = 2 then 2 else 1, seen := false, beyond := true }

/-- A reference that no measurement counts for, and that is not qualified. -/
def IsLost (x : Ref) : Prop := x.seen = false ∧ x.st ≤ 2

theorem isLost_lostRef (x : Ref) : IsLost (lostRef x) := by
  refine ⟨rfl, ?_⟩
  unfold lostRef
  dsimp only
  split <;> decide

theorem ref_of_set {s t : State} {r : Nat} {x : Ref} (h : t.tim.refs = s.tim.refs.set r x) (k : Nat) :
    t.ref k = if r = k ∧ r < s.tim.refs.length then x else s.ref k := by
  unfold State.ref
  rw [h, List.getD_eq_getElem?_getD, List.getElem?_set]
  by_cases e : r = k
  · subst e
    by_cases l : r < s.tim.refs.length
    · simp [l]
    · simp [l]
  · simp [e]

theorem lose_eq (s : State) (r : Nat) : s.lose r =
    if s.tim.sel = r then (s.refSet r (lostRef (s.ref r))).holdSteer else s.refSet r (lostRef (s.ref r)) := rfl

/-- The steering held leaves the references alone. -/
theorem holdSteer_refs (s : State) : s.holdSteer.tim.refs = s.tim.refs := by
  unfold State.holdSteer
  dsimp only
  split
  · rfl
  · split <;> rfl

theorem lose_refs (s : State) (r : Nat) : (s.lose r).tim.refs = s.tim.refs.set r (lostRef (s.ref r)) := by
  rw [lose_eq]
  split
  · exact holdSteer_refs _
  · rfl

theorem lose_tim (s : State) (r : Nat) : s.lose r = { s with tim := (s.lose r).tim } := by
  rw [lose_eq]
  split <;> rfl

/-- From s to t only the Time section changes: references keep their quality, and each is as it was, or lost for want of its input. -/
structure OnlyLoses (s t : State) : Prop where
  tim : t = { s with tim := t.tim }
  len : t.tim.refs.length = s.tim.refs.length
  qual : ∀ r, (t.ref r).qual = (s.ref r).qual
  ref : ∀ r, t.ref r = s.ref r ∨ s.refGone r ∧ IsLost (t.ref r)

theorem OnlyLoses.net {s t : State} (h : OnlyLoses s t) : t.net = s.net := by
  rw [h.tim]

theorem refGone_of_tim {s t : State} (h : t = { s with tim := t.tim }) (r : Nat) : t.refGone r = s.refGone r := by
  rw [h]; rfl

theorem measured_of_tim {s t : State} (h : t = { s with tim := t.tim }) (r : Nat) : t.measured r = s.measured r := by
  rw [h]; rfl

theorem OnlyLoses.refl (s : State) : OnlyLoses s s := ⟨rfl, rfl, fun _ => rfl, fun _ => .inl rfl⟩

theorem OnlyLoses.trans {a b c : State} (h : OnlyLoses a b) (k : OnlyLoses b c) : OnlyLoses a c where
  tim := by rw [k.tim, h.tim]
  len := k.len.trans h.len
  qual r := (k.qual r).trans (h.qual r)
  ref r := by
    rcases k.ref r with same | ⟨gone, lost⟩
    · rw [same]
      exact h.ref r
    · exact .inr ⟨(refGone_of_tim h.tim r).symm.trans gone, lost⟩

/-- Beyond a change of the network, losses change only the Time section. -/
theorem OnlyLoses.net_tim {a s t : State} (h : OnlyLoses s t) (k : s = { a with net := s.net, tim := s.tim }) :
    t = { a with net := t.net, tim := t.tim } := by
  rw [h.tim, k]

/-- What is lost stays lost. -/
theorem OnlyLoses.isLost {s t : State} (h : OnlyLoses s t) {r : Nat} (lost : IsLost (s.ref r)) : IsLost (t.ref r) := by
  rcases h.ref r with same | ⟨-, now⟩
  · rw [same]
    exact lost
  · exact now

theorem lose_onlyLoses {s : State} {r : Nat} (gone : s.refGone r) : OnlyLoses s (s.lose r) where
  tim := lose_tim s r
  len := by rw [lose_refs, List.length_set]
  qual k := by
    rw [ref_of_set (lose_refs s r)]
    split
    next h => rw [← h.1]; rfl
    next => rfl
  ref k := by
    rw [ref_of_set (lose_refs s r)]
    split
    next h => exact .inr ⟨h.1 ▸ gone, isLost_lostRef _⟩
    next => exact .inl rfl

/-- What `State.loseGone` does to each of its references in turn. -/
def loseIfGone (s : State) (r : Nat) : State :=
  if s.measured r && s.refGone r && ((s.ref r).seen || 3 ≤ (s.ref r).st) then s.lose r else s

theorem loseGone_eq (s : State) : s.loseGone = [0, 1, 4, 5, 6, 7].foldl loseIfGone s := rfl

theorem loseIfGone_onlyLoses (s : State) (r : Nat) : OnlyLoses s (loseIfGone s r) := by
  unfold loseIfGone
  split
  next h =>
    simp only [Bool.and_eq_true] at h
    exact lose_onlyLoses h.1.2
  next => exact .refl s

/-- A measured reference whose input is gone is lost. -/
theorem loseIfGone_isLost {s : State} {r : Nat} (on : s.measured r) (gone : s.refGone r) (hr : r < s.tim.refs.length) :
    IsLost ((loseIfGone s r).ref r) := by
  unfold loseIfGone
  by_cases h : (s.ref r).seen || 3 ≤ (s.ref r).st
  · rw [if_pos (by simp [on, gone, h]), ref_of_set (lose_refs s r), if_pos ⟨rfl, hr⟩]
    exact isLost_lostRef _
  · rw [if_neg (by simp [h])]
    obtain ⟨unseen, low⟩ : (s.ref r).seen = false ∧ (s.ref r).st < 3 := by simpa using h
    exact ⟨unseen, Nat.le_of_lt_succ low⟩

theorem foldl_loseIfGone_onlyLoses (l : List Nat) (s : State) : OnlyLoses s (l.foldl loseIfGone s) := by
  induction l generalizing s with
  | nil => exact .refl s
  | cons x l ih => exact (loseIfGone_onlyLoses s x).trans (ih _)

theorem foldl_loseIfGone_isLost {l : List Nat} {s : State} {r : Nat} (hl : r ∈ l) (on : s.measured r) (gone : s.refGone r)
    (hr : r < s.tim.refs.length) : IsLost ((l.foldl loseIfGone s).ref r) := by
  induction l generalizing s with
  | nil => cases hl
  | cons x l ih =>
    rw [List.foldl_cons]
    rcases List.mem_cons.1 hl with rfl | hl
    · exact (foldl_loseIfGone_onlyLoses l _).isLost (loseIfGone_isLost on gone hr)
    · have step := loseIfGone_onlyLoses s x
      exact ih hl ((measured_of_tim step.tim r).trans on) ((refGone_of_tim step.tim r).trans gone) (step.len.symm ▸ hr)

theorem loseGone_onlyLoses (s : State) : OnlyLoses s s.loseGone := foldl_loseIfGone_onlyLoses _ s

theorem loseGone_isLost {s : State} {r : Nat} (hl : r ∈ [0, 1, 4, 5, 6, 7]) (on : s.measured r) (gone : s.refGone r)
    (hr : r < s.tim.refs.length) : IsLost (s.loseGone.ref r) := foldl_loseIfGone_isLost hl on gone hr

/-! ### A domain without Sync (R307) -/

/-- The domain without its master and Sync, and its reference of quality 0. -/
def silenced (s : State) (d : Nat) (gm : Bool) : State :=
  (s.gptpSet d { s.gptp d with valid := false, best := none, sync := none, gm := gm }).refSet d { s.ref d with qual := 0 }

theorem gptpLost_eq (s : State) (d : Nat) : ∃ gm, s.gptpLost d = (silenced s d gm).loseGone := by
  unfold State.gptpLost
  dsimp only
  rw [gptpSet_gptpSet]
  exact ⟨_, rfl⟩

theorem gptp_silenced {s : State} {d : Nat} (hd : d < s.net.doms.length) (gm : Bool) :
    (silenced s d gm).gptp d = { s.gptp d with valid := false, best := none, sync := none, gm := gm } := gptp_gptpSet_self hd _

theorem refs_silenced (s : State) (d : Nat) (gm : Bool) : (silenced s d gm).tim.refs = s.tim.refs.set d { s.ref d with qual := 0 } := rfl

theorem ref_silenced_self {s : State} {d : Nat} (hr : d < s.tim.refs.length) (gm : Bool) :
    (silenced s d gm).ref d = { s.ref d with qual := 0 } := by
  rw [ref_of_set (refs_silenced s d gm), if_pos ⟨rfl, hr⟩]

theorem ref_silenced_ne {s : State} {d r : Nat} (h : r ≠ d) (gm : Bool) : (silenced s d gm).ref r = s.ref r := by
  rw [ref_of_set (refs_silenced s d gm), if_neg fun k => h k.1.symm]

/-- The domain's own reference has no input any longer. -/
theorem refGone_silenced_self {s : State} {d : Nat} (hd : d < s.net.doms.length) (h : d ≤ 1) (gm : Bool) :
    (silenced s d gm).refGone d := by
  have invalid : ((silenced s d gm).net.doms.getD d Gptp.reset).valid = false := congrArg Gptp.valid (gptp_silenced hd gm)
  unfold State.refGone
  rw [if_pos h, invalid]
  exact Bool.or_true _

/-- The input of any other reference does not depend on the domain. -/
theorem refGone_silenced_ne {s : State} {d r : Nat} (h : r ≠ d) (gm : Bool) : (silenced s d gm).refGone r = s.refGone r := by
  have other (g : Gptp) : (s.net.doms.set d g).getD r Gptp.reset = s.net.doms.getD r Gptp.reset := by
    simp [List.getD_eq_getElem?_getD, h.symm]
  unfold State.refGone
  split
  · exact congrArg (fun g : Gptp => !s.up secStr || !g.valid) (other _)
  · rfl

/-- What a domain's silence brings (R307, R329). -/
theorem gptpLost_silences {s : State} {d : Fin 2} (hd : s.net.doms.length = 2) (hr : s.tim.refs.length = 9) :
    ((s.gptpLost d).gptp d).valid = false ∧ ((s.gptpLost d).gptp d).best = none ∧ ((s.gptpLost d).gptp d).sync = none ∧
    ((s.gptpLost d).ref d).qual = 0 ∧ (s.measured d → IsLost ((s.gptpLost d).ref d)) ∧
    (∀ r, r ≠ d.val → s.refGone r = false → (s.gptpLost d).ref r = s.ref r) ∧
    s.gptpLost d = { s with net := (s.gptpLost d).net, tim := (s.gptpLost d).tim } := by
  obtain ⟨gm, run⟩ := gptpLost_eq s d
  have inDoms : d.val < s.net.doms.length := by omega
  have inRefs : d.val < s.tim.refs.length := by omega
  have two : d.val = 0 ∨ d.val = 1 := by omega
  have loses := loseGone_onlyLoses (silenced s d gm)
  rw [← run] at loses
  have dom : (s.gptpLost d).gptp d = { s.gptp d with valid := false, best := none, sync := none, gm := gm } :=
    (gptp_of_net loses.net d).trans (gptp_silenced inDoms gm)
  rw [dom]
  refine ⟨rfl, rfl, rfl, ?_, fun on => ?_, fun r other here => ?_, loses.net_tim rfl⟩
  · rw [loses.qual, ref_silenced_self inRefs]
  · have gone := refGone_silenced_self inDoms (by omega) gm
    rw [run]
    exact loseGone_isLost (by rcases two with h | h <;> simp [h]) on gone (by simpa [refs_silenced] using inRefs)
  · rcases loses.ref r with same | ⟨gone, -⟩
    · rw [same, ref_silenced_ne other]
    · rw [refGone_silenced_ne other, here] at gone
      exact Bool.noConfusion gone

/-! ### The ends of listeners (R304, R305) -/

/-- With one open listener, what happens to listeners by their state happens to that one. -/
theorem listenerLost_one {s : State} {l : Listener} (only : s.net.listeners = [l]) : s.listenerLost l.idx = s.netSet { s.net with
    listeners := [if l.st = 2 ∧ l.placed + 48 * Rec.blocks l.recd ≤ (s.tim.nsc / 12 + 1) * 12 then { l with st := 3 } else l] } := by
  unfold State.listenerLost
  rw [only]
  simp

theorem crfReport_one {s : State} {l : Listener} (only : s.net.listeners = [l]) (crf : Rec.fmt l.recd = 2) (held : l.crfs ≠ []) :
    s.crfReport l.idx = s.netSet { s.net with
      listeners := [{ l with crf := rdiv (l.crfs.foldl (· + ·) 0) l.crfs.length, crfs := [] }] } := by
  unfold State.crfReport
  rw [only]
  simp [crf, held, meanI]

theorem crfReport_nothing {s : State} {l : Listener} (only : s.net.listeners = [l]) (no : Rec.fmt l.recd ≠ 2 ∨ l.crfs = []) (n : Nat) :
    s.crfReport n = s := by
  have not : ¬ (l.idx = n ∧ Rec.fmt l.recd = 2 ∧ l.crfs ≠ []) := fun ⟨_, crf, held⟩ => no.elim (· crf) held
  unfold State.crfReport
  rw [only, List.map_singleton, if_neg not, ← only]
  rfl

/-! ### The obligation -/

/-- Settles O50: each message and each end by the lemma about its operation. -/
theorem gptpAndListenerEvents : Obligations.GptpAndListenerEvents := by
  intro s p d hports hdoms
  have hp : p.val < s.begin.net.ports.length := hports.symm ▸ p.isLt
  have hd : d.val < s.begin.net.doms.length := hdoms.symm ▸ d.isLt
  have pdelay : exec (.pdelayReqSend p) s = .next (s.begin.pdelaySend p) := rfl
  have sync : exec (.syncSend p d) s = .next (s.begin.syncSend p d) := rfl
  have announce : exec (.announceSend p d) s = .next (s.begin.announceSend p d) := rfl
  refine ⟨fun up on => ?_, fun off => ?_, fun up gm => ?_, fun off => ?_, fun up hr => ?_, fun n l up only idx => ?_⟩
  · rw [pdelay, pdelaySend_on (s := s.begin) hp up on]
    exact ⟨_, rfl, nport_nportSet_self hp _, fun k h => nport_nportSet_ne _ h⟩
  · rw [pdelay, pdelaySend_off (s := s.begin) off]
    rfl
  · have run := portUp_of_ptpUp (s := s.begin) up
    rw [sync, announce, syncSend_gm (s := s.begin) up gm, announceSend_gm (s := s.begin) up gm]
    refine ⟨⟨_, rfl, ?_⟩, ⟨_, rfl, ?_⟩⟩
    · obtain ⟨dom, queue⟩ := gptpSet_enqueue run hp hd _ _
      exact ⟨congrArg Gptp.syncSeq dom, queue⟩
    · obtain ⟨dom, queue⟩ := gptpSet_enqueue run hp hd _ _
      exact ⟨congrArg Gptp.annSeq dom, queue⟩
  · rw [sync, announce, syncSend_off (s := s.begin) off, announceSend_off (s := s.begin) off]
    exact ⟨rfl, rfl⟩
  · have run : exec (.gptpSyncTimeout d) s = .next (s.begin.gptpLost d) := congrArg _ (inStr_up (s := s.begin) up _)
    exact ⟨_, run, gptpLost_silences (s := s.begin) hdoms hr⟩
  · have lost : exec (.listenerLost n) s = .next (s.begin.listenerLost n) := congrArg _ (inStr_up (s := s.begin) up _)
    have report : exec (.crfOffsetReport n) s = .next (s.begin.crfReport n) := congrArg _ (inStr_up (s := s.begin) up _)
    rw [lost, report]
    refine ⟨?_, fun crf held => ?_, fun no => ?_⟩
    · rw [← idx, listenerLost_one (s := s.begin) only]
      rfl
    · rw [← idx, crfReport_one (s := s.begin) only crf held]
      rfl
    · rw [crfReport_nothing (s := s.begin) only no]
      rfl

end Sys2Proof.Arch
end

section
/-! PROOF. The queue of Hitch frames on departure (R293, R378). -/

namespace Sys2Proof.Arch
open Sys2Proof.Machine

/-- A host frame of 60 bytes that waits in Q1, the queue of Hitch frames. -/
def hostInQ1 : TxFrame := ⟨1, List.replicate 60 0, none, none, .host ⟨1, 7, 9⟩ none⟩

/-- Every section released, and port E3 up with that frame. -/
def queuedInQ1 : State := State.nportSet
  (State.rwSet { State.reset with ctl := { Ctl.reset with phase := 3, inrst := 0 } } (rPort 3) 0x80000000#32)
  3 { Port.reset with link := true, txq := [hostInQ1] }

/-- The frame leaves, and waits still. -/
theorem queuedInQ1_keeps_frame : ((queuedInQ1.begin.depart 3 0).nport 3).txq = [hostInQ1] := by decide +kernel

/-- Refutes O49: its departures allow a host frame in Q1, which R293 keeps for Hitch frames. The departure takes such a frame from
the Hitch frames that wait, so that the port's transmit queue is not empty after it. NET_TX puts host frames into Q4 to Q11 only. -/
theorem not_linksAndFrames : ¬ Obligations.LinksAndFrames := by
  intro h
  obtain ⟨-, -, departs, -⟩ := h queuedInQ1 3 (by decide)
  have others (r : Nat) (hr : r ≠ 3) : (queuedInQ1.nport r).txq = [] := by
    have reset : (List.replicate 4 Port.reset).getD r Port.reset = Port.reset := by
      rw [List.getD_eq_getElem?_getD, List.getElem?_replicate]
      split <;> rfl
    rw [show queuedInQ1.nport r = Port.reset from (nport_nportSet_ne _ hr).trans reset]
    rfl
  obtain ⟨t, l, run, -, empty, -⟩ := departs hostInQ1 ⟨1, 7, 9⟩ 0 (by decide) (by decide) (by decide) rfl rfl rfl (by decide) others
  have left : queuedInQ1.begin.depart 3 0 = t := Host.Outcome.next.inj run
  rw [← left] at empty
  exact absurd (empty.symm.trans queuedInQ1_keeps_frame) (List.cons_ne_nil _ _).symm

end Sys2Proof.Arch
end

section
/-! PROOF. The words of a secure-channel table behind the Stream section's indirect pair (R297, R464, R465). -/

namespace Sys2Proof.Arch
open Sys2Proof.Machine

/-- Every section released, and STR_IXADDR at the third word of port E0's first secure channel, which holds reserved bits (R297). -/
def atReservedWord : State :=
  State.rwSet { State.reset with ctl := { Ctl.reset with phase := 3, inrst := 0 } } aStr 0x10008#32

/-- Of a word of ones written there, the bits that are not reserved are kept. -/
theorem atReservedWord_keeps_unreserved :
    (atReservedWord.begin.regWrite (.matrix 0) (ixData .str) 0xFFFFFFFF#32).strIx 0x10008 = 0x0000FF1F#32 := by decide +kernel

/-- Refutes O31: it has every word of a secure-channel table read back whole. The third word of a channel holds reserved bits, which
read 0 (R297, notes/assumptions/41.md), so that a word of ones written there reads 0x0000FF1F. -/
theorem not_indirectPairsStepAndReadBack : ¬ Obligations.IndirectPairsStepAndReadBack := by
  intro h
  obtain ⟨-, -, strWrite, -⟩ := h atReservedWord (.matrix 0) 0xFFFFFFFF#32
  obtain ⟨t, run, -, reads⟩ := strWrite (by decide)
  have addr : (atReservedWord.rw aStr).toNat = 0x10008 := by decide
  rw [addr] at reads
  have whole : t.strIx 0x10008 = 0xFFFFFFFF#32 := reads rfl (by decide) (by decide) (by decide) (by decide)
  have written : atReservedWord.begin.regWrite (.matrix 0) (ixData .str) 0xFFFFFFFF#32 = t := Host.Outcome.next.inj run
  rw [← written, atReservedWord_keeps_unreserved] at whole
  exact absurd whole (by decide)

end Sys2Proof.Arch
end

section
/-! PROOF. Measurement, loss, disqualification and qualification of references (R324 to R329). -/

namespace Sys2Proof.Arch
open Sys2Proof.Machine

/-! ### What the loop's steering leaves alone (R328, R332) -/

theorem holdSteer_tim (s : State) : s.holdSteer = { s with tim := s.holdSteer.tim } := rfl

theorem missed_frame (s : State) (r : Nat) : (s.missed r).tim.refs = s.tim.refs ∧ s.missed r = { s with tim := (s.missed r).tim } := by
  unfold State.missed
  split
  · exact ⟨holdSteer_refs s, holdSteer_tim s⟩
  · exact ⟨rfl, rfl⟩

/-! ### One measurement (R324 to R328) -/

/-- The frequency offset that a measurement brings, less the XIN model (R326). -/
def freqOf (s : State) (m : RefMeas) : Int := m.fofs - s.xinModel

/-- The measurement is beyond the threshold F, and within half of it (R327). -/
def beyondF (s : State) (r : Nat) (m : RefMeas) : Bool := s.refThr r < ((freqOf s m).natAbs : Int)
def withinHalf (s : State) (r : Nat) (m : RefMeas) : Bool := ((freqOf s m).natAbs : Int) ≤ s.refThr r / 2

/-- The reference as a measurement finds it. -/
def measuredRef (s : State) (r : Nat) (m : RefMeas) : Ref := { s.ref r with
  st := (s.ref r).next (s.refQual r = 0) (!beyondF s r m) (withinHalf s r m), fofs := freqOf s m, ofs := s.refPhase r m
  seen := true, beyond := beyondF s r m, last := if beyondF s r m then (s.ref r).last else s.tim.nsc }

/-- The reference as a measurement leaves it: one of quality 0 is disqualified (R325). -/
def notedRef (s : State) (r : Nat) (m : RefMeas) : Ref :=
  if s.refQual r = 0 ∧ (measuredRef s r m).st ≠ 2 then { measuredRef s r m with st := 2, dq := true } else measuredRef s r m

/-- The reference's new state stands, and is told where it is degraded. -/
def told (s : State) (r : Nat) (m : RefMeas) : State :=
  if (measuredRef s r m).st = 5 ∧ (s.ref r).st ≠ 5 then (s.refSet r (measuredRef s r m)).scSet rClkStat 21
  else s.refSet r (measuredRef s r m)

/-- The part of a measurement that concerns the reference, and not the loop. -/
def noted (s : State) (r : Nat) (m : RefMeas) : State :=
  if (told s r m).refQual r = 0 ∧ (measuredRef s r m).st ≠ 2 then (told s r m).disqualify r else told s r m

/-- The phase of the measurement is a hit, or after a hold too far from the build-out (R328, R335, notes/assumptions/22.md). -/
def jumps (s u : State) (r : Nat) (m : RefMeas) : Bool :=
  if (s.ref r).beyond then u.phLim < ((s.refPhase r m - u.tim.boNs).natAbs : Int)
  else (s.ref r).seen && s.phLim < ((s.refPhase r m - (s.ref r).ofs).natAbs : Int)

/-- The loop after a measurement of the reference it follows, in the state u that the measurement leaves. -/
def looped (s u : State) (r : Nat) (m : RefMeas) : State :=
  if beyondF s r m || !u.eligible r then u.holdSteer
  else if jumps s u r m then (u.timSet { u.tim.resume with bo := 1000000000 * s.refPhase r m }).scSet rClkStat 20
  else u.loopStep (s.refPhase r m) (if u.tim.held then 0 else u.tim.nsc - (s.ref r).last)

/-- A measurement is noted at its reference, and moves the loop where that is the one followed. -/
theorem measure_eq (s : State) (r : Nat) (m : RefMeas) : s.measure r m =
    if (noted s r m).tim.sel ≠ r then noted s r m else looped s (noted s r m) r m := rfl

theorem told_eq (s : State) (r : Nat) (m : RefMeas) : told s r m = { s with
    regs := (told s r m).regs, tim := { s.tim with refs := s.tim.refs.set r (measuredRef s r m), ran := true } } := by
  unfold told
  split <;> rfl

theorem told_rw (s : State) (r : Nat) (m : RefMeas) : (told s r m).rw = s.rw := by
  unfold told
  split <;> rfl

theorem told_ref {s : State} {r : Nat} (m : RefMeas) (hr : r < s.tim.refs.length) : (told s r m).ref r = measuredRef s r m := by
  have refs : (told s r m).tim.refs = s.tim.refs.set r (measuredRef s r m) := by rw [told_eq]
  rw [ref_of_set refs, if_pos ⟨rfl, hr⟩]

/-- A measurement leaves the quality in effect. -/
theorem told_refQual {s : State} {r : Nat} (m : RefMeas) (hr : r < s.tim.refs.length) : (told s r m).refQual r = s.refQual r := by
  unfold State.refQual State.rwBits
  rw [told_ref m hr, told_rw]
  rfl

theorem noted_eq {s : State} {r : Nat} (m : RefMeas) (hr : r < s.tim.refs.length) : noted s r m = { s with
    regs := (noted s r m).regs, tim := { s.tim with refs := s.tim.refs.set r (notedRef s r m), ran := true } } := by
  unfold noted notedRef
  rw [told_refQual m hr]
  split
  · unfold State.disqualify
    rw [told_ref m hr, told_eq]
    simp [State.refSet, State.timSet, State.scSet, State.scPut]
  · exact told_eq s r m

theorem noted_rw (s : State) (r : Nat) (m : RefMeas) : (noted s r m).rw = s.rw := by
  unfold noted
  split <;> exact told_rw s r m

/-- The loop moves the steering, and records a phase hit, and nothing else. -/
theorem looped_frame (s u : State) (r : Nat) (m : RefMeas) : (looped s u r m).tim.refs = u.tim.refs ∧
    looped s u r m = { u with regs := (looped s u r m).regs, tim := (looped s u r m).tim } := by
  unfold looped
  split
  · exact ⟨holdSteer_refs u, holdSteer_tim u⟩
  split
  · exact ⟨rfl, rfl⟩
  · exact ⟨rfl, rfl⟩

theorem measure_frame {s : State} {r : Nat} (m : RefMeas) (hr : r < s.tim.refs.length) :
    (s.measure r m).tim.refs = s.tim.refs.set r (notedRef s r m) ∧
    s.measure r m = { s with regs := (s.measure r m).regs, tim := (s.measure r m).tim } := by
  have note := noted_eq m hr
  rw [measure_eq]
  split
  · rw [note]
    exact ⟨rfl, rfl⟩
  · obtain ⟨refs, only⟩ := looped_frame s (noted s r m) r m
    refine ⟨?_, ?_⟩
    · rw [refs, note]
    · rw [only, note]

/-- What a measurement leaves of its reference, and of the others. -/
theorem measure_ref {s : State} {r : Nat} (m : RefMeas) (hr : r < s.tim.refs.length) (k : Nat) :
    (s.measure r m).ref k = if r = k then notedRef s r m else s.ref k := by
  rw [ref_of_set (measure_frame m hr).1]
  simp [hr]

/-- A phase that jumps becomes the build-out of the reference followed (R328, R335). -/
theorem measure_jump {s : State} {r : Nat} {m : RefMeas} (hr : r < s.tim.refs.length) (sel : s.tim.sel = r)
    (within : beyondF s r m = false) (el : (noted s r m).eligible r) (jump : jumps s s r m) :
    s.measure r m = ((noted s r m).timSet { (noted s r m).tim.resume with bo := 1000000000 * s.refPhase r m }).scSet rClkStat 20 := by
  have tim : (noted s r m).tim.sel = s.tim.sel ∧ (noted s r m).tim.boNs = s.tim.boNs := by
    rw [noted_eq m hr]
    exact ⟨rfl, rfl⟩
  have lim : (noted s r m).phLim = s.phLim := by
    unfold State.phLim State.rwBits
    rw [noted_rw]
  have same : jumps s (noted s r m) r m = jumps s s r m := by
    unfold jumps
    rw [tim.2, lim]
  rw [measure_eq, if_neg (by rw [tim.1]; exact not_not_intro sel)]
  unfold looped
  rw [if_neg (by simp [within, el]), if_pos (same.trans jump)]

/-! ### The state of the reference measured (R325, R327) -/

theorem notedRef_good {s : State} {r : Nat} (m : RefMeas) (good : s.refQual r ≠ 0) : notedRef s r m = measuredRef s r m :=
  if_neg fun h => good h.1

theorem notedRef_zero {s : State} {r : Nat} (m : RefMeas) (zero : s.refQual r = 0) : (notedRef s r m).st = 2 := by
  unfold notedRef
  split
  · rfl
  next h => exact Decidable.byContradiction fun other => h ⟨zero, other⟩

/-- A disqualification keeps what was measured. -/
theorem notedRef_eq (s : State) (r : Nat) (m : RefMeas) : notedRef s r m = { measuredRef s r m with
    st := (notedRef s r m).st, dq := (notedRef s r m).dq } := by
  unfold notedRef
  split <;> rfl

/-- The next state of a reference of some quality, by cases of the frequency. -/
theorem measuredRef_st {s : State} {r : Nat} (m : RefMeas) (good : s.refQual r ≠ 0) : (measuredRef s r m).st =
    if (s.ref r).st = 4 ∨ (s.ref r).st = 5 then
      (if ((freqOf s m).natAbs : Int) ≤ s.refThr r / 2 ∧ ((freqOf s m).natAbs : Int) ≤ s.refThr r then 4 else 5)
    else if (s.ref r).st = 2 ∧ ¬ ((freqOf s m).natAbs : Int) ≤ s.refThr r then 2 else 3 := by
  have step : (measuredRef s r m).st = (s.ref r).next (s.refQual r = 0) (!beyondF s r m) (withinHalf s r m) := rfl
  rw [step]
  unfold Ref.next beyondF withinHalf
  simp [good, and_comm]

/-- A qualified reference of some quality is eligible after its measurement. -/
theorem noted_eligible {s : State} {r : Nat} (m : RefMeas) (hr : r < s.tim.refs.length) (on : s.measured r) (good : s.refQual r ≠ 0)
    (was : (s.ref r).st = 4 ∨ (s.ref r).st = 5) : (noted s r m).eligible r := by
  simp only [State.measured, Bool.and_eq_true, decide_eq_true_eq] at on
  obtain ⟨⟨-, en⟩, low⟩ := on
  have refs : (noted s r m).tim.refs = s.tim.refs.set r (notedRef s r m) := by rw [noted_eq m hr]
  have enabled : (noted s r m).refEn r := by
    unfold State.refEn State.rwBit
    rw [noted_rw]
    exact en
  have st : ((noted s r m).ref r).st = 4 ∨ ((noted s r m).ref r).st = 5 := by
    rw [ref_of_set refs, if_pos ⟨rfl, hr⟩, notedRef_good m good, measuredRef_st m good, if_pos was]
    split <;> simp
  have measurable : r ≠ 8 := by omega
  simp [State.eligible, State.refState, enabled, measurable, st]

/-- A measurement within the threshold is the last valid one. -/
theorem measuredRef_last (s : State) (r : Nat) (m : RefMeas) : (measuredRef s r m).last =
    if ((freqOf s m).natAbs : Int) ≤ s.refThr r then s.tim.nsc else (s.ref r).last := by
  have last : (measuredRef s r m).last = if beyondF s r m then (s.ref r).last else s.tim.nsc := rfl
  rw [last]
  unfold beyondF
  by_cases within : ((freqOf s m).natAbs : Int) ≤ s.refThr r
  · rw [if_pos within, if_neg (by simpa using within)]
  · rw [if_neg within, if_pos (by simpa using within)]

/-- The build-out that a jump of the reference followed leaves, with its event; the steering stays (R328, R335). -/
theorem measure_buildsOut {s : State} {r : Nat} {m : RefMeas} (hr : r < s.tim.refs.length) (on : s.measured r) (sel : s.tim.sel = r)
    (was : (s.ref r).st = 4 ∨ (s.ref r).st = 5) (good : s.refQual r ≠ 0) (within : ((freqOf s m).natAbs : Int) ≤ s.refThr r)
    (jump : ((s.ref r).seen ∧ (s.ref r).beyond = false ∧ s.phLim < ((s.refPhase r m - (s.ref r).ofs).natAbs : Int)) ∨
      ((s.ref r).beyond ∧ s.phLim < ((s.refPhase r m - s.tim.boNs).natAbs : Int))) :
    (s.measure r m).tim.bo = 1000000000 * s.refPhase r m ∧ (s.measure r m).tim.switching = s.tim.switching ∧
    (s.measure r m).scBit rClkStat 20 ∧ (s.measure r m).tim.steer = s.tim.steer := by
  have far : jumps s s r m := by
    rcases jump with ⟨seen, before, far⟩ | ⟨before, far⟩
    · exact (if_neg (by simp [before])).trans (by simpa [seen] using far)
    · exact (if_pos before).trans (by simpa using far)
  have inside : beyondF s r m = false := decide_eq_false (Int.not_lt.2 within)
  rw [measure_jump hr sel inside (noted_eligible m hr on good was) far]
  refine ⟨rfl, ?_, by rw [State.scBit_scSet, if_pos ⟨rfl, rfl⟩], ?_⟩
  all_goals
    rw [noted_eq m hr]
    rfl

/-! ### Losses, disqualification and qualification (R327, R329) -/

theorem exec_refMeasurement {s : State} {r : Fin 9} (on : s.measured r) (m : RefMeas) : exec (.refMeasurement r m) s =
    .next (if s.refGone r then s.begin.lose r else if m.present then s.begin.measure r m else s.begin.missed r) := by
  have run : exec (.refMeasurement r m) s = .next (if !s.measured r then s.begin
    else if s.refGone r then s.begin.lose r else if m.present then s.begin.measure r m else s.begin.missed r) := rfl
  rw [run, on]
  rfl

theorem exec_refLost {s : State} {r : Fin 9} (on : s.measured r) (lost : s.refGone r ∨ r.val = 2 ∨ r.val = 3) :
    exec (.refLost r) s = .next (s.begin.lose r) := by
  have cond : (s.measured r && (s.refGone r || r = 2 || r = 3)) = true := by
    simp only [on, Bool.true_and, Bool.or_eq_true, decide_eq_true_eq]
    rcases lost with gone | two | three
    · exact .inl (.inl gone)
    · exact .inl (.inr (Fin.ext two))
    · exact .inr (Fin.ext three)
  exact congrArg _ (if_pos cond)

theorem exec_refLost_present {s : State} {r : Fin 9} (here : s.refGone r = false) (h2 : r.val ≠ 2) (h3 : r.val ≠ 3) :
    exec (.refLost r) s = .next s.begin := by
  refine congrArg _ (if_neg fun cond => ?_)
  simp only [here, Bool.and_eq_true, Bool.or_eq_true, decide_eq_true_eq] at cond
  rcases cond.2 with (gone | two) | three
  · exact Bool.false_ne_true gone
  · exact h2 (congrArg Fin.val two)
  · exact h3 (congrArg Fin.val three)

theorem exec_refDisqualify {s : State} {r : Fin 9} (on : s.measured r) (bad : (s.ref r).beyond ∨ s.refQual r = 0)
    (other : (s.ref r).st ≠ 2) : exec (.refDisqualify r) s = .next (s.begin.disqualify r) := by
  have due : s.disqualifyDue r = true := by
    unfold State.disqualifyDue
    rcases bad with h | h <;> simp [on, h, other]
  exact congrArg _ (if_pos due)

theorem exec_refDisqualify_good {s : State} {r : Fin 9} (within : (s.ref r).beyond = false) (good : s.refQual r ≠ 0) :
    exec (.refDisqualify r) s = .next s.begin := by
  have fine : ¬ s.disqualifyDue r = true := by simp [State.disqualifyDue, within, good]
  exact congrArg _ (if_neg fine)

/-- What a disqualification leaves of its reference, and of the others. -/
theorem disqualify_ref {s : State} {r : Nat} (hr : r < s.tim.refs.length) (k : Nat) :
    (s.disqualify r).ref k = if r = k then { s.ref r with st := 2, dq := true } else s.ref k := by
  have refs : (s.disqualify r).tim.refs = s.tim.refs.set r { s.ref r with st := 2, dq := true } := rfl
  rw [ref_of_set refs]
  simp [hr]

theorem qualify_idle {s : State} {r : Nat}
    (no : s.measured r = false ∨ (s.ref r).st ≠ 3 ∨ (s.ref r).beyond ∨ s.refQual r = 0 ∨ s.refGone r) : s.qualify r = s := by
  unfold State.qualify
  dsimp only
  rw [if_pos (by rcases no with h | h | h | h | h <;> simp [h])]

/-- A restoring reference within its threshold becomes QUALIFIED, or DEGRADED beyond half of it. -/
theorem qualify_ref {s : State} {r : Nat} (hr : r < s.tim.refs.length) (on : s.measured r) (restoring : (s.ref r).st = 3)
    (within : (s.ref r).beyond = false) (good : s.refQual r ≠ 0) (here : s.refGone r = false) (k : Nat) : (s.qualify r).ref k =
      if r = k then { s.ref r with st := if s.refThr r / 2 < ((s.ref r).fofs.natAbs : Int) then 5 else 4 } else s.ref k := by
  have refs : (s.qualify r).tim.refs = s.tim.refs.set r { s.ref r with
      st := if s.refThr r / 2 < ((s.ref r).fofs.natAbs : Int) then 5 else 4 } := by
    unfold State.qualify
    dsimp only
    rw [if_neg (by simp [on, restoring, within, good, here])]
    split <;> rfl
  rw [ref_of_set refs]
  simp [hr]

/-- What a loss leaves of its reference, and of the others. -/
theorem lose_ref {s : State} {r : Nat} (hr : r < s.tim.refs.length) (k : Nat) :
    (s.lose r).ref k = if r = k then lostRef (s.ref r) else s.ref k := by
  rw [ref_of_set (lose_refs s r)]
  simp [hr]

/-! ### The obligation -/

/-- Nothing happens at a reference that is not measured. -/
theorem unmeasured_idle {s : State} {r : Fin 9} (off : s.measured r = false) :
    (∀ m, exec (.refMeasurement r m) s = .next s.begin) ∧ exec (.refLost r) s = .next s.begin ∧
    exec (.refDisqualify r) s = .next s.begin ∧ exec (.refQualify r) s = .next s.begin :=
  ⟨fun _ => congrArg _ (if_pos (by rw [off]; rfl)), congrArg _ (if_neg (by simp [off])),
    congrArg _ (if_neg (by simp [State.disqualifyDue, off])), congrArg _ (qualify_idle (s := s.begin) (.inl off))⟩

/-- Settles O51: each event by the lemma about its operation, a measurement by what it notes and what the loop then does. -/
theorem referencesQualifyAndRecover : Obligations.ReferencesQualifyAndRecover := by
  intro s r len
  have hr : r.val < s.begin.tim.refs.length := len.symm ▸ r.isLt
  refine ⟨unmeasured_idle, fun on => ⟨fun gone m => ?_, fun m come here => ?_, fun m gap here => ?_, exec_refLost_present,
    fun lost => ?_, fun bad other => ?_, exec_refDisqualify_good, fun restoring within good here => ?_, fun no => ?_⟩⟩
  · rw [exec_refMeasurement on, if_pos gone, exec_refLost on (.inl gone)]
  · rw [exec_refMeasurement on, if_neg (by simp [here]), if_pos come]
    refine ⟨_, rfl, fun k other => ?_, ?_⟩
    · rw [measure_ref m hr, if_neg other.symm]
      rfl
    · have ref : (s.begin.measure r m).ref r = notedRef s.begin r m := by rw [measure_ref m hr, if_pos rfl]
      rw [ref]
      refine ⟨congrArg Ref.fofs (notedRef_eq ..), congrArg Ref.seen (notedRef_eq ..),
        (congrArg Ref.last (notedRef_eq ..)).trans (measuredRef_last ..), (measure_frame m hr).2, notedRef_zero m, fun good => ?_,
        fun sel was good within jump => ?_⟩
      · rw [notedRef_good (s := s.begin) m good]
        exact measuredRef_st m good
      · rw [notedRef_good (s := s.begin) m good] at jump ⊢
        exact measure_buildsOut hr on sel was good within jump
  · rw [exec_refMeasurement on, if_neg (by simp [here]), if_neg (by simp [gap])]
    exact ⟨_, rfl, missed_frame s.begin r⟩
  · rw [exec_refLost on lost]
    refine ⟨_, rfl, ?_, ?_, fun k other => ?_, lose_tim s.begin r⟩
    · rw [lose_ref hr, if_pos rfl]
      rfl
    · rw [lose_ref hr, if_pos rfl]
      rfl
    · rw [lose_ref hr, if_neg other.symm]
      rfl
  · rw [exec_refDisqualify on bad other]
    refine ⟨_, rfl, ?_, ?_, fun k other => ?_, rfl⟩
    · rw [disqualify_ref hr, if_pos rfl]
    · unfold State.disqualify
      rw [State.scBit_scSet, if_pos ⟨rfl, rfl⟩]
    · rw [disqualify_ref hr, if_neg other.symm]
      rfl
  · have run : exec (.refQualify r) s = .next (s.begin.qualify r) := rfl
    have ref := qualify_ref hr on restoring within good here
    refine ⟨_, run, ?_, fun k other => ?_⟩
    · rw [ref, if_pos rfl]
      rfl
    · rw [ref, if_neg other.symm]
      rfl
  · exact congrArg _ (qualify_idle (s := s.begin) (.inr no))

end Sys2Proof.Arch
end

section
/-! PROOF. The choice of the reference that Time follows (R330, R331, R335, R338). -/

namespace Sys2Proof.Arch
open Sys2Proof.Machine

/-! ### The best reference (R331) -/

/-- Reference r does not beat b: by quality, then PRIO, then number. -/
def NotBeatenBy (s : State) (b r : Nat) : Prop :=
  s.refQual r < s.refQual b ∨ (s.refQual r = s.refQual b ∧ (s.rwBits (rRefCfg b) 24 4 < s.rwBits (rRefCfg r) 24 4 ∨
    (s.rwBits (rRefCfg b) 24 4 = s.rwBits (rRefCfg r) 24 4 ∧ b ≤ r)))

theorem NotBeatenBy.refl (s : State) (b : Nat) : NotBeatenBy s b b := .inr ⟨rfl, .inr ⟨rfl, Nat.le_refl b⟩⟩

theorem NotBeatenBy.trans {s : State} {a b c : Nat} (h : NotBeatenBy s a b) (k : NotBeatenBy s b c) : NotBeatenBy s a c := by
  unfold NotBeatenBy at *
  omega

theorem notBeatenBy_of_better {s : State} {r b : Nat} (h : s.better r (some b)) : NotBeatenBy s r b := by
  unfold NotBeatenBy
  simp [State.better] at h
  omega

theorem notBeatenBy_of_not_better {s : State} {r b : Nat} (h : ¬ s.better r (some b)) : NotBeatenBy s b r := by
  unfold NotBeatenBy
  simp [State.better] at h
  omega

/-- The best eligible reference below n, as `State.best` finds it for 9. -/
def bestBelow (s : State) (n : Nat) : Option Nat :=
  (upTo n).foldl (fun b r => if s.eligible r && s.better r b then some r else b) none

theorem best_eq (s : State) : s.best = bestBelow s 9 := rfl

theorem bestBelow_succ (s : State) (n : Nat) :
    bestBelow s (n + 1) = if s.eligible n && s.better n (bestBelow s n) then some n else bestBelow s n := by
  unfold bestBelow upTo
  rw [List.range_succ, List.foldl_append]
  rfl

/-- b is the choice among the references below n. -/
def IsBest (s : State) (n : Nat) : Option Nat → Prop
  | none => ∀ r < n, s.eligible r = false
  | some b => s.eligible b ∧ ∀ r < n, s.eligible r → NotBeatenBy s b r

theorem bestBelow_isBest (s : State) (n : Nat) : IsBest s n (bestBelow s n) := by
  induction n with
  | zero => exact fun r h => absurd h (Nat.not_lt_zero r)
  | succ n ih =>
    rw [bestBelow_succ]
    cases before : bestBelow s n with
    | none =>
      rw [before] at ih
      by_cases el : s.eligible n
      · rw [if_pos (by simp [el, State.better])]
        refine ⟨el, fun r hr er => ?_⟩
        rcases Nat.lt_succ_iff_lt_or_eq.1 hr with low | rfl
        · exact absurd er (by simp [ih r low])
        · exact .refl s r
      · rw [if_neg (by simp [el])]
        intro r hr
        rcases Nat.lt_succ_iff_lt_or_eq.1 hr with low | rfl
        · exact ih r low
        · exact Bool.eq_false_iff.2 el
    | some b =>
      rw [before] at ih
      obtain ⟨eb, beats⟩ := ih
      split
      next h =>
        obtain ⟨el, better⟩ := Bool.and_eq_true_iff.1 h
        refine ⟨el, fun r hr er => ?_⟩
        rcases Nat.lt_succ_iff_lt_or_eq.1 hr with low | rfl
        · exact (notBeatenBy_of_better better).trans (beats r low er)
        · exact .refl s r
      next h =>
        refine ⟨eb, fun r hr er => ?_⟩
        rcases Nat.lt_succ_iff_lt_or_eq.1 hr with low | rfl
        · exact beats r low er
        · exact notBeatenBy_of_not_better fun better => h (by simp [er, better])

theorem best_some {s : State} {b : Nat} (h : s.best = some b) : s.eligible b ∧ ∀ r < 9, s.eligible r → NotBeatenBy s b r := by
  have best := bestBelow_isBest s 9
  rwa [← best_eq, h] at best

theorem best_none {s : State} (h : s.best = none) {r : Nat} (low : r < 9) : s.eligible r = false := by
  have best := bestBelow_isBest s 9
  rw [← best_eq, h] at best
  exact best r low

/-- What makes a reference eligible, and the best one, is in the registers and the table of references. -/
theorem refChoice_congr {s t : State} (regs : t.regs = s.regs) (refs : t.tim.refs = s.tim.refs) :
    t.refEn = s.refEn ∧ t.refQual = s.refQual ∧ t.eligible = s.eligible ∧ t.best = s.best := by
  have words := rw_of_regs regs
  have ref : t.ref = s.ref := by funext r; unfold State.ref; rw [refs]
  have en : t.refEn = s.refEn := by funext r; unfold State.refEn State.rwBit; rw [words]
  have qual : t.refQual = s.refQual := by funext r; unfold State.refQual State.rwBits; rw [words, ref]
  have el : t.eligible = s.eligible := by funext r; unfold State.eligible State.refState; rw [en, ref]
  have better : t.better = s.better := by funext r b; unfold State.better State.rwBits; rw [qual, words]
  refine ⟨en, qual, el, ?_⟩
  unfold State.best
  rw [el, better]

/-! ### References of quality 0 (R325) -/

/-- Reference r has quality 0, and where it is disqualified the event has been told. -/
structure ZeroQual (r : Nat) (s : State) : Prop where
  inTable : r < s.tim.refs.length
  enabled : s.refEn r
  zero : s.refQual r = 0
  told : (s.ref r).st = 2 → s.scBit rClkStat 22

theorem failZero_cases (s : State) (x : Nat) : s.failZero x = s ∨ s.failZero x = s.disqualify x := by
  unfold State.failZero
  split
  · exact .inr rfl
  · exact .inl rfl

theorem disqualify_refs (s : State) (x : Nat) :
    (s.disqualify x).tim.refs = s.tim.refs.set x { s.ref x with st := 2, dq := true } := rfl

/-- A disqualification keeps every quality. -/
theorem disqualify_qual (s : State) (x r : Nat) : ((s.disqualify x).ref r).qual = (s.ref r).qual := by
  rw [ref_of_set (disqualify_refs s x)]
  split
  next h => rw [← h.1]
  next => rfl

/-- A disqualified reference stays so. -/
theorem disqualify_keeps {s : State} {r : Nat} (x : Nat) (h : (s.ref r).st = 2) : ((s.disqualify x).ref r).st = 2 := by
  rw [ref_of_set (disqualify_refs s x)]
  split
  · rfl
  · exact h

theorem ZeroQual.failZero {r : Nat} {s : State} (h : ZeroQual r s) (x : Nat) : ZeroQual r (s.failZero x) := by
  rcases failZero_cases s x with same | out
  · rw [same]
    exact h
  · rw [out]
    refine ⟨?_, h.enabled, ?_, fun _ => ?_⟩
    · rw [disqualify_refs, List.length_set]
      exact h.inTable
    · have qual : (s.disqualify x).refQual r = s.refQual r := by
        unfold State.refQual
        rw [disqualify_qual]
        rfl
      rw [qual]
      exact h.zero
    · unfold State.disqualify
      rw [State.scBit_scSet, if_pos ⟨rfl, rfl⟩]

theorem failZero_keeps {s : State} {r : Nat} (x : Nat) (h : (s.ref r).st = 2) : ((s.failZero x).ref r).st = 2 := by
  rcases failZero_cases s x with same | out
  · rw [same]
    exact h
  · rw [out]
    exact disqualify_keeps x h

/-- A reference T2 to T7 of quality 0 is disqualified by its turn. -/
theorem failZero_self {r : Nat} {s : State} (h : ZeroQual r s) (own : 2 ≤ r) : ((s.failZero r).ref r).st = 2 := by
  unfold State.failZero
  by_cases already : (s.ref r).st = 2
  · rw [if_neg (by simp [already])]
    exact already
  · rw [if_pos (by simp [h.enabled, h.zero, already, own]), disqualify_ref h.inTable, if_pos rfl]

theorem foldl_failZero_keeps {r : Nat} (l : List Nat) {s : State} (h : ZeroQual r s) (out : (s.ref r).st = 2) :
    ZeroQual r (l.foldl State.failZero s) ∧ ((l.foldl State.failZero s).ref r).st = 2 := by
  induction l generalizing s with
  | nil => exact ⟨h, out⟩
  | cons x l ih => exact ih (h.failZero x) (failZero_keeps x out)

theorem foldl_failZero_disqualifies {r : Nat} {l : List Nat} {s : State} (h : ZeroQual r s) (own : 2 ≤ r) (hl : r ∈ l) :
    ((l.foldl State.failZero s).ref r).st = 2 ∧ (l.foldl State.failZero s).scBit rClkStat 22 := by
  induction l generalizing s with
  | nil => cases hl
  | cons x l ih =>
    rcases List.mem_cons.1 hl with rfl | hl
    · obtain ⟨zero, out⟩ := foldl_failZero_keeps l (h.failZero r) (failZero_self h own)
      exact ⟨out, zero.told out⟩
    · exact ih (h.failZero x) hl

theorem foldl_failZero_idle {l : List Nat} {s : State} (h : ∀ r ∈ l, s.refEn r → s.refQual r = 0 → (s.ref r).st = 2) :
    l.foldl State.failZero s = s := by
  induction l with
  | nil => rfl
  | cons x l ih =>
    have idle : s.failZero x = s := by
      unfold State.failZero
      refine if_neg fun cond => ?_
      simp only [Bool.and_eq_true, decide_eq_true_eq] at cond
      obtain ⟨⟨⟨en, zero⟩, other⟩, -⟩ := cond
      exact other (h x List.mem_cons_self en zero)
    rw [List.foldl_cons, idle]
    exact ih fun r hr => h r (List.mem_cons_of_mem x hr)

/-! ### What a selection keeps -/

/-- From s to t every reference keeps its state, and no status bit is cleared. -/
structure Onward (s t : State) : Prop where
  st : ∀ r, (t.ref r).st = (s.ref r).st
  told : ∀ o b, s.scBit o b → t.scBit o b

theorem Onward.refl (s : State) : Onward s s := ⟨fun _ => rfl, fun _ _ h => h⟩

theorem Onward.trans {a b c : State} (h : Onward a b) (k : Onward b c) : Onward a c :=
  ⟨fun r => (k.st r).trans (h.st r), fun o i e => k.told o i (h.told o i e)⟩

theorem onward_of_same {s t : State} (refs : t.tim.refs = s.tim.refs) (regs : t.regs = s.regs) : Onward s t where
  st r := by unfold State.ref; rw [refs]
  told o b h := by rwa [scBit_of_regs regs]

theorem onward_timSet {s : State} {t : Tim} (refs : t.refs = s.tim.refs) : Onward s (s.timSet t) := onward_of_same refs rfl

theorem onward_scSet (s : State) (off b : Nat) : Onward s (s.scSet off b) where
  st _ := rfl
  told o c h := by
    rw [State.scBit_scSet]
    split
    · rfl
    · exact h

/-- A jam moves the references' times and offsets (R323), not their states. -/
theorem jam_onward (s : State) : Onward s s.jam where
  st r := by
    obtain ⟨f, keeps, refs⟩ : ∃ f : Ref × Nat → Ref, (∀ y, (f y).st = y.1.st) ∧ s.jam.tim.refs = s.tim.refs.zipIdx.map f :=
      by
        refine ⟨_, ?_, rfl⟩
        exact fun _ => rfl
    unfold State.ref
    rw [refs]
    simp only [List.getD_eq_getElem?_getD, List.getElem?_map, List.getElem?_zipIdx]
    cases s.tim.refs[r]? with
    | none => rfl
    | some x => exact keeps _
  told _ _ h := h

/-- The Time section as it turns to reference r (R335). -/
def turned (s : State) (r : Nat) : State := s.timSet { s.tim with
  sel := r, tst := if s.tim.tst = 0 ∨ s.tim.tst = 3 then 1 else s.tim.tst, switching := true, hoValid := false, held := false
  win := [], since := s.tim.nsc
  integ := 1000000 * (s.tim.steer - s.tim.bof), want := s.tim.steer - s.tim.bof, bw := s.loopBw r }

/-- A reference that becomes followed brings a jam, or its offset as build-out. -/
theorem follow_cases (s : State) (r : Nat) (mixOn : Bool) : s.follow r mixOn = (turned s r).jam ∨
    ∃ bo pend now, s.follow r mixOn = (turned s r).timSet { (turned s r).tim with bo := bo, jamPend := pend, jamNow := now } := by
  unfold State.follow
  refine (Classical.em _).imp (fun jams => if_pos jams) fun not => ⟨_, _, _, if_neg not⟩

theorem follow_onward (s : State) (r : Nat) (mixOn : Bool) : Onward s (s.follow r mixOn) := by
  have turns : Onward s (turned s r) := onward_timSet rfl
  rcases follow_cases s r mixOn with jams | ⟨bo, pend, now, builds⟩
  · rw [jams]
    exact turns.trans (jam_onward _)
  · rw [builds]
    exact turns.trans (onward_timSet rfl)

theorem health_onward (s : State) (b : Nat) : Onward s (s.health b) := by
  rcases s.health_cases b with one | ⟨t, both⟩
  · rw [one]
    exact onward_scSet s _ _
  · rw [both]
    have twice := (onward_scSet s rHealth b).trans (onward_scSet _ rHitStat 22)
    exact twice.trans (onward_of_same rfl rfl)

/-- The report of R331 that the evaluation gives: a health fault. -/
def reportFreerun (s : State) : State := s.health 18

theorem enterFreerun_cases (s : State) (sel : Nat) (report : State → State) : ∃ fell,
    s.enterFreerun sel report = s.timSet { s.tim.freed sel with fell := fell } ∨
    s.enterFreerun sel report = report ((s.timSet { s.tim.freed sel with fell := fell }).scSet rClkStat 18) := by
  unfold State.enterFreerun
  exact ⟨_, (Classical.em _).symm.imp (fun not => if_neg not) fun falls => if_pos falls⟩

theorem enterFreerun_onward (s : State) (sel : Nat) : Onward s (s.enterFreerun sel reportFreerun) := by
  obtain ⟨fell, quiet | told⟩ := enterFreerun_cases s sel reportFreerun
  · rw [quiet]
    exact onward_timSet rfl
  · rw [told]
    refine Onward.trans ?_ (health_onward _ 18)
    refine Onward.trans (onward_timSet ?_) (onward_scSet _ rClkStat 18)
    rfl

theorem enterSmoulder_onward (s : State) : Onward s s.enterSmoulder := by
  unfold State.enterSmoulder
  split
  · exact .refl s
  · refine Onward.trans (onward_timSet ?_) (onward_scSet _ _ _)
    rfl

theorem switchTo_onward (s : State) (r : Nat) (mixOn : Bool) : Onward s (s.switchTo r mixOn reportFreerun) := by
  unfold State.switchTo
  refine Onward.trans ?_ (onward_scSet _ _ _)
  split
  · exact enterFreerun_onward s 8
  · exact follow_onward s r mixOn

theorem fallBack_onward (s : State) : Onward s (s.fallBack reportFreerun) := by
  unfold State.fallBack
  split
  · exact enterSmoulder_onward s
  split
  · exact .refl s
  · exact enterFreerun_onward s 15

theorem select_onward (s : State) (mixOn : Bool) : Onward s (s.select mixOn reportFreerun) := by
  unfold State.select
  dsimp only
  split
  · split
    · split
      · exact .refl s
      · exact switchTo_onward s _ mixOn
    · exact fallBack_onward s
  split
  · exact .refl s
  split
  · exact .refl s
  split
  · exact fallBack_onward s
  · split
    · exact .refl s
    · exact switchTo_onward s _ mixOn

theorem bandwidth_frame (s : State) : ∃ bw, s.bandwidth = s.timSet { s.tim with bw := bw } := by
  unfold State.bandwidth
  split
  · exact ⟨_, rfl⟩
  · exact ⟨s.tim.bw, rfl⟩

theorem bandwidth_onward (s : State) : Onward s s.bandwidth := by
  obtain ⟨bw, h⟩ := bandwidth_frame s
  rw [h]
  exact onward_of_same rfl rfl

/-! ### What the selection does (R330, R331, R335, R338) -/

/-- A switch to one of T0 to T7 makes it the one followed, with the event; ACQUIRING is entered from FREERUN and SMOULDER. -/
theorem switchTo_follows {s : State} {r : Nat} (own : r ≤ 7) (mixOn : Bool) (report : State → State) :
    (s.switchTo r mixOn report).tim.sel = r ∧ (s.switchTo r mixOn report).tim.switching ∧
    (s.switchTo r mixOn report).tim.tst = (if s.tim.tst = 0 ∨ s.tim.tst = 3 then 1 else s.tim.tst) ∧
    (s.switchTo r mixOn report).scBit rClkStat 23 := by
  have run : s.switchTo r mixOn report = (s.follow r mixOn).scSet rClkStat 23 := by
    unfold State.switchTo
    rw [if_neg (by omega)]
  have event : ((s.follow r mixOn).scSet rClkStat 23).scBit rClkStat 23 := by rw [State.scBit_scSet, if_pos ⟨rfl, rfl⟩]
  rw [run]
  refine ⟨?_, ?_, ?_, event⟩
  all_goals
    rcases follow_cases s r mixOn with jams | ⟨bo, pend, now, builds⟩
    · rw [jams]
      rfl
    · rw [builds]
      rfl

theorem enterSmoulder_enters {s : State} (h : s.tim.tst ≠ 3) :
    s.enterSmoulder.tim.tst = 3 ∧ s.enterSmoulder.tim.sel = 15 ∧ s.enterSmoulder.scBit rClkStat 19 := by
  unfold State.enterSmoulder
  rw [if_neg h, State.scBit_scSet, if_pos ⟨rfl, rfl⟩]
  exact ⟨rfl, rfl, rfl⟩

section
variable {s : State} (mixOn : Bool) (report : State → State)

theorem select_forced (forced : s.rwBit rClkCtl 31) (el : s.eligible (s.rwBits rClkCtl 24 4))
    (new : s.tim.sel ≠ s.rwBits rClkCtl 24 4) :
    s.select mixOn report = s.switchTo (s.rwBits rClkCtl 24 4) mixOn report :=
  (if_pos forced).trans ((if_pos el).trans (if_neg new))

variable (free : s.rwBit rClkCtl 31 = false)
include free

theorem select_stays (own : s.tim.sel ≤ 7) (el : s.eligible s.tim.sel) (revert : s.rwBit rClkCtl 23 = false) :
    s.select mixOn report = s := by
  have stay : (decide (s.tim.sel ≤ 7) && s.eligible s.tim.sel && !s.rwBit rClkCtl 23) = true := by simp [own, el, revert]
  refine (if_neg (Bool.eq_false_iff.1 free)).trans ?_
  split
  · rfl
  · exact if_pos stay

variable (settled : s.tim.switching = false)
include settled

/-- With no switch under way and nothing to stay with, Time falls back where no reference is eligible. -/
theorem select_none (best : s.best = none) : s.select mixOn report = s.fallBack report := by
  have leave : ¬ (decide (s.tim.sel ≤ 7) && s.eligible s.tim.sel && !s.rwBit rClkCtl 23) = true := by
    by_cases own : s.tim.sel ≤ 7
    · simp [best_none best (by omega : s.tim.sel < 9)]
    · simp [own]
  refine (if_neg (Bool.eq_false_iff.1 free)).trans ((if_neg (by simp [settled])).trans ((if_neg leave).trans ?_))
  dsimp only
  rw [best, if_neg (by simp)]

/-- With no switch under way and nothing followed, Time turns to the best of T0 to T7. -/
theorem select_best (nothing : s.tim.sel = 15) {b : Nat} (best : s.best = some b) (own : b ≤ 7) :
    s.select mixOn report = s.switchTo b mixOn report := by
  have leave : ¬ (decide (s.tim.sel ≤ 7) && s.eligible s.tim.sel && !s.rwBit rClkCtl 23) = true := by simp [nothing]
  have notT8 : ¬ (s.best = some 8 ∧ s.tim.hoValid = true) := fun h => by
    rw [best, Option.some.injEq] at h
    omega
  refine (if_neg (Bool.eq_false_iff.1 free)).trans ((if_neg (by simp [settled])).trans ((if_neg leave).trans ?_))
  dsimp only
  rw [if_neg notT8, best]
  exact if_neg (by omega)

end

/-! ### The evaluation (R330) -/

/-- What a selection goes by, in s and t: registers, references, and the state of the Time section. -/
structure SameChoice (s t : State) : Prop where
  regs : t.regs = s.regs
  refs : t.tim.refs = s.tim.refs
  sel : t.tim.sel = s.tim.sel
  tst : t.tim.tst = s.tim.tst
  switching : t.tim.switching = s.tim.switching
  hoValid : t.tim.hoValid = s.tim.hoValid

/-- Reading the sensors changes nothing that a selection goes by. -/
theorem sense_sameChoice (s : State) : SameChoice s s.sense := by
  unfold State.sense
  dsimp only
  split
  · exact ⟨rfl, rfl, rfl, rfl, rfl, rfl⟩
  · exact ⟨rfl, rfl, rfl, rfl, rfl, rfl⟩

/-- References of quality 0 below T8, then the selection of R330 and R331. -/
def afterChoice (s : State) : State := ([2, 3, 4, 5, 6, 7].foldl State.failZero s.begin.sense).select s.begin.mixEn reportFreerun

theorem exec_referenceEvaluation {s : State} (up : s.up secTime) (due : s.tim.nsc % 480 = 0) :
    exec .referenceEvaluation s = .next (afterChoice s).bandwidth := by
  have on : (s.begin.up secTime && decide (s.begin.tim.nsc % 480 = 0)) = true := by simp [up, due]
  exact congrArg _ (if_pos on)

theorem exec_referenceEvaluation_idle {s : State} (no : s.up secTime = false ∨ s.tim.nsc % 480 ≠ 0) :
    exec .referenceEvaluation s = .next s.begin := by
  have off : ¬ (s.begin.up secTime && decide (s.begin.tim.nsc % 480 = 0)) = true := by
    rcases no with h | h <;> simp [h]
  exact congrArg _ (if_neg off)

theorem SameChoice.ref {s t : State} (h : SameChoice s t) (r : Nat) : t.ref r = s.ref r := by
  unfold State.ref
  rw [h.refs]

/-- The references T2 to T7 of quality 0 are disqualified, whatever is then selected (R325). -/
theorem evaluation_disqualifies {s : State} (len : s.tim.refs.length = 9) {r : Nat} (own : 2 ≤ r) (low : r ≤ 7) (en : s.refEn r)
    (zero : s.refQual r = 0) (other : (s.ref r).st ≠ 2) :
    ((afterChoice s).bandwidth.ref r).st = 2 ∧ (afterChoice s).bandwidth.scBit rClkStat 22 := by
  have same := sense_sameChoice s.begin
  obtain ⟨enabled, qual, -, -⟩ := refChoice_congr same.regs same.refs
  have waits : ZeroQual r s.begin.sense := by
    refine ⟨?_, ?_, ?_, fun out => absurd out ?_⟩
    · rw [same.refs, State.begin_tim, len]
      omega
    · rw [enabled]
      exact en
    · rw [qual]
      exact zero
    · rw [same.ref]
      exact other
  have turn : r ∈ [2, 3, 4, 5, 6, 7] := by simp; omega
  obtain ⟨out, event⟩ := foldl_failZero_disqualifies waits own turn
  have onward : Onward _ (afterChoice s).bandwidth := (select_onward _ s.begin.mixEn).trans (bandwidth_onward _)
  exact ⟨(onward.st r).trans out, onward.told _ _ event⟩

/-- What one evaluation selects, where no reference of T2 to T7 has yet to be disqualified (R330, R331, R335, R338). -/
structure Selects (s t : State) : Prop where
  forced : s.rwBit rClkCtl 31 → s.eligible (s.rwBits rClkCtl 24 4) → s.rwBits rClkCtl 24 4 ≤ 7 →
    s.tim.sel ≠ s.rwBits rClkCtl 24 4 → t.tim.sel = s.rwBits rClkCtl 24 4 ∧ t.scBit rClkStat 23 ∧ t.tim.switching
  stays : s.rwBit rClkCtl 31 = false → s.tim.sel ≤ 7 → s.eligible s.tim.sel → s.rwBit rClkCtl 23 = false →
    t.tim.sel = s.tim.sel ∧ t.tim.tst = s.tim.tst ∧ t.regs = s.regs
  acquires : ∀ b, s.rwBit rClkCtl 31 = false → s.tim.tst = 0 → s.tim.sel = 15 → s.tim.switching = false →
    s.best = some b → b ≤ 7 → t.tim.sel = b ∧ t.tim.tst = 1 ∧ t.tim.switching ∧ t.scBit rClkStat 23
  smoulders : s.rwBit rClkCtl 31 = false → s.tim.switching = false → s.best = none → s.tim.hoValid → s.tim.tst ≠ 3 →
    t.tim.tst = 3 ∧ t.tim.sel = 15 ∧ t.scBit rClkStat 19

theorem select_selects (s : State) (mixOn : Bool) (report : State → State) : Selects s (s.select mixOn report) where
  forced forced el own new := by
    rw [select_forced mixOn report forced el new]
    obtain ⟨sel, switching, -, event⟩ := switchTo_follows own mixOn report
    exact ⟨sel, event, switching⟩
  stays free own el revert := by
    rw [select_stays mixOn report free own el revert]
    exact ⟨rfl, rfl, rfl⟩
  acquires b free idle nothing settled best own := by
    rw [select_best mixOn report free settled nothing best own]
    obtain ⟨sel, switching, tst, event⟩ := switchTo_follows (s := s) own mixOn report
    exact ⟨sel, tst.trans (if_pos (.inl idle)), switching, event⟩
  smoulders free settled best valid other := by
    rw [select_none mixOn report free settled best]
    unfold State.fallBack
    rw [if_pos valid]
    exact enterSmoulder_enters other

/-- The selection goes by what the sensors leave. -/
theorem Selects.sensed {s u t : State} (same : SameChoice s u) (h : Selects u t) : Selects s t := by
  obtain ⟨-, -, el, best⟩ := refChoice_congr same.regs same.refs
  have words := rw_of_regs same.regs
  obtain ⟨forced, stays, acquires, smoulders⟩ := h
  simp only [State.rwBit, State.rwBits, words, el, best, same.sel, same.tst, same.switching, same.hoValid, same.regs]
    at forced stays acquires smoulders
  exact ⟨forced, stays, acquires, smoulders⟩

/-- The loop bandwidth takes effect beside the selection. -/
theorem Selects.bandwidth {s t : State} (h : Selects s t) : Selects s t.bandwidth := by
  obtain ⟨bw, run⟩ := bandwidth_frame t
  rw [run]
  exact ⟨h.forced, h.stays, h.acquires, h.smoulders⟩

theorem evaluation_selects {s : State} (out : ∀ r, 2 ≤ r → r ≤ 7 → s.refEn r → s.refQual r = 0 → (s.ref r).st = 2) :
    Selects s (afterChoice s).bandwidth := by
  have same : SameChoice s.begin s.begin.sense := sense_sameChoice s.begin
  obtain ⟨enabled, qual, -, -⟩ := refChoice_congr same.regs same.refs
  have idle : [2, 3, 4, 5, 6, 7].foldl State.failZero s.begin.sense = s.begin.sense := foldl_failZero_idle fun r turn => by
    rw [enabled, qual, same.ref]
    have inside : 2 ≤ r ∧ r ≤ 7 := by simp at turn; omega
    exact out r inside.1 inside.2
  have selects : Selects s.begin (afterChoice s).bandwidth := by
    unfold afterChoice
    rw [idle]
    exact ((select_selects s.begin.sense s.begin.mixEn reportFreerun).sensed same).bandwidth
  exact ⟨selects.forced, selects.stays, selects.acquires, selects.smoulders⟩

end Sys2Proof.Arch
end

section
/-! PROOF. Lock, build-out, steering and Smoulder (R320, R322, R333, R336, R337, R339). -/

namespace Sys2Proof.Arch
open Sys2Proof.Machine Sys2Proof.Laws

/-! ### Lock, switch and validity (R322, R336, R337) -/

theorem timeLocked_eq (s : State) : s.timeLocked = s.timSet
    (if s.up secTime ∧ s.tim.tst = 1 ∧ s.inPhase then { s.tim with tst := 2, since := s.tim.nsc } else s.tim) := by
  unfold State.timeLocked
  by_cases h : s.up secTime ∧ s.tim.tst = 1 ∧ s.inPhase
  · rw [if_pos h, if_pos (by simp [h])]
  · rw [if_neg h, if_neg (by simpa [and_assoc] using h)]
    rfl

theorem buildoutRemoved_eq (s : State) : s.buildoutRemoved = s.timSet
    { s.tim with switching := s.tim.switching && !(s.up secTime && !s.removing && s.tim.steady) } := by
  unfold State.buildoutRemoved
  by_cases h : (s.up secTime && !s.removing && s.tim.steady) = true
  · rw [if_pos h, h, Bool.not_true, Bool.and_false]
  · rw [if_neg h, Bool.eq_false_iff.2 h, Bool.not_false, Bool.and_true]
    rfl

theorem smoDue_eq (s : State) : s.smoDue = decide (s.up secTime ∧ s.tim.tst = 2 ∧ s.tim.sel ≤ 7 ∧ s.tim.held = false ∧
    s.tim.win ≠ [] ∧ s.tim.since + 2880000 ≤ (s.ref s.tim.sel).last) := by
  simp [State.smoDue, Bool.decide_and, Bool.and_assoc]

theorem smoValid_eq (s : State) : s.smoValid = s.timSet { s.tim with hoValid := s.tim.hoValid || s.smoDue } := by
  unfold State.smoValid
  by_cases h : s.smoDue = true
  · rw [if_pos h, h, Bool.or_true]
  · rw [if_neg h, Bool.eq_false_iff.2 h, Bool.or_false]
    rfl

/-! ### Steering (R320, R333) -/

theorem clampI_symm_mem {r : Int} (x : Int) (hr : 0 ≤ r) : -r ≤ clampI (-r) r x ∧ clampI (-r) r x ≤ r := by
  unfold clampI
  split
  · omega
  split
  · omega
  · omega

/-- A step of at most r, clamped again to the range it starts in, is still at most r. -/
theorem clampSteer_near {r v d : Int} (hv : v.natAbs ≤ 200000000) (hd : -r ≤ d ∧ d ≤ r) :
    ((clampSteer (v + d) - v).natAbs : Int) ≤ r := by
  unfold clampSteer clampI
  split
  · omega
  split
  · omega
  · omega

theorem slewOf_nonneg (slew n : Nat) : 0 ≤ slewOf slew n := Int.natCast_nonneg _

theorem steerBlock_steer (s : State) : ∃ w, s.steerBlock.tim.steer = clampSteer (toward (slewOf s.slew (s.tim.nsc / 12)) s.tim.steer w) :=
  ⟨_, rfl⟩

/-! ### Learning (R339) -/

theorem bin_binSet (s : State) (k j : Nat) (w : Word) : (s.binSet k w).bin j = if j = k then w else s.bin j := by
  have bins : (s.binSet k w).bin j = (look j (if w = 0 then drop k s.tim.bins else put k w s.tim.bins)).getD 0 := rfl
  rw [bins]
  by_cases zero : w = 0
  · rw [if_pos zero, look_drop]
    by_cases same : j = k
    · simp [same, zero]
    · simp [same, State.bin]
  · rw [if_neg zero, look_put]
    by_cases same : j = k
    · simp [same]
    · simp [same, State.bin]

theorem binWeight_fld {n : Nat} (hn : n ≤ 255) (v : Nat) : binWeight (fld 24 8 n ||| fld 0 24 v) = n := by
  have high : (fld 24 8 n).toNat / 2 ^ 24 = n := by
    unfold fld
    rw [BitVec.toNat_ofNat]
    omega
  have low : (fld 0 24 v).toNat / 2 ^ 24 = 0 := by
    unfold fld
    rw [BitVec.toNat_ofNat]
    omega
  unfold binWeight wbits bits
  rw [BitVec.toNat_or, Nat.or_div_two_pow, high, low, Nat.or_zero]
  exact Nat.mod_eq_of_lt (by omega)

/-- Mean temperature of the learning minute, the bin it falls into, and the weight of that bin after it. -/
def minuteTemp (s : State) : Int := rdiv s.tim.lrn.2.2 s.tim.lrn.1
def minuteBin (s : State) : Nat := ((minuteTemp s + 4050) / 100).toNat
def minuteWeight (s : State) : Nat := min (binWeight (s.bin (minuteBin s)) + 1) 255

/-- The bins after a learning minute, with v the new value of the bin that its temperature falls into. -/
def binned (s : State) (v : Nat) : State :=
  if minuteTemp s < -4050 ∨ 165 < minuteBin s then s else s.binSet (minuteBin s) (fld 24 8 (minuteWeight s) ||| fld 0 24 v)

theorem learn_eq (s : State) : ∃ v age fit, s.learn = (binned s v).timSet { (binned s v).tim with
    mins := min (s.tim.mins + 1) (65535 * 60), age := age, fit := fit, lrn := (0, 0, 0) } := ⟨_, _, _, rfl⟩

theorem binned_tim (s : State) (v : Nat) : binned s v = s.timSet { s.tim with bins := (binned s v).tim.bins } := by
  unfold binned
  split <;> rfl

theorem bin_binned (s : State) (v j : Nat) : (binned s v).bin j =
    if j = minuteBin s ∧ ¬ (minuteTemp s < -4050 ∨ 165 < minuteBin s) then fld 24 8 (minuteWeight s) ||| fld 0 24 v else s.bin j := by
  unfold binned
  by_cases outside : minuteTemp s < -4050 ∨ 165 < minuteBin s
  · rw [if_pos outside, if_neg fun h => h.2 outside]
  · rw [if_neg outside, bin_binSet]
    simp only [outside, not_false_eq_true, and_true]

/-- What a learning minute leaves: one minute more, its samples gone, and one more in the weight of its bin. -/
theorem learn_learns {s : State} (below : s.tim.mins < 65535 * 60) : s.learn.tim.mins = s.tim.mins + 1 ∧
    s.learn = s.timSet { s.tim with
      mins := s.learn.tim.mins, bins := s.learn.tim.bins, age := s.learn.tim.age, fit := s.learn.tim.fit, lrn := (0, 0, 0) } ∧
    (-4050 ≤ minuteTemp s → minuteTemp s < 12550 → binWeight (s.learn.bin (minuteBin s)) = minuteWeight s) ∧
    ∀ j, j ≠ minuteBin s → s.learn.bin j = s.bin j := by
  obtain ⟨v, age, fit, run⟩ := learn_eq s
  have bins (j : Nat) : s.learn.bin j = (binned s v).bin j := by rw [run]; rfl
  refine ⟨?_, ?_, fun cold warm => ?_, fun j other => ?_⟩
  · rw [run]
    exact Nat.min_eq_left below
  · rw [run, binned_tim]
    rfl
  · have inside : ¬ (minuteTemp s < -4050 ∨ 165 < minuteBin s) := by
      unfold minuteBin
      omega
    rw [bins, bin_binned, if_pos ⟨rfl, inside⟩]
    exact binWeight_fld (Nat.min_le_right _ _) v
  · rw [bins, bin_binned, if_neg fun h => other h.1]

/-! ### Words in a memory (R28) -/

theorem leNat_natLe (n v : Nat) : leNat (natLe n v) = v % 256 ^ n := by
  induction n generalizing v with
  | zero => simp [natLe, leNat, Nat.mod_one]
  | succ n ih =>
    rw [natLe, leNat, ih, BitVec.toNat_ofNat]
    exact (Nat.mod_mul (a := 256)).symm.trans (by rw [Nat.pow_succ'])

/-- Bytes in the middle of what is written read back. -/
theorem getN_setN_middle (m : Mem) (a : Nat) (front bs back : List Byte) :
    (m.setN a (front ++ bs ++ back)).getN (a + front.length) bs.length = bs := by
  induction bs generalizing front with
  | nil => rfl
  | cons b bs ih =>
    have first : (m.setN a (front ++ b :: bs ++ back)).get (a + front.length) = b := by
      rw [Mem.get_setN, if_pos (by simp)]
      simp
    have rest := ih (front ++ [b])
    rw [List.append_assoc front [b], List.length_append, ← Nat.add_assoc] at rest
    rw [List.length_cons, Mem.getN, first]
    exact congrArg _ rest

/-- A word in the middle of what is written reads back. -/
theorem word_setN_middle (m : Mem) (a : Nat) (front back : List Byte) (w : Word) :
    (m.setN a (front ++ wordBytes w ++ back)).word (a + front.length) = w := by
  have read := getN_setN_middle m a front (wordBytes w) back
  have length : (wordBytes w).length = 4 := natLe_length 4 _
  rw [length] at read
  unfold Mem.word Mem.le
  have small : w.toNat < 256 ^ 4 := w.isLt
  rw [read, wordBytes, leNat_natLe, Nat.mod_eq_of_lt small, BitVec.ofNat_toNat, BitVec.setWidth_eq]

theorem length_flatMap_wordBytes {α : Type} (f : α → Word) (l : List α) :
    (l.flatMap fun x => wordBytes (f x)).length = 4 * l.length := by
  induction l with
  | nil => rfl
  | cons x l ih => rw [List.flatMap_cons, List.length_append, ih, wordBytes, natLe_length, List.length_cons]; omega

/-- Each of a row of words written reads back at its place. -/
theorem word_setN_row (m : Mem) (a n : Nat) (f : Nat → Word) (back : List Byte) {k : Nat} (hk : k < n) :
    (m.setN a (((upTo n).flatMap fun i => wordBytes (f i)) ++ back)).word (a + 4 * k) = f k := by
  obtain ⟨d, rfl⟩ := Nat.exists_eq_add_of_lt hk
  have cut : (upTo (k + d + 1)).flatMap (fun i => wordBytes (f i)) =
      ((upTo k).flatMap fun i => wordBytes (f i)) ++ (wordBytes (f k) ++ (List.range d).flatMap fun i => wordBytes (f (k + 1 + i))) := by
    unfold upTo
    rw [show k + d + 1 = k + 1 + d by omega, List.range_add, List.range_succ]
    simp [List.flatMap_map]
  have front : ((upTo k).flatMap fun i => wordBytes (f i)).length = 4 * k := by
    rw [length_flatMap_wordBytes, upTo, List.length_range]
  rw [cut, ← front, List.append_assoc, List.append_assoc, ← List.append_assoc]
  exact word_setN_middle m a _ _ (f k)

/-! ### Saving (R339, R414) -/

theorem moveSector_mem (s : State) (k : Nat) : (s.moveSector k).pea.mem = s.pea.mem := by
  unfold State.moveSector
  dsimp only
  split <;> rfl

theorem foldl_moveSector_mem (base : Nat) (l : List Nat) (s : State) :
    (l.foldl (fun s i => s.moveSector (base + i)) s).pea.mem = s.pea.mem := by
  induction l generalizing s with
  | nil => rfl
  | cons x l ih => exact (ih _).trans (moveSector_mem s _)

theorem peaWrite_mem (s : State) (a : Nat) (bs : List Byte) : (s.peaWrite a bs).pea.mem = s.pea.mem.setN a bs :=
  congrArg (fun m : Mem => m.setN a bs) (foldl_moveSector_mem _ _ s)

theorem peaWrite_frame (s : State) (a : Nat) (bs : List Byte) : s.peaWrite a bs = { s with pea := (s.peaWrite a bs).pea } :=
  eq_graft (peaWrite_does s a bs (.refl [.pea] s) (List.Subset.refl _))

/-- The Smoulder words stand in the device-state region after a save (notes/assumptions/56.md). -/
theorem smoSave_saves {s : State} (room : s.hasFree 3) : s.smoSave = { s with pea := s.smoSave.pea } ∧
    ∀ a < 0x102, s.smoSave.pea.mem.word (smoAddr + 4 * a) = s.timIx a := by
  unfold State.smoSave
  dsimp only
  rw [if_pos room]
  refine ⟨peaWrite_frame _ _ _, fun a ha => ?_⟩
  rw [peaWrite_mem]
  exact word_setN_row _ _ _ _ _ ha

theorem exec_smoulderSave {s : State} (runs : s.stokerRuns) (up : s.up secTime) : exec .smoulderSave s = .next s.begin.smoSave :=
  congrArg _ (if_pos (by simp [runs, up]))

theorem exec_smoulderSave_idle {s : State} (no : s.stokerRuns = false ∨ s.up secTime = false ∨ s.hasFree 3 = false) :
    exec .smoulderSave s = .next s.begin := by
  have run : exec .smoulderSave s = .next (if s.stokerRuns && s.up secTime then s.begin.smoSave else s.begin) := rfl
  have full (h : s.hasFree 3 = false) : s.begin.smoSave = s.begin := if_neg (Bool.eq_false_iff.1 h)
  rw [run]
  rcases no with h | h | h
  · rw [if_neg (by simp [h])]
  · rw [if_neg (by simp [h])]
  · rw [full h, ite_self]

/-! ### The obligation -/

/-- Settles O52: the selection by what one evaluation selects, each other event by the lemma about its operation. -/
theorem selectionFollowsTheBestReference : Obligations.SelectionFollowsTheBestReference := by
  intro s
  have locked : exec .timeLocked s = .next s.begin.timeLocked := rfl
  have removed : exec .buildoutRemoved s = .next s.begin.buildoutRemoved := rfl
  have valid : exec .smoulderValid s = .next s.begin.smoValid := rfl
  have learns : exec .smoulderLearn s = .next (if s.learnDue then s.begin.learn else s.begin) := rfl
  refine ⟨fun b best => best_some best, exec_referenceEvaluation_idle, fun up due len => ?_, fun up due out => ?_, ?_, ?_,
    fun range => ?_, ?_, fun off => ?_, fun on below => ?_, exec_smoulderSave_idle, fun runs up room => ?_⟩
  · rw [exec_referenceEvaluation up due]
    exact ⟨_, rfl, fun r own low en zero other => evaluation_disqualifies len own low en zero other⟩
  · rw [exec_referenceEvaluation up due]
    have selects := evaluation_selects out
    exact ⟨_, rfl, selects.forced, selects.stays, selects.acquires, selects.smoulders⟩
  · rw [locked, timeLocked_eq]
    rfl
  · rw [removed, buildoutRemoved_eq]
    rfl
  · obtain ⟨w, steer⟩ := steerBlock_steer s
    rw [steer]
    exact clampSteer_near range (clampI_symm_mem _ (slewOf_nonneg _ _))
  · rw [valid, smoValid_eq, smoDue_eq]
    rfl
  · rw [learns, if_neg (by simp [off])]
    rfl
  · rw [learns, if_pos on]
    obtain ⟨mins, only, weight, others⟩ := learn_learns (s := s.begin) below
    exact ⟨_, rfl, mins, only, weight, others⟩
  · rw [exec_smoulderSave runs up]
    obtain ⟨only, words⟩ := smoSave_saves (s := s.begin) room
    exact ⟨_, rfl, only, words⟩

end Sys2Proof.Arch
end
